-- ==== Sys2Proof/Word.lean ====
section
/-!
DEFINITION. The word types of the block: a register is 32 bits (R5), a byte string in host memory is a list of
bytes with the first byte at the lowest address (R3).
-/

namespace Sys2Proof

/-- A 32-bit register value, and a free-running position (R29). -/
abbrev Word := BitVec 32

/-- One byte. -/
abbrev Byte := BitVec 8

/-- A byte string, first byte at the lowest address. -/
abbrev Bytes := List Byte

end Sys2Proof
end

