-- ==== Sys2Proof/Syntax.lean ====
section
/-!
DEFINITION. The commands: one constructor per row of the table of operations and events, with its operands.
A number has the width of the signal or register field that carries it. A row that is a target-port access
takes the access attributes of R390; an event takes what the outside supplies (log entry 6).
-/

namespace Sys2Proof

/-- What a read of a memory finds: the halves of a DUAL pair agree; a word fails its parity check (R22, R93, R220, R230). -/
structure ApertureEnv where
  agree : Bool
  parity : Bool
  deriving DecidableEq, Repr

/-- Attributes of a target-port request other than its address and data (R390). -/
structure Access where
  /-- target port 0 or 1 -/
  port : Bool
  /-- TRQ_FUNC -/
  func : BitVec 14
  /-- TRQ_PL -/
  pl : BitVec 2
  /-- TRQ_MASTER -/
  master : BitVec 16
  /-- TRQ_DEBUG -/
  debug : Bool
  /-- TRQ_FETCH -/
  fetch : Bool
  /-- TRQ_SIZE -/
  size : BitVec 3
  /-- every TRQ_PAR and TWD_PAR check passes (log 62) -/
  parityOk : Bool
  /-- what the access finds where it reads operand memory -/
  env : ApertureEnv
  deriving DecidableEq, Repr

/-- Bytes that come on the debug interface (R395, R396): each with its parity bit. They may be a part of a request, or more than one. -/
structure DebugReq where
  /-- DBG_PRESENT -/
  present : Bool
  /-- DBG_PL -/
  pl : BitVec 2
  /-- DBG_ID -/
  id : BitVec 8
  /-- DBG_IN with DBG_IN_PAR, in order -/
  bytes : List (Byte × Bool)
  /-- what the request finds where it reads a memory -/
  env : ApertureEnv
  deriving DecidableEq, Repr

/-- What a read-data beat carries beside its RD_DATA: RD_PAR and RD_ERR (R384). -/
structure RdCheck where
  par : BitVec 16
  err : Bool
  deriving DecidableEq, Repr

/-- A word found with a parity error (R93): the entry, by its index among the entries that the command reads, and
the word. -/
structure BadWord where
  entry : Nat
  word : BitVec 4
  deriving DecidableEq, Repr

/-- An offer: the ring, and the words in error of the entries that its acceptance moves (R88, R93). -/
structure RingOffer where
  ring : BitVec 16
  bad : List BadWord
  deriving DecidableEq, Repr

/-- A write of KV_CMD, and the parity errors that its command meets: in its slot and in the slot of its KEK (R193). -/
structure KvAccess where
  acc : Access
  bad : Bool
  kekBad : Bool
  deriving DecidableEq, Repr

/-- What a load finds in memory cells: parity errors of the context words (R113) and of the slots (R193). -/
structure LoadEnv where
  ctxBad : List Nat
  keyBad : Bool
  key2Bad : Bool
  deriving DecidableEq, Repr

/-- What the check of a block finds: the two computations agree; tile state or operands failed parity, of which tile of the
unit; a vault swap found a slot parity error. Of a service, the operand-port reads of LOADED slots that the firmware made
(R217). -/
structure BlockEnv where
  agree : Bool
  parity : Bool
  swapBad : Bool
  tile : BitVec 3
  loadedReads : BitVec 8
  deriving DecidableEq, Repr

/-- The credit input that is pulsed (R386, R393), or the ready input that the host chip drives from now on: TRS_READY of a target
port (R390), FDN_READY (R393), DBG_OUT_READY (R395; log 56). -/
inductive Credit where
  | req (port : BitVec 3)
  | wd (port : BitVec 3)
  | notice (lane : Bool)
  | trsReady (port level : Bool)
  | fdnReady (level : Bool)
  | dbgReady (level : Bool)
  deriving DecidableEq, Repr

/-- What a start-up step found (R379): failed known-answer tests by class and tile, and the other tests of
step 2; the Helms that failed in step 6; microseconds the step took. -/
structure StepEnv where
  tileFail : List (BitVec 2 × BitVec 7)
  drbgFail : Bool
  entropyFail : Bool
  verifierFail : Bool
  deriveFail : Bool
  helmFail : List (BitVec 4)
  micros : BitVec 24
  deriving DecidableEq, Repr

/-- The commands, in the order of the table. -/
inductive Instr where
  | doorbell (a : Access) (g : BitVec 16) (v : Word)
  | chainFetch (g : BitVec 16)
  | admissionOffer (g : RingOffer)
  | reofferTimer (g : BitVec 16)
  | noexecRecord (c : Nat)
  | schedulerSelect (p : BitVec 6) (bad : List BadWord)
  | descriptorLoad (u : BitVec 12) (env : LoadEnv)
  | loadStageEnd (u : BitVec 12)
  | readCompletion (port : BitVec 3) (tag : BitVec 10) (chk : List RdCheck) (data : Bytes)
  | executeBlockDone (u : BitVec 12) (env : BlockEnv)
  | writeResponse (port : BitVec 3) (tag : BitVec 10) (ok : Bool)
  | recordIssue (c : Nat)
  | noticeCoalTimer (q : BitVec 16)
  | contextWritebackDone (compact : Bool) (idx : BitVec 21)
  | ringEnable (a : Access) (g : BitVec 16) (v : Word)
  | ringDisable (a : Access) (g : BitVec 16) (v : Word)
  | cqEnable (a : Access) (q : BitVec 16) (v : Word)
  | cqDisable (a : Access) (q : BitVec 16) (v : Word)
  | cqGrant (a : Access) (q : BitVec 16) (v : Word)
  | waypointSet (a : Access) (q : BitVec 16)
  | waypointRewind (a : Access) (q : BitVec 16)
  | waypointClear (a : Access) (q : BitVec 16)
  | noticeHoldWrite (a : Access) (k : BitVec 4) (v : Word)
  | creditTick (g : BitVec 16)
  | famineNoticeClear (a : Access) (p : BitVec 6) (v : Word)
  | famineTimeUnit (g : BitVec 16)
  | iqEntryMove (p : BitVec 6) (bad : List BadWord)
  | stormInterval
  | iqReturnStart (p : BitVec 6)
  | iqReturnEnd (p : BitVec 6) (ok : Bool)
  | retryScrub (a : Access) (p : BitVec 6) (v : Word)
  | iqHoldFallback (a : Access) (p : BitVec 6) (v : Word)
  | reshareLayout
  | iqNoticeClear (a : Access) (p : BitVec 6) (v : Word)
  | scEraseAll (a : Access) (v : Word)
  | contextScrubDone
  | scPeek (a : Access) (kind : BitVec 2)
  | scSeal (a : Access) (kind : BitVec 2)
  | scUnseal (a : Access) (kind : BitVec 2)
  | scFree (a : Access) (kind : BitVec 2)
  | pinFailInterval
  | pyNoticeClear (a : Access) (v : Word)
  | kvPeek (a : KvAccess)
  | kvErase (a : Access)
  | kvGenerate (a : Access) (ktype : BitVec 4) (klen : BitVec 7)
  | kvUnwrap (a : KvAccess) (kek : Bool)
  | kvWrap (a : KvAccess) (kek : Bool)
  | kvAttest (a : KvAccess)
  | kvEraseFn (a : Access)
  | kvEraseAll (a : Access)
  | vaultScrubDone
  | attPubkeyDone
  | drbgReseed (k : BitVec 3)
  | entropyHealthFail
  | atClear (a : Access) (u : BitVec 12) (fl : BitVec 3)
  | atLoad (a : Access) (u : BitVec 12) (fl : BitVec 3)
  | atStore (a : Access) (u : BitVec 12) (fl : BitVec 3)
  | atVload (a : Access) (u : BitVec 12) (fl : BitVec 3)
  | atAdd (a : Access) (u : BitVec 12) (fl : BitVec 3)
  | atSub (a : Access) (u : BitVec 12) (fl : BitVec 3)
  | atCsub (a : Access) (u : BitVec 12) (fl : BitVec 3)
  | atMul (a : Access) (u : BitVec 12) (fl : BitVec 3)
  | atMulacc (a : Access) (u : BitVec 12) (fl : BitVec 3)
  | atSqr (a : Access) (u : BitVec 12) (fl : BitVec 3)
  | atBfly (a : Access) (u : BitVec 12) (fl : BitVec 3)
  | atCmdDone (u : BitVec 12) (env : BlockEnv)
  | apertureWrite (a : Access) (off : BitVec 23) (data : Bytes)
  | apertureRead (a : Access) (off : BitVec 23) (env : ApertureEnv)
  | hostClaim (a : Access) (u : BitVec 12)
  | hostRelease (a : Access) (u : BitVec 12)
  | hostReleaseScrubDone (u : BitVec 12)
  | abortScrubDone (u : BitVec 12)
  | helmTrap (h : BitVec 4) (cause : BitVec 8)
  | hlPreempt (a : Access) (v : Word)
  | chLoad (a : Access) (keep : Bool)
  | chartLoadEnd
  | chAdvance (a : Access)
  | fuseBitProgrammed
  | txBegin (a : Access) (v : Word)
  | txCommit (a : Access) (v : Word)
  | txRollback (a : Access) (v : Word)
  | txPatch (a : Access) (v : Word)
  | txPatchReadDone
  | transactionalWrite (a : Access) (off : BitVec 26) (v : Word)
  | commitValidationEnd
  | mgReset (a : Access) (v : Word)
  | blockReset
  | vfCtlReset (a : Access) (f : BitVec 13) (v : Word)
  | flrRequest (f : BitVec 14) (parityOk : Bool)
  | vfResetComplete (f : BitVec 14)
  | ctxFillDone (f : BitVec 14)
  | dlEnable (a : Access) (f : BitVec 13) (v : Word)
  | dlDisable (a : Access) (f : BitVec 13) (v : Word)
  | dlConsumedWrite (a : Access) (f : BitVec 13) (v : Word)
  | dlRound (a : Access) (f : BitVec 13) (v : Word)
  | dlSweepDone (f : BitVec 14)
  | dlAllDirtyClear (a : Access) (f : BitVec 13) (v : Word)
  | pendingQuery (f : BitVec 14) (parityOk : Bool)
  | fpHostPerr
  | acNoticeClear (a : Access) (v : Word)
  | dbgChallenge (a : Access)
  | dbgAuth (a : Access)
  | dbgAuthComplete
  | dbgRelease (a : Access)
  | dbgNonceExpire
  | lockedLogInterval
  | debugRead (r : DebugReq)
  | debugWrite (r : DebugReq) (v : List (Byte × Bool))
  | lcRequest (a : Access) (v : Word)
  | lcTransitionEnd
  | lcFuseCmd (a : Access) (v : Word)
  | supplySample (vsb vdd : BitVec 16) (hot cold : BitVec 8)
  | nostartHoldEnd
  | supplyGroupClose
  | alarmSource (src : BitVec 12) (mesh : BitVec 32)
  | alarmConditionEnd (n : BitVec 4) (mesh : BitVec 16)
  | alarmHoldEnd
  | eraseScrubDone
  | tamperReset
  | bnLatchClear (a : Access) (v : Word)
  | bnActionWrite (a : Access) (n : BitVec 4) (v : Word)
  | bnLock (a : Access) (v : Word)
  | bnMeshEnable (a : Access) (v : Word)
  | bnFaultClr (a : Access) (v : Word)
  | unitKatDone (pass : Bool)
  | sdFreeze (a : Access) (v : Word)
  | sdUnfreeze (a : Access) (v : Word)
  | sdAutoRelease
  | sdClearPools (a : Access) (v : Word)
  | sdClearRings (a : Access) (v : Word)
  | sdClearDevice (a : Access) (v : Word)
  | sdClearDone
  | logbookSlotWritten
  | logTokenTick
  | logbookScanDone
  | pllLock (khz : BitVec 18) (time : BitVec 16)
  | pllLockLost
  | pllLockRetry (noRef : Bool)
  | startupStepEnd (env : StepEnv)
  | pwrCore
  | pwrSentinel
  | pwReqA2 (a : Access)
  | pwReqA3 (a : Access)
  | a2EntryComplete
  | pdWake
  | a2ExitComplete
  | powerSwitchLoss (g : BitVec 5)
  | scanModeEntry
  | scanModeExit
  | mbistStart
  | registerWrite (a : Access) (addr : BitVec 29) (v : Word)
  | rcRead (a : Access) (addr : BitVec 29)
  | inboundRead (a : Access) (addr : BitVec 29)
  | crdPulse (c : Credit)
  | holdOkChange (up : Bool)
  deriving DecidableEq, Repr

end Sys2Proof
end

