-- ==== Sys2Proof/Decode.lean ====
section
/-!
DEFINITION. The command a table word spells. The table gives no row any bits (its commands are signals and register
accesses, not encodings), so no word spells a command.
-/

namespace Sys2Proof

/-- No row of the table of operations and events has bits. -/
def decodeTableWord (_nbits _w : Nat) : Option Instr := none

end Sys2Proof
end

