-- ==== Sys2Proof/Config.lean ====
section
/-!
DEFINITION. What the spec names and does not restate (the functions of the standards it cites) and what it leaves
open (random bits, noise): opaque constants without a body, so no proof can rest on a value of them
(log entries 4 and 5).
-/

namespace Sys2Proof.Config

/-- A command word that a Helm issues through its command port, with its operands (R221, R222): op and flags as in AT_CMD, the slots
D, A, B and C, q of a BFLY, and of a LOAD or STORE the offset in the descriptor's input or output. -/
structure HelmWord where
  op : BitVec 5
  flags : BitVec 3
  d : BitVec 16
  a : BitVec 16
  b : BitVec 16
  c : BitVec 16
  q : BitVec 31
  off : Nat
  deriving DecidableEq, Repr

/-- The free value number i: a random, undefined or unstated byte (log entry 4). State.free is the counter. -/
opaque freeByte : Nat → Byte

/-- AES (FIPS 197): key of 16, 24 or 32 bytes, one 16-byte block, forward. -/
opaque aesEnc : Bytes → Bytes → Bytes
/-- AES, inverse. -/
opaque aesDec : Bytes → Bytes → Bytes
/-- Single DES: key of 8 bytes, one 8-byte block, forward. -/
opaque desEnc : Bytes → Bytes → Bytes
/-- Single DES, inverse. -/
opaque desDec : Bytes → Bytes → Bytes
/-- SHA-2 initial chaining value of ALG 0x0 to 0x4 (R144; FIPS 180-4). -/
opaque sha2Init : Nat → Bytes
/-- SHA-2 compression: ALG, chaining value, block (FIPS 180-4). -/
opaque sha2Compress : Nat → Bytes → Bytes → Bytes
/-- Keccak-f[1600] on the 200-byte state (FIPS 202). -/
opaque keccakF : Bytes → Bytes

/-- Field prime of a curve: 0 P-256, 1 P-384, 2 P-521 (SP 800-186). -/
opaque ecPrime : Nat → Nat
/-- Group order of a curve. -/
opaque ecOrder : Nat → Nat
/-- Coefficient b of the curve y^2 = x^3 - 3x + b. -/
opaque ecB : Nat → Nat
/-- Public point d*G as X, Y. -/
opaque ecPub : Nat → Nat → Nat × Nat
/-- d*Q for a point Q: the x coordinate. -/
opaque ecMulX : Nat → Nat → Nat × Nat → Nat
/-- x of u1*G + u2*Q modulo n, none at infinity: curve, Q, digest, r, s. -/
opaque ecVerifyX : Nat → Nat × Nat → Bytes → Nat → Nat → Option Nat
/-- Encoding of a multiple of the base point of edwards25519 (RFC 8032). -/
opaque edMulB : Nat → Bytes
/-- An Ed25519 encoding is canonical and on the curve. -/
opaque edDecodes : Bytes → Bool
/-- An Ed25519 point has small order. -/
opaque edSmall : Bytes → Bool
/-- The cofactorless equation [S]B = R + [k]A: A, R, S, message. -/
opaque edEquation : Bytes → Bytes → Bytes → Bytes → Bool
/-- X25519 (RFC 7748): scalar, u. -/
opaque x25519 : Bytes → Bytes → Bytes
/-- ML-KEM encapsulation key from the secret coefficients, d and z: set 0 to 2 (FIPS 203). -/
opaque kemEk : Nat → List Nat → Bytes → Bytes
/-- ML-KEM modulus check of an encapsulation key. -/
opaque kemEkOk : Nat → Bytes → Bool
/-- ML-KEM encapsulation: set, ek, random bytes; ciphertext and shared secret. -/
opaque kemEncaps : Nat → Bytes → Bytes → Bytes × Bytes
/-- The coefficients of the secret polynomials of an ML-KEM key (FIPS 203): set, d and z. -/
opaque kemSecret : Nat → Bytes → List Nat
/-- ML-KEM decapsulation with implicit rejection: set, secret coefficients, d and z, ciphertext. -/
opaque kemDecaps : Nat → List Nat → Bytes → Bytes → Bytes
/-- ML-DSA public key from the secret coefficients and its seed: set 0 to 2 (FIPS 204). -/
opaque dsaPk : Nat → List Nat → Bytes → Bytes
/-- The coefficients of the secret polynomials of an ML-DSA key (FIPS 204): set, seed. -/
opaque dsaSecret : Nat → Bytes → List Nat
/-- Attempt number k of ML-DSA signing: set, secret coefficients, seed, mu, rnd, k; none when FIPS 204 rejects it (R246). -/
opaque dsaAttempt : Nat → List Nat → Bytes → Bytes → Bytes → Nat → Option Bytes
/-- The first share of coefficient number i, drawn from the random slots of a descriptor (R242; log 16). -/
opaque shareMask : Bytes → Nat → Nat
/-- ML-DSA verification: set, pk, signature, mu. -/
opaque dsaVerify : Nat → Bytes → Bytes → Bytes → Bool
/-- Sieved candidate number k of RSA key generation: bit length, exponent, random bytes, k (R245, FIPS 186-5). -/
opaque rsaCandidate : Nat → Nat → Bytes → Nat → Nat
/-- A candidate of the given bit length passes the tests of RSA key generation. -/
opaque rsaPasses : Nat → Nat → Bool
/-- The command words of a service, in order: the firmware's choice, fixed for an operation code, L in bits, T, a check mode and, for
EDDSA, a number of 128-byte steps of the message (R221, R243; free value, log 16). -/
opaque helmProgram : Nat → Nat → Nat → Nat → Nat → List HelmWord
/-- PKCS 1 v2.2 encoded message: scheme 1 v1.5, 2 PSS, 3 OAEP; hash; k; text; salt or seed. -/
opaque pkcsEncode : Nat → Nat → Nat → Bytes → Bytes → Bytes
/-- OAEP decoding; none when it fails. -/
opaque oaepDecode : Nat → Nat → Bytes → Option Bytes
/-- PSS and v1.5 verification of an encoded message against a digest: scheme, hash, k, salt length. -/
opaque pkcsVerify : Nat → Nat → Nat → Nat → Bytes → Bytes → Bool
/-- One derivation of AES DUKPT (ANSI X9.24-3): the key, what for (0 initial key, 1 intermediate key, 2 PIN encryption, 3 MAC
generation, 4 MAC verification), bytes of the derived key, and the identifiers and counter bits that it is derived from. -/
opaque dukptStep : Bytes → Nat → Nat → Bytes → Bytes
/-- X9.143 encryption and MAC keys of a KBPK: version D true. -/
opaque kbKeys : Bool → Bytes → Bytes × Bytes
/-- EMV ICC master key, option A: AES true, IMK, Y. -/
opaque emvMaster : Bool → Bytes → Bytes → Bytes
/-- EMV common session key: AES true, ICC master key, ATC. -/
opaque emvSession : Bool → Bytes → Bytes → Bytes

/-- Darvavel's firmware key in mask ROM: X, Y (R259). -/
opaque fwKey : Nat × Nat
/-- The entry of the dirty-page filter that a function and page map to (R302). -/
opaque filterIndex : Nat → Nat → Nat

/-- Bit k of the pseudo-random sequence of mesh pair n, line A or line B (R344, R404; log 64). -/
opaque meshBit : Nat → Bool → Nat → Bool
/-- What test output n drives while the test group is live (R399; log 41). -/
opaque testOut : Nat → Nat → Bool

end Sys2Proof.Config
end

