-- ==== Sys2Proof/Machine/State.lean ====
section
/-!
DEFINITION. The state of the block as plain data: every register, buffer, counter, mode and queue that the spec
names, and the state after reset. Times are Meridian counts in root cycles or Binnacle cycles. A table is a list
of (key, value) pairs with rising keys; an absent key reads as the default its reader names.
Reset values not given by the spec: log entries 2 and 3.
-/

namespace Sys2Proof.Machine

/-- Why the machine would stop. -/
inductive Fault where
  /-- Raised by no command: the spec describes an effect for every command of the table (safe: never reached). -/
  | never
  deriving DecidableEq, Repr

/-- Why a command is refused by the model. -/
inductive Refusal where
  /-- Raised by an arm of exec whose command has no meaning yet (safe: the run stops). -/
  | notModelled (mnemonic : String)
  deriving DecidableEq, Repr

/-- A sparse table. -/
abbrev Tbl (α : Type) := List (Nat × α)

/-- A read in several transactions: transactions still out, pieces by offset, offset of the first failure. -/
structure Gather where
  need : Nat
  got : List (Nat × Bytes)
  err : Option Nat
  deriving DecidableEq, Repr

def Gather.none : Gather := ⟨0, [], .none⟩

/-! ## Clocks and power (R369 to R382) -/

structure Clk where
  meridian : Nat
  lock : Bool
  bypass : Bool
  refOk : Bool
  lockLost : Bool
  refLost : Bool
  refKhz : BitVec 18
  lockTime : BitVec 16
  /-- control cycles that ran from the reference, in which the Meridian stood (R369) -/
  slow : Nat
  /-- no reference reaches the block (R400) -/
  refGone : Bool
  deriving DecidableEq, Repr

inductive PwMode where
  | run | a2Entry | a2 | a2Exit | a3
  deriving DecidableEq, Repr

/-- PW_ registers and the start-up sequencer (R371 to R382). -/
structure Pw where
  a1En : Bool
  reqBusy : Bool
  reqResult : Nat
  kind : Nat
  tamperPending : Bool
  startupTime : Nat
  a2Time : Nat
  a2Count : Nat
  /-- BTIME at the A2 entry -/
  a2At : Nat
  /-- PW_STATE.STEP; 15 FAILED -/
  step : Nat
  error : Nat
  mode : PwMode
  /-- the core is held in reset (R399, R403, R339) -/
  coreHeld : Bool
  /-- MG_STATUS.READY -/
  ready : Bool
  /-- a BLOCK reset requested, with the Meridian and the BTIME from which its bound runs (R376) -/
  block : Option (Nat × Nat)
  /-- the START record of this start-up is written (R379) -/
  startLogged : Bool
  /-- microseconds of this start-up so far -/
  micros : Nat
  /-- the tests of step 2 have run (CT_KAT, HT_KAT, AT_KAT DONE) -/
  katDone : Bool
  /-- tiles whose known-answer test failed: class, tile -/
  tileBad : List (Nat × Nat)
  pdA2Ready : Bool
  pdA3Ready : Bool
  pdWakeAck : Bool
  /-- control cycles for which CORE_RST_N still reads 0 after a BLOCK or TAMPER reset (R376, R400) -/
  rstLeft : Nat
  /-- this power period began with PWR_SENTINEL and its PWR_CORE has not come yet (R375) -/
  sentinel : Bool
  /-- PD_WAKE is held at 1 while the block enters A2 or is in it (R403) -/
  pdWake : Bool
  /-- FLR_VALID is held at 1 for this function, with FLR_PAR right or not, until the exit from A2 has ended (R371, R394) -/
  flrWake : List (Nat × Bool)
  /-- PSW_ACK of every group (R402) -/
  pswAck : BitVec 23
  deriving DecidableEq, Repr

/-! ## Binnacle (R337 to R352) -/

/-- An open excursion group (R342). -/
structure Group where
  vsbMin : Nat
  vddMin : Nat
  below : Nat
  first : Nat
  last : Nat
  count : Nat
  deriving DecidableEq, Repr

/-- A running ERASE (R347): its sources, the Meridian at the strobe, scrubs done, record written. -/
structure Erase where
  src : BitVec 12
  at_ : Nat
  scrubbed : Bool
  logged : Bool
  /-- false for an erase that no TAMPER reset follows (R321, R330) -/
  tamper : Bool
  deriving DecidableEq, Repr

structure Bn where
  btime : Nat
  holdOk : Bool
  vsbWarn : Bool
  vddWarn : Bool
  vsb : Nat
  vdd : Nat
  hot : BitVec 8
  cold : BitVec 8
  vsbLow : Nat
  vddLow : Nat
  vsbRst : Bool
  vddRst : Bool
  nostart : Bool
  /-- BTIME at which the later warning ended -/
  warnEnd : Nat
  group : Option Group
  dipMin : Word
  dipTime : Word
  dipSpan : Word
  dipGroups : Nat
  active : BitVec 12
  latch : BitVec 12
  meshEn : BitVec 16
  meshFail : BitVec 16
  /-- BN_ACTn.ACTION, n from 0 to 11 -/
  act : List Nat
  cnt : List Nat
  lock : Bool
  /-- the decoded life-cycle state the Binnacle has received (R346) -/
  lcKnown : Option Nat
  notice : BitVec 3
  noticeCfg : BitVec 5
  /-- level sources that hold admission now, and the BTIME of the last end or event of a HOLD (R345) -/
  holdSrc : BitVec 12
  holdFrom : Option Nat
  erase : Option Erase
  /-- sources that keep the erase asserted after a TAMPER reset (R347) -/
  eraseHold : BitVec 12
  faultBusy : Bool
  faultResult : Nat
  faultUid : BitVec 12
  /-- HOLD_OK when VSB crossed its reset level (R338) -/
  holdAtReset : Bool
  /-- VSB, VDD_CORE have reached their release levels since their resets (R339) -/
  vsbUp : Bool
  vddUp : Bool
  /-- consecutive cycles with VSB above 20.0 V, with VDD_CORE above 0.850 V, and with both below (R343) -/
  overVsb : Nat
  overVdd : Nat
  overEnd : Nat
  /-- BTIME of the last report of each level source, and of the last failing bits of each mesh pair (R343, R344) -/
  since : Tbl Nat
  meshAt : Tbl Nat
  /-- two more than the number of the last disagreeing bit of each mesh line: line A of pair n is n, line B 16 + n (R344) -/
  meshBad : Tbl Nat
  /-- the Binnacle cycle of the last report, and the sources that it named (R348) -/
  alarmAt : Option Nat
  alarmSrc : BitVec 12
  deriving DecidableEq, Repr

/-! ## Logbook (R360 to R368) -/

/-- A record in the writer's queue. -/
structure LogRec where
  type : Nat
  pin : Bool
  exempt : Bool
  core : Bool
  lc : Nat
  btime : Nat
  meridian : Nat
  supp : Nat
  data : Bytes
  deriving DecidableEq, Repr

structure Lb where
  slots : Tbl Bytes
  next : Nat
  seq : Nat
  pinned : Nat
  powers : Nat
  suppressed : Nat
  lost : Nat
  torn : Nat
  readMark : Word
  notice : BitVec 3
  noticeCfg : BitVec 5
  scanning : Bool
  /-- the record being written is the head of the queue; its second slot is the one in progress -/
  second : Bool
  queue : List LogRec
  tokens : Tbl Nat
  supp : Tbl Nat
  /-- BTIME of the last token -/
  tokenAt : Nat
  deriving DecidableEq, Repr

/-! ## Soundings (R353 to R359) -/

structure PoolSum where
  chains : Nat
  sum : Nat
  max : Nat
  min : Nat
  late : Nat
  maxRing : Nat
  maxAt : Nat
  deriving DecidableEq, Repr

structure RingRec where
  depthMax : Nat
  depthMin : Nat
  famine : Nat
  deriving DecidableEq, Repr

structure Extremes where
  vsbMin : Nat
  vsbMax : Nat
  vddMin : Nat
  vddMax : Nat
  tempMax : BitVec 8
  tempMin : BitVec 8
  vsbMinAt : Nat
  vddMinAt : Nat
  alarms : List Nat
  deriving DecidableEq, Repr

structure Sd where
  frozen : Bool
  freezeAt : Nat
  missed : Nat
  autoReleased : Bool
  /-- areas being cleared: pools, rings, device -/
  clearing : BitVec 3
  /-- Meridian at which the clear ends (R359) -/
  clearEnd : Nat
  hist : Tbl Nat
  sums : Tbl PoolSum
  rings : Tbl RingRec
  ext : Extremes
  deriving DecidableEq, Repr

/-! ## Life cycle and fuses (R324 to R336) -/

inductive FuseWhat where
  | transition (target : Nat)
  /-- a transition resumed in the fuse-read step (R334) -/
  | resume (target : Nat)
  /-- Lodestone fields burned in the fuse-read step (R333) -/
  | burn
  | field
  | advance (oldC newC oldF newF : Nat)
  deriving DecidableEq, Repr

/-- A step of a fuse operation with its number in R329: bit addresses still to program, the draw of a Lodestone into field k
(R329, R334), or the erase of R330 that began at a root cycle. -/
inductive FuseStep where
  | bits (no : Nat) (addrs : List Nat)
  | draw (no k : Nat)
  | erase (no at_ : Nat)
  deriving DecidableEq, Repr

/-- A fuse operation: what it is, its steps still to run, bits done, whether a bit is in progress (R335: programming pauses
between bits), the root cycle in which it was asked for, and the Meridian and BTIME at which the bit in progress began (R397). -/
structure FuseOp where
  what : FuseWhat
  steps : List FuseStep
  done : Nat
  run : Bool
  at_ : Nat
  bitAt : Nat × Nat
  deriving DecidableEq, Repr

structure Lc where
  state : Nat
  reason : Nat
  busy : Bool
  resumed : Bool
  target : Nat
  stepNo : Nat
  fuseBusy : Bool
  fuseResult : Nat
  lastTime : Nat
  data : List Word
  /-- the running fuse operation, then one that waits for it -/
  ops : List FuseOp
  /-- the erase of a transition has run since the reset (R330) -/
  erased : Bool
  deriving DecidableEq, Repr

/-! ## Access control (R305 to R323) -/

structure InViol where
  addr : Nat
  info : Word
  master : BitVec 16
  rule : Nat
  deriving DecidableEq, Repr

structure OutViol where
  addr : Nat
  info : Word
  rule : Nat
  deriving DecidableEq, Repr

structure Ac where
  /-- the eight words of each inbound rule -/
  inRules : Tbl (List Word)
  outRules : Tbl (List Word)
  outDefault : Bool
  fnDma : Tbl Nat
  fnSel : BitVec 14
  notice : BitVec 5
  noticeCfg : BitVec 5
  iv : InViol
  /-- the control cycle in which the record was captured (R313) -/
  ivAt : Option Nat
  ivCount : Nat
  ov : OutViol
  ovAt : Option Nat
  ovCount : Nat
  lockedCount : Nat
  dbgLocked : Nat
  dbgDenied : Nat
  lockSeen : Bool
  lockPrev : Nat
  lockCur : Nat
  /-- number of the present interval of 2^32 root cycles (R318) -/
  lockIv : Nat
  granted : Bool
  nonceAt : Option Nat
  nonce : Bytes
  key : Bytes
  sig : Bytes
  dbgBusy : Bool
  dbgResult : Nat
  /-- the outcome that the running AUTH will report -/
  dbgCode : Nat
  /-- the key hash that its DEBUG_GRANT record will name: of the key that was checked (R362) -/
  dbgHash : Bytes
  lodeOff : Bool
  deriving DecidableEq, Repr

/-! ## The Chart (R254 to R273) -/

structure UnitRec where
  uid : Nat
  cls : Nat
  group : Bool
  check : Nat
  hostClaim : Bool
  tile : Nat
  pool : Option Nat
  action : Nat
  retryMax : Nat
  len : Nat
  sealed : Bool
  helm : Option Nat
  parent : Option Nat
  deriving DecidableEq, Repr

structure PoolRec where
  pool : Nat
  cls : Nat
  preempt : Bool
  share : Nat
  spareLvl : Nat
  deriving DecidableEq, Repr

structure CostRec where
  pool : Nat
  opcode : Nat
  grainLog : Nat
  stage : Bool
  aux : Bool
  base : Nat
  step : Nat
  deriving DecidableEq, Repr

structure ClassRec where
  cls : Nat
  weight : Nat
  excess : Bool
  poolC : Nat
  poolH : Nat
  poolA : Nat
  bFix : Nat
  bDesc : Nat
  bKib : Nat
  rate : Nat
  burst : Nat
  ref : Nat
  deriving DecidableEq, Repr

structure FuncRec where
  func : Nat
  vectors : Nat
  domain : Nat
  stdBase : Nat
  stdCount : Nat
  cmpBase : Nat
  cmpCount : Nat
  vltCount : Nat
  vltBase : Nat
  ringBase : Nat
  ringCount : Nat
  cqBase : Nat
  cqCount : Nat
  deriving DecidableEq, Repr

structure RingBind where
  ring : Nat
  cls : Nat
  cqLocal : Nat
  deriving DecidableEq, Repr

/-- The configuration in force. -/
structure Chart where
  budget : Nat
  stdMib : Nat
  policy : Nat
  ksu : Option Nat
  units : List UnitRec
  pools : List PoolRec
  costs : List CostRec
  classes : List ClassRec
  funcs : List FuncRec
  rings : List RingBind
  certified : Bool
  deriving DecidableEq, Repr

def Chart.empty : Chart := ⟨0, 0, 0, none, [], [], [], [], [], [], false⟩

structure Ch where
  /-- 0 UNCHARTED, 1 LOADING, 2 CHARTED -/
  state : Nat
  phase : Nat
  reason : Nat
  busy : Bool
  result : Nat
  src : Nat
  len : Nat
  failLoc : Word
  failInfo : Word
  loads : Nat
  rejects : Nat
  orphans : Nat
  /-- a CH_CMD waiting for step 5 or the end of a no-start hold: its word -/
  held : Option Word
  keep : Bool
  /-- CH_LEN as it stood at the LOAD write: the model's own field, for the one check of LENGTH (R268) -/
  loadLen : Nat
  gather : Gather
  image : Bytes
  helmCode : Bytes
  /-- a rejected load has zero-filled the Helm code memory (R269): what lies behind helmCode reads 0 -/
  helmZero : Bool
  digest : Bytes
  id : Word
  svn : Nat
  flags : Word
  fwSvn : Nat
  fwBuild : Nat
  fwValid : Bool
  fwHash : Bytes
  deriving DecidableEq, Repr

/-- An entry of the transaction shadow (R277, R314). -/
structure Patch where
  type : Nat
  op : Nat
  key : Nat
  body : Bytes
  deriving DecidableEq, Repr

structure Tx where
  /-- 0 CLOSED, 1 OPEN, 2 COMMITTING -/
  state : Nat
  result : Nat
  reason : Nat
  failLoc : Word
  failInfo : Word
  epoch : Word
  shadow : List Patch
  /-- bytes of the shadow's part of the Chart store that entries have ever taken since it was zeroed (R255, R269) -/
  high : Nat
  spoiled : Bool
  psrc : Nat
  plen : Nat
  pbusy : Bool
  presult : Nat
  gather : Gather
  stray : Bool
  lost : Bool
  deriving DecidableEq, Repr

/-! ## Rings, queues, chains (R28 to R60) -/

/-- The slice's work on the chain at the head of a ring (R33 to R36, R70). -/
inductive Fetch where
  | idle
  | reading | staging | ready
  /-- a staged chain whose slice has 256 staged descriptors in flight (R36) -/
  | stageWait
  /-- refused at this time in these pools -/
  | refused (at_ : Nat) (pools : List Nat)
  deriving DecidableEq, Repr

structure Ring where
  base : Nat
  size : Nat
  enable : Bool
  active : Bool
  posted : Word
  accepted : Word
  credit : Word
  dbRefused : Bool
  fetchFault : Bool
  halted : Bool
  enRefused : Bool
  /-- tokens of the reserved bucket times 3,000,000, and the time of the last accrual (R75) -/
  bucket : Nat
  bucketAt : Nat
  /-- control cycle of the last credit, so that one is given per control cycle -/
  tickAt : Option Nat
  fetch : Fetch
  fgather : Gather
  descs : List Bytes
  sgather : Gather
  sfault : Bool
  /-- time at which the last byte of the chain arrived (R70) -/
  readyAt : Nat
  /-- time of the last refused offer of the chain at the head (R70) -/
  offerAt : Option Nat
  /-- time from which the running famine is not yet counted, and root cycles of famine before it that are not (R356) -/
  famineAt : Option Nat
  faminePart : Nat
  deriving DecidableEq, Repr

/-- A grant or a Waypoint command with its M, waiting for its control cycle (R57). -/
inductive CqOp where
  | grant (n : Nat)
  | waypoint (op : Nat) (m : Word)
  deriving DecidableEq, Repr

structure Cq where
  base : Nat
  size : Nat
  enable : Bool
  active : Bool
  vector : Nat
  coalCount : Nat
  coalTime : Nat
  granted : Word
  written : Word
  reserved : Nat
  grantOver : Bool
  wpLost : Bool
  writeFault : Bool
  halted : Bool
  enRefused : Bool
  lateErr : Bool
  wpPos : Word
  /-- CQ_WP_POS shows the mark in force since the last SET (R54, R59) -/
  wpShown : Bool
  wpMark : Word
  wpValid : Bool
  wpResult : Nat
  dropped : Nat
  /-- noticeable chains since the last notice, and the time of the first (R51) -/
  noteN : Nat
  noteAt : Nat
  /-- control cycle of the last record, grant or Waypoint command, and those that wait for theirs, each with the control
  cycle of its write (R57) -/
  opAt : Option Nat
  ops : List (CqOp × Nat)
  deriving DecidableEq, Repr

structure Nv where
  hold : Bool
  pend : Bool
  count : Nat
  deriving DecidableEq, Repr

/-- A chain's segment in a pool (R65, R66). -/
inductive SegState where
  | later | waiting | running | done
  deriving DecidableEq, Repr

structure Seg where
  pool : Nat
  cls : Nat
  first : Nat
  count : Nat
  occ : Nat
  latest : Int
  entries : Nat
  /-- N of the pool at acceptance (R73) -/
  serv : Nat
  st : SegState
  deriving DecidableEq, Repr

/-- The outcome of a descriptor and what its record waits for. -/
structure DescRes where
  status : Nat
  detail : Nat
  flags : Nat
  result : Bytes
  /-- the record waits for the responses of the descriptor's output writes (R14) -/
  waits : Bool
  /-- the descriptor executed nothing (R416) -/
  noexec : Bool
  /-- the page whose log entry was issued for the record (R302) -/
  paged : Option Nat
  /-- Meridian from which the record may be issued -/
  notBefore : Nat
  issued : Bool
  deriving DecidableEq, Repr

structure Chain where
  id : Nat
  ring : Nat
  func : Nat
  cq : Nat
  cls : Nat
  seq : Word
  descs : List Bytes
  staged : Option Bytes
  accept : Nat
  deadline : Nat
  epoch : Word
  prio : Nat
  segs : List Seg
  /-- results of the descriptors decided so far, in order -/
  results : List DescRes
  issued : Nat
  /-- Meridian of the last record issued, or of the acceptance -/
  lastRec : Nat
  /-- the chain-scratch buffer it holds (R34) -/
  scratch : Option Bytes
  tested : Bool
  malformed : Bool
  lateRec : Bool
  voidSupply : Bool
  voidFabric : Bool
  voidUnit : Bool
  /-- E was R at the acceptance: it covers the waits of a dirty-page log (R65, R73) -/
  covered : Bool
  deriving DecidableEq, Repr

/-! ## Pools: ledger counters and internal queue (R82, R84 to R98) -/

/-- A queue entry: chain, its index there (descriptor, or the staged input), place 0 head, 1 tail, 2 middle,
3 bank 0, 4 bank 1, index in the place, poison tag (R84, R85, R93). -/
structure IqEntry where
  chain : Nat
  idx : Nat
  stage : Bool
  place : Nat
  loc : Nat
  poison : Bool
  /-- words already found with an error -/
  bad : List Nat
  deriving DecidableEq, Repr

structure Pool where
  accepted : Nat
  refused : Nat
  nores : Nat
  late : Nat
  famWm : Nat
  famPeak : Nat
  famCrossed : Bool
  famCount : Nat
  famLevel : Nat
  /-- smooth weighted round-robin state of excess credit (R76) and of offers (R69), by ring -/
  excess : Tbl Int
  excessAt : Option Nat
  offers : Tbl Int
  offerAt : Option Nat
  queue : List IqEntry
  hold : Bool
  wm : Nat
  peak : Nat
  crossed : Bool
  fbEntered : Bool
  crossCount : Nat
  parity : Nat
  poisonLoc : Word
  fbTime : Nat
  fallback : Bool
  cause : Nat
  scrub : Bool
  scrubAt : Nat
  fillBank : Bool
  stormCount : Nat
  level : Nat
  /-- share as laid out in the middle store -/
  share : Nat
  /-- a share committed and not yet laid out (R92) -/
  reshare : Bool
  /-- the pool's share of the middle store by entry: what was written last; zeros elsewhere in the entries, counted from the
  first, that a scrub has zeroed (R91) -/
  mid : Tbl Bytes
  zeroed : Nat
  /-- control cycle of the last moves, and in it: how many entries the head took, and the banks that were read and written
  (R87, R88) -/
  moveAt : Option Nat
  moved : Nat
  bankRd : List Nat
  bankWr : List Nat
  deriving DecidableEq, Repr

structure Iq where
  storm : BitVec 8
  noticeCfg : BitVec 5
  parityTotal : Nat
  stormIv : Nat
  deriving DecidableEq, Repr

structure Ad where
  voidSupply : Nat
  voidFabric : Nat
  voidUnit : Nat
  lateOther : Nat
  /-- control cycle of the last offer (R68) -/
  offerCycle : Option Nat
  /-- control cycle in which each slice last accepted a chain (R79) -/
  sliceAt : Tbl Nat
  deriving DecidableEq, Repr

/-! ## Session contexts (R99 to R117) -/

/-- A context. engine holds the whole engine area of its form (R111, R112), for hash operations the state. -/
structure Ctx where
  /-- 0 FREE, 1 OPEN, 2 TAINTED, 3 SPENT, 4 SEALED -/
  st : Nat
  kind : Nat
  prior : Nat
  owner : Nat
  cause : Nat
  opcode : Nat
  msg : Bool
  dir : Bool
  invLim : Nat
  key : Word
  key2 : Word
  nonce : Bytes
  inv : Nat
  blk : Nat
  partLen : Nat
  dataBytes : Nat
  aadBytes : Nat
  engine : Bytes
  deriving DecidableEq, Repr

def Ctx.free : Ctx := ⟨0, 0, 0, 0, 0, 0, false, false, 0, 0, 0, [], 0, 0, 0, 0, 0, []⟩

/-- A context named by kind and global index, as a unit or a write-back holds it. -/
structure CtxRef where
  compact : Bool
  wide : Bool
  idx : Nat
  deriving DecidableEq, Repr

structure WriteBack where
  uid : Nat
  ref : CtxRef
  ctx : Ctx
  deriving DecidableEq, Repr

structure Sc where
  std : Tbl Ctx
  cmp : Tbl Ctx
  kctx : Option Bytes
  ready : Bool
  erasing : Bool
  scrubAt : Option Nat
  scrubLeft : Nat
  eraseCmd : Bool
  eraseRefused : Bool
  eraseDone : Bool
  parity : Nat
  fnSel : BitVec 14
  idx : BitVec 22
  busy : Bool
  result : Nat
  peekHdr : Word
  peekOp : Word
  peekInv : Nat
  /-- an SC_CMD that waits: OP, KIND and index; true while it waits for a holder, false while a hold delays it -/
  cmd : Option (Nat × Nat × Nat)
  cmdWaits : Bool
  wb : List WriteBack
  deriving DecidableEq, Repr

/-! ## Key vault (R185 to R210) -/

/-- A vault slot. kind 0 EMPTY, 1 KEY, 2 PRIV, 3 EXT; key holds the key of a KEY slot and the record's bytes of an EXT slot. -/
structure Slot where
  attr : Word
  gen : Nat
  own : Nat
  kind : Nat
  klen : Nat
  kcv : Bytes
  invcnt : Nat
  ref : Nat
  key : Bytes
  pubh : Bytes
  /-- a parity error of this content has been counted (R193) -/
  badSeen : Bool
  deriving DecidableEq, Repr

def Slot.empty : Slot := ⟨0, 0, 0, 0, 0, [0, 0, 0], 0, 0, [], [], false⟩

structure Drbg where
  seeded : Bool
  reqs : Nat
  at_ : Nat
  deriving DecidableEq, Repr

/-- A vault command in progress (R206): the fields of its word, the operand registers as they stood at its write, and
its DMA. -/
structure KvCmd where
  op : Nat
  wrapper : Bool
  ktype : Nat
  klen : Nat
  idx : Nat
  func : Nat
  attr : Word
  kek : Word
  src : Nat
  dst : Nat
  len : Nat
  dlen : Nat
  gather : Gather
  /-- writes that still owe a response; one was refused or failed; bytes written -/
  out : Nat
  outErr : Bool
  outLen : Nat
  /-- not yet started: a no-start hold delays it (R341) -/
  held : Bool
  /-- a parity error that the command will find in its slot, and in the slot of its KEK (R193) -/
  bad : Bool
  kekBad : Bool
  deriving DecidableEq, Repr

structure Kv where
  slots : Tbl Slot
  kvlt : Option Bytes
  kopr : Option Bytes
  ready : Bool
  erasing : Bool
  scrubAt : Option Nat
  attValid : Bool
  attPub : Bytes
  dAtt : Option Nat
  idx : BitVec 16
  attr : Word
  kek : Word
  src : Nat
  dst : Nat
  len : BitVec 16
  dlen : BitVec 16
  busy : Bool
  result : Nat
  outLen : Nat
  peekSlot : Word
  peekAttr : Word
  peekKlen : Word
  peekKcv : Word
  peekInv : Word
  fnSel : BitVec 14
  parity : Nat
  revoked : Nat
  stale : Nat
  drbgFail : Nat
  healthFail : Bool
  startupDone : Bool
  drbg : List Drbg
  cmd : Option KvCmd
  deriving DecidableEq, Repr

/-! ## Units and jobs (R15 to R20, R118 to R161, R211 to R230) -/

structure KeyReg where
  slot : Nat
  gen : Nat
  own : Nat
  bytes : Bytes
  deriving DecidableEq, Repr

/-- The working registers of a unit's tile, which no register shows (R118, R144, R162): partial block, XTS tweaks, GHASH value,
round state, PIN, the input buffer of a hash tile and the AES state of its CMAC PRF. An empty string stands for zeros. -/
structure Tile where
  part : Bytes
  tweak : Bytes
  ghash : Bytes
  round : Bytes
  pin : Bytes
  buf : Bytes
  aes : Bytes
  deriving DecidableEq, Repr

/-- Counters of a unit or a member, by UID (R18, R20, R143, R161, R230). -/
structure Counts where
  jobs : Nat
  busy : Nat
  mismatch : Nat
  blocks : Nat
  authFail : Nat
  /-- CT_EXHAUSTED of a cipher unit, HT_DERIVED of a hash unit -/
  fourth : Nat
  retry : Nat
  scrubs : Nat
  /-- AT_PARITY of a tile -/
  parity : Nat
  deriving DecidableEq, Repr

/-- What a block of the plan does before it is computed, and what it releases: a vault swap (R164), a derived key that enters
the key register (R164, R176), the working registers it leaves, and how many blocks it counts (R143). -/
structure PlanBlock where
  out : Bytes
  swap : Bool
  key : Option Bytes
  tile : Option Tile
  count : Nat
  /-- the check that the plan fails is made on this block (R8) -/
  found : Bool
  /-- the block is this command of a Helm, with the bytes that a LOAD reads (R221) -/
  cmd : Option (Config.HelmWord × Bytes)
  deriving DecidableEq, Repr

/-- A key that a descriptor writes into its target slot (R157, R177, R240). -/
structure Target where
  slot : Nat
  /-- generations of the target and of the extension slots it will take, at the load -/
  gens : List Nat
  attr : Word
  key : Bytes
  pubh : Bytes
  kind : Nat
  deriving DecidableEq, Repr

/-- What a descriptor will do from its loaded state: its blocks in order, then its outcome. -/
structure Plan where
  blocks : List PlanBlock
  status : Nat
  detail : Nat
  flags : Nat
  result : Bytes
  ctx : Option Ctx
  target : Option Target
  special : Bool
  deriving DecidableEq, Repr

inductive Phase where
  | claimed
  /-- a load check failed: status, detail, and the Meridian at which the load stage ends (R415) -/
  | failed (status detail due : Nat)
  | input
  | exec
  /-- every block is released; output writes still wait at the port (R14) -/
  | writing
  deriving DecidableEq, Repr

/-- The job on a unit: the descriptor it runs and all it has loaded. -/
structure Job where
  chain : Nat
  seg : Nat
  idx : Nat
  phase : Phase
  /-- claim of the unit, or the last write issue of the descriptor before (R415) -/
  from_ : Nat
  poison : List Nat
  key : Option KeyReg
  key2 : Option KeyReg
  /-- KEY2 of a payment procedure, as checked at the load and not yet read into the key register (R164) -/
  swap : Option KeyReg
  /-- attribute word of the key's slot at the access -/
  base : Word
  ctxRef : Option CtxRef
  /-- local number and action of the handle (R103) -/
  local_ : Nat
  ctx : Ctx
  act : Nat
  /-- target slot, and the generations of the slots it will take at the load -/
  target : Option (Nat × List Nat)
  /-- DRBG output drawn at the load (R170, R241) -/
  rand : Bytes
  tgtHeld : Option Nat
  gather : Gather
  plan : Plan
  blk : Nat
  tries : Nat
  outOff : Nat
  /-- what ends the descriptor at its next block boundary, as detected first (R8): status and detail -/
  stop : Option (Nat × Nat)
  /-- an output write was issued without a keep-order code (R14) -/
  waits : Bool
  /-- the held context was changed by an earlier descriptor of the segment (R106) -/
  dirty : Bool
  /-- slots written and slots made LOADED since the claim -/
  written : List Nat
  /-- check mode, mismatch action and retry limit of the unit at the load (R284) -/
  check : Nat
  action : Nat
  retryMax : Nat
  /-- configuration epoch of the load -/
  epoch : Word
  deriving DecidableEq, Repr

/-- A host arithmetic command in progress (R221). -/
structure AtCmd where
  op : Nat
  fl : BitVec 3
  d : Nat
  a : Nat
  b : Nat
  c : Nat
  q : Nat
  xaddr : Nat
  due : Nat
  tries : Nat
  gather : Gather
  out : Nat
  fault : Bool
  /-- a STORE whose check has passed: its writes are issued (R138, R227) -/
  sent : Bool
  deriving DecidableEq, Repr

structure Arith where
  opdDA : Word
  opdBC : Word
  xaddr : Nat
  q : Word
  busy : Bool
  carryStat : Bool
  status : Nat
  detail : Nat
  cmdIgnored : Bool
  apRefused : Bool
  carry : Bool
  occ : Nat
  valid : List Nat
  loaded : List Nat
  cmd : Option AtCmd
  deriving DecidableEq, Repr

/-- The run state of a top-level unit: st 0 IDLE, 1 BUSY, 2 SCRUB, 4 FAULT. -/
structure Uni where
  st : Nat
  sched : Bool
  hostHeld : Bool
  /-- held by the vault as key service unit (R187) -/
  vault : Bool
  lockPool : Nat
  lockFunc : Nat
  /-- when the segment that claimed the unit is counted to release it: claim + W (R67) -/
  until_ : Nat
  lastStatus : Nat
  lastFunc : Nat
  key : Option KeyReg
  tile : Tile
  op : Nat
  active : Bool
  lastErr : Word
  ar : Arith
  job : Option Job
  /-- start of the running scrub, and true for a release scrub (R229) -/
  scrubAt : Nat
  relScrub : Bool
  deriving DecidableEq, Repr

structure Helm where
  /-- 3 HALT, else 0: RUN and SCRUB show in the bound units (R253) -/
  st : Nat
  trap : Nat
  op : Nat
  desc : Nat
  lastErr : Word
  kat : BitVec 2
  /-- the data halves of the first and the second bound unit, zeros behind what is listed (R231, R233) -/
  data0 : Bytes
  data1 : Bytes
  deriving DecidableEq, Repr

structure Hl where
  preBusy : Bool
  preResult : Nat
  preUid : Nat
  preempted : Nat
  noResult : Nat
  special : Nat
  loadedRead : Nat
  traps : Nat
  deriving DecidableEq, Repr

/-! ## Functions, payments, boundary -/

/-- Dirty-page log of a VF (R301 to R304). -/
structure Dl where
  base : Nat
  size : Nat
  enable : Bool
  active : Bool
  written : Word
  consumed : Word
  allDirty : Bool
  fault : Bool
  enRefused : Bool
  sweepAt : Option Nat
  suppressed : Nat
  logged : Nat
  dropped : Nat
  deriving DecidableEq, Repr

structure Fn where
  resetting : Bool
  causeCtl : Bool
  causeFlr : Bool
  done : Bool
  late : Bool
  merged : Bool
  rstCount : Nat
  rstTime : Nat
  discard : Nat
  aborted : Nat
  resets : Nat
  /-- control cycle of t0 -/
  t0 : Nat
  ctxFill : Bool
  fillAt : Nat
  /-- ranges in force when the running reset began: standard and compact, base and count (R300) -/
  rstStd : Nat × Nat
  rstCmp : Nat × Nat
  /-- ranges whose fill has not ended (R298), the latest first -/
  fillStd : List (Nat × Nat)
  fillCmp : List (Nat × Nat)
  /-- PIN failures of the present interval (R184) and PY_FN_FAIL -/
  pinIv : Nat
  pinFail : Nat
  dl : Dl
  deriving DecidableEq, Repr

structure Py where
  xlate : Nat
  pinFormat : Nat
  verifyFail : Nat
  imported : Nat
  fnSel : BitVec 14
  limit : BitVec 16
  notLimit : Bool
  notFunc : BitVec 14
  notCount : Nat
  noticeCfg : BitVec 5
  iv : Nat
  deriving DecidableEq, Repr

/-- Who issued a DMA transaction. -/
inductive Origin where
  | fetch (ring : Nat)
  | stage (ring : Nat)
  | input (chain idx : Nat)
  | output (chain idx : Nat)
  | record (chain idx : Nat)
  | log (chain idx vf : Nat)
  | kvRead
  | kvWrite
  | atRead (uid : Nat)
  | atWrite (uid : Nat)
  | chart
  | patch
  deriving DecidableEq, Repr

/-- A transaction of an initiator port (R384, R385). It is judged when it is issued (R310): until then its PL, CA, ORD
and tag are 0. -/
structure Txn where
  tag : Nat
  write : Bool
  addr : Nat
  len : Nat
  func : Nat
  pl : Nat
  ca : Nat
  ord : Nat
  data : Bytes
  off : Nat
  who : Origin
  /-- pools in which the descriptor it belongs to runs (R73) -/
  pools : List Nat
  at_ : Nat
  /-- its originator is gone: the response is discarded -/
  gone : Bool
  /-- write-data beats that wait for credit (R385, R386) -/
  left : Nat
  /-- the page it dirties has been dealt with (R302) -/
  paged : Bool
  /-- bytes behind it of an output that is written whole or not at all (R182) -/
  rest : Nat
  deriving DecidableEq, Repr

/-- The credits that the block holds (requests, write data) and those that it has granted to the host chip (read data, responses)
(R386), what waits for issue and what is out, in request order. -/
structure Port where
  reqCrd : Nat
  wdCrd : Nat
  rdCrd : Nat
  rspCrd : Nat
  sendQ : List Txn
  out : List Txn
  deriving DecidableEq, Repr

/-- A notice beat: function and vector, and whether the beat is sent again (R394). -/
structure Note where
  func : Nat
  vec : Nat
  again : Bool
  deriving DecidableEq, Repr

/-- A notice lane (R393): credits, waiting notices, and the last two beats sent with their CCLK cycles, the later first. -/
structure Lane where
  crd : Nat
  waiting : List Note
  sent : List (Note × Nat)
  deriving DecidableEq, Repr

/-- A response on a target port or on the debug interface: 0 OKAY, 1 ERROR, 2 LOCKED (R390, R396). -/
structure Resp where
  err : Nat
  data : Bytes
  deriving DecidableEq, Repr

/-- The bytes of a debug request that have come, and whether one of them failed parity (R395, R396). -/
structure DbgIn where
  bytes : Bytes
  bad : Bool
  deriving DecidableEq, Repr

/-- The ready inputs that the host chip drives: TRS_READY of both target ports, FDN_READY, DBG_OUT_READY (R390, R393, R395). -/
structure Ready where
  trs0 : Bool
  trs1 : Bool
  fdn : Bool
  dbg : Bool
  deriving DecidableEq, Repr

structure State where
  clk : Clk
  pw : Pw
  bn : Bn
  lb : Lb
  sd : Sd
  fuses : Tbl Word
  lc : Lc
  ac : Ac
  ch : Ch
  chart : Chart
  tx : Tx
  rings : Tbl Ring
  cqs : Tbl Cq
  nv : Tbl Nv
  chains : Tbl Chain
  pools : Tbl Pool
  ad : Ad
  iq : Iq
  sc : Sc
  kv : Kv
  units : Tbl Uni
  cnts : Tbl Counts
  opmem : List Host.Cell
  helms : Tbl Helm
  hl : Hl
  fns : Tbl Fn
  dlFilter : Tbl (Nat × Nat)
  py : Py
  ports : Tbl Port
  lane0 : Lane
  lane1 : Lane
  /-- FLR requests accepted and not yet answered by FLR done, and the FLR done beats not yet taken (R289, R376, R393) -/
  flrPend : List Nat
  fdn : List Nat
  /-- TPQ_PEND answers still to be sent, in query order, and the CCLK cycle of the last beat that failed parity (R394) -/
  tpq : List Bool
  fpPerr : Option Nat
  /-- responses of the target ports not yet taken, in request order (R390, R391) -/
  tp0 : List Resp
  tp1 : List Resp
  /-- response bytes of the debug link not yet taken (R395, R396) -/
  dbg : Bytes
  dbgIn : DbgIn
  ready : Ready
  /-- upper halves captured by NAME_LO reads, and NAME_LO holding registers (R6), by register -/
  cap : Tbl Word
  hold : Tbl Word
  scanMode : Bool
  /-- the model's own: counter of free values (log 4), next chain name, waiting commands -/
  free : Nat
  nextId : Nat
  pending : List Instr
  deriving DecidableEq, Repr

/-! ## Defaults of absent table entries, and reset -/

def Ring.init : Ring := ⟨0, 0, false, false, 0, 0, 0, false, false, false, false, 0, 0, none, .idle, .none, [],
  .none, false, 0, none, none, 0⟩

def Cq.init : Cq := ⟨0, 0, false, false, 0, 0, 0, 0, 0, 0, false, false, false, false, false, false, 0, false, 0, false,
  0, 0, 0, 0, none, []⟩

def Nv.init : Nv := ⟨false, false, 0⟩

def Pool.init : Pool := ⟨0, 0, 0, 0, 0, 0, false, 0, 0, [], none, [], none, [], false, 0, 0, false, false, 0, 0, 0,
  0, false, 0, false, 0, false, 0, 0, 0, false, [], 0, none, 0, [], []⟩

def Arith.init : Arith := ⟨0, 0, 0, 0, false, false, 0, 0, false, false, false, 0, [], [], none⟩

/-- The working registers of a tile after a scrub (R119). -/
def Tile.zero : Tile := ⟨[], [], [], [], [], [], []⟩

def Uni.init : Uni := ⟨0, false, false, false, 0, 0, 0, 0, 0, none, .zero, 0, false, 0, .init, none, 0, false⟩

def Counts.init : Counts := ⟨0, 0, 0, 0, 0, 0, 0, 0, 0⟩

/-- A block that only releases bytes. -/
def PlanBlock.of (out : Bytes) : PlanBlock := ⟨out, false, none, none, 1, false, none⟩

def Helm.init : Helm := ⟨0, 0, 0, 0, 0, 0, [], []⟩

def Dl.init : Dl := ⟨0, 0, false, false, 0, 0, false, false, false, none, 0, 0, 0⟩

def Fn.init : Fn := ⟨false, false, false, false, false, false, 0, 0, 0, 0, 0, 0, false, 0, (0, 0), (0, 0), [], [],
  0, 0, .init⟩

/-- A port after CORE_RST_N has risen: the block's grants are out (R386, log 57). -/
def Port.init : Port := ⟨0, 0, 1024, 1024, [], []⟩

/-- A port while CORE_RST_N is 0: no credit on either side (R389). -/
def Port.down : Port := ⟨0, 0, 0, 0, [], []⟩

def Lane.init : Lane := ⟨0, [], []⟩

/-- A pool summary after a clear (R355). -/
def PoolSum.init : PoolSum := ⟨0, 0, 0, 2 ^ 64 - 1, 0, 0, 0⟩

/-- A ring record after a clear (R356). -/
def RingRec.init : RingRec := ⟨0, 0x1FFFF, 0⟩

/-- The device extremes after a clear (R357). -/
def Extremes.init : Extremes := ⟨0x3FF, 0, 0x3FF, 0, 0x80, 0x7F, 0, 0, List.replicate 12 0⟩

def Plan.none : Plan := ⟨[], 0, 0, 0, [], .none, .none, false⟩

/-- CK_ registers after reset (R381). -/
def Clk.reset : Clk := ⟨0, false, true, false, false, false, 0, 0, 0, false⟩

/-- PW_ registers after PWR_CORE (R382): step 1, A1_EN 1, KIND 2. -/
def Pw.reset : Pw := ⟨true, false, 0, 2, false, 0, 0, 0, 0, 1, 0, .run, false, false, none, false, 0, false, [],
  false, false, false, 0, false, false, [], .allOnes 23⟩

/-- The floors of R346 while the life-cycle state is not known. -/
def strictFloors : List Nat := [2, 2, 1, 2, 1, 2, 2, 2, 2, 0, 0, 2]

/-- BN_ registers after PWR_SENTINEL (R346, R378). -/
def Bn.reset : Bn := ⟨0, false, false, false, 0, 0, 0, 0, 0, 0, false, false, false, 0, none, 0, 0, 0, 0, 0, 0, 0, 0,
  strictFloors, List.replicate 12 0, false, none, 0, 0, 0, none, none, 0, false, 0, 0, false, false, false, 0, 0, 0, [], [], [],
  none, 0⟩

def Lb.reset : Lb := ⟨[], 256, 0, 0, 1, 0, 0, 0, 0, 0, 0, false, false, [], [], [], 0⟩

def Sd.reset : Sd := ⟨false, 0, 0, false, 0, 0, [], [], [], .init⟩

def Lc.reset : Lc := ⟨0x0F, 0, false, false, 0, 0, false, 0, 0, List.replicate 12 0, [], false⟩

def Ac.reset : Ac := ⟨[], [], false, [], 0, 0, 0, ⟨0, 0, 0, 0⟩, none, 0, ⟨0, 0, 0⟩, none, 0, 0, 0, 0, false, 0, 0, 0, false,
  none, List.replicate 32 0, List.replicate 96 0, List.replicate 96 0, false, 0, 0, [], false⟩

def Ch.reset : Ch := ⟨0, 0, 0, false, 0, 0, 0, 0, 0, 0, 0, 0, none, false, 0, .none, [], [], false, List.replicate 48 0, 0, 0,
  0, 0, 0, false, List.replicate 48 0⟩

def Tx.reset : Tx := ⟨0, 0, 0, 0, 0, 0, [], 0, false, 0, 0, false, 0, .none, false, false⟩

def Sc.reset : Sc := ⟨[], [], none, false, false, none, 0x200000, false, false, false, 0, 0, 0, false, 0, 0, 0, 0,
  none, false, []⟩

def Kv.reset : Kv := ⟨[], none, none, false, false, none, false, List.replicate 96 0, none, 0, 0, 0, 0, 0, 0, 0,
  false, 0, 0, 0, 0, 0, 0, 0, 0, 0, 0, 0, 0, false, false, List.replicate 8 ⟨false, 0, 0⟩, none⟩

def Py.reset : Py := ⟨0, 0, 0, 0, 0, 0, false, 0, 0, 0, 0⟩

/-- The state after reset: PWR_CORE of the first power period of a device as manufactured (R7, R378; log 2, 3). -/
def State.reset : State where
  clk := .reset
  pw := .reset
  bn := .reset
  lb := .reset
  sd := .reset
  fuses := [(0, 0x5AC33CA5)]
  lc := .reset
  ac := .reset
  ch := .reset
  chart := .empty
  tx := .reset
  rings := []
  cqs := []
  nv := []
  chains := []
  pools := []
  ad := ⟨0, 0, 0, 0, none, []⟩
  iq := ⟨4, 0, 0, 0⟩
  sc := .reset
  kv := .reset
  units := []
  cnts := []
  opmem := []
  helms := []
  hl := ⟨false, 0, 0, 0, 0, 0, 0, 0⟩
  fns := []
  dlFilter := []
  py := .reset
  ports := []
  lane0 := .init
  lane1 := .init
  flrPend := []
  fdn := []
  tpq := []
  fpPerr := none
  tp0 := []
  tp1 := []
  dbg := []
  dbgIn := ⟨[], false⟩
  ready := ⟨true, true, true, true⟩
  cap := []
  hold := []
  scanMode := false
  free := 0
  nextId := 0
  pending := []

end Sys2Proof.Machine
end

