-- ==== Sys2Proof/WellFormed.lean ====
section
/-!
DEFINITION. Which commands the outside world can form: the operand widths are in the types of Syntax, what remains
is checked here. exec is defined on every command, well-formed or not.
-/

namespace Sys2Proof

/-- Bytes of an access of TRQ_SIZE k (R390). -/
def accessBytes (k : BitVec 3) : Nat := 2 ^ k.toNat

/-- A read returns whole beats of 64 bytes of one transaction, at most 4 KiB (R309, R385); an aperture write carries the bytes
of its size (R391); a trap cause is one of R253; a voltage sample fits the 10-bit converters (R339); a mesh report
belongs to source 0; a source number is one of R343; a switch group is one of R402. -/
def Instr.wellFormed : Instr → Bool
  | .readCompletion _ _ chk data => decide (chk.length ≤ 64) && data.length == 64 * chk.length
  | .apertureWrite a _ data => data.length == accessBytes a.size
  | .helmTrap _ cause => decide (1 ≤ cause.toNat ∧ cause.toNat ≤ 3)
  | .supplySample vsb vdd _ _ => decide (vsb.toNat < 24 * 1024 ∧ vdd.toNat < 1024)
  | .alarmSource src mesh => src ≠ 0 && (src.getLsbD 0 || mesh == 0)
  | .alarmConditionEnd n _ => decide (n.toNat < 12)
  | .powerSwitchLoss g => decide (g.toNat < 23)
  | _ => true

end Sys2Proof
end

