-- ==== Sys2Proof/Machine/Ops.lean ====
section
/-!
DEFINITION. The named operations every meaning is written over: tables, byte order, operand memory, the
configuration in force, notices, Logbook requests, latches, violation records, outbound transactions.
-/

namespace Sys2Proof.Machine

/-! ## Tables -/

/-- The entry at k, or d. -/
def Tbl.get {α : Type} (t : Tbl α) (d : α) (k : Nat) : α :=
  match t with
  | [] => d
  | (i, x) :: r => if i = k then x else Tbl.get r d k

/-- The entry at k, if present. -/
def Tbl.find {α : Type} (t : Tbl α) (k : Nat) : Option α :=
  match t with
  | [] => none
  | (i, x) :: r => if i = k then some x else Tbl.find r k

/-- Sets the entry at k, keys rising. -/
def Tbl.set {α : Type} (t : Tbl α) (k : Nat) (x : α) : Tbl α :=
  match t with
  | [] => [(k, x)]
  | (i, y) :: r => if k < i then (k, x) :: (i, y) :: r else if i = k then (k, x) :: r else (i, y) :: Tbl.set r k x

/-- Removes the entry at k. -/
def Tbl.del {α : Type} (t : Tbl α) (k : Nat) : Tbl α := t.filter (fun e => e.1 ≠ k)

/-- Applies f to every value. -/
def Tbl.mapVal {α : Type} (t : Tbl α) (f : Nat → α → α) : Tbl α := t.map (fun e => (e.1, f e.1 e.2))

/-- Inserts x after every element of a key at most its own. -/
def insertOn {α : Type} (f : α → Nat) (x : α) : List α → List α
  | [] => [x]
  | y :: r => if f x < f y then x :: y :: r else y :: insertOn f x r

/-- A list in rising order of f; elements of equal keys keep their order. -/
def sortOn {α : Type} (f : α → Nat) (l : List α) : List α := l.foldl (fun acc x => insertOn f x acc) []

/-! ## Numbers and bytes -/

/-- A counter that saturates at all ones of 32 bits (R4). -/
def sat32 (n : Nat) : Nat := min (n + 1) 0xFFFFFFFF

/-- A counter that saturates at 0xFFFF. -/
def sat16 (n : Nat) : Nat := min (n + 1) 0xFFFF

/-- Bits [lo + len - 1 : lo] of a number. -/
def fld (n lo len : Nat) : Nat := n / 2 ^ lo % 2 ^ len

/-- The same of a register value. -/
def wfld (w : Word) (lo len : Nat) : Nat := fld w.toNat lo len

def wbit (w : Word) (i : Nat) : Bool := w.getLsbD i

/-- A number as a register value. -/
def word (n : Nat) : Word := BitVec.ofNat 32 n

def b2n (b : Bool) : Nat := if b then 1 else 0

/-- Ceiling of a quotient. -/
def cdiv (a b : Nat) : Nat := (a + b - 1) / b

/-- Little-endian number of a byte string (R3). -/
def leNat : Bytes → Nat
  | [] => 0
  | b :: r => b.toNat + 256 * leNat r

/-- The k little-endian bytes of a number (R3). -/
def toLE : Nat → Nat → Bytes
  | 0, _ => []
  | k + 1, n => BitVec.ofNat 8 n :: toLE k (n / 256)

def beNat (b : Bytes) : Nat := leNat b.reverse

def toBE (k n : Nat) : Bytes := (toLE k n).reverse

/-- n bytes of b from offset o, zero-padded. -/
def slice (b : Bytes) (o n : Nat) : Bytes := ((b.drop o).take n) ++ List.replicate (n - (b.length - o)) 0

def leAt (b : Bytes) (o n : Nat) : Nat := leNat (slice b o n)

def zeros (n : Nat) : Bytes := List.replicate n 0

def xorB (a b : Bytes) : Bytes := List.zipWith (· ^^^ ·) a b

/-- b zero-padded or cut to n bytes. -/
def padTo (n : Nat) (b : Bytes) : Bytes := slice b 0 n

/-- Splits a byte string into pieces of k bytes, the last may be short. -/
def chunks (k : Nat) (b : Bytes) : List Bytes :=
  (List.range (cdiv b.length k)).map (fun i => (b.drop (i * k)).take k)

/-- The 32-bit words of a byte string. -/
def wordAt (b : Bytes) (i : Nat) : Word := word (leAt b (4 * i) 4)

/-- Replaces bytes o .. of b by x. -/
def patchBytes (b : Bytes) (o : Nat) (x : Bytes) : Bytes := b.take o ++ x ++ b.drop (o + x.length)

/-- The signed difference of two positions (R29). -/
def posDiff (a b : Word) : Int := (a - b).toInt

/-! ## Operand memory: canonical cells, unlisted bytes zero (R214) -/

namespace Memory

/-- Keys rising from above lo, no listed zero byte. -/
def wfFrom (lo : Nat) : List Host.Cell → Bool
  | [] => true
  | (a, b) :: r => decide (lo ≤ a) && decide (b ≠ 0) && wfFrom (a + 1) r

/-- The canonical form: addresses strictly rising, no zero byte listed. -/
def wf (m : List Host.Cell) : Bool := wfFrom 0 m

/-- One byte. -/
def read (m : List Host.Cell) (a : Nat) : Byte :=
  match m with
  | [] => 0
  | (i, b) :: r => if i = a then b else read r a

/-- Writes one byte; a zero removes the cell. -/
def write (m : List Host.Cell) (a : Nat) (v : Byte) : List Host.Cell :=
  match m with
  | [] => if v = 0 then [] else [(a, v)]
  | (i, b) :: r =>
    if a < i then (if v = 0 then (i, b) :: r else (a, v) :: (i, b) :: r)
    else if i = a then (if v = 0 then r else (a, v) :: r)
    else (i, b) :: write r a v

def readN (m : List Host.Cell) (a : Nat) : Nat → Bytes
  | 0 => []
  | n + 1 => read m a :: readN m (a + 1) n

def writeN (m : List Host.Cell) (a : Nat) : Bytes → List Host.Cell
  | [] => m
  | b :: r => writeN (write m a b) (a + 1) r

/-- Zero-fills n bytes from a. -/
def zero (m : List Host.Cell) (a n : Nat) : List Host.Cell := m.filter (fun c => c.1 < a || a + n ≤ c.1)

end Memory

/-! ## Free values (log 4) -/

/-- n fresh free bytes. -/
def freeBytes (s : State) (n : Nat) : Bytes := (List.range n).map (fun i => Config.freeByte (s.free + i))

/-- Moves the counter past n free bytes. -/
def tickFree (s : State) (n : Nat) : State := { s with free := s.free + n }

/-! ## When the core works -/

/-- CORE_RST_N: while it is 0 every input is ignored and every output is 0 (R389, R400). -/
def coreRstN (s : State) : Bool := !s.pw.coreHeld && s.pw.rstLeft == 0 && s.pw.mode != .a3

/-- The core is powered, not held, not isolated and not in scan mode (R399); the A2 entry isolates at its end (R373, R374, R403). -/
def powered (s : State) : Bool := (s.pw.mode == .run || s.pw.mode == .a2Entry) && !s.pw.coreHeld && !s.scanMode

/-- The core is also out of the 64 control cycles of a BLOCK or TAMPER reset (R376, R389). -/
def active (s : State) : Bool := powered s && s.pw.rstLeft == 0

/-- Every root-derived domain advances (R369). -/
def running (s : State) : Bool := active s && s.clk.lock

/-- An erase stops claims, vault accesses, output writes, records and notices (R205). -/
def struck (s : State) : Bool := match s.bn.erase with
  | some e => e.tamper
  | none => false

/-- The control domains run from the reference (R369). -/
def onRef (s : State) : Bool := !s.clk.lock && s.clk.bypass && !s.clk.refGone

/-- The control domains, the register interface and the function port run: from the PLL, or from the reference until it locks
(R369, R383). -/
def ported (s : State) : Bool := active s && (s.clk.lock || onRef s)

/-- The control cycle that runs: four root cycles, or one of those that ran from the reference (R369). -/
def controlCycle (s : State) : Nat := s.clk.meridian / 4 + s.clk.slow

/-- Engines and ports do work. -/
def engineUp (s : State) : Bool := running s && !struck s

/-- The no-start hold (R341). -/
def nostart (s : State) : Bool := s.bn.nostart

/-- A HOLD action holds back admission (R345). -/
def alarmHold (s : State) : Bool := s.bn.holdSrc != 0 || s.bn.holdFrom.isSome

/-- A supply warning is active or its no-start hold runs (R328, R332, R372). -/
def supplyBad (s : State) : Bool := s.bn.vsbWarn || s.bn.vddWarn || s.bn.nostart

/-- The erase hold after a TAMPER reset (R347). -/
def eraseHold (s : State) : Bool := s.bn.eraseHold != 0

/-- A new masking key may be drawn behind an erase: not before start-up has drawn its own, and not in an erase hold (R347). -/
def maskable (s : State) : Bool := decide (5 ≤ s.pw.step) && !eraseHold s

/-- A BLOCK reset stops admission and new DMA (R376). -/
def blockReq (s : State) : Bool := s.pw.block.isSome && !s.lc.busy

/-! ## The configuration in force -/

def unitRec (s : State) (u : Nat) : Option UnitRec := s.chart.units.find? (·.uid == u)
def poolRec (s : State) (p : Nat) : Option PoolRec := s.chart.pools.find? (·.pool == p)
def classRec (s : State) (c : Nat) : Option ClassRec := s.chart.classes.find? (·.cls == c)
def funcRec (s : State) (f : Nat) : Option FuncRec := s.chart.funcs.find? (·.func == f)
def ringBind (s : State) (g : Nat) : Option RingBind := s.chart.rings.find? (·.ring == g)
def costRec (s : State) (p op : Nat) : Option CostRec :=
  s.chart.costs.find? (fun c => c.pool == p && c.opcode == op)

/-- The function whose ring range holds g (R265). -/
def ringOwner (s : State) (g : Nat) : Option FuncRec :=
  s.chart.funcs.find? (fun f => f.ringBase ≤ g && g < f.ringBase + f.ringCount)

def cqOwner (s : State) (q : Nat) : Option FuncRec :=
  s.chart.funcs.find? (fun f => f.cqBase ≤ q && q < f.cqBase + f.cqCount)

/-- The function whose vault range holds a global slot (R188). -/
def slotOwner (s : State) (i : Nat) : Option FuncRec :=
  s.chart.funcs.find? (fun f => f.vltBase ≤ i && i < f.vltBase + f.vltCount)

/-- The completion queue bound to ring g (R266). -/
def ringCq (s : State) (g : Nat) : Option Nat :=
  match ringBind s g, ringOwner s g with
  | some b, some f => some (f.cqBase + b.cqLocal)
  | _, _ => none

/-- The service class of ring g. -/
def ringClass (s : State) (g : Nat) : Option ClassRec := (ringBind s g).bind (fun b => classRec s b.cls)

/-- The pools a class names, each once. -/
def classPools (c : ClassRec) : List Nat := [c.poolC, c.poolH, c.poolA].eraseDups

/-- The top-level unit above u (R16); the fuel is the deepest level plus one. -/
def topOf (units : List UnitRec) : Nat → Nat → Nat
  | 0, u => u
  | n + 1, u =>
    match units.find? (·.uid == u) with
    | some r => match r.parent with
      | some p => topOf units n p
      | none => u
    | none => u

def topUnit (s : State) (u : Nat) : Nat := topOf s.chart.units 9 u

/-- The leaves under u in record order. -/
def leavesOf (units : List UnitRec) : Nat → Nat → List UnitRec
  | 0, _ => []
  | n + 1, u =>
    match units.find? (·.uid == u) with
    | some r => if r.group then (units.filter (·.parent == some u)).flatMap (fun m => leavesOf units n m.uid)
                else [r]
    | none => []

def leaves (s : State) (u : Nat) : List UnitRec := leavesOf s.chart.units 9 u

def membersOf (units : List UnitRec) (u : Nat) : List UnitRec := units.filter (·.parent == some u)

/-- The unit u and every unit below it (R16). -/
def treeOf (units : List UnitRec) : Nat → Nat → List Nat
  | 0, u => [u]
  | n + 1, u => u :: (membersOf units u).flatMap (fun m => treeOf units n m.uid)

/-- A group that compares two halves (R136, R227): its computing part is the first half. -/
def computing (units : List UnitRec) : Nat → Nat → List UnitRec
  | 0, _ => []
  | n + 1, u =>
    match units.find? (·.uid == u) with
    | some r =>
      if r.group then
        let m := membersOf units u
        (if r.check == 1 then m.take 1 else m).flatMap (fun x => computing units n x.uid)
      else [r]
    | none => []

/-- Computing tiles of an arithmetic unit in tile order: their count is T (R212, R213). -/
def compTiles (s : State) (u : Nat) : List UnitRec := sortOn (·.tile) (computing s.chart.units 9 u)

def tcount (s : State) (u : Nat) : Nat := (compTiles s u).length

/-- Top-level units of a pool in UID order. -/
def poolUnits (s : State) (p : Nat) : List UnitRec :=
  sortOn (·.uid) (s.chart.units.filter (fun r => r.pool == some p && r.parent.isNone))

/-- The fabric budget in root cycles, R of R65. -/
def fabricR (s : State) : Nat := s.chart.budget * 3

/-! ## Table access with defaults -/

def getRing (s : State) (g : Nat) : Ring := s.rings.get .init g
def setRing (s : State) (g : Nat) (r : Ring) : State := { s with rings := s.rings.set g r }
def getCq (s : State) (q : Nat) : Cq := s.cqs.get .init q
def setCq (s : State) (q : Nat) (c : Cq) : State := { s with cqs := s.cqs.set q c }
def getNv (s : State) (f k : Nat) : Nv := s.nv.get .init (f * 16 + k)
def setNv (s : State) (f k : Nat) (n : Nv) : State := { s with nv := s.nv.set (f * 16 + k) n }
def getPool (s : State) (p : Nat) : Pool := s.pools.get .init p
def setPool (s : State) (p : Nat) (x : Pool) : State := { s with pools := s.pools.set p x }
def getUni (s : State) (u : Nat) : Uni := s.units.get .init u
def setUni (s : State) (u : Nat) (x : Uni) : State := { s with units := s.units.set u x }
def getCnt (s : State) (u : Nat) : Counts := s.cnts.get .init u

/-- Counts what a top-level unit did, in its counters and in those of every unit below it (R20). -/
def count (s : State) (u : Nat) (f : Counts → Counts) : State :=
  { s with cnts := (treeOf s.chart.units 9 u).foldl (fun t v => t.set v (f (t.get .init v))) s.cnts }

def getHelm (s : State) (h : Nat) : Helm := s.helms.get .init h
def setHelm (s : State) (h : Nat) (x : Helm) : State := { s with helms := s.helms.set h x }
def getFn (s : State) (f : Nat) : Fn := s.fns.get .init f
def setFn (s : State) (f : Nat) (x : Fn) : State := { s with fns := s.fns.set f x }
def setChain (s : State) (c : Chain) : State := { s with chains := s.chains.set c.id c }
def getPort (s : State) (n : Nat) : Port := s.ports.get .init n
def setPort (s : State) (n : Nat) (p : Port) : State := { s with ports := s.ports.set n p }
def getSlot (s : State) (i : Nat) : Slot := s.kv.slots.get .empty i
def setSlot (s : State) (i : Nat) (x : Slot) : State := { s with kv := { s.kv with slots := s.kv.slots.set i x } }

/-! ## Notices (R52, R393, R394) -/

def getLane (s : State) (odd : Bool) : Lane := if odd then s.lane1 else s.lane0
def setLane (s : State) (odd : Bool) (l : Lane) : State :=
  if odd then { s with lane1 := l } else { s with lane0 := l }

/-- The function port sends: its clock runs (R369, R383), and no erase does (R205). -/
def laneUp (s : State) : Bool := ported s && !struck s

/-- The longest waiting notice leaves when the lane has a credit, one beat per CCLK cycle (R393); a beat that is sent again is no
new notice (R52, R394). -/
def flushLane (s : State) (odd : Bool) : State :=
  let l := getLane s odd
  match l.waiting with
  | x :: r =>
    if l.crd = 0 ∨ laneUp s = false ∨ l.sent.head?.map (·.2) = some (controlCycle s) then s
    else
      let s := setLane s odd { l with crd := l.crd - 1, waiting := r, sent := (x, controlCycle s) :: l.sent.take 1 }
      let n := getNv s x.func x.vec
      if x.again then s else setNv s x.func x.vec { n with count := sat32 n.count }
  | [] => s

/-- A notice joins the lane of its function, and leaves when the lane has a credit (R394). -/
def emitNotice (s : State) (f k : Nat) : State :=
  let odd := f % 2 == 1
  let l := getLane s odd
  flushLane (setLane s odd { l with waiting := l.waiting ++ [⟨f, k, false⟩] }) odd

/-- Sends the notice (f, k), or absorbs it while HOLD is 1 (R52). -/
def sendNotice (s : State) (f k : Nat) : State :=
  let n := getNv s f k
  if n.hold then setNv s f k { n with pend := true } else emitNotice s f k

/-- One message on the PF vector of a NOTICE_CFG register, while its ENABLE is 1; it waits in its lane while the function port
does not run (log 43). -/
def pfNotice (s : State) (cfg : BitVec 5) : State :=
  if cfg.getLsbD 4 then sendNotice s 0 (cfg.toNat % 16) else s

/-- Notices that wait in the lanes leave, one of each lane. -/
def flushLanes (s : State) : State := flushLane (flushLane s false) true

/-! ## The Logbook: latches (R368) -/

/-- Latches an LB_NOTICE bit; a rise sends its message (R368). -/
def lbLatch (s : State) (i : Nat) : State :=
  if s.lb.notice.getLsbD i then s
  else pfNotice { s with lb := { s.lb with notice := s.lb.notice ||| BitVec.ofNat 3 (2 ^ i) } } s.lb.noticeCfg

/-! ## The Logbook writer (R360, R361, R363, R366) -/

/-- CRC-32: IEEE 802.3 polynomial, reflected, initial and final XOR all ones (R361). -/
def crc32 (b : Bytes) : Word :=
  ~~~(b.foldl (fun c x => (List.range 8).foldl (fun (c : Word) _ =>
    if c.getLsbD 0 then (c >>> 1) ^^^ 0xEDB88320 else c >>> 1) (c ^^^ x.zeroExtend 32)) 0xFFFFFFFF)

/-- The 64 bytes of a record (R361). -/
def logBytes (s : State) (r : LogRec) : Bytes :=
  let b := toLE 4 ((s.lb.seq + 1) % 2 ^ 32) ++ toLE 2 r.type ++ toLE 1 (b2n r.pin + 2 * b2n r.core) ++ toLE 1 r.lc ++
    toLE 8 r.btime ++ toLE 8 r.meridian ++ toLE 2 s.lb.powers ++ toLE 2 r.supp ++ padTo 32 r.data
  b ++ toLE 4 (crc32 b).toNat

/-- The slot after a circular slot. -/
def nextSlot (n : Nat) : Nat := if n + 1 ≥ 16384 then 256 else n + 1

/-- A record whose CRC holds. -/
def recordOk (b : Bytes) : Bool := toLE 4 (crc32 (b.take 60)).toNat == b.drop 60

/-- An unread record is about to be overwritten in the circular area: its SEQ lies above the mark (R366). -/
def overrun (s : State) : Bool :=
  match s.lb.slots.find s.lb.next with
  | some b => recordOk b && decide (0 < posDiff (wordAt b 0) s.lb.readMark)
  | none => false

/-- The writer completes the slot in progress: a pinned type first in a pinned slot, then in the circular area; the last pinned slot
used latches PINNED_FULL (R360). -/
def writeSlot (s : State) : State :=
  match s.lb.queue with
  | [] => s
  | r :: rest =>
    if r.pin && !s.lb.second && decide (s.lb.pinned < 256) then
      let t := { s with lb := { s.lb with
        slots := s.lb.slots.set s.lb.pinned (logBytes s r), pinned := s.lb.pinned + 1, second := true } }
      if s.lb.pinned = 255 then lbLatch t 2 else t
    else
      let lost := overrun s
      let s := { s with lb := { s.lb with
        slots := s.lb.slots.set s.lb.next (logBytes s r), next := nextSlot s.lb.next, seq := (s.lb.seq + 1) % 2 ^ 32,
        second := false, queue := rest } }
      let s := if lost then lbLatch s 0 else s
      match s.bn.erase with
      | some e => if r.type = 4 ∧ r.pin then { s with bn := { s.bn with erase := some { e with logged := true } } } else s
      | none => s

/-- The queue has 32 entries and no exempt record is lost: the writer, which keeps up, has written what stands before it (R363;
log 60). -/
def lbRoom : Nat → State → State
  | 0, s => s
  | n + 1, s => if s.lb.queue.length < 32 ∨ s.lb.scanning = true then s else lbRoom n (writeSlot s)

/-! ## Logbook requests (R361 to R364) -/

/-- A record joins the writer's queue. -/
def lbAppend (s : State) (type : Nat) (pin exempt : Bool) (data : Bytes) : State :=
  let r : LogRec := ⟨type, pin, exempt, active s, s.bn.lcKnown.getD 0, s.bn.btime,
    if active s then s.clk.meridian else 0, s.lb.supp.get 0 type, padTo 32 data⟩
  let s := lbRoom 2 s
  { s with lb := { s.lb with queue := s.lb.queue ++ [r], supp := s.lb.supp.del type } }

/-- Requests one record: an exempt one is always queued; a limited one needs a token of its bucket (R364) and one
of the 24 entries not reserved for exempt types (R363). -/
def logReq (s : State) (type : Nat) (pin exempt : Bool) (data : Bytes) : State :=
  if exempt then lbAppend s type pin exempt data
  else
    let t := s.lb.tokens.get 8 type
    if t = 0 then
      { s with lb := { s.lb with
                                 suppressed := sat32 s.lb.suppressed,
                                 supp := s.lb.supp.set type (sat16 (s.lb.supp.get 0 type)) } }
    else
      let s := { s with lb := { s.lb with tokens := s.lb.tokens.set type (t - 1) } }
      if 24 ≤ s.lb.queue.length then lbLatch { s with lb := { s.lb with lost := sat32 s.lb.lost } } 1
      else lbAppend s type pin exempt data

/-! ## Soundings updates (R358, R359) -/

/-- An update of area i (0 pools, 1 rings, 2 device) is applied, or counted once in SD_MISSED. -/
def sounding (s : State) (i : Nat) (f : Sd → Sd) : State :=
  if f s.sd = s.sd then s
  else if s.sd.frozen || s.sd.clearing.getLsbD i then { s with sd := { s.sd with missed := sat32 s.sd.missed } }
  else { s with sd := f s.sd }

/-- Compares a ring's depth after a doorbell or an acceptance (R356). -/
def depthSounding (s : State) (g : Nat) : State :=
  let r := getRing s g
  let d := (r.posted - r.accepted).toNat
  sounding s 1 (fun sd =>
    let x := sd.rings.get .init g
    { sd with rings := sd.rings.set g { x with depthMax := max x.depthMax d, depthMin := min x.depthMin d } })

/-! ## Binnacle and access notices -/

/-- Latches BN_NOTICE bit i; a rise sends its message (R349). -/
def bnLatch (s : State) (i : Nat) : State :=
  if s.bn.notice.getLsbD i then s
  else pfNotice { s with bn := { s.bn with notice := s.bn.notice ||| BitVec.ofNat 3 (2 ^ i) } } s.bn.noticeCfg

/-- Latches AC_NOTICE bit i; a rise sends its message (R313). -/
def acLatch (s : State) (i : Nat) : State :=
  if s.ac.notice.getLsbD i then s
  else pfNotice { s with ac := { s.ac with notice := s.ac.notice ||| BitVec.ofNat 5 (2 ^ i) } } s.ac.noticeCfg

/-- Records an outbound violation: the first since OUT_VIOL was cleared, of one control cycle that of the lowest initiator
port (R313). -/
def outViolation (s : State) (addr : Nat) (info : Word) (rule : Nat) : State :=
  let s := { s with ac := { s.ac with ovCount := sat32 s.ac.ovCount } }
  let lower := s.ac.ovAt == some (controlCycle s) && decide (wfld info 4 3 < wfld s.ac.ov.info 4 3)
  if s.ac.notice.getLsbD 1 && !lower then s
  else acLatch { s with ac := { s.ac with ov := ⟨addr, info, rule⟩, ovAt := some (controlCycle s) } } 1

/-! ## Outbound transactions (R309 to R313, R385, R386) -/

def ruleW (r : List Word) (i : Nat) : Word := r.getD i 0

/-- An outbound rule matches an address for a function (R309). -/
def outMatch (r : List Word) (func addr : Nat) : Bool :=
  let base := (wfld (ruleW r 0) 12 20) * 4096 + (wfld (ruleW r 1) 0 20) * 2 ^ 32
  let lim := (wfld (ruleW r 2) 12 20) * 4096 + 4095 + (wfld (ruleW r 3) 0 20) * 2 ^ 32
  let ctl := ruleW r 4
  wbit ctl 31 && (wbit ctl 16 || wfld (ruleW r 5) 0 14 == func) && base ≤ addr && addr ≤ lim

/-- The verdict on a transaction: granted, rule number (0x7FFF default), CA, ORD. -/
structure Verdict where
  ok : Bool
  rule : Nat
  ca : Nat
  ord : Nat
  deriving DecidableEq, Repr

/-- The DMA privilege level of a function (R310, R322). -/
def dmaPl (s : State) (func : Nat) : Nat := s.ac.fnDma.get (if func = 0 then 0 else 3) func

/-- The highest-numbered matching rule decides, else AC_CFG.OUT_DEFAULT (R310). -/
def judgeOut (s : State) (func : Nat) (write : Bool) (addr : Nat) : Verdict :=
  match (s.ac.outRules.filter (fun e => outMatch e.2 func addr)).getLast? with
  | some (n, r) =>
    let ctl := ruleW r 4
    ⟨wbit ctl ((if write then 4 else 0) + dmaPl s func), n, wfld ctl 12 2, wfld ctl 14 2⟩
  | none => ⟨!s.ac.outDefault, 0x7FFF, 0, 0⟩

/-- STRICT and WRITE_ORDERED are the keep-order codes (R311). -/
def keepsOrder (v : Verdict) : Bool := v.ord == 0 || v.ord == 1

/-- Every piece of a byte range, cut at 4 KiB boundaries: offset, address, length (R309). -/
def pieces (addr len : Nat) : List (Nat × Nat × Nat) :=
  (List.range (cdiv (addr % 4096 + len) 4096)).filterMap (fun i =>
    let lo := max addr ((addr / 4096 + i) * 4096)
    let hi := min (addr + len) ((addr / 4096 + i + 1) * 4096)
    if lo < hi then some (lo - addr, lo, hi - lo) else none)

/-- Odd parity of the bits lo .. lo + n - 1 of w: the bit that makes the number of ones odd. -/
def oddBit (w lo n : Nat) : Bool := ((List.range n).filter (fun i => (w / 2 ^ (lo + i)) % 2 == 1)).length % 2 == 0

/-- Beats of a transaction (R385). -/
def beats (addr len : Nat) : Nat := (addr + len - 1) / 64 - addr / 64 + 1

/-- The lowest tag not outstanding on a port. -/
def freeTag (p : Port) : Option Nat := (List.range 1024).find? (fun t => p.out.all (fun x => x.tag ≠ t))

/-- Read-data beats for which a port's buffer is taken. -/
def beatsOut (p : Port) : Nat := (p.out.map (fun x => if x.write then 0 else beats x.addr x.len)).sum

/-- A port can issue a transaction now: a tag is free, a request credit is there, and the buffer has room for every beat of a
read (R386). The beats of a write follow its request as write-data credits come. -/
def portCan (p : Port) (write : Bool) (addr len : Nat) : Bool :=
  (freeTag p).isSome && decide (1 ≤ p.reqCrd) && (write || decide (beatsOut p + beats addr len ≤ 1024))

/-- Write-data beats leave in request order, one for each credit (R385). -/
def spendBeats : Nat → List Txn → Nat × List Txn
  | n, [] => (n, [])
  | n, t :: r =>
    let k := min n t.left
    let x := spendBeats (n - k) r
    (x.1, { t with left := t.left - k } :: x.2)

def sendBeats (p : Port) : Port :=
  let x := spendBeats p.wdCrd p.out
  { p with wdCrd := x.1, out := x.2 }

/-- A granted transaction is issued under the verdict: it takes a tag and a request credit, and its beats follow. -/
def sendTxn (s : State) (n : Nat) (t : Txn) (v : Verdict) : State :=
  let p := getPort s n
  setPort s n (sendBeats { p with
    reqCrd := p.reqCrd - 1
    out := p.out ++ [{ t with
      tag := (freeTag p).getD 0, pl := dmaPl s t.func, ca := v.ca, ord := v.ord, at_ := s.clk.meridian
      left := if t.write then beats t.addr t.len else 0 }] })

/-- Info word of an outbound violation (R322). -/
def ovInfo (write : Bool) (pl port func : Nat) (dflt : Bool) : Word :=
  word (b2n write + 4 * pl + 16 * port + 128 * b2n dflt + 256 * func)

/-- A refused transaction is recorded (R312, R313). -/
def refuseTxn (s : State) (n : Nat) (t : Txn) (v : Verdict) : State :=
  outViolation s t.addr (ovInfo t.write (dmaPl s t.func) n t.func (v.rule == 0x7FFF)) v.rule

/-- Ports issue: not in an erase (R205), and not while a BLOCK reset is requested (R376). -/
def portsOpen (s : State) : Bool := engineUp s && !blockReq s

/-! ## Dirty-page log: the entry before the write (R301 to R303) -/

def setDl (s : State) (f : Nat) (d : Dl) : State := setFn s f { getFn s f with dl := d }

/-- The phase bit of position p in a structure of 2^size entries (R46, R301). -/
def phaseBit (p : Word) (size : Nat) : Bool := p.toNat / 2 ^ size % 2 == 0

/-- The 8 bytes of an entry (R301). -/
def dlEntry (d : Dl) (page : Nat) : Bytes :=
  toLE 8 (page % 2 ^ 40 + 2 ^ 63 * b2n (phaseBit d.written d.size))

/-- The log of f is in effect. -/
def dlActive (s : State) (f : Nat) : Bool := f != 0 && (getFn s f).dl.active

/-- The originator of the log entry for a write of another one. -/
def Origin.logged (vf : Nat) : Origin → Origin
  | .output c i => .log c i vf
  | .record c i => .log c i vf
  | o => o

/-- The page of a write of function f is dirtied: suppressed by the filter, dropped under ALL_DIRTY, refused by a rule, or
logged on the same port; none while its entry has to wait for the port. -/
def dlPage (s : State) (f n page : Nat) (who : Origin) (pools : List Nat) : Option State :=
  let d := (getFn s f).dl
  let i := Config.filterIndex f page % 65536
  if d.sweepAt.isNone && s.dlFilter.find i == some (f, page) then
    some (setDl s f { d with suppressed := sat32 d.suppressed })
  else if d.allDirty || decide (2 ^ d.size ≤ posDiff d.written d.consumed) then
    some (setDl s f { d with allDirty := true, dropped := sat32 d.dropped })
  else
    let a := d.base + 8 * (d.written.toNat % 2 ^ d.size)
    let e : Txn := ⟨0, true, a, 8, 0, 0, 0, 0, dlEntry d page, 0, who.logged f, pools, s.clk.meridian, false, 0, true, 0⟩
    if !portCan (getPort s n) true a 8 then none
    else
      let v := judgeOut s 0 true a
      if v.ok then
        let s := setDl (sendTxn s n e v) f { d with written := d.written + 1, logged := sat32 d.logged }
        some (if d.sweepAt.isNone then { s with dlFilter := s.dlFilter.set i (f, page) } else s)
      else some (setDl (refuseTxn s n e v) f { d with fault := true, allDirty := true })

/-- The log entry of a transaction goes before it (R302). A transaction lies in one page. -/
def dlBefore (s : State) (n : Nat) (t : Txn) : Option State :=
  if t.write && !t.paged && dlActive s t.func then dlPage s t.func n (t.addr / 4096) t.who t.pools else some s

/-! ## Issue -/

/-- What became of a transaction that comes to issue: it waits, was issued under the verdict, or was refused. -/
inductive Issue where
  | waits (t : Txn)
  | issued (v : Verdict)
  | refused
  deriving DecidableEq, Repr

/-- The first transaction that the rules refuse, of this one and those behind it that are written with it whole or not at all
(R182, R310). -/
def wholeRefused (s : State) (t : Txn) : Option Txn :=
  ((pieces t.addr (t.len + t.rest)).map (fun p => { t with addr := p.2.1, len := p.2.2 })).find? (fun e =>
    !(judgeOut s e.func e.write e.addr).ok)

/-- A transaction whose turn it is: its page is logged, and it is judged when it can leave (R302, R310). -/
def comesToIssue (s : State) (n : Nat) (t : Txn) : State × Issue :=
  if !portsOpen s then (s, .waits t)
  else match dlBefore s n t with
    | none => (s, .waits t)
    | some s =>
      let t := { t with paged := true }
      if !portCan (getPort s n) t.write t.addr t.len then (s, .waits t)
      else
        match wholeRefused s t with
        | some e => (refuseTxn s n e (judgeOut s e.func e.write e.addr), .refused)
        | none => (sendTxn s n t (judgeOut s t.func t.write t.addr), .issued (judgeOut s t.func t.write t.addr))

/-- A transaction goes to its port: it waits behind those before it, else its turn has come. -/
def issueTxn (s : State) (n : Nat) (t : Txn) : State × Issue :=
  let x := if (getPort s n).sendQ.isEmpty then comesToIssue s n t else (s, .waits t)
  match x with
  | (s, .waits t) =>
    let p := getPort s n
    (setPort s n { p with sendQ := p.sendQ ++ [t] }, .waits t)
  | x => x

/-- Issues one piece; false when refused. -/
def issueOne (s : State) (port func : Nat) (write : Bool) (addr len off : Nat) (data : Bytes) (who : Origin)
    (pools : List Nat) : State × Bool :=
  let x := issueTxn s port ⟨0, write, addr, len, func, 0, 0, 0, data, off, who, pools, s.clk.meridian, false, 0, false, 0⟩
  (x.1, x.2 != .refused)

/-- Issues a byte range piece by piece up to the first refusal: the pieces issued and the refused offset. -/
def issueAll (s : State) (port func : Nat) (write : Bool) (data : Bytes) (who : Origin) (pools : List Nat) :
    List (Nat × Nat × Nat) → State × Nat × Option Nat
  | [] => (s, 0, none)
  | (o, a, l) :: r =>
    match issueOne s port func write a l o (if write then (data.drop o).take l else []) who pools with
    | (s, true) =>
      let x := issueAll s port func write data who pools r
      (x.1, x.2.1 + 1, x.2.2)
    | (s, false) => (s, 0, some o)

/-- A read of len bytes for an originator that gathers them. -/
def startRead (s : State) (port func addr len : Nat) (who : Origin) (pools : List Nat) : State × Gather :=
  let x := issueAll s port func false [] who pools (pieces addr len)
  (x.1, ⟨x.2.1, [], x.2.2⟩)

/-- A piece arrives. -/
def Gather.arrive (g : Gather) (off : Nat) (ok : Bool) (data : Bytes) : Gather :=
  if ok then { g with need := g.need - 1, got := g.got ++ [(off, data)] }
  else { g with need := g.need - 1, err := some (match g.err with | some e => min e off | .none => off) }

/-- The bytes gathered, in order of offset. -/
def Gather.bytes (g : Gather) : Bytes := ((sortOn (·.1) g.got).map (·.2)).flatten

/-- Takes the transactions of some originators that have not been issued out of the ports. -/
def dropQueued (s : State) (p : Origin → Bool) : State :=
  { s with ports := s.ports.mapVal (fun _ x => { x with sendQ := x.sendQ.filter (fun t => !p t.who) }) }

/-- The originators are gone: what they have outstanding is discarded when it is answered, what waits is dropped. -/
def forget (s : State) (p : Origin → Bool) : State :=
  { s with ports := s.ports.mapVal (fun _ x =>
      { x with
               out := x.out.map (fun t => if p t.who then { t with gone := true } else t),
               sendQ := x.sendQ.filter (fun t => !p t.who) }) }

/-- A transaction of the originator waits at a port. -/
def queued (s : State) (who : Origin) : Bool := s.ports.any (fun e => e.2.sendQ.any (fun t => t.who == who))

/-! ## Voiding conditions (R73) -/

/-- Chains that are accepted and whose CHAIN_END record is not issued. -/
def live (c : Chain) : Bool := c.issued < c.descs.length

def voidSupply (s : State) : State :=
  let n := (s.chains.filter (fun e => live e.2 && !e.2.voidSupply)).length
  { s with
           chains := s.chains.mapVal (fun _ c => if live c then { c with voidSupply := true } else c),
           ad := { s.ad with voidSupply := min (s.ad.voidSupply + n) 0xFFFFFFFF } }

/-- Chains that visit one of the pools. -/
def visits (ps : List Nat) (c : Chain) : Bool := c.segs.any (fun g => ps.contains g.pool)

def voidFabric (s : State) (hit : Chain → Bool) : State :=
  let f := fun c : Chain => live c && hit c
  let n := (s.chains.filter (fun e => f e.2 && !e.2.voidFabric)).length
  { s with
           chains := s.chains.mapVal (fun _ c => if f c then { c with voidFabric := true } else c),
           ad := { s.ad with voidFabric := min (s.ad.voidFabric + n) 0xFFFFFFFF } }

def voidUnit (s : State) (hit : Chain → Bool) : State :=
  let f := fun c : Chain => live c && hit c
  let n := (s.chains.filter (fun e => f e.2 && !e.2.voidUnit)).length
  { s with
           chains := s.chains.mapVal (fun _ c => if f c then { c with voidUnit := true } else c),
           ad := { s.ad with voidUnit := min (s.ad.voidUnit + n) 0xFFFFFFFF } }

/-! ## Target-port responses (R390, R391) -/

/-- A response on the port of an access, behind those that the host chip has not taken yet (R391). -/
def respond (s : State) (a : Access) (r : Resp) : State :=
  if a.port then { s with tp1 := s.tp1 ++ [r] } else { s with tp0 := s.tp0 ++ [r] }

def respOk (d : Bytes) : Resp := ⟨0, d⟩

/-- A refused read returns zero data of its size. -/
def respErr (code : Nat) (n : Nat) : Resp := ⟨code, zeros n⟩

end Sys2Proof.Machine
end

