-- ==== Sys2Proof/Machine/Flags.lean ====
section
/-!
DEFINITION. Status and flag words: the completion record (R8, R9, R45, R46), the status registers of rings and
queues (R58, R59), the states a unit shows (R18).
-/

namespace Sys2Proof.Machine

/-! ## Completion status codes (R8) and DETAIL codes used by more than one chapter -/

def stOk : Nat := 0
def stAuthFail : Nat := 1
def stNonce : Nat := 2
def stKeyStale : Nat := 3
def stKeyRevoked : Nat := 4
def stKeyAttr : Nat := 5
def stRange : Nat := 6
def stPoint : Nat := 7
def stAccess : Nat := 8
def stPoison : Nat := 9
def stAborted : Nat := 10
def stFormat : Nat := 11
def stMismatch : Nat := 12
def stContext : Nat := 13
def stPin : Nat := 14
def stAlarm : Nat := 15

/-! ## Flag bits (R9) -/

def flUntrusted : Nat := 1
def flVoid : Nat := 2
def flDual : Nat := 4
def flInverse : Nat := 8
def flTruncated : Nat := 16
def flEnd : Nat := 32

/-- A completion record (R45). -/
def mkRecord (status flags ring : Nat) (seq : Word) (accept finish detail chpos : Nat) (phase : Bool) (result : Bytes) :
    Bytes :=
  toLE 1 status ++ toLE 1 flags ++ toLE 2 ring ++ toLE 4 seq.toNat ++ toLE 6 accept ++ toLE 6 finish ++
    toLE 2 detail ++ toLE 1 chpos ++ toLE 1 (b2n phase) ++ padTo 8 result

/-- RG_CFG (R58). -/
def rgCfgWord (r : Ring) : Word := word (r.size + 0x80 * b2n r.enable + 0x100 * b2n r.active)

/-- RG_STATUS (R58). -/
def rgStatusWord (r : Ring) : Word :=
  word (b2n r.dbRefused + 2 * b2n r.fetchFault + 4 * b2n r.halted + 8 * b2n r.enRefused)

/-- CQ_CFG (R59). -/
def cqCfgWord (c : Cq) : Word := word (c.size + 0x80 * b2n c.enable + 0x100 * b2n c.active + 0x1000 * c.vector)

/-- CQ_STATUS (R59). -/
def cqStatusWord (c : Cq) : Word :=
  word (b2n c.grantOver + 2 * b2n c.wpLost + 4 * b2n c.writeFault + 8 * b2n c.halted + 16 * b2n c.enRefused +
    32 * b2n c.lateErr)

/-- CQ_WP_STATUS.BUSY: a Waypoint command waits for its control cycle (R57). -/
def wpBusy (c : Cq) : Bool := c.ops.any (fun o => match o.1 with
  | .waypoint _ _ => true
  | .grant _ => false)

/-- CQ_WP_STATUS (R59). -/
def wpStatusWord (c : Cq) : Word := word (b2n c.wpValid + 2 * b2n (wpBusy c) + 4 * c.wpResult)

/-- The bits a W1C write clears (R4). -/
def w1c (v : Word) (i : Nat) (b : Bool) : Bool := b && !wbit v i

/-- UN_STATUS.STATE of a top-level unit (R18, R19, R229). A unit that its host holds shows UNPOOLED also while a host command
runs (log 49). -/
def shownState (r : UnitRec) (u : Uni) : Nat :=
  if u.relScrub then 2 else if u.st == 0 && !u.sched && r.pool.isNone then 3 else u.st

end Sys2Proof.Machine
end

