-- ==== Sys2Proof/Machine/Operands.lean ====
section
/-!
DEFINITION. The operand forms: the fields of a descriptor (R31), the place of a register named by a command, and
the judgement of a window access (R5, R23, R305 to R308, R313, R316 to R319, R390, R391).
-/

namespace Sys2Proof.Machine

/-! ## Descriptor fields (R31) -/

def dOpcode (d : Bytes) : Nat := leAt d 0 2
def dCtl (d : Bytes) : Nat := leAt d 2 1
def dKsel (d : Bytes) : Nat := leAt d 3 1
def dCtx (d : Bytes) : Nat := leAt d 4 4
def dKeySlot (d : Bytes) : Nat := leAt d 8 2
def dKeyGen (d : Bytes) : Nat := leAt d 0xA 2
def dLen (d : Bytes) : Nat := leAt d 0xC 4
def dSrc (d : Bytes) : Nat := leAt d 0x10 8
def dDst (d : Bytes) : Nat := leAt d 0x18 8
def dDstLen (d : Bytes) : Nat := leAt d 0x20 4
def dAuxLen (d : Bytes) : Nat := leAt d 0x24 4
/-- PARAM0 to PARAM2 as numbers. -/
def dParam (d : Bytes) (i : Nat) : Nat := leAt d (0x28 + 8 * i) 8
def dChain (d : Bytes) : Bool := (dCtl d).testBit 0
def dSrcScr (d : Bytes) : Bool := (dCtl d).testBit 1
def dDstScr (d : Bytes) : Bool := (dCtl d).testBit 2
def dDstAlso (d : Bytes) : Bool := (dCtl d).testBit 3
def dPrio (d : Bytes) : Nat := fld (dCtl d) 4 2
def dNoKey (d : Bytes) : Bool := (dKsel d).testBit 0
def dFamily (d : Bytes) : Nat := dOpcode d / 4096

/-- Engine class of a family: 0 cipher, 1 hash, 2 arithmetic (R32). -/
def familyClass (f : Nat) : Option Nat :=
  if f = 1 ∨ f = 3 then some 0 else if f = 2 then some 1 else if f = 4 then some 2 else none

/-- No context (R31). -/
def noCtx : Nat := 0xFFFFFFFF

/-! ## Places of registers (R25, R26) -/

/-- A management-window offset; an access of a VF cannot carry it (R391). -/
def mgmtAt (a : Access) (off : Nat) : Option Nat := if a.func = 0 then some off else none

/-- Register o of a request ring: global number for the PF, local for a VF. -/
def ringAt (a : Access) (g o : Nat) : Option Nat :=
  if a.func = 0 then some (0x03000000 + g * 0x80 + o) else if g < 256 then some (0x1000 + g * 0x40 + o) else none

/-- Register o of a completion queue. -/
def cqAt (a : Access) (q o : Nat) : Option Nat :=
  if a.func = 0 then some (0x03800000 + q * 0x80 + o) else if q < 256 then some (0x5000 + q * 0x40 + o) else none

/-- Register o of MSI-X vector k (R60). -/
def nvAt (a : Access) (k o : Nat) : Option Nat :=
  some ((if a.func = 0 then 0xF000 else 0x9000) + k * 16 + o)

/-- Register o of VF index v (R304). -/
def vfAt (a : Access) (v o : Nat) : Option Nat := mgmtAt a (0x00300000 + v * 0x80 + o)

/-- Register o of unit u (R17). -/
def unitAt (a : Access) (u o : Nat) : Option Nat := mgmtAt a (0x01000000 + u * 0x100 + o)

/-- The global ring that an access names: none for a page that is bound to nothing (R26). -/
def ringNamed (s : State) (func g : Nat) : Option Nat :=
  if func = 0 then some g
  else match funcRec s func with
    | some f => if g < f.ringCount then some (f.ringBase + g) else none
    | none => none

def cqNamed (s : State) (func q : Nat) : Option Nat :=
  if func = 0 then some q
  else match funcRec s func with
    | some f => if q < f.cqCount then some (f.cqBase + q) else none
    | none => none

/-- The function a TRQ_ADDR belongs to and its window offset (R391); none breaks the rules. -/
def decodeAddr (func addr : Nat) : Option Nat :=
  if func = 0 then (if addr < 2 ^ 26 then some addr else none)
  else if addr / 65536 = func - 1 then some (addr % 65536) else none

/-! ## Judgement of a window access (R307) -/

structure Req where
  func : Nat
  pl : Nat
  master : BitVec 16
  port : Bool
  debug : Bool
  fetch : Bool
  write : Bool
  off : Nat
  deriving DecidableEq, Repr

/-- Arithmetic tile n belongs to a SEALED unit (R27, R317). -/
def tileSealed (s : State) (n : Nat) : Bool :=
  s.chart.units.any (fun r => r.cls == 2 && !r.group && r.tile == n &&
    ((unitRec s (topUnit s r.uid)).map (·.sealed)).getD false)

/-- The operand aperture of a SEALED unit's tile. -/
def lockedOff (s : State) (r : Req) : Bool :=
  r.func == 0 && decide (0x02000000 ≤ r.off ∧ r.off < 0x02800000) && tileSealed s ((r.off - 0x02000000) / 0x40000)

/-- Counts an access to a locked region; the first of an interval asks for a Logbook record (R318, R362). -/
def lockedAccess (s : State) (addr : Nat) (master : BitVec 16) (func : Nat) (debug : Bool) : State :=
  let ac := { s.ac with
                        lockedCount := sat32 s.ac.lockedCount,
                        dbgLocked := if debug then sat32 s.ac.dbgLocked else s.ac.dbgLocked,
                        lockCur := sat32 s.ac.lockCur, lockSeen := true }
  let first := !s.ac.lockSeen
  let s := acLatch { s with ac := ac } 2
  if first then
    logReq s 0xA false false (toLE 4 addr ++ toLE 2 master.toNat ++ toLE 2 func ++ toLE 4 (b2n debug) ++
      toLE 4 ac.lockPrev)
  else s

/-- The life-cycle state permits debug without a grant (R319). -/
def debugOpen (s : State) : Bool := s.lc.state == 1 || s.lc.state == 2 || s.lc.state == 5

/-- The debug gate lets an access pass: AC_DBG_ registers, an open state, or a grant (R319). -/
def debugPass (s : State) (r : Req) : Bool :=
  debugOpen s || ((s.lc.state == 3 || s.lc.state == 4) &&
    (s.ac.granted || (r.func == 0 && (r.off == 0x40003C || r.off == 0x400040 ||
      decide (0x40004C ≤ r.off ∧ r.off < 0x400058) || decide (0x400060 ≤ r.off ∧ r.off < 0x400140)))))

/-- An inbound rule matches an access (R305). -/
def inMatch (rule : List Word) (r : Req) : Bool :=
  let ctl := ruleW rule 2
  let scope := wfld ctl 16 2
  let base := wfld (ruleW rule 0) 8 18 * 256
  let lim := wfld (ruleW rule 1) 8 18 * 256 + 255
  wbit ctl 31 && ((scope == 0 && r.func == 0) || (scope == 1 && r.func != 0) ||
    (scope == 2 && r.func == wfld (ruleW rule 3) 0 14)) && decide (base ≤ r.off ∧ r.off ≤ lim)

/-- The rule verdict: grant, and the deciding rule or 0x7FFF (R306). -/
def judgeIn (s : State) (r : Req) : Bool × Nat :=
  match (s.ac.inRules.filter (fun e => inMatch e.2 r)).getLast? with
  | some (n, rule) => (wbit (ruleW rule 2) ((if r.fetch then 8 else if r.write then 4 else 0) + r.pl), n)
  | none => (!r.fetch && (r.func != 0 || r.pl == 0), 0x7FFF)

/-- Records an inbound violation: the first since IN_VIOL was cleared, of one control cycle that of the lower target port
(R313). -/
def inViolation (s : State) (r : Req) (rule : Nat) : State :=
  let s := { s with ac := { s.ac with ivCount := sat32 s.ac.ivCount } }
  let lower := s.ac.ivAt == some (controlCycle s) && !r.port && wbit s.ac.iv.info 4
  if s.ac.notice.getLsbD 0 && !lower then s
  else
    let kind := if r.fetch then 2 else b2n r.write
    let info := word (kind + 4 * r.pl + 16 * b2n r.port + 32 * b2n r.debug + 64 * b2n (rule == 0x7FFF) + 256 * r.func)
    acLatch { s with ac := { s.ac with iv := ⟨r.off, info, r.master, rule⟩, ivAt := some (controlCycle s) } } 0

/-- Steps 2 to 5 of R307: the refusal code, or none. -/
def judge (s : State) (r : Req) : State × Option Nat :=
  if lockedOff s r then (lockedAccess s r.off r.master r.func r.debug, some 2)
  else if r.debug && !debugPass s r then
    (acLatch { s with ac := { s.ac with dbgDenied := sat32 s.ac.dbgDenied } } 3, some 1)
  else if r.fetch && !(r.func == 0 && !r.write && decide (0x01200000 ≤ r.off ∧ r.off ≤ 0x0137FFFF)) then
    (inViolation s r 0x7FFF, some 1)
  else
    let v := judgeIn s r
    if v.1 then (s, none) else (inViolation s r v.2, some 1)

/-- A target-port access up to step 5: isolation, parity (R391), function id and address (R23, R391), R307. -/
def access (s : State) (a : Access) (write : Bool) (off : Option Nat) : State × Option Nat :=
  match off with
  | some o =>
    if ported s && a.parityOk && decide (a.func.toNat ≤ 0x2000) then
      judge s ⟨a.func.toNat, a.pl.toNat, a.master, a.port, a.debug, a.fetch, write, o⟩
    else (s, some 1)
  | none => (s, some 1)

/-- A register write: judged, then its size and alignment (R5), then its effect and the acknowledgement; while CORE_RST_N is 0 it is
ignored (R389). -/
def hostWrite (s : State) (a : Access) (off : Option Nat) (eff : State → State) : State :=
  if !coreRstN s then s
  else match access s a true off with
  | (s, some c) => respond s a ⟨c, []⟩
  | (s, none) =>
    if a.size = 2 ∧ (off.getD 0) % 4 = 0 then respond (eff s) a (respOk []) else respond s a ⟨1, []⟩

/-- A register read: its value and its side effect. -/
def hostRead (s : State) (a : Access) (off : Option Nat) (eff : State → State × Word) : State :=
  if !coreRstN s then s
  else match access s a false off with
  | (s, some c) => respond s a (respErr c (accessBytes a.size))
  | (s, none) =>
    if a.size = 2 ∧ (off.getD 0) % 4 = 0 then
      let x := eff s
      respond x.1 a (respOk (toLE 4 x.2.toNat))
    else respond s a (respErr 1 (accessBytes a.size))

/-! ## What a state of the device makes the register interface ignore -/

/-- A Chart load runs (R267). -/
def loading (s : State) : Bool := s.ch.state == 1

/-- Writes that R267 lists are ignored while a load or a life-cycle transition runs (R267, R328). -/
def quietWrites (s : State) : Bool := loading s || s.lc.busy

/-- Start-up ended FAILED (R380). -/
def failedStart (s : State) : Bool := s.pw.step == 15

/-- A reset of function f runs (R296). -/
def fnResetting (s : State) (f : Nat) : Bool := (getFn s f).resetting

def ringResetting (s : State) (g : Nat) : Bool :=
  match ringOwner s g with
  | some f => fnResetting s f.func
  | none => false

def cqResetting (s : State) (q : Nat) : Bool :=
  match cqOwner s q with
  | some f => fnResetting s f.func
  | none => false

/-! ## Register pairs (R6) -/

/-- NAME_LO of a pair at key: captures the upper half. -/
def loRead (s : State) (key v : Nat) : State × Word := ({ s with cap := s.cap.set key (word (v / 2 ^ 32)) }, word v)

/-- NAME_HI: the captured half once, else the live one. -/
def hiRead (s : State) (key v : Nat) : State × Word :=
  match s.cap.find key with
  | some w => ({ s with cap := s.cap.del key }, w)
  | none => (s, word (v / 2 ^ 32))

/-- NAME_LO of a writable pair: the holding register. -/
def loWrite (s : State) (key : Nat) (v : Word) : State := { s with hold := s.hold.set key v }

/-- NAME_HI: all 64 bits at once, the lower half from the holding register. -/
def hiWrite (s : State) (key : Nat) (v : Word) (f : State → Nat → State) : State :=
  f s ((s.hold.get 0 key).toNat + 2 ^ 32 * v.toNat)

end Sys2Proof.Machine
end

