-- ==== Sys2Proof/Machine/DirtyLog.lean ====
section
/-!
DEFINITION. Dirty-page logging (R301 to R303) and its registers (R304). A function is named by its id.
-/

namespace Sys2Proof.Machine

/-- A sweep begins: the function's filter entries go, and until it ends its writes bypass the filter (R302). What waits at a port
or for its record has dirtied no page since: its page is logged anew. -/
def dlSweep (s : State) (f : Nat) : State :=
  let d := (getFn s f).dl
  let unpaged := fun t : Txn => if t.func = f then { t with paged := false } else t
  { setDl s f { d with sweepAt := some s.clk.meridian } with
    dlFilter := s.dlFilter.filter (fun e => e.2.1 ≠ f)
    ports := s.ports.mapVal (fun _ p => { p with sendQ := p.sendQ.map unpaged })
    chains := s.chains.mapVal (fun _ c =>
      if c.func = f then { c with results := c.results.map (fun r => { r with paged := none }) } else c) }

/-! ## Registers -/

/-- VF_DL_CFG write: enable, refused or in effect, or stop. Enabling the log of a function voids the bounds of its
accepted chains, but for those whose E covers a log (R65, R73). -/
def dlCfgW (s : State) (f : Nat) (v : Word) : State :=
  let d := (getFn s f).dl
  let size := wfld v 0 5
  if !wbit v 7 then setDl s f { d with size := size, enable := false, active := false }
  else if size < 9 ∨ 20 < size then setDl s f { d with enRefused := true }
  else
    let s := if d.active then s else voidFabric s (fun c => c.func == f && !c.covered)
    dlSweep (setDl s f { d with
      size := size, enable := true, active := true, written := 0, consumed := 0, allDirty := false, fault := false }) f

/-- VF_DL_CONSUMED write (R301). -/
def dlConsumedW (s : State) (f : Nat) (v : Word) : State :=
  let d := (getFn s f).dl
  if 0 ≤ posDiff d.written v ∧ posDiff d.written v ≤ 2 ^ d.size then setDl s f { d with consumed := v } else s

/-- VF_DL_CMD write (R302). -/
def dlCmdW (s : State) (f : Nat) (v : Word) : State := if wbit v 0 then dlSweep s f else s

/-- VF_DL_STATUS write (R303). -/
def dlStatusW (s : State) (f : Nat) (v : Word) : State :=
  let d := (getFn s f).dl
  let s := setDl s f { d with allDirty := w1c v 0 d.allDirty, fault := w1c v 1 d.fault, enRefused := w1c v 2 d.enRefused }
  if wbit v 0 then dlSweep s f else s

/-- DL_ENABLE (R301): VF_DL_CFG written with ENABLE 1. -/
def execDlEnable (a : Access) (f : BitVec 13) (v : Word) (s : State) : Host.Outcome State Fault Refusal :=
  .next (hostWrite s a (vfAt a f.toNat 0x28) (fun s => dlCfgW s (f.toNat + 1) (v ||| 0x80)))

/-- DL_DISABLE (R301): VF_DL_CFG written with ENABLE 0. -/
def execDlDisable (a : Access) (f : BitVec 13) (v : Word) (s : State) : Host.Outcome State Fault Refusal :=
  .next (hostWrite s a (vfAt a f.toNat 0x28) (fun s => dlCfgW s (f.toNat + 1) (v &&& 0xFFFFFF7F)))

/-- DL_CONSUMED_WRITE (R301). -/
def execDlConsumedWrite (a : Access) (f : BitVec 13) (v : Word) (s : State) : Host.Outcome State Fault Refusal :=
  .next (hostWrite s a (vfAt a f.toNat 0x30) (fun s => dlConsumedW s (f.toNat + 1) v))

/-- DL_ROUND (R302). -/
def execDlRound (a : Access) (f : BitVec 13) (v : Word) (s : State) : Host.Outcome State Fault Refusal :=
  .next (hostWrite s a (vfAt a f.toNat 0x34) (fun s => dlCmdW s (f.toNat + 1) v))

/-- DL_SWEEP_DONE (R302): 1,024 control cycles after the sweep began. -/
def execDlSweepDone (f : BitVec 14) (s : State) : Host.Outcome State Fault Refusal :=
  let d := (getFn s f.toNat).dl
  .next (match d.sweepAt with
    | some t => if active s && decide (t + 4096 ≤ s.clk.meridian) then setDl s f.toNat { d with sweepAt := none } else s
    | none => s)

/-- DL_ALL_DIRTY_CLEAR (R303): a write of 1 to ALL_DIRTY. -/
def execDlAllDirtyClear (a : Access) (f : BitVec 13) (v : Word) (s : State) : Host.Outcome State Fault Refusal :=
  .next (hostWrite s a (vfAt a f.toNat 0x38) (fun s => dlStatusW s (f.toNat + 1) (v ||| 1)))

end Sys2Proof.Machine
end

