-- ==== Sys2Proof/Machine/Ledger.lean ====
section
/-!
DEFINITION. The ledgers (R67, R76): running and queued occupancy, serviceable units, SPARE, the smooth weighted
round-robin, credit buckets (R75) and famine (R77).
-/

namespace Sys2Proof.Machine

def findChain (s : State) (id : Nat) : Option Chain := s.chains.find id

/-- The pool in which descriptor idx of a chain ran. -/
def poolOfDesc (c : Chain) (idx : Nat) : List Nat :=
  (c.segs.filter (fun g => decide (g.first ≤ idx ∧ idx < g.first + g.count))).map (·.pool)

/-- Run(t) of a pool (R67): a unit counts in the pool that claimed it (R20) until it is released, with its scrub (R228). -/
def runOf (s : State) (p t : Nat) : Nat :=
  (s.units.map (fun e => if e.2.sched = true ∧ e.2.lockPool = p then e.2.until_ - t else 0)).sum

/-- Waiting segments of a pool with their chains' deadlines. -/
def waitingOf (s : State) (p : Nat) : List (Nat × Seg) :=
  s.chains.flatMap (fun e => (e.2.segs.filter (fun g => g.pool == p && (g.st == .later || g.st == .waiting))).map
    (fun g => (e.2.deadline, g)))

/-- Q(all) of a pool (R67). -/
def queuedOf (s : State) (p : Nat) : Nat := ((waitingOf s p).map (fun e => e.2.occ)).sum

/-- N of a pool: its units not in FAULT (R67). -/
def nServ (s : State) (p : Nat) : Nat := ((poolUnits s p).filter (fun r => (getUni s r.uid).st != 4)).length

/-- N of a pool fell: chains that it accepted at a higher N are void (R73). -/
def voidFewer (s : State) : State := voidUnit s (fun c => c.segs.any (fun g => decide (nServ s g.pool < g.serv)))

/-- A pool is in SPARE (R76). -/
def inSpare (s : State) (p : Nat) : Bool :=
  match poolRec s p with
  | some r => decide (runOf s p s.clk.meridian + queuedOf s p < r.spareLvl * nServ s p)
  | none => false

/-- One round of smooth weighted round-robin (R69): every candidate gains its weight, the highest is taken (the
lowest ring among equals: log entry 7) and pays the sum. -/
def swrr (cur : Tbl Int) (cand : List (Nat × Nat)) : Option Nat × Tbl Int :=
  let t : Tbl Int := cand.foldl (fun (t : Tbl Int) e => t.set e.1 (t.get 0 e.1 + (e.2 : Int))) cur
  let best : Option (Nat × Int) := cand.foldl (fun b e => match b with
    | none => some (e.1, t.get 0 e.1)
    | some (g, v) => if v < t.get 0 e.1 ∨ (v = t.get 0 e.1 ∧ e.1 < g) then some (e.1, t.get 0 e.1) else some (g, v))
    none
  match best with
  | none => (none, cur)
  | some (g, _) => (some g, t.set g (t.get 0 g - ((cand.map (·.2)).sum : Nat)))

/-! ## Reserved credit buckets (R75), in tokens times 3,000,000 -/

def tokenUnit : Nat := 3000000

/-- The bucket of ring g now: RATE tokens per ms since the last accrual, at most BURST. -/
def bucketNow (s : State) (g : Nat) : Nat :=
  let r := getRing s g
  match ringClass s g with
  | some c => min (c.burst * tokenUnit) (r.bucket + c.rate * (s.clk.meridian - r.bucketAt))
  | none => r.bucket

/-- Settles a bucket at the present time. -/
def settleBucket (s : State) (g : Nat) : State :=
  setRing s g { getRing s g with bucket := bucketNow s g, bucketAt := s.clk.meridian }

/-- Room for another credit: RG_CREDIT - RG_ACCEPTED below the ring size (R40, R75). -/
def creditRoom (r : Ring) : Bool := decide (posDiff r.credit r.accepted < 2 ^ r.size)

/-- A ring is in famine (R77). -/
def inFamine (s : State) (g : Nat) : Bool :=
  let r := getRing s g
  r.enable && r.posted == r.credit && decide (bucketNow s g < tokenUnit)

/-- Rings in famine whose class names the pool (R77). -/
def famineLevel (s : State) (p : Nat) : Nat :=
  (s.rings.filter (fun e => inFamine s e.1 && ((ringClass s e.1).map (fun c => (classPools c).contains p)).getD false)).length

/-- Samples the famine level of a pool at the end of a control cycle: crossing, peak, count (R77, as R95). -/
def famineSample (s : State) (p : Nat) : State :=
  let x := getPool s p
  let n := famineLevel s p
  let x := { x with
    famPeak := max x.famPeak n, famLevel := n,
    famCrossed := x.famCrossed || (x.famWm != 0 && decide (x.famLevel < x.famWm ∧ x.famWm ≤ n)),
    famCount := if x.famCrossed && x.famWm != 0 && decide (x.famLevel < x.famWm ∧ x.famWm ≤ n) then sat16 x.famCount
      else x.famCount }
  setPool s p x

/-- Starts or stops the famine clock of a ring (R356); what one famine leaves of a unit counts on in the next. -/
def famineClock (s : State) (g : Nat) : State :=
  let r := getRing s g
  if inFamine s g then setRing s g { r with famineAt := some (r.famineAt.getD s.clk.meridian) }
  else
    let rest := match r.famineAt with
      | some t => s.clk.meridian - t
      | none => 0
    setRing s g { r with famineAt := none, faminePart := r.faminePart + rest }

/-- A chain with a late record is counted in every pool it visited, at its last record or when it is removed (R74, log 26). The
record of a chain that visited none gives pool 0 (DESIGN CHOICE, log 55). -/
def lateChain (s : State) (c : Chain) (finish : Nat) : State :=
  let pools := c.segs.map (·.pool)
  let s := pools.eraseDups.foldl (fun s p => setPool s p { getPool s p with late := sat32 (getPool s p).late }) s
  if c.voidSupply || c.voidFabric || c.voidUnit then s
  else
    let s := { s with ad := { s.ad with lateOther := sat32 s.ad.lateOther } }
    logReq s 5 false false (toLE 2 c.ring ++ toLE 1 (pools.headD 0) ++ [0] ++ toLE 8 (finish - c.deadline) ++ toLE 8 c.accept)

end Sys2Proof.Machine
end

