-- ==== Sys2Proof/Machine/Slots.lean ====
section
/-!
DEFINITION. Operand slots of arithmetic units and their flags (R212 to R214), and the abort of a host command (R228).
-/

namespace Sys2Proof.Machine

/-- Bytes of operand memory of a tile (R211). -/
def tileBytes : Nat := 0x40000

/-- L of an arithmetic unit in bytes (R213). -/
def opdBytes (s : State) (uid : Nat) : Nat := ((unitRec s uid).map (fun r => 32 * 2 ^ r.len)).getD 32

/-- NSLOTS (R213). -/
def opdCount (s : State) (uid : Nat) : Nat := tcount s uid * tileBytes / opdBytes s uid

/-- The first computing tile of a unit: its operand space begins there (R213). -/
def firstTile (s : State) (uid : Nat) : Nat := (((compTiles s uid).map (·.tile)).head?).getD 0

/-- Where slot n begins in operand memory. -/
def opdAddr (s : State) (uid n : Nat) : Nat := firstTile s uid * tileBytes + n * opdBytes s uid

/-- The value of a slot: zero when it is INVALID (R214, R219). -/
def opdRead (s : State) (uid n : Nat) : Nat :=
  if (getUni s uid).ar.valid.contains n then leNat (Memory.readN s.opmem (opdAddr s uid n) (opdBytes s uid)) else 0

/-- A sorted list of slot numbers with n in it. -/
def flagSet (l : List Nat) (n : Nat) : List Nat := insertOn id n (l.filter (· ≠ n))

/-- Writes a slot: VALID set, LOADED cleared (R214). -/
def opdWrite (s : State) (uid n v : Nat) : State :=
  let u := getUni s uid
  let s := { s with opmem := Memory.writeN s.opmem (opdAddr s uid n) (toLE (opdBytes s uid) v) }
  setUni s uid { u with ar := { u.ar with valid := flagSet u.ar.valid n, loaded := u.ar.loaded.filter (· ≠ n) } }

/-- Zero-fills a slot and clears its flags. -/
def opdClear (s : State) (uid n : Nat) : State :=
  let u := getUni s uid
  let s := { s with opmem := Memory.zero s.opmem (opdAddr s uid n) (opdBytes s uid) }
  setUni s uid { u with ar := { u.ar with
    valid := u.ar.valid.filter (· ≠ n), loaded := u.ar.loaded.filter (· ≠ n) } }

/-- The operand memory of a unit's computing tiles is zero. -/
def zeroTiles (s : State) (uid : Nat) : State :=
  { s with opmem := (compTiles s uid).foldl (fun m r => Memory.zero m (r.tile * tileBytes) tileBytes) s.opmem }

/-! ## Commands (R222) -/

def flLo (fl : BitVec 3) : Bool := fl.getLsbD 0
def flCin (fl : BitVec 3) : Bool := fl.getLsbD 1
def flGs (fl : BitVec 3) : Bool := fl.getLsbD 2

/-- The command writes slots D and D + 1. -/
def pairOp (op : Nat) (fl : BitVec 3) : Bool :=
  op == 0x18 || ((op == 0x10 || op == 0x11 || op == 0x12) && !flLo fl)

/-- The slots a command writes. -/
def destSlots (op : Nat) (fl : BitVec 3) (d : Nat) : List Nat :=
  if op = 3 then [] else if pairOp op fl then [d, d + 1] else [d]

/-- The result of a host command: BUSY falls (R221, R224, R230). -/
def atEnd (s : State) (uid op status detail : Nat) (carry : Bool) : State :=
  let u := getUni s uid
  setUni s uid { u with
    lastErr := if status = 0 then u.lastErr else word (status + 256 * detail + 2 ^ 24 * op)
    ar := { u.ar with busy := false, cmd := none, status := status, detail := detail, carry := carry, carryStat := carry } }

/-- The responses of a unit's host command are discarded from now on. -/
def forgetCmd (s : State) (uid : Nat) : State := forget s (fun o => o == .atRead uid || o == .atWrite uid)

/-- A failing or aborted command leaves its destinations zero and INVALID and CARRY 0 (R223, R228). -/
def atFail (s : State) (uid : Nat) (c : AtCmd) (status detail : Nat) : State :=
  let s := (destSlots c.op c.fl c.d).foldl (fun s n => opdClear s uid n) s
  atEnd (forgetCmd s uid) uid c.op status detail false

/-- Aborts the host command of a unit, if one runs (R228). -/
def abortCmd (s : State) (uid status detail : Nat) : State :=
  match (getUni s uid).ar.cmd with
  | some c => atFail s uid c status detail
  | none => s

end Sys2Proof.Machine
end

