-- ==== Sys2Proof/Machine/JobEnd.lean ====
section
/-!
DEFINITION. How a descriptor leaves its unit: results in chain order (R39), context hold and write-back (R106),
key-register scrub and release (R14, R119), the next segment (R13), the stop without a record (R205, R296).
-/

namespace Sys2Proof.Machine

/-! ## Contexts by reference -/

def ctxGet (s : State) (r : CtxRef) : Ctx := (if r.compact then s.sc.cmp else s.sc.std).get .free r.idx

/-- Stores a context; the extension of a wide one follows its first half (R108, R112). -/
def ctxPut (s : State) (r : CtxRef) (c : Ctx) : State :=
  let set := fun (t : Tbl Ctx) (i : Nat) (x : Ctx) => if x.st = 0 then t.del i else t.set i x
  if r.compact then { s with sc := { s.sc with cmp := set s.sc.cmp r.idx c } }
  else
    let t := set s.sc.std r.idx c
    let t := if r.wide then set t (r.idx + 1) { Ctx.free with st := c.st, kind := 3, owner := c.owner } else t
    { s with sc := { s.sc with std := t } }

/-- The standard or compact cells a reference covers overlap those of another. -/
def ctxOverlap (a b : CtxRef) : Bool :=
  a.compact == b.compact && decide (a.idx < b.idx + (if b.wide then 2 else 1) ∧ b.idx < a.idx + (if a.wide then 2 else 1))

/-- A unit other than u, or a write-back under way, holds the context (R106). -/
def ctxHeld (s : State) (u : Nat) (r : CtxRef) : Bool :=
  s.sc.wb.any (fun w => w.uid != u && ctxOverlap w.ref r) ||
    s.units.any (fun e => e.1 != u && (e.2.job.bind (·.ctxRef)).any (fun x => ctxOverlap x r))

/-! ## Dispatch order (R72) -/

/-- Chain a goes before chain b: deadline, priority, ACCEPT, ring. -/
def before (a b : Chain) : Bool :=
  if a.deadline ≠ b.deadline then decide (a.deadline < b.deadline)
  else if a.prio ≠ b.prio then decide (b.prio < a.prio)
  else if a.accept ≠ b.accept then decide (a.accept < b.accept)
  else decide (a.ring < b.ring)

def segWaits (p : Nat) (g : Seg) : Bool := g.pool == p && g.st == .waiting

/-- The chain whose segment the pool places next, and the segment's index. -/
def nextSeg (s : State) (p : Nat) : Option (Chain × Nat) :=
  s.chains.foldl (fun best e =>
    match e.2.segs.findIdx? (segWaits p) with
    | some i => match best with
      | none => some (e.2, i)
      | some b => if before e.2 b.1 then some (e.2, i) else best
    | none => best) none

/-! ## Release -/

/-- Zero-fills a unit's key register and its tiles' working registers (R119, R145, R163). -/
def scrubKey (u : Uni) : Uni := { u with key := none, tile := .zero }

/-- Counts a scrub of the key register of a unit. -/
def countScrub (s : State) (uid : Nat) : State := count s uid (fun c => { c with scrubs := sat32 c.scrubs })

/-- Counts a failed check of a unit (R18). -/
def countMismatch (s : State) (uid : Nat) : State := count s uid (fun c => { c with mismatch := sat32 c.mismatch })

/-- Scrubs a unit's key register (R119). -/
def scrubUnit (s : State) (uid : Nat) : State := countScrub (setUni s uid (scrubKey (getUni s uid))) uid

/-- Offers refused by a pool may be made again once a unit of it releases a job (R70). -/
def wakeRings (s : State) (p : Nat) : State :=
  { s with rings := s.rings.mapVal (fun _ r => match r.fetch with
      | .refused _ ps => if ps.contains p then { r with fetch := .refused 0 ps } else r
      | _ => r) }

/-- The descriptor on a unit is a payment descriptor, which leaves no key (R163). -/
def payOn (s : State) (u : Uni) : Bool :=
  u.job.any (fun j => (findChain s j.chain).any (fun c => dFamily (c.descs.getD j.idx []) == 3))

/-- The next segment that the scheduler will place on the unit is of function f: the one its pool places next, by the
Chart in force; a unit in FAULT and an unpooled one take none (R20, R72, R119). -/
def sameNext (s : State) (uid f : Nat) : Bool :=
  (getUni s uid).st != 4 && (match (unitRec s uid).bind (·.pool) with
    | some p => (nextSeg s p).any (fun x => x.1.func == f)
    | none => false)

/-- Releases a unit after its job: the key stays only for a next segment of the same function (R119, R145, R163). -/
def release (s : State) (uid : Nat) : State :=
  let u := getUni s uid
  let keep := !payOn s u && sameNext s uid u.lockFunc
  let cls := ((unitRec s uid).map (·.cls)).getD 0
  let p := u.lockPool
  let s := setUni s uid { u with
    job := none, sched := false, lockPool := 0, lockFunc := 0, until_ := 0, active := false, st := if u.st = 4 then 4 else 0 }
  let s := if cls = 2 || keep then s else scrubUnit s uid
  wakeRings s p

/-- A unit that nobody uses and that still holds a key or tile data of a function. -/
def keepsTile (u : Uni) : Bool := u.job.isNone && !u.sched && !u.vault && (u.key.isSome || u.tile != .zero)

/-- The function whose key or tile data a unit keeps. -/
def keptFor (u : Uni) : Nat := (u.key.map (·.own)).getD u.lastFunc

/-- The scheduler's choice has changed: a unit that kept its key or its tile's state for a segment which it will not run next, or
that has left its pool, scrubs it (R19, R119, R145, R378). -/
def dropKept (s : State) : State :=
  ((s.units.map (·.1)).filter (fun u => keepsTile (getUni s u) && !sameNext s u (keptFor (getUni s u)))).foldl scrubUnit s

/-! ## Queue entries of a segment (R84) -/

/-- Frees the queue entries of a chain that satisfy f, in one pool. -/
def freeEntries (s : State) (p cid : Nat) (f : IqEntry → Bool) : State :=
  let x := getPool s p
  setPool s p { x with queue := x.queue.filter (fun e => !(e.chain == cid && f e)) }

/-- The queue level of a pool (R95). -/
def iqLevel (x : Pool) : Nat := x.queue.length

/-- Latches a bit of IQ_NOTICE; a rise sends one message (R96): rose is computed by the caller. -/
def iqMessage (s : State) (rose : Bool) : State := if rose then pfNotice s s.iq.noticeCfg else s

/-- Samples the level of a pool at the end of a control cycle: crossing, peak, count (R95). -/
def iqSample (s : State) (p : Nat) : State :=
  let x := getPool s p
  let n := iqLevel x
  let cross := x.wm != 0 && decide (x.level < x.wm ∧ x.wm ≤ n)
  let s := setPool s p { x with
    level := n, peak := max x.peak n, crossed := x.crossed || cross,
    crossCount := if cross && x.crossed then sat16 x.crossCount else x.crossCount }
  iqMessage s (cross && !x.crossed)

/-- Frees a segment's entries: its descriptors, and the staged input when it is the first segment. -/
def freeSeg (s : State) (c : Chain) (g : Seg) : State :=
  freeEntries s g.pool c.id (fun e => decide (g.first ≤ e.idx ∧ e.idx < g.first + g.count))

/-! ## Results and the end of a descriptor -/

def skipRes (status : Nat) : DescRes := ⟨status, 1, 0, [], false, true, none, 0, false⟩

/-- Appends a result; a status other than OK ends the chain: later descriptors are SKIPPED, later segments leave
their queues (R39). -/
def addResult (s : State) (c : Chain) (r : DescRes) : State :=
  let rs := c.results ++ [r]
  if r.status = 0 then setChain s { c with results := rs }
  else
    let rest := List.replicate (c.descs.length - rs.length) (skipRes r.status)
    let late := c.segs.filter (fun g => g.st == .later || g.st == .waiting)
    let segs := c.segs.map (fun g => { g with st := .done })
    let s := setChain s { c with results := rs ++ rest, segs := segs }
    late.foldl (fun s g => freeSeg s c g) s

/-- How a descriptor ends. ctx is the context to be written back, none when it stays unchanged in the store. -/
structure DescEnd where
  status : Nat
  detail : Nat
  flags : Nat
  result : Bytes
  ctx : Option Ctx
  notBefore : Nat
  deriving DecidableEq, Repr

/-- A command of a unit's Helm did not end OK: AT_LAST_ERR (R230). -/
def commandErr (s : State) (uid op status detail : Nat) : State :=
  if ((unitRec s uid).map (·.cls)).getD 0 = 2 then
    setUni s uid { getUni s uid with lastErr := word (status + 256 * detail + 2 ^ 24 * op) }
  else s

/-- UN_LAST and the last error of a unit at the end of a descriptor (R18, R143, R161); AT_LAST_ERR shows commands (R230). -/
def lastEnd (u : Uni) (cls func : Nat) (e : DescEnd) : Uni :=
  { u with
    lastStatus := e.status, lastFunc := func,
    lastErr := if e.status = 0 || cls == 2 then u.lastErr else word (e.status + 256 * e.detail) }

/-- Counters at the end of a descriptor (R18, R143, R161). A poisoned entry executes nothing (R94); one that ends in its load
stage or is aborted counts as executed (DESIGN CHOICE, log 55). -/
def Counts.ended (c : Counts) (cls status : Nat) (ran : Bool) : Counts :=
  { c with
    jobs := (c.jobs + b2n ran) % 2 ^ 64
    authFail := if status = 1 then sat32 c.authFail else c.authFail
    fourth := if status = 2 ∧ cls = 0 then sat32 c.fourth else c.fourth }

/-- The unit's registers at the end of a descriptor. -/
def countEnd (s : State) (uid cls func : Nat) (e : DescEnd) (ran : Bool) : State :=
  count (setUni s uid (lastEnd (getUni s uid) cls func e)) uid (fun c => c.ended cls e.status ran)

def countKv (s : State) (status : Nat) : State :=
  if status = 4 then { s with kv := { s.kv with revoked := sat32 s.kv.revoked } }
  else if status = 3 then { s with kv := { s.kv with stale := sat32 s.kv.stale } } else s

/-- HL_H_DESC and HL_H_LAST_ERR (R253). -/
def countHelm (s : State) (uid : Nat) (e : DescEnd) (ran : Bool) : State :=
  match (unitRec s uid).bind (·.helm) with
  | some h =>
    let x := getHelm s h
    setHelm s h { x with
      desc := if ran then sat32 x.desc else x.desc
      lastErr := if e.status = 0 then x.lastErr else word (e.status + 256 * e.detail) }
  | none => s

/-- The next descriptor of the segment names the context that the unit holds (R106). -/
def keepsCtx (j : Job) (next : Bytes) : Bool :=
  match j.ctxRef with
  | some r => dCtx next != noCtx && fld (dCtx next) 21 2 == (if r.compact then 1 else if r.wide then 2 else 0) &&
      fld (dCtx next) 0 21 == j.local_
  | none => false

/-- Writes the data half of a unit's Helm that belongs to the unit (R231). -/
def setHalf (s : State) (uid : Nat) (b : Bytes) : State :=
  match (unitRec s uid).bind (·.helm) with
  | some h =>
    let x := getHelm s h
    let first := ((s.chart.units.find? (fun r => r.helm == some h)).map (·.uid)) == some uid
    setHelm s h (if first then { x with data0 := b } else { x with data1 := b })
  | none => s

/-- What a descriptor has not issued yet is dropped, and its input is discarded when it arrives. -/
def dropDesc (s : State) (j : Job) : State :=
  dropQueued (forget s (fun o => o == .input j.chain j.idx)) (fun o => o == .output j.chain j.idx)

/-- Starts a context's write-back. -/
def writeBack (s : State) (u : Nat) (r : CtxRef) (c : Ctx) : State :=
  { s with sc := { s.sc with wb := s.sc.wb ++ [⟨u, r, c⟩] } }

/-- The job of the next descriptor of the segment. -/
def nextJob (j : Job) (keep : Bool) (ctx : Ctx) (now : Nat) : Job :=
  { j with
    idx := j.idx + 1, phase := .claimed, from_ := now, key := none, key2 := none, swap := none, base := 0, target := none, rand := [], tgtHeld := none, gather := .none,
    plan := .none, blk := 0, tries := 0, outOff := 0, stop := none, waits := false, written := [],
    ctxRef := if keep then j.ctxRef else none, ctx := if keep then ctx else .free, dirty := keep }

/-- The descriptor on unit uid ends. -/
def endDesc (s : State) (uid : Nat) (e : DescEnd) : State :=
  let u := getUni s uid
  match u.job with
  | none => s
  | some j =>
    match findChain s j.chain with
    | none => release s uid
    | some c =>
      let cls := ((unitRec s uid).map (·.cls)).getD 0
      let ran := j.phase != .claimed
      let s := setHalf (countHelm (countKv (countEnd (dropDesc s j) uid cls c.func e ran) e.status) uid e ran) uid []
      let last := decide (((c.segs[j.seg]?).map (fun g => g.first + g.count)).getD 0 ≤ j.idx + 1)
      let more := e.status == 0 && !last
      let keep := more && keepsCtx j (c.descs.getD (j.idx + 1) [])
      let ctx := match e.ctx with
        | some x => some x
        | none => if j.dirty then some j.ctx else none
      let s := match j.ctxRef, ctx with
        | some r, some x => if keep then s else writeBack s uid r x
        | _, _ => s
      let s := addResult s c ⟨e.status, e.detail, e.flags, padTo 8 e.result, j.waits, false, none, e.notBefore, false⟩
      if more then
        let s := if payOn s (getUni s uid) then scrubUnit s uid else s
        setUni s uid { getUni s uid with job := some (nextJob j keep (ctx.getD j.ctx) s.clk.meridian) }
      else
        let s := if e.status = 0 then
            match findChain s c.id with
            | some c => setChain s { c with segs := c.segs.mapIdx (fun i g =>
                if i = j.seg then { g with st := .done } else if i = j.seg + 1 then { g with st := .waiting } else g) }
            | none => s
          else s
        release s uid

/-! ## What a plan has found, and what was compared (R8, R9) -/

/-- The flag that the check mode of a job sets (R136, R137). -/
def checkFlag (j : Job) : Nat := if j.check = 1 then flDual else if j.check = 2 then flInverse else 0

/-- The flag of a result that was compared before its release: every block is computed, and one of them had something to compare
(R9). -/
def checked (j : Job) : Nat :=
  if j.blk == j.plan.blocks.length && j.plan.blocks.any (·.count != 0) then checkFlag j else 0

/-- The plan fails a check that comes before the first block: the form of the input, or the attributes that a key block's header asks
for (R172, R177). -/
def Plan.early (p : Plan) : Bool :=
  (p.status == stFormat && p.detail != 0x0344) || (p.status == stKeyAttr && (p.detail == 0x0308 || p.detail == 0x0343))

/-- The plan of a job has found its failure already: before the first block, at a block of its own, or once every block is released
(R8, R173). -/
def found (j : Job) : Bool :=
  j.plan.status != 0 && (match j.phase with
    | .exec => j.plan.early || (j.plan.blocks.take j.blk).any (·.found)
    | .writing => j.blk == j.plan.blocks.length
    | _ => false)

/-- The condition that was detected first on a job's descriptor, where another one comes now: a failed load, what its plan has found,
what has stopped it, or the new one (R8). -/
def firstCause (j : Job) (status detail : Nat) : Nat × Nat :=
  match j.phase with
  | .failed st dt _ => (st, dt)
  | _ => if found j then (j.plan.status, j.plan.detail) else j.stop.getD (status, detail)

/-! ## Aborts (R228, R249, R296) -/

/-- The operand slots of an aborted descriptor: written ones zero and INVALID, LOADED ones scrubbed, CARRY 0; the data half of
its Helm is zero-filled (R228, R249). -/
def abortSlots (s : State) (uid : Nat) : State :=
  let u := getUni s uid
  let w := (u.job.map (·.written)).getD []
  let s := { s with opmem := (w ++ u.ar.loaded).foldl (fun m n => Memory.zero m (opdAddr s uid n) (opdBytes s uid)) s.opmem }
  setHalf (setUni s uid { u with ar := { u.ar with
    valid := u.ar.valid.filter (fun x => !w.contains x && !u.ar.loaded.contains x), loaded := [], carry := false } }) uid []

/-- A service is aborted: its unit stays in SCRUB until ABORT_SCRUB_DONE. -/
def abortService (s : State) (uid : Nat) : State :=
  let s := abortSlots s uid
  setUni s uid { getUni s uid with job := none, active := false, st := 2, scrubAt := s.clk.meridian, relScrub := false }

/-- The descriptor of a unit is aborted: a service scrubs, other units are released at once. -/
def abortUnit (s : State) (uid : Nat) : State :=
  if ((unitRec s uid).map (·.cls)).getD 0 = 2 then abortService s uid else release s uid

/-- Stops the descriptor of a unit without a record: UN_LAST reads ABORTED_RESET (R296). -/
def stopNoRecord (s : State) (uid : Nat) : State :=
  let u := getUni s uid
  match u.job with
  | none => s
  | some j =>
    let s := dropDesc s j
    abortUnit (setUni s uid { u with lastStatus := stAborted, lastFunc := u.lockFunc }) uid

/-- Ends the descriptor of an arithmetic unit by an abort that writes a record (R249); what was detected first stands (R8). -/
def abortRecord (s : State) (uid status detail : Nat) : State :=
  let u := getUni s uid
  match u.job with
  | none => s
  | some j =>
    match findChain s j.chain with
    | none => abortUnit s uid
    | some c =>
      let x := firstCause j status detail
      let e : DescEnd := ⟨x.1, x.2, checked j, [], none, s.clk.meridian⟩
      let s := countHelm (countKv (countEnd (dropDesc s j) uid 2 c.func e true) e.status) uid e true
      let s := addResult s c ⟨e.status, e.detail, e.flags, padTo 8 [], j.waits, false, none, s.clk.meridian, false⟩
      abortUnit s uid

end Sys2Proof.Machine
end

