-- ==== Sys2Proof/Machine/Digest.lean ====
section
/-!
DEFINITION. Functions composed of the primitives of Config as the cited standards define them: SHA-2 and SHA-3
(R144, R147, R155), HMAC, AES-CMAC (R122, R156), SP 800-108 derivation in counter mode (R156), key check values
(R192).
-/

namespace Sys2Proof.Machine

/-- Block size or rate of an ALG (R144). -/
def algRate (alg : Nat) : Nat :=
  if alg < 2 then 64 else if alg < 5 then 128 else
  match alg with
  | 0x8 => 144
  | 0xA => 104
  | 0xB => 72
  | 0xC => 168
  | _ => 136

/-- Output length of an ALG; 0 for SHAKE, whose length the descriptor gives (R144). -/
def algOut (alg : Nat) : Nat :=
  match alg with
  | 0x0 => 28
  | 0x1 => 32
  | 0x2 => 48
  | 0x3 => 64
  | 0x4 => 32
  | 0x8 => 28
  | 0x9 => 32
  | 0xA => 48
  | 0xB => 64
  | _ => 0

/-- ALG codes of R144. -/
def algOk (alg : Nat) : Bool := alg ≤ 4 || (8 ≤ alg && alg ≤ 0xD)
def algSha2 (alg : Nat) : Bool := alg ≤ 4
def algShake (alg : Nat) : Bool := alg == 0xC || alg == 0xD

/-- The state before the first block: a chaining value, or an all-zero sponge. -/
def hashInit (alg : Nat) : Bytes := if algSha2 alg then Config.sha2Init alg else zeros 200

/-- One whole block: a compression, or an absorb and a permutation. -/
def hashBlock (alg : Nat) (st blk : Bytes) : Bytes :=
  if algSha2 alg then Config.sha2Compress alg st blk
  else Config.keccakF (xorB (st.take blk.length) blk ++ st.drop blk.length)

def hashBlocks (alg : Nat) (st : Bytes) (l : List Bytes) : Bytes := l.foldl (hashBlock alg) st

/-- The padded end of a message of total bytes: tail is what of it is not hashed yet, from a block boundary on
(FIPS 180-4, FIPS 202). -/
def hashPad (alg : Nat) (tail : Bytes) (total : Nat) : Bytes :=
  let r := algRate alg
  let k := tail.length % r
  if algSha2 alg then
    let l := r / 8
    let n := (if k + 1 + l ≤ r then r else 2 * r) - k - 1 - l
    tail ++ [0x80] ++ zeros n ++ toBE l (8 * total)
  else
    let d : Nat := if algShake alg then 0x1F else 0x06
    let n := r - k
    if n ≤ 1 then tail ++ [BitVec.ofNat 8 (d + 0x80)]
    else tail ++ [BitVec.ofNat 8 d] ++ zeros (n - 2) ++ [0x80]

/-- Squeezes n bytes, one permutation for each rate block after the first (R155); fuel counts the blocks. -/
def squeeze (rate : Nat) : Nat → Bytes → Nat → Bytes
  | 0, _, _ => []
  | k + 1, st, n => if n ≤ rate then st.take n else st.take rate ++ squeeze rate k (Config.keccakF st) (n - rate)

/-- The digest from the state before the tail; out is read for SHAKE only. -/
def hashEnd (alg : Nat) (st tail : Bytes) (total out : Nat) : Bytes :=
  let st := hashBlocks alg st (chunks (algRate alg) (hashPad alg tail total))
  if algSha2 alg then st.take (algOut alg)
  else
    let n := if algShake alg then out else algOut alg
    squeeze (algRate alg) (n / algRate alg + 1) st n

/-- The digest of a whole message; out is read for SHAKE only. -/
def hashOf (alg : Nat) (msg : Bytes) (out : Nat) : Bytes :=
  hashEnd alg (hashInit alg) msg msg.length out

def sha384 (msg : Bytes) : Bytes := hashOf 2 msg 48
def sha256 (msg : Bytes) : Bytes := hashOf 1 msg 32
def sha512 (msg : Bytes) : Bytes := hashOf 3 msg 64

/-- K xor ipad or opad, the key zero-padded to the block or hashed first when longer (FIPS 198-1). -/
def hmacPad (alg : Nat) (key : Bytes) (x : Byte) : Bytes :=
  let k := if key.length ≤ algRate alg then key else hashOf alg key 0
  (padTo (algRate alg) k).map (· ^^^ x)

def hmac (alg : Nat) (key msg : Bytes) : Bytes :=
  hashOf alg (hmacPad alg key 0x5C ++ hashOf alg (hmacPad alg key 0x36 ++ msg) 0) 0

/-! ## CMAC (SP 800-38B) over blocks of n bytes, 16 or 8 -/

/-- Doubling in GF(2^128) or GF(2^64), bytes most significant first. -/
def dbl (b : Bytes) : Bytes :=
  let w := 8 * b.length
  let n := beNat b
  toBE b.length ((2 * n % 2 ^ w) ^^^ (if n < 2 ^ (w - 1) then 0 else if w = 64 then 0x1B else 0x87))

/-- CBC-MAC chaining over whole blocks. -/
def cbcMac (enc : Bytes → Bytes) (iv : Bytes) (l : List Bytes) : Bytes := l.foldl (fun x b => enc (xorB x b)) iv

/-- CMAC from the chaining value before the last part of the message (at most one block, empty only when the
message is empty). -/
def cmacLast (enc : Bytes → Bytes) (iv last : Bytes) : Bytes :=
  let n := iv.length
  let k1 := dbl (enc (zeros n))
  let b := if last.length = n then xorB last k1 else xorB (padTo n (last ++ [0x80])) (dbl k1)
  enc (xorB iv b)

def cmacOf (enc : Bytes → Bytes) (n : Nat) (msg : Bytes) : Bytes :=
  let k := (msg.length - 1) / n
  cmacLast enc (cbcMac enc (zeros n) (chunks n (msg.take (n * k)))) (msg.drop (n * k))

def aesCmac (key msg : Bytes) : Bytes := cmacOf (Config.aesEnc key) 16 msg

/-! ## ECDSA verification (FIPS 186-5, SP 800-186) -/

/-- A point given by its coordinates lies on the curve y^2 = x^3 - 3x + b. -/
def onCurve (c x y : Nat) : Bool :=
  let p := Config.ecPrime c
  decide (x < p ∧ y < p) && (y * y) % p == (x * x * x + (p - 3) * x + Config.ecB c) % p

/-- Extended Euclid on remainders and cofactors. -/
def egcd : Nat → Int → Int → Int → Int → Int
  | 0, _, _, t, _ => t
  | k + 1, r, r', t, t' => if r' = 0 then t else egcd k r' (r % r') t' (t - r / r' * t')

/-- The inverse of a modulo m. -/
def invMod (a m : Nat) : Nat := (egcd (2 * Nat.log2 m + 4) m a 0 1 % m).toNat

/-- A coordinate modulo p that was computed from a random projective Z (R242): the ladder carries x × Z and divides at its end. -/
def withZ (p x : Nat) (z : Bytes) : Nat :=
  let k := leNat z % (p - 1) + 1
  x * k % p * invMod k p % p

/-- The leftmost bits of a digest, as many as the group order has (FIPS 186-5). -/
def ecDigest (c : Nat) (digest : Bytes) : Nat :=
  beNat digest / 2 ^ (8 * digest.length - (Nat.log2 (Config.ecOrder c) + 1))

/-- An ECDSA signature r, s by d of a digest (FIPS 186-5): k by the extra random bits of the nonce; the scalar blinded by h times the
group order, the ladder started from Z, k inverted as k × b and the result multiplied by b (R242). -/
def ecdsaSign (c d : Nat) (digest nonce z : Bytes) (h b : Nat) : Nat × Nat :=
  let n := Config.ecOrder c
  let k := beNat nonce % (n - 1) + 1
  let r := withZ (Config.ecPrime c) (Config.ecPub c (k + h * n)).1 z % n
  (r, invMod (k * b % n) n * b % n * ((ecDigest c digest + r * d) % n) % n)

/-- r and s in range and the x coordinate of u1 G + u2 Q equal to r modulo n. -/
def ecdsaOk (c x y : Nat) (digest : Bytes) (r s : Nat) : Bool :=
  let n := Config.ecOrder c
  decide (1 ≤ r ∧ r < n ∧ 1 ≤ s ∧ s < n) && Config.ecVerifyX c (x, y) digest r s == some r

/-- The control-domain verifier: P-384 key X then Y, signature r then s, big-endian. -/
def verify384 (key digest sig : Bytes) : Bool :=
  let x := beNat (key.take 48)
  let y := beNat (key.drop 48)
  onCurve 1 x y && ecdsaOk 1 x y digest (beNat (sig.take 48)) (beNat (sig.drop 48))

/-! ## Derivation and key check values -/

/-- Message i, counted from 1, of SP 800-108 in counter mode (R156); l is the key length in bytes. -/
def kdfMsg (label context : Bytes) (l i : Nat) : Bytes := toBE 4 i ++ label ++ [0] ++ context ++ toBE 4 (8 * l)

/-- SP 800-108 in counter mode (R156): h the PRF's length. -/
def kdf108 (prf : Bytes → Bytes) (h : Nat) (label context : Bytes) (l : Nat) : Bytes :=
  ((List.range (cdiv l h)).flatMap (fun i => prf (kdfMsg label context l (i + 1)))).take l

/-- TDES in EDE order on one 8-byte block; a 16-byte key repeats its first part (R121). -/
def tdesEnc (key blk : Bytes) : Bytes :=
  let k1 := key.take 8
  let k2 := (key.drop 8).take 8
  let k3 := if key.length ≤ 16 then k1 else (key.drop 16).take 8
  Config.desEnc k3 (Config.desDec k2 (Config.desEnc k1 blk))

def tdesDec (key blk : Bytes) : Bytes :=
  let k1 := key.take 8
  let k2 := (key.drop 8).take 8
  let k3 := if key.length ≤ 16 then k1 else (key.drop 16).take 8
  Config.desDec k1 (Config.desEnc k2 (Config.desDec k3 blk))

/-- KCV of a key (R192) by KTYPE: 0 AES, 1 TDES, 2 SECRET, else a private-key record with its PUBH. -/
def kcvOf (ktype : Nat) (key pubh : Bytes) : Bytes :=
  (match ktype with
  | 0 => aesCmac key (zeros 16)
  | 1 => tdesEnc key (zeros 8)
  | 2 => hmac 1 key []
  | _ => pubh).take 3

end Sys2Proof.Machine
end

