-- ==== Sys2Proof/Machine/Modes.lean ====
section
/-!
DEFINITION. The block cipher modes of the standards that R121 cites, over the block functions of Config: CBC, CTR,
CFB128, OFB, CCM, GCM, XTS, KW and KWP.
-/

namespace Sys2Proof.Machine

/-! ## Block functions of an ALG (R121): 3 is TDES -/

def blkLen (alg : Nat) : Nat := if alg = 3 then 8 else 16
def blkEnc (alg : Nat) (key b : Bytes) : Bytes := if alg = 3 then tdesEnc key b else Config.aesEnc key b
def blkDec (alg : Nat) (key b : Bytes) : Bytes := if alg = 3 then tdesDec key b else Config.aesDec key b

/-! ## CBC -/

/-- The chaining value after, and the ciphertext blocks. -/
def cbcEnc (enc : Bytes → Bytes) (iv : Bytes) : List Bytes → Bytes × List Bytes
  | [] => (iv, [])
  | b :: r =>
    let c := enc (xorB iv b)
    let x := cbcEnc enc c r
    (x.1, c :: x.2)

def cbcDec (dec : Bytes → Bytes) (iv : Bytes) : List Bytes → Bytes × List Bytes
  | [] => (iv, [])
  | b :: r =>
    let x := cbcDec dec b r
    (x.1, xorB iv (dec b) :: x.2)

/-! ## Counter streams -/

/-- Counter block j after b: the low bits of the block counted on, big-endian (R131). -/
def ctrBlock (b : Bytes) (bits j : Nat) : Bytes :=
  let n := beNat b
  toBE 16 (n / 2 ^ bits * 2 ^ bits + (n + j) % 2 ^ bits)

/-- Stream bytes off .. off + n - 1 of the blocks f 0, f 1, … -/
def stream (f : Nat → Bytes) (off n : Nat) : Bytes :=
  (((List.range (cdiv (off % 16 + n) 16)).flatMap (fun i => f (off / 16 + i))).drop (off % 16)).take n

/-- Cuts the text from stream offset off into the pieces that lie in one block each. -/
def byBlock (off : Nat) (t : Bytes) : List Bytes :=
  if off % 16 = 0 then chunks 16 t
  else if t.isEmpty then [] else t.take (16 - off % 16) :: chunks 16 (t.drop (16 - off % 16))

/-! ## CFB128 and OFB; the fuel counts blocks -/

/-- Feedback block, ciphertext of the partial block, output pieces. -/
def cfb (enc : Bytes → Bytes) (decrypt : Bool) : Nat → Bytes → Bytes → Bytes → Bytes × Bytes × List Bytes
  | 0, fb, p, _ => (fb, p, [])
  | n + 1, fb, p, t =>
    if t.isEmpty then (fb, p, [])
    else
      let x := t.take (16 - p.length)
      let o := xorB x ((enc fb).drop p.length)
      let p' := p ++ (if decrypt then x else o)
      let full := decide (16 ≤ p'.length)
      let r := cfb enc decrypt n (if full then p' else fb) (if full then [] else p') (t.drop (16 - p.length))
      (r.1, r.2.1, o :: r.2.2)

/-- Keystream block, bytes of it used, output pieces. -/
def ofb (enc : Bytes → Bytes) : Nat → Bytes → Nat → Bytes → Bytes × Nat × List Bytes
  | 0, o, u, _ => (o, u, [])
  | n + 1, o, u, t =>
    if t.isEmpty then (o, u, [])
    else
      let o := if u = 0 then enc o else o
      let x := t.take (16 - u)
      let r := ofb enc n o ((u + x.length) % 16) (t.drop (16 - u))
      (r.1, r.2.1, xorB x (o.drop u) :: r.2.2)

/-! ## GHASH (SP 800-38D), the first bit of a block most significant -/

def gmul (x y : Nat) : Nat :=
  ((List.range 128).foldl (fun (z : Nat × Nat) i =>
    (if x.testBit (127 - i) then z.1 ^^^ z.2 else z.1,
     if z.2 % 2 = 1 then (z.2 / 2) ^^^ (0xE1 * 2 ^ 120) else z.2 / 2)) (0, y)).1

def ghash (h : Bytes) (y : Bytes) (l : List Bytes) : Bytes :=
  l.foldl (fun y b => toBE 16 (gmul (beNat (xorB y (padTo 16 b))) (beNat h))) y

/-- Whole blocks of a byte string, and the rest. -/
def wholeBlocks (n : Nat) (b : Bytes) : List Bytes × Bytes :=
  let k := b.length / n * n
  (chunks n (b.take k), b.drop k)

/-! ## CCM (SP 800-38C) -/

/-- B0, the encoded length of the associated data with the data padded, the padded payload. -/
def ccmBlocks (nonce aad text : Bytes) (tag : Nat) : Bytes :=
  let q := 15 - nonce.length
  let a := aad.length
  let b0 := BitVec.ofNat 8 (64 * b2n (a != 0) + 8 * ((tag - 2) / 2) + (q - 1)) :: nonce ++ toBE q text.length
  let la := if a = 0 then [] else if a < 65280 then toBE 2 a else [0xFF, 0xFE] ++ toBE 4 a
  let pad := fun (b : Bytes) => b ++ zeros ((16 - b.length % 16) % 16)
  b0 ++ pad (la ++ aad) ++ pad text

def ccmCtr (nonce : Bytes) (i : Nat) : Bytes :=
  BitVec.ofNat 8 (14 - nonce.length) :: nonce ++ toBE (15 - nonce.length) i

/-- The tag over a payload. -/
def ccmTag (enc : Bytes → Bytes) (nonce aad text : Bytes) (tag : Nat) : Bytes :=
  xorB ((cbcMac enc (zeros 16) (chunks 16 (ccmBlocks nonce aad text tag))).take tag) (enc (ccmCtr nonce 0))

/-- The payload under the counter blocks from 1. -/
def ccmCrypt (enc : Bytes → Bytes) (nonce text : Bytes) : Bytes :=
  xorB text (stream (fun j => enc (ccmCtr nonce (j + 1))) 0 text.length)

/-! ## XTS (SP 800-38E) -/

/-- The tweak times alpha, little-endian. -/
def xtsNext (t : Bytes) : Bytes :=
  let n := leNat t
  toLE 16 ((2 * n % 2 ^ 128) ^^^ (if n < 2 ^ 127 then 0 else 0x87))

def xtsTweak (t : Bytes) : Nat → Bytes
  | 0 => t
  | n + 1 => xtsNext (xtsTweak t n)

/-- One data unit with its first tweak; stealing when it is not whole blocks. -/
def xtsUnit (f : Bytes → Bytes) (decrypt : Bool) (t : Bytes) (unit : Bytes) : Bytes :=
  let m := unit.length / 16
  let r := unit.length % 16
  let one := fun (j : Nat) (b : Bytes) => xorB (f (xorB b (xtsTweak t j))) (xtsTweak t j)
  let blk := fun (j : Nat) => slice unit (16 * j) 16
  if r = 0 then (List.range m).flatMap (fun j => one j (blk j))
  else
    let head := (List.range (m - 1)).flatMap (fun j => one j (blk j))
    let last := unit.drop (16 * m)
    let a := one (if decrypt then m else m - 1) (blk (m - 1))
    let b := one (if decrypt then m - 1 else m) (last ++ a.drop r)
    head ++ b ++ a.take r

/-! ## KW and KWP (SP 800-38F) -/

/-- The wrapping function W on semiblocks A and R. -/
def kwWrap (enc : Bytes → Bytes) (a : Bytes) (r : List Bytes) : Bytes :=
  let x := (List.range (6 * r.length)).foldl (fun (x : Bytes × List Bytes) t =>
    let e := enc (x.1 ++ x.2.headD [])
    (xorB (e.take 8) (toBE 8 (t + 1)), x.2.drop 1 ++ [e.drop 8])) (a, r)
  x.1 ++ x.2.flatten

/-- Its inverse: A and the data. -/
def kwUnwrap (dec : Bytes → Bytes) (a : Bytes) (r : List Bytes) : Bytes × Bytes :=
  let n := 6 * r.length
  let x := (List.range n).foldl (fun (x : Bytes × List Bytes) t =>
    let e := dec (xorB x.1 (toBE 8 (n - t)) ++ x.2.getLastD [])
    (e.take 8, e.drop 8 :: x.2.dropLast)) (a, r)
  (x.1, x.2.flatten)

def kwIcv : Bytes := List.replicate 8 0xA6

def kwpEnc (enc : Bytes → Bytes) (p : Bytes) : Bytes :=
  let a := [0xA6, 0x59, 0x59, 0xA6] ++ toBE 4 p.length
  let b := p ++ zeros ((8 - p.length % 8) % 8)
  if b.length ≤ 8 then enc (a ++ b) else kwWrap enc a (chunks 8 b)

/-- What KWP unwrapping finds: the data, a failed integrity value, or failed padding. -/
inductive KwpRes where
  | ok (p : Bytes)
  | tag | pad
  deriving DecidableEq, Repr

def kwpDec (dec : Bytes → Bytes) (c : Bytes) : KwpRes :=
  let x := if c.length ≤ 16 then let e := dec c; (e.take 8, e.drop 8)
           else kwUnwrap dec (c.take 8) (chunks 8 (c.drop 8))
  let n := beNat (x.1.drop 4)
  if x.1.take 4 ≠ [0xA6, 0x59, 0x59, 0xA6] then .tag
  else if x.2.length < n ∨ n + 8 ≤ x.2.length ∨ (x.2.drop n).any (· != 0) then .pad
  else .ok (x.2.take n)

end Sys2Proof.Machine
end

