-- ==== Sys2Proof/Machine/Cipher.lean ====
section
/-!
DEFINITION. Cipher operation codes (R121 to R135): header-check conditions, the tile's checks at load, counters and
IVs, and what a descriptor produces from its input.
-/

namespace Sys2Proof.Machine

/-! ## Fields (R121, R123) -/

def cMode (d : Bytes) : Nat := fld (dOpcode d) 8 4
def cAlg (d : Bytes) : Nat := fld (dOpcode d) 4 4
def cDir (d : Bytes) : Nat := fld (dOpcode d) 0 4
def cIv (d : Bytes) : Bytes := slice d 0x28 16
def cTagLen (d : Bytes) : Nat := leAt d 0x38 1
def cNlen (d : Bytes) : Nat := leAt d 0x39 1
def cDuLen (d : Bytes) : Nat := leAt d 0x38 2
def cInvLim (d : Bytes) : Nat := leAt d 0x3A 1
def cMflags (d : Bytes) : Nat := leAt d 0x3B 1
def cKey2 (d : Bytes) : Nat := leAt d 0x3C 4
def cIvDev (d : Bytes) : Bool := (cMflags d).testBit 1
def cBlk (d : Bytes) : Nat := blkLen (cAlg d)

/-- CMAC, CCM, GCM and GMAC. -/
def cTagged (d : Bytes) : Bool := 5 ≤ cMode d && cMode d ≤ 8
def cGcm (d : Bytes) : Bool := cMode d == 7 || cMode d == 8

/-- The descriptor ends its message if one is in progress or starts (R127). -/
def cFinal (d : Bytes) : Bool := dCtx d == noCtx || (cMflags d).testBit 0

/-- Bytes of the expected tag in the input (R124). -/
def cTagIn (d : Bytes) : Nat := if cTagged d && cDir d == 1 && cFinal d then cTagLen d else 0

/-- Text bytes. -/
def cText (d : Bytes) : Nat := dLen d - dAuxLen d - cTagIn d

/-! ## Header check (R121, R125) -/

def cipherKnown (d : Bytes) : Bool :=
  let m := cMode d
  let a := cAlg d
  decide (cDir d ≤ 1) && decide (m ≤ 0xB) &&
    (if m = 0 ∨ m = 1 ∨ m = 5 then decide (a ≤ 3) else if m = 9 then a == 0 || a == 2 else decide (a ≤ 2))

/-- The PARAM conditions of RESERVED_SET. -/
def cipherParamOk (d : Bytes) : Bool :=
  let m := cMode d
  decide (cMflags d < 4) && (!cIvDev d || (cGcm d && cDir d == 0 && (slice d 0x2C 12).all (· == 0))) &&
    (m == 9 || cKey2 d == 0) && (cTagLen d == 0 || cTagged d || m == 9) &&
    (cNlen d == 0 || m == 2 || m == 6 || cGcm d || m == 9)

/-- Largest and default INV_LIM (R132). -/
def invMax (d : Bytes) : Nat :=
  if cGcm d then 32 else if cMode d = 5 then (if cAlg d = 3 then 21 else 48) else 64

/-- The table of R125. -/
def cipherLenOk (d : Bytes) : Bool :=
  let n := dLen d
  let x := dAuxLen d
  let t := cTagLen d
  let big := decide (n ≤ 2 ^ 28)
  decide (cInvLim d ≤ invMax d) && (x == 0 || cMode d == 6 || cMode d == 7) &&
  (match cMode d with
  | 0 | 1 => big && (dCtx d != noCtx || n % cBlk d == 0)
  | 2 => big && (cNlen d == 32 || cNlen d == 64 || cNlen d == 128)
  | 3 | 4 => big
  | 5 => big && decide (4 ≤ t ∧ t ≤ cBlk d) && decide (cTagIn d ≤ n)
  | 6 => big && decide (7 ≤ cNlen d ∧ cNlen d ≤ 13) && decide (4 ≤ t ∧ t ≤ 16 ∧ t % 2 = 0) && decide (x + cTagIn d ≤ n) &&
    decide (cText d < 2 ^ (8 * (15 - cNlen d)))
  | 7 | 8 => big && cNlen d == 12 && (t == 4 || t == 8 || decide (12 ≤ t ∧ t ≤ 16)) && decide (x + cTagIn d ≤ n)
  | 9 => decide (16 ≤ cDuLen d) && n % cDuLen d == 0 && decide (n ≤ 256 * cDuLen d)
  | 10 => n % 8 == 0 && (if cDir d = 0 then decide (16 ≤ n ∧ n ≤ 4096) else decide (24 ≤ n ∧ n ≤ 4104))
  | _ => if cDir d = 0 then decide (1 ≤ n ∧ n ≤ 4096) else n % 8 == 0 && decide (16 ≤ n ∧ n ≤ 4104))

/-- Accepted forms of a handle: 0 standard, 1 compact, 2 wide (R121). -/
def cipherForm (d : Bytes) (kind : Nat) : Bool :=
  match cMode d with
  | 0 | 1 | 5 => decide (kind ≤ 1)
  | 2 | 3 | 4 | 7 | 8 => kind == 0
  | _ => false

/-- Usage bit of the code, counted from encrypt (R121, R190). -/
def cipherUsage (d : Bytes) : Nat :=
  cDir d + (match cMode d with
  | 5 | 8 => 4
  | 10 | 11 => 2
  | _ => 0)

/-- Key length of the algorithm (R120). -/
def cipherKeyLen (d : Bytes) : Nat :=
  match cAlg d with
  | 0 => 16
  | 2 => 32
  | _ => 24

/-! ## Messages (R127, R130) -/

/-- Bytes in PART: derived in a compact context (R129). -/
def cPart (d : Bytes) (c : Ctx) : Nat :=
  if c.kind = 1 then
    let r := c.dataBytes % cBlk d
    if cMode d = 5 ∧ r = 0 ∧ c.dataBytes ≠ 0 then cBlk d else r
  else c.partLen

/-- The descriptor starts a message: an empty one only in the modes that make or check a tag (R130). -/
def cStarts (d : Bytes) (c : Ctx) : Bool := !c.msg && (dLen d != 0 || (cFinal d && cTagged d))

/-- No effect on the stream (R127). -/
def cIdle (d : Bytes) (c : Ctx) : Bool := dLen d == 0 && (!cFinal d || (!c.msg && !cTagged d))

/-- The message is in its first descriptor. -/
def cFresh (c : Ctx) : Bool := c.dataBytes == 0 && c.aadBytes == 0

/-- A CMAC or GMAC generation that keeps its tag in RESULT (R124). -/
def cNoTagOut (d : Bytes) : Bool := dDst d == 0 && dDstLen d == 0 && (cMode d == 5 || cMode d == 8)

/-- The output length of R124. -/
def cOutLen (d : Bytes) (starts idle : Bool) (part : Nat) : Nat :=
  let t := cText d
  let iv := if cIvDev d && starts then 12 else 0
  let tag := if cFinal d && cDir d == 0 && !cNoTagOut d then cTagLen d else 0
  if idle then 0
  else match cMode d with
  | 0 | 1 => (part + t) / cBlk d * cBlk d
  | 5 => tag
  | 8 => iv + tag
  | 6 | 7 => if cDir d = 0 then iv + t + tag else t
  | 10 => if cDir d = 0 then dLen d + 8 else dLen d - 8
  | 11 => if cDir d = 0 then 8 + 8 * cdiv (dLen d) 8 else dLen d - 8
  | _ => t

/-- The length the header check assumes: a message start with no partial block. -/
def cipherAssumed (d : Bytes) : Nat := cOutLen d (cStarts d .free) (cIdle d .free) 0

/-- The checks of R126. -/
def cipherPre (d : Bytes) (c : Ctx) : Option Nat :=
  let out := cOutLen d (cStarts d c) (cIdle d c) (cPart d c)
  if cMode d ≤ 1 ∧ cFinal d = true ∧ (cPart d c + cText d) % cBlk d ≠ 0 then some 0x0101
  else if dDstLen d < out then some 0x0102
  else if dAuxLen d ≠ 0 ∧ c.dataBytes ≠ 0 then some 0x0103
  else if dDstScr d ∧ out ≠ cipherAssumed d then some 0x0105
  else none

/-- KEY_PARTS (R120). -/
def cipherKeyBad (d key key2 : Bytes) : Bool :=
  if cAlg d = 3 then key.take 8 == (key.drop 8).take 8 || (key.drop 8).take 8 == (key.drop 16).take 8
  else cMode d == 9 && key == key2

/-- Counts of R131 take a slot invocation at this descriptor. -/
def cipherCounts (d : Bytes) (c : Ctx) : Bool := cGcm d && cDir d == 0 && cStarts d c

/-- IV of the message being started (R131). -/
def cNonce (d : Bytes) (cnt : Nat) : Bytes :=
  if cGcm d then (if cIvDev d then (cIv d).take 4 ++ toBE 8 cnt else (cIv d).take 12) ++ [0, 0, 0, 1] else cIv d

/-- Blocks one invocation may use (R132); none when the mode has no such limit. A streamed CTR message is judged whole by the NLEN
of each of its descriptors (DESIGN CHOICE, log 55). -/
def cBlkLimit (d : Bytes) (c : Ctx) : Option Nat :=
  match cMode d with
  | 2 => some (min (2 ^ cNlen d - beNat c.nonce % 2 ^ cNlen d) (2 ^ 32 - 1))
  | 3 | 4 => some (2 ^ 32 - 1)
  | 7 => some (2 ^ 32 - 2)
  | _ => none

def cipherInvLim (d : Bytes) : Nat := if cInvLim d = 0 then invMax d else cInvLim d

/-- The counter check (R132) and what it reserves (R133): cnt is the slot invocation count. -/
def cipherReserve (d : Bytes) (hasCtx : Bool) (c : Ctx) (cnt : Nat) : Option Ctx :=
  let starts := cStarts d c
  if hasCtx ∧ starts = true ∧ 2 ^ c.invLim ≤ c.inv + 1 then none
  else if cipherCounts d c ∧ 2 ^ 32 ≤ cnt + 1 then none
  else
    let c := if starts then
        { c with
          msg := true, inv := c.inv + 1, blk := 0, nonce := if 2 ≤ cMode d ∧ cMode d ≠ 5 then cNonce d cnt else c.nonce,
          engine := if cMode d = 1 ∨ cMode d = 3 ∨ cMode d = 4 then patchBytes c.engine 0 (cIv d) else c.engine }
      else c
    let b := cdiv (c.dataBytes + cText d) 16
    match cBlkLimit d c with
    | none => some (if cMode d = 8 then { c with blk := b } else c)
    | some l => if l < b then none else some { c with blk := b }

/-! ## The stream modes: blocks with their pieces of output, new engine area, bytes in PART

Every block cipher computation and every GHASH-only multiplication is a block of its own, which the check mode checks and
CT_BLOCKS counts (R136, R137, R143). -/

/-- What a descriptor computes: its blocks, those that come before the tag's own at the end of a message, and the tag. -/
structure CipherRun where
  outs : List PlanBlock
  last : List PlanBlock
  engine : Bytes
  part : Nat
  tag : Bytes
  deriving DecidableEq, Repr

def planBlocks (l : List Bytes) : List PlanBlock := l.map PlanBlock.of

/-- n blocks that release nothing. -/
def silent (n : Nat) : List PlanBlock := List.replicate n (.of [])

/-- Bytes that leave with no block computed for them. -/
def PlanBlock.free (out : Bytes) : PlanBlock := { PlanBlock.of out with count := 0 }

/-- Sets the 16-byte field at offset o. -/
def setField (e : Bytes) (o : Nat) (x : Bytes) : Bytes := patchBytes e o (padTo 16 x)

def runEcb (d : Bytes) (c : Ctx) (key text : Bytes) : CipherRun :=
  let n := cBlk d
  let w := wholeBlocks n (slice c.engine 0x10 (cPart d c) ++ text)
  let f := if cDir d = 0 then blkEnc (cAlg d) key else blkDec (cAlg d) key
  ⟨planBlocks (w.1.map f), [], setField c.engine 0x10 w.2, w.2.length, []⟩

def runCbc (d : Bytes) (c : Ctx) (key text : Bytes) : CipherRun :=
  let n := cBlk d
  let w := wholeBlocks n (slice c.engine 0x10 (cPart d c) ++ text)
  let cv := slice c.engine 0 n
  let x := if cDir d = 0 then cbcEnc (blkEnc (cAlg d) key) cv w.1 else cbcDec (blkDec (cAlg d) key) cv w.1
  ⟨planBlocks x.2, [], setField (setField c.engine 0 x.1) 0x10 w.2, w.2.length, []⟩

def runCtr (d : Bytes) (c : Ctx) (key text : Bytes) : CipherRun :=
  let ks := stream (fun j => blkEnc (cAlg d) key (ctrBlock c.nonce (cNlen d) j)) c.dataBytes text.length
  ⟨planBlocks (byBlock c.dataBytes (xorB text ks)), [], c.engine, (c.dataBytes + text.length) % 16, []⟩

def runCfb (d : Bytes) (c : Ctx) (key text : Bytes) : CipherRun :=
  let x := cfb (blkEnc (cAlg d) key) (cDir d == 1) (text.length / 16 + 2) (slice c.engine 0 16)
    (slice c.engine 0x10 c.partLen) text
  ⟨planBlocks x.2.2, [], setField (setField c.engine 0 x.1) 0x10 x.2.1, x.2.1.length, []⟩

/-- The keystream block of a resumed partial block is kept in O, not computed again (R128). -/
def runOfb (d : Bytes) (c : Ctx) (key text : Bytes) : CipherRun :=
  let x := ofb (blkEnc (cAlg d) key) (text.length / 16 + 2) (slice c.engine 0 16) c.partLen text
  let kept := if c.partLen = 0 then 0 else 1
  ⟨(x.2.2.take kept).map PlanBlock.free ++ planBlocks (x.2.2.drop kept), [], setField c.engine 0 x.1, x.2.1, []⟩

/-- A block is processed only once input follows it; the subkey block E(K, 0) comes before the last (R128, R140). -/
def runCmac (d : Bytes) (c : Ctx) (key text : Bytes) : CipherRun :=
  let n := cBlk d
  let enc := blkEnc (cAlg d) key
  let buf := slice c.engine 0x10 (cPart d c) ++ text
  let k := (buf.length - 1) / n
  let mac := cbcMac enc (slice c.engine 0 n) (chunks n (buf.take (n * k)))
  let rest := buf.drop (n * k)
  ⟨silent k, silent 1, setField (setField c.engine 0 mac) 0x10 rest, rest.length,
    (cmacLast enc mac rest).take (cTagLen d)⟩

/-- GHASH of data that waits in blocks; at the end the partial block is padded in. -/
def hashOn (h y buf : Bytes) (pad : Bool) : Nat × Bytes × Bytes :=
  let w := wholeBlocks 16 buf
  let l := if pad && !w.2.isEmpty then w.1 ++ [w.2] else w.1
  (l.length, ghash h y l, if pad then [] else w.2)

/-- GCM, and GMAC with its text as the authenticated data: GHASH of whole text blocks runs in step, that of AAD, of a padded last
block and of the length block, and the tag mask, are blocks of their own (R137, R140, R141). -/
def runGcm (d : Bytes) (c : Ctx) (key aad text : Bytes) : CipherRun :=
  let enc := blkEnc (cAlg d) key
  let h := enc (zeros 16)
  let gmac := cMode d == 8
  let part := slice c.engine 0x20 c.partLen
  let inAad := gmac || c.dataBytes == 0
  let a := if inAad then hashOn h (slice c.engine 0 16) (part ++ (if gmac then text else aad)) (cFinal d || (!gmac && !text.isEmpty))
    else (0, slice c.engine 0 16, part)
  let ks := stream (fun j => enc (ctrBlock c.nonce 32 (j + 1))) c.dataBytes text.length
  let out := if gmac then [] else xorB text ks
  let ct := if cDir d = 0 then out else text
  let b := if gmac || (inAad && text.isEmpty) then (0, a.2.1, a.2.2)
    else hashOn h a.2.1 (a.2.2 ++ ct) (cFinal d)
  let la := if gmac then c.dataBytes + text.length else c.aadBytes + aad.length
  let lc := if gmac then 0 else c.dataBytes + text.length
  let s := ghash h b.2.1 [toBE 8 (8 * la) ++ toBE 8 (8 * lc)]
  let tail := if gmac then [] else (slice c.engine 0x20 (if inAad then 0 else c.partLen)) ++ ct
  ⟨silent a.1 ++ planBlocks (byBlock c.dataBytes out), silent (1 + b2n (tail.length % 16 != 0)),
    setField (setField (setField c.engine 0 b.2.1) 0x10 h) 0x20 b.2.2, b.2.2.length,
    (xorB s (enc c.nonce)).take (cTagLen d)⟩

/-- CCM: one descriptor; B0, the AAD blocks and, for each text block, its CBC-MAC block beside its counter block; the tag mask is
the tag's own block (R128, R140). -/
def runCcm (d : Bytes) (key aad text : Bytes) : CipherRun :=
  let enc := blkEnc (cAlg d) key
  let nonce := (cIv d).take (cNlen d)
  let out := ccmCrypt enc nonce text
  let p := if cDir d = 0 then text else out
  let setup := (ccmBlocks nonce aad [] (cTagLen d)).length / 16
  let both := fun (o : Bytes) => if cDir d = 0 then [PlanBlock.of [], .of o] else [.of o, .of []]
  ⟨silent setup ++ (byBlock 0 out).flatMap both, [], [], 0, ccmTag enc nonce aad p (cTagLen d)⟩

/-- XTS: the first tweak of every data unit, then its blocks (R128, R139). -/
def runXts (d : Bytes) (key key2 text : Bytes) : CipherRun :=
  let f := if cDir d = 0 then blkEnc (cAlg d) key else blkDec (cAlg d) key
  let n := leNat (cIv d)
  let unit := fun (e : Bytes × Nat) =>
    chunks 16 (xtsUnit f (cDir d == 1) (blkEnc (cAlg d) key2 (toLE 16 (n + e.2))) e.1)
  let units := chunks (cDuLen d) text
  ⟨silent units.length ++ planBlocks (units.zipIdx.flatMap unit), [], [], 0, []⟩

def cipherRun (d : Bytes) (c : Ctx) (key key2 aad text : Bytes) : CipherRun :=
  match cMode d with
  | 0 => runEcb d c key text
  | 1 => runCbc d c key text
  | 2 => runCtr d c key text
  | 3 => runCfb d c key text
  | 4 => runOfb d c key text
  | 5 => runCmac d c key text
  | 6 => runCcm d key aad text
  | 9 => runXts d key key2 text
  | _ => runGcm d c key aad text

/-! ## The plan of a descriptor -/

/-- A context whose message has ended: all but HSUB is cleared (R127). -/
def cEndMsg (d : Bytes) (c : Ctx) : Ctx :=
  { c with
    msg := false, blk := 0, partLen := 0, dataBytes := 0, aadBytes := 0,
    engine := if cGcm d then setField (zeros c.engine.length) 0x10 (slice c.engine 0x10 16) else zeros c.engine.length }

/-- The context after a descriptor that goes on with its message. -/
def cGoOn (d : Bytes) (c : Ctx) (r : CipherRun) : Ctx :=
  { c with
    engine := r.engine, partLen := if c.kind = 1 then 0 else r.part, dataBytes := c.dataBytes + cText d,
    aadBytes := c.aadBytes + dAuxLen d }

/-- Prefixes the first piece of output; an IV alone leaves with no block computed. -/
def withHead (iv : Bytes) (l : List PlanBlock) : List PlanBlock :=
  match l with
  | [] => if iv.isEmpty then [] else [.free iv]
  | x :: r => { x with out := iv ++ x.out } :: r

/-- Blocks that KW and KWP compute: six for each semiblock of the wrapped data behind its first; one where it has only two. -/
def kwBlocks (d : Bytes) (len : Nat) : Nat :=
  let n := if cDir d = 0 then cdiv len 8 else len / 8 - 1
  if cMode d = 11 ∧ n = 1 then 1 else 6 * n

/-- KW and KWP (R134): the tile holds the whole value until its check. -/
def kwPlan (d key text : Bytes) (c : Ctx) : Plan :=
  let enc := blkEnc (cAlg d) key
  let dec := blkDec (cAlg d) key
  let steps := fun (out : Bytes) => planBlocks (List.replicate (kwBlocks d text.length - 1) [] ++ [out])
  if cDir d = 0 then
    ⟨steps (if cMode d = 10 then kwWrap enc kwIcv (chunks 8 text) else kwpEnc enc text), 0, 0, 0, [], some c, none, false⟩
  else if cMode d = 10 then
    let x := kwUnwrap dec (text.take 8) (chunks 8 (text.drop 8))
    if x.1 = kwIcv then ⟨steps x.2, 0, 0, 0, [], some c, none, false⟩
    else ⟨steps [], stAuthFail, 0x0107, 0, [], some c, none, false⟩
  else match kwpDec dec text with
    | .ok p => ⟨steps p, 0, 0, 0, [], some c, none, false⟩
    | .tag => ⟨steps [], stAuthFail, 0x0107, 0, [], some c, none, false⟩
    | .pad => ⟨steps [], stAuthFail, 0x0108, 0, [], some c, none, false⟩

/-- The block that computes HSUB: at an OPEN, and in a descriptor without a context (R129). -/
def hsubBlock (d : Bytes) : List PlanBlock :=
  if cGcm d && (dCtx d == noCtx || (fld (dCtx d) 23 2).testBit 0) then [.of []] else []

/-- What a cipher descriptor does with its input behind HSUB: hs is the context with its reservation and HSUB. -/
def cipherWork (d : Bytes) (hs : Ctx) (key key2 input : Bytes) : Plan :=
  let aad := input.take (dAuxLen d)
  let text := (input.drop (dAuxLen d)).take (cText d)
  let want := input.drop (dAuxLen d + cText d)
  let r := cipherRun d hs key key2 aad text
  let iv := if cIvDev d && cFresh hs then hs.nonce.take 12 else []
  if !cFinal d then ⟨withHead iv r.outs, 0, 0, 0, [], some (cGoOn d hs r), none, false⟩
  else if !cTagged d then ⟨r.outs, 0, 0, 0, [], some (cEndMsg d hs), none, false⟩
  else if cDir d = 0 then
    ⟨withHead iv (r.outs ++ r.last ++ [.of (if cNoTagOut d then [] else r.tag)]), 0, 0, 0, r.tag.take 8,
      some (cEndMsg d hs), none, false⟩
  else if want = r.tag then
    ⟨r.outs ++ r.last ++ [.of []], 0, 0, 0, if cMode d = 5 ∨ cMode d = 8 then [1] else [], some (cEndMsg d hs), none, false⟩
  else
    ⟨r.outs ++ r.last ++ [.of []], stAuthFail, 0x0107,
      if (cMode d = 6 ∨ cMode d = 7) ∧ cText d ≠ 0 then flUntrusted else 0, [],
      some (if cFresh hs then cEndMsg d hs else { cGoOn d hs r with st := 2, cause := stAuthFail }), none, false⟩

/-- What a cipher descriptor does with its input: c is the context with its reservation made. UNTRUSTED_OUTPUT needs text that
was written (R9, R134). -/
def cipherPlan (d : Bytes) (c : Ctx) (key key2 input : Bytes) : Plan :=
  let hs := if cGcm d then { c with engine := setField c.engine 0x10 (blkEnc (cAlg d) key (zeros 16)) } else c
  if dLen d = 0 ∧ (cFinal d = false ∨ (c.msg = false ∧ cTagged d = false)) then
    ⟨hsubBlock d, 0, 0, 0, [], some hs, none, false⟩
  else if cMode d = 10 ∨ cMode d = 11 then kwPlan d key input c
  else
    let p := cipherWork d hs key key2 input
    { p with blocks := hsubBlock d ++ p.blocks }

/-- The working registers of a tile with a context of a cipher descriptor (R118): partial block, GHASH value, XTS tweaks. -/
def cipherTile (d : Bytes) (c : Ctx) (key2 : Bytes) : Tile :=
  { Tile.zero with
    part := slice c.engine (if cGcm d then 0x20 else 0x10) (cPart d c)
    ghash := if cGcm d then slice c.engine 0 16 else []
    tweak := if cMode d = 9 then
        (List.range (dLen d / cDuLen d)).flatMap (fun i => blkEnc (cAlg d) key2 (toLE 16 (leNat (cIv d) + i)))
      else [] }

end Sys2Proof.Machine
end

