-- ==== Sys2Proof/Machine/Erase.lean ====
section
/-!
DEFINITION. Erasing: a slot and every copy of it (R195), the whole vault (R208), the context store (R115), every
secret (R205, R321, R330).
-/

namespace Sys2Proof.Machine

/-! ## Slots -/

/-- A slot after an erase: GEN, OWNER and INVCNT kept (R195). -/
def Slot.erased (x : Slot) : Slot := { Slot.empty with gen := x.gen, own := x.own, invcnt := x.invcnt }

/-- The slots an erase of slot i covers: a PRIV head takes its extensions with it (R195). -/
def eraseSet (s : State) (i : Nat) : List Nat :=
  let x := getSlot s i
  if x.kind = 2 then (List.range (x.ref + 1)).map (· + i) else [i]

/-- The context a failing descriptor leaves (R108, R110): a closing one frees it, else TAINTED or SPENT. -/
def ctxFail (j : Job) (status : Nat) : Option Ctx :=
  match j.ctxRef with
  | none => none
  | some _ =>
    if j.act = 2 ∨ j.act = 3 then some .free
    else some { j.ctx with st := if status = stNonce then 3 else 2, cause := status }

def holdsSlot (p : Nat → Bool) (k : Option KeyReg) : Bool := k.any (fun x => p x.slot)

/-- What ends a descriptor at its next block boundary; what was detected first stands (R8). -/
def Job.stopped (j : Job) (status detail : Nat) : Job := { j with stop := some (j.stop.getD (status, detail)) }

/-- An erase of the slots that satisfy p reaches a unit: key registers with a copy are scrubbed, held targets are lost, and a
job whose vault access came before stops (R195, R249): a cipher or hash job at its next block boundary, at once while it waits
for input; a service is aborted. -/
def reachUnit (s : State) (p : Nat → Bool) (uid : Nat) : State :=
  let s := if holdsSlot p (getUni s uid).key then scrubUnit s uid else s
  let u := getUni s uid
  match u.job with
  | none => s
  | some j =>
    let lost := j.target.any (fun t => (List.range t.2.length).any (fun k => p (t.1 + k)))
    let j := { j with tgtHeld := if lost then none else j.tgtHeld }
    let s := setUni s uid { u with job := some j }
    if !holdsSlot p j.key && !holdsSlot p j.key2 then s
    else if ((unitRec s uid).map (·.cls)).getD 0 = 2 then
      (if j.phase = .input ∨ j.phase = .exec ∨ j.phase = .writing then abortRecord s uid stKeyRevoked 0x0906 else s)
    else if j.phase = .input then
      endDesc s uid ⟨stKeyRevoked, 0x0906, 0, [], ctxFail j stKeyRevoked, s.clk.meridian⟩
    else if j.phase = .exec then setUni s uid { u with job := some (j.stopped stKeyRevoked 0x0906) }
    else s

def unitIds (s : State) : List Nat := (s.chart.units.filter (·.parent.isNone)).map (·.uid)

/-- Erases the slots that satisfy p in one control cycle, with every copy (R195). -/
def eraseWhere (s : State) (p : Nat → Bool) : State :=
  let s := { s with kv := { s.kv with slots := s.kv.slots.mapVal (fun i x => if p i then x.erased else x) } }
  (unitIds s).foldl (fun s u => reachUnit s p u) s

def eraseSlots (s : State) (l : List Nat) : State := eraseWhere s l.contains

/-- A function owns a slot: it lies in its range and is EMPTY or has it as OWNER (R188). -/
def ownsSlot (s : State) (f i : Nat) : Bool :=
  (slotOwner s i).any (fun r => r.func == f) && ((getSlot s i).kind == 0 || (getSlot s i).own == f)

/-- Scrubs every key register whose owner is the function (R207). -/
def scrubOwner (s : State) (f : Nat) : State :=
  ((s.units.filter (fun e => e.2.key.any (fun k => k.own == f))).map (·.1)).foldl scrubUnit s

/-- ERASE_FN (R207): every slot that the function owns. -/
def eraseFn (s : State) (f : Nat) : State := scrubOwner (eraseWhere s (ownsSlot s f)) f

/-- ERASE_ALL (R208): every slot at once; K_VLT cleared; the scrub runs. -/
def eraseVault (s : State) : State :=
  let s := eraseWhere s (fun _ => true)
  { s with kv := { s.kv with kvlt := none, ready := false, erasing := true, scrubAt := some s.clk.meridian } }

/-! ## Contexts -/

/-- Crypto-erase (R115): every word unreadable from this moment, also of a context that a unit holds (R108); the scrub runs. -/
def eraseCtx (s : State) : State :=
  { s with
   units := s.units.mapVal (fun _ u => { u with job := u.job.map (fun j => { j with ctxRef := none, dirty := false }) })
   sc := { s.sc with
    std := [], cmp := [], wb := [], kctx := none, ready := false, erasing := true, scrubAt := some s.clk.meridian,
    scrubLeft := 0x200000 } }

/-! ## Every secret (R205) -/

/-- A unit after the strobe: key register and working state zeroed; the operand state of a SEALED unit too. -/
def zeroUnit (s : State) (uid : Nat) (u : Uni) : Uni :=
  let sealed := ((unitRec s uid).map (·.sealed)).getD false
  { scrubKey u with
    vault := false
    ar := if sealed then { u.ar with valid := [], loaded := [], carry := false, cmd := none, busy := false } else u.ar }

/-- Operand memory without the tiles of SEALED units. -/
def zeroSealed (s : State) : List Host.Cell :=
  (List.range 32).foldl (fun m n => if tileSealed s n then Memory.zero m (n * 0x40000) 0x40000 else m) s.opmem

/-- The actions of R205 for root cycles 1 to 20, and the scrubs that follow: no slot and no context is readable. A vault command
that runs ends with BUSY 0 and RESULT as it stood (R206; DESIGN CHOICE, log 65). -/
def zeroize (s : State) : State :=
  let s := eraseCtx s
  let s := ((s.units.filter (fun e => e.2.key.isSome)).map (·.1)).foldl countScrub s
  { s with
    units := s.units.mapVal (fun i u => zeroUnit s i u),
    opmem := zeroSealed s,
    kv := { s.kv with
      slots := s.kv.slots.mapVal (fun _ x => x.erased), kvlt := none, kopr := none,
      ready := false, erasing := true, scrubAt := some s.clk.meridian, attValid := false, dAtt := none,
      drbg := s.kv.drbg.map (fun d => { d with seeded := false }), cmd := none, busy := false } }

/-! ## Stops without a record -/

/-- What a unit runs stops at once: a service leaves its unit in SCRUB (R228), any other job leaves its unit. -/
def stopUnit (s : State) (uid : Nat) : State :=
  let u := getUni s uid
  match u.job with
  | none => s
  | some _ =>
    if ((unitRec s uid).map (·.cls)).getD 0 = 2 then abortService s uid
    else setUni s uid { u with job := none, active := false }

/-- Running jobs stop without a record (R205). -/
def dropJobs (s : State) : State := (s.units.map (·.1)).foldl stopUnit s

/-- A host command that an alarm stops: ALARM_ABORT, and the unit stays in SCRUB (R228). -/
def alarmCmd (s : State) (uid : Nat) : State :=
  if (getUni s uid).ar.cmd.isSome then
    let s := abortCmd s uid stAlarm 0
    let u := getUni s uid
    setUni s uid { u with st := if u.st = 4 then 4 else 2, scrubAt := s.clk.meridian, relScrub := false }
  else s

/-- An alarm with ERASE stops every job and every host command (R205, R228). -/
def alarmStop (s : State) : State := (s.units.map (·.1)).foldl alarmCmd (dropJobs s)

end Sys2Proof.Machine
end

