-- ==== Sys2Proof/Machine/KeySlots.lean ====
section
/-!
DEFINITION. Vault slots: attribute words (R190, R191), a write of a slot (R192), the access at load (R193, R194).
-/

namespace Sys2Proof.Machine

/-! ## Attribute words -/

def atEngine (a : Word) : Nat := wfld a 0 4
def atUsage (a : Word) : Nat := wfld a 4 9
def atType (a : Word) : Nat := wfld a 16 4
def atOrigin (a : Word) : Bool := wbit a 20
def atExport (a : Word) : Bool := wbit a 21

/-- An attribute word from its fields. -/
def mkAttr (engine usage type : Nat) (origin exprt : Bool) : Word :=
  word (engine + 16 * usage + 2 ^ 16 * type + 2 ^ 20 * b2n origin + 2 ^ 21 * b2n exprt)

/-- The bits of a are among those of b. -/
def within (a b : Nat) : Bool := a &&& b == a

/-- ENGINE and USAGE bits that a type allows (R191); usage bits are counted from encrypt. -/
def typeAllows (t : Nat) : Nat × Nat :=
  match t with
  | 0 => (0b1011, 0b110111111)
  | 1 => (0b1001, 0b110111111)
  | 2 => (0b0010, 0b010110000)
  | 3 => (0b0100, 0b001001010)
  | 4 | 5 | 6 => (0b0100, 0b011000000)
  | 7 => (0b0100, 0b001000000)
  | 8 => (0b0100, 0b010000000)
  | 9 | 10 | 11 => (0b0100, 0b000000010)
  | 12 | 13 | 14 => (0b0100, 0b001000000)
  | _ => (0, 0)

/-- Octets of an EC field element or scalar. -/
def ecLen (c : Nat) : Nat := if c = 0 then 32 else if c = 1 then 48 else 66

/-- Length of a PRIV record of a type other than RSA (R241). -/
def privLen (t : Nat) : Nat :=
  match t with
  | 4 => 32
  | 5 => 48
  | 6 => 66
  | 7 | 8 => 32
  | 9 | 10 | 11 => 64
  | _ => 32

/-- Key lengths of a type (R191, R241). -/
def klenOk (t klen : Nat) : Bool :=
  match t with
  | 0 => klen == 16 || klen == 24 || klen == 32
  | 1 => klen == 16 || klen == 24
  | 2 => decide (16 ≤ klen ∧ klen ≤ 64)
  | 3 => klen == 644 || klen == 964 || klen == 1284 || klen == 2564
  | 15 => false
  | _ => klen == privLen t

/-- An attribute word and key length meet R191; reserved bits are 0 (R190). -/
def attrOk (a : Word) (klen : Nat) : Bool :=
  let al := typeAllows (atType a)
  wfld a 13 3 == 0 && wfld a 22 10 == 0 && atEngine a != 0 && atUsage a != 0 && within (atEngine a) al.1 &&
    within (atUsage a) al.2 && klenOk (atType a) klen

/-! ## Writing a slot (R192) -/

def newGen (g : Nat) : Nat := if g = 0xFFFF then 1 else g + 1

/-- The global slot of a function's local number. -/
def slotAt (s : State) (func n : Nat) : Option Nat :=
  match funcRec s func with
  | some f => if n < f.vltCount then some (f.vltBase + n) else none
  | none => none

/-- Extension slots of a record. -/
def extOf (klen : Nat) : Nat := cdiv klen 104

/-- The key of a slot; of a PRIV head the record that its extension slots carry (R189). -/
def slotKey (s : State) (i : Nat) : Bytes :=
  let x := getSlot s i
  if x.kind = 2 then (((List.range x.ref).flatMap (fun k => (getSlot s (i + k + 1)).key)).take x.klen) else x.key

/-- The 128 bytes of a slot (R189). -/
def slotBytes (x : Slot) : Bytes :=
  let head := toLE 4 x.attr.toNat ++ toLE 2 x.gen ++ toLE 2 (x.own + 2 ^ 14 * x.kind) ++ toLE 2 x.klen ++ padTo 3 x.kcv ++ zeros 3 ++
    toLE 4 x.invcnt ++ toLE 4 x.ref
  if x.kind = 3 then head ++ padTo 104 x.key
  else head ++ zeros 8 ++ padTo 64 (if x.kind = 2 then x.pubh else x.key) ++ zeros 32

/-- Writes a KEY slot, or a PRIV record with its extensions, in one cycle: an extension slot repeats ATTR, GEN and OWN of its
head and carries 104 bytes of the record. Its REF is the one of the field table, with the index counted from 1; its KLEN and KCV
are 0 (DESIGN CHOICE, log 55). -/
def putSlot (s : State) (i : Nat) (attr : Word) (key pubh : Bytes) : State :=
  match slotOwner s i with
  | none => s
  | some f =>
    let g := newGen (getSlot s i).gen
    let t := atType attr
    if t < 3 then setSlot s i ⟨attr, g, f.func, 1, key.length, kcvOf t key [], 0, 0, key, [], false⟩
    else
      let n := extOf key.length
      let s := setSlot s i ⟨attr, g, f.func, 2, key.length, kcvOf t key pubh, 0, n, [], pubh, false⟩
      (List.range n).foldl (fun s k =>
        setSlot s (i + k + 1) ⟨attr, g, f.func, 3, 0, [0, 0, 0], 0, (i - f.vltBase) + 2 ^ 16 * (k + 1), (key.drop (104 * k)).take 104,
          [], false⟩) s

/-! ## The access at load (R193, R194) -/

/-- What an operation asks of a key: local number, generation, function, ENGINE bit, USAGE bits, type and length. -/
structure KeyAsk where
  slot : Nat
  gen : Nat
  func : Nat
  engine : Nat
  usage : Nat
  types : List Nat
  /-- lengths in bytes; empty for any -/
  lens : List Nat
  deriving DecidableEq, Repr

/-- KV_PARITY counts an error once for a slot's content. -/
def slotParity (s : State) (i : Nat) : State :=
  let x := getSlot s i
  if x.badSeen then s
  else setSlot { s with kv := { s.kv with parity := sat32 s.kv.parity } } i { x with badSeen := true }

/-- Steps 4 to 10: status and DETAIL, or 0. -/
def slotJudge (x : Slot) (k : KeyAsk) : Nat × Nat :=
  if x.kind = 3 then (stKeyAttr, 0x0903)
  else if x.gen ≠ k.gen then (stKeyStale, 0x0904)
  else if x.kind = 0 then (if x.gen = 0 then (stKeyAttr, 0x0905) else (stKeyRevoked, 0x0906))
  else if x.own ≠ k.func then (stKeyAttr, 0x0907)
  else if !(atEngine x.attr).testBit k.engine then (stKeyAttr, 0x0908)
  else if !within k.usage (atUsage x.attr) then (stKeyAttr, 0x0909)
  else if !k.types.contains (atType x.attr) || !(k.lens.isEmpty || k.lens.contains x.klen) then (stKeyAttr, 0x090A)
  else (0, 0)

/-- The access: status, DETAIL and the key it delivers. -/
def vaultAccess (s : State) (k : KeyAsk) (bad : Bool) : State × Nat × Nat × Option KeyReg :=
  if !s.kv.ready then (s, stKeyRevoked, 0x090C, none)
  else match slotAt s k.func k.slot with
    | none => (s, stKeyAttr, 0x0901, none)
    | some i =>
      let x := getSlot s i
      if bad || x.badSeen then (slotParity s i, stPoison, 0x0902, none)
      else
        let j := slotJudge x k
        if j.1 = 0 then (s, 0, 0, some ⟨i, x.gen, k.func, slotKey s i⟩) else (s, j.1, j.2, none)

/-- Reserves a slot invocation (R131, R194). -/
def bumpInv (s : State) (i : Nat) : State :=
  let x := getSlot s i
  setSlot s i { x with invcnt := x.invcnt + 1 }

end Sys2Proof.Machine
end

