-- ==== Sys2Proof/Machine/Pay.lean ====
section
/-!
DEFINITION. Payment composite operation codes (R162 to R182): header-check conditions, key checks, PIN blocks, offset
verification, DUKPT, key block import, MACs, application cryptograms.
-/

namespace Sys2Proof.Machine

/-! ## Fields (R165, R169, R174, R177 to R179) -/

def pOp (d : Bytes) : Nat := fld (dOpcode d) 8 4
def pVar (d : Bytes) : Nat := fld (dOpcode d) 4 4
def pDir (d : Bytes) : Nat := fld (dOpcode d) 0 4
def pKey2 (d : Bytes) : Nat := leAt d 0x28 4
def pSfmt (d : Bytes) : Nat := leAt d 0x2C 1
def pDfmt (d : Bytes) : Nat := leAt d 0x2D 1
def pIsPin (d : Bytes) : Bool := pOp d ≤ 1
def pIsMac (d : Bytes) : Bool := pOp d == 3
/-- ISO 9797-1 algorithm 3. -/
def pAlg3 (d : Bytes) : Bool := decide (pVar d ≤ 1)
def pDukpt (d : Bytes) : Bool := (pIsPin d && pVar d == 1) || (pIsMac d && pVar d == 6)
def pDkType (d : Bytes) : Nat := if pIsMac d then leAt d 0x2B 1 else if pOp d = 0 then leAt d 0x2E 1 else leAt d 0x2D 1
def pTagLen (d : Bytes) : Nat := leAt d 0x28 1
def pMflags (d : Bytes) : Nat := leAt d 0x29 1
def pInvLim (d : Bytes) : Nat := leAt d 0x2A 1
def pFinal (d : Bytes) : Bool := dCtx d == noCtx || (pMflags d).testBit 0
def pTgt (d : Bytes) : Nat := leAt d 0x28 4
/-- EMV_AC: AES codes, and the ARPC method. -/
def pEmvAes (d : Bytes) : Bool := pVar d % 2 == 1
def pArpc (d : Bytes) : Nat := pVar d / 2

/-- Bytes of a PIN block of a format (R169). -/
def pinLen (fmt : Nat) : Nat := if fmt = 4 then 16 else 8
def fmtOk (fmt : Nat) : Bool := fmt == 0 || fmt == 1 || fmt == 3 || fmt == 4

/-- Bytes of the expected MAC in the input. -/
def pTagIn (d : Bytes) : Nat := if pIsMac d && pDir d == 1 && pFinal d then pTagLen d else 0
def pText (d : Bytes) : Nat := dLen d - pTagIn d
def pBlk (d : Bytes) : Nat := if pAlg3 d then 8 else 16

/-- Bytes of the ARPC that an EMV_AC code writes (R179). -/
def arpcLen (d : Bytes) : Nat := if pDir d = 0 then 0 else if pArpc d = 1 then 8 else if pArpc d = 2 then 4 else 0

/-! ## Header check (R165, R180); PY_POLICY decides the TDES codes -/

def payKnown (policy : Nat) (d : Bytes) : Bool :=
  let alg3 := policy.testBit 2
  match pOp d with
  | 0 | 1 => decide (pVar d ≤ 1) && pDir d == 0
  | 2 => pVar d == 0 && pDir d == 0
  | 3 => decide (pDir d ≤ 1) && ((alg3 && decide (pVar d ≤ 1)) || pVar d == 2 || pVar d == 6)
  | 4 => (alg3 || pEmvAes d) &&
    ((pDir d == 0 && decide (pVar d ≤ 1)) || (pDir d == 1 && decide (pVar d ≤ 5)))
  | _ => false

def allZero (b : Bytes) : Bool := b.all (· == 0)

def payParamOk (d : Bytes) : Bool :=
  let dk := if pDukpt d then decide (pDkType d ≤ 2) else pDkType d == 0
  match pOp d with
  | 0 => dk && fmtOk (pSfmt d) && fmtOk (pDfmt d) && allZero (slice d 0x2F 17)
  | 1 => dk && fmtOk (pSfmt d) && allZero (slice d 0x2E 2) && dDst d == 0
  | 2 => allZero (slice d 0x2A 22) && dDst d == 0
  | 3 => dk && decide (pMflags d < 2) && allZero (slice d 0x2C 4) && allZero (slice d 0x3C 4) &&
    (pDukpt d || allZero (slice d 0x30 12))
  | _ => (pDir d == 1 || allZero (slice d 0x38 8)) && (pDir d == 1 || dDst d == 0)

def payInvMax (d : Bytes) : Nat := if pAlg3 d then 21 else 48

/-- The limits of R180; its DST_LEN column is an upper one, a shorter DST_LEN is DST_SHORT at load (DESIGN CHOICE, log 65). -/
def payLenOk (d : Bytes) : Bool :=
  let n := dLen d
  let k := if pDukpt d then 12 else 0
  match pOp d with
  | 0 => n == pinLen (pSfmt d) + 12 + k && decide (dDstLen d ≤ pinLen (pDfmt d))
  | 1 => n == pinLen (pSfmt d) + 20 + k && dDstLen d == 0
  | 2 => decide (64 ≤ n ∧ n ≤ 2048) && dDstLen d == 0
  | 3 => decide (n ≤ 2 ^ 28 ∧ dAuxLen d = 0 ∧ 4 ≤ pTagLen d ∧ pTagLen d ≤ pBlk d ∧ pTagIn d ≤ n ∧ pInvLim d ≤ payInvMax d)
  | _ => decide (1 ≤ n ∧ n ≤ 1024 ∧ dDstLen d ≤ arpcLen d)

/-- Accepted forms (R165). -/
def payForm (d : Bytes) (kind : Nat) : Bool := pIsMac d && decide (pVar d ≤ 2) && kind == 1

/-- Usage bits asked of KEY and KEY2, counted from encrypt (R165, R190). -/
def payUsage (d : Bytes) : Nat :=
  if pDukpt d then 0x080
  else match pOp d with
  | 0 | 1 => 0x102
  | 2 => 0x008
  | 3 => if pDir d = 0 then 0x010 else 0x020
  | _ => 0x080

def payUsage2 (d : Bytes) : Nat := if pOp d = 0 then 0x101 else 0x120

/-! ## Checks at load -/

def pNoOut (d : Bytes) : Bool := dDst d == 0 && dDstLen d == 0

/-- Output length; a PAY_MAC generation may keep its tag in RESULT (R178, R124). -/
def payAssumed (d : Bytes) : Nat :=
  match pOp d with
  | 0 => pinLen (pDfmt d)
  | 3 => if pDir d = 0 ∧ pFinal d = true ∧ pNoOut d = false then pTagLen d else 0
  | 4 => arpcLen d
  | _ => 0

/-- Nibble i of a byte string, high nibble first. -/
def nib (b : Bytes) (i : Nat) : Nat :=
  let x := (b.getD (i / 2) 0).toNat
  if i % 2 = 0 then x / 16 else x % 16

def nibs (b : Bytes) : List Nat := (List.range (2 * b.length)).map (nib b)

/-- Bytes of a nibble string. -/
def ofNibs (l : List Nat) : Bytes :=
  (List.range (l.length / 2)).map (fun i => BitVec.ofNat 8 (16 * l.getD (2 * i) 0 + l.getD (2 * i + 1) 0))

/-- DOWNGRADE, DEC_TABLE and DST_SHORT (R172, R175, R180). -/
def payPre (policy : Nat) (d : Bytes) : Option Nat :=
  let tab := nibs (slice d 0x30 8)
  if pOp d = 0 ∧ ((pDfmt d = 1 ∧ pSfmt d ≠ 1 ∧ policy.testBit 0 = false) ∨
      (pSfmt d = 4 ∧ pDfmt d ≠ 4 ∧ policy.testBit 1 = false)) then some 0x0310
  else if pOp d = 1 ∧ !(tab.all (· ≤ 9) && (List.range 10).all (tab.contains ·)) then some 0x0311
  else if dDstLen d < payAssumed d then some 0x0314
  else none

/-- TDES keys of 128 or 192 bits with equal parts (R166). -/
def partsBad (x : Slot) : Bool :=
  atType x.attr == 1 && (x.key.take 8 == (x.key.drop 8).take 8 ||
    (x.klen == 24 && (x.key.drop 8).take 8 == (x.key.drop 16).take 8))

/-- A zone key fits a format. -/
def zoneOk (x : Slot) (fmt : Nat) : Bool := if fmt = 4 then atType x.attr == 0 else atType x.attr == 1

/-- The algorithms of R166 for KEY; a KBPK is judged with its block. -/
def payAlgOk (d : Bytes) (x : Slot) : Bool :=
  if pDukpt d then
    atType x.attr == 0 && decide (16 + 8 * pDkType d ≤ x.klen) && (pIsMac d || pSfmt d == 4)
  else match pOp d with
  | 0 | 1 => zoneOk x (pSfmt d)
  | 2 => true
  | 3 => if pAlg3 d then atType x.attr == 1 && x.klen == 16 else atType x.attr == 0
  | _ => if pEmvAes d then atType x.attr == 0 else atType x.attr == 1 && x.klen == 16

def payAlg2Ok (d : Bytes) (x : Slot) : Bool := if pOp d = 0 then zoneOk x (pDfmt d) else decide (atType x.attr ≤ 1)

/-- R166: KEY and, in a PIN code, KEY2. -/
def payKeyBad (d : Bytes) (x : Slot) (y : Option Slot) : Option Nat :=
  if !payAlgOk d x || y.any (fun y => !payAlg2Ok d y) then some 0x0308
  else if partsBad x || y.any partsBad then some 0x0309
  else none

/-- The load draws random bits for the destination block (R170). -/
def payDraws (d : Bytes) : Bool := pOp d == 0 && pDfmt d != 0

/-- The counter check of a PAY_MAC context. -/
def payReserve (d : Bytes) (hasCtx : Bool) (c : Ctx) : Option Ctx :=
  let starts := pIsMac d && !c.msg && (dLen d != 0 || pFinal d)
  if hasCtx ∧ starts = true ∧ 2 ^ c.invLim ≤ c.inv + 1 then none
  else some (if starts then { c with msg := true, inv := c.inv + 1 } else c)

/-! ## PIN blocks (R167, R170, R171) -/

/-- One block of the algorithm of a key: type 0 AES, else TDES. -/
def zEnc (t : Nat) (key b : Bytes) : Bytes := if t = 0 then Config.aesEnc key b else tdesEnc key b
def zDec (t : Nat) (key b : Bytes) : Bytes := if t = 0 then Config.aesDec key b else tdesDec key b

/-- PAN digits of a valid PAN record. -/
def panOf (r : Bytes) : Option (List Nat) :=
  let n := (r.getD 0 0).toNat
  let l := nibs ((r.drop 1).take 10)
  if 12 ≤ n ∧ n ≤ 19 ∧ (l.take n).all (· ≤ 9) ∧ (l.drop n).all (· == 15) then some (l.take n) else none

/-- The PAN field of formats 0 and 3, and of format 4. -/
def panField (fmt : Nat) (pan : List Nat) : Bytes :=
  if fmt = 4 then ofNibs ((pan.length - 12) :: pan ++ List.replicate (31 - pan.length) 0)
  else if fmt = 1 then zeros 8
  else
    let l := pan.dropLast.drop (pan.length - 13)
    ofNibs (List.replicate (16 - l.length) 0 ++ l)

/-- The PIN field of a decrypted block. -/
def pinField (fmt t : Nat) (key blk : Bytes) (pan : List Nat) : Bytes :=
  if fmt = 4 then zDec t key (xorB (zDec t key blk) (panField 4 pan))
  else xorB (zDec t key blk) (panField fmt pan)

/-- The checks of R171: DETAIL, or the PIN digits. -/
def pinCheck (fmt : Nat) (field : Bytes) : Nat ⊕ List Nat :=
  let l := nibs field
  let n := l.getD 1 0
  let fill := ((l.take 16).drop 2).drop n
  if l.getD 0 0 ≠ fmt then .inl 0x0301
  else if n < 4 ∨ 12 < n then .inl 0x0302
  else if ((l.drop 2).take n).any (9 < ·) then .inl 0x0303
  else if (fmt = 0 ∧ fill.any (· ≠ 15)) ∨ (fmt = 3 ∧ fill.any (· < 10)) ∨ (fmt = 4 ∧ fill.any (· ≠ 10)) then .inl 0x0304
  else .inr ((l.drop 2).take n)

/-- The destination block: rand gives 16 bytes for fill nibbles and the random half. A format 3 fill nibble is ten and a drawn
nibble modulo 6 (R170; DESIGN CHOICE, log 65). -/
def pinBuild (fmt t : Nat) (key : Bytes) (pin pan : List Nat) (rand : Bytes) : Bytes :=
  let r := (nibs rand).drop 16
  let head := fmt :: pin.length :: pin
  let k := 16 - head.length
  if fmt = 4 then
    let f := ofNibs (head ++ List.replicate k 10) ++ rand.take 8
    zEnc t key (xorB (zEnc t key f) (panField 4 pan))
  else
    let fill := if fmt = 0 then List.replicate k 15 else if fmt = 1 then r.take k else (r.take k).map (fun x => 10 + x % 6)
    zEnc t key (xorB (ofNibs (head ++ fill)) (panField fmt pan))

/-- KSN counter conditions (R168). -/
def ksnOk (ksn : Bytes) : Bool :=
  let c := beNat (ksn.drop 8)
  c != 0 && decide (((List.range 32).filter (fun i => c.testBit i)).length ≤ 16)

/-- The one-bits of a transaction counter, the most significant first. -/
def ksnBits (ksn : Bytes) : List Nat := (List.range 32).reverse.filter (fun i => (beNat (ksn.drop 8)).testBit i)

/-- The intermediate keys from a key on: one for each one-bit, derived from the bits taken so far, n before the first. -/
def dukptMids (id : Bytes) (len : Nat) : List Nat → Nat → Bytes → List Bytes
  | [], _, _ => []
  | b :: l, n, key =>
    let n := n + 2 ^ b
    let k := Config.dukptStep key 1 len (id ++ toBE 4 n)
    k :: dukptMids id len l n k

/-- The keys of R176 in their order: initial key, intermediate keys, working key. Usage 0 PIN encryption, 1 and 2 message
authentication, generate and verify. -/
def dukptChain (bdk ksn : Bytes) (dk usage : Nat) : List Bytes :=
  let id := (ksn.drop 4).take 4
  let first := Config.dukptStep bdk 0 bdk.length (ksn.take 8)
  let mids := dukptMids id bdk.length (ksnBits ksn) 0 first
  let last := mids.getLastD first
  first :: mids ++ [Config.dukptStep last (2 + usage) (16 + 8 * dk) (ksn.drop 4)]

/-- The 18 derivation steps of two blocks each: a derived key enters the key register behind its step, steps beyond the working
key run on discarded data (R164, R176). -/
def dukptBlocks (chain : List Bytes) : List PlanBlock :=
  (List.range 36).map (fun i => if i % 2 = 1 then { PlanBlock.of [] with key := chain[i / 2]? } else PlanBlock.of [])

/-- The keys that a DUKPT code derives. -/
def payChain (d key ksn : Bytes) (usage : Nat) : List Bytes :=
  if pDukpt d then dukptChain key ksn (pDkType d) usage else []

/-- Working key: the zone key, or the DUKPT key for the usage. -/
def payWork (d key ksn : Bytes) (usage : Nat) : Bytes := (payChain d key ksn usage).getLastD key

/-- The blocks that come before the first computation under the working key. -/
def payLead (d : Bytes) (chain : List Bytes) : List PlanBlock := if pDukpt d then dukptBlocks chain else []

/-- A block after which the PIN register holds b (R162; its layout is log 48). -/
def withPin (b : Bytes) (x : PlanBlock) : PlanBlock := { x with tile := some { Tile.zero with pin := padTo 32 b } }

/-- The plan of a PIN code: derivation, decryption, the vault swap, the blocks under KEY2. The PIN register holds pin behind the
decryption, where a PIN block is found to be bad, and pin2 at the end. -/
def pinPlan (d : Bytes) (chain : List Bytes) (pin pin2 : Bytes) (src2 : Nat) (out : Bytes) (status detail : Nat)
    (result : Bytes) : Plan :=
  let src := (if pSfmt d = 4 then [PlanBlock.of []] else []) ++ [{ withPin pin (.of []) with found := status == stPin }]
  let dst := if src2 = 1 then [{ withPin pin2 (.of out) with swap := true }]
    else [{ PlanBlock.of [] with swap := true }, withPin pin2 (.of out)]
  ⟨payLead d chain ++ src ++ dst, status, detail, 0, result, none, none, false⟩

/-- PIN_XLATE and PIN_VERIFY on their input: t, t2 and key2 belong to KEY and KEY2. -/
def payPin (d key : Bytes) (t t2 : Nat) (key2 rand input : Bytes) : Plan :=
  let n := pinLen (pSfmt d)
  let verify := pOp d == 1
  let off := (input.drop (n + 12)).take 8
  let ksn := input.drop (n + 12 + (if verify then 8 else 0))
  let src2 := if !verify && pDfmt d == 4 then 2 else 1
  let t := if pDukpt d then 0 else t
  let chain := payChain d key ksn 0
  let fail := fun (st dt : Nat) => pinPlan d chain [] [] src2 [] st dt []
  match panOf ((input.drop n).take 12) with
  | none => fail stFormat 0x0313
  | some pan =>
    let field := pinField (pSfmt d) t (payWork d key ksn 0) (input.take n) pan
    if pDukpt d ∧ ksnOk ksn = false then pinPlan d [] [] [] src2 [] stFormat 0x0312 []
    else if verify ∧ ((nibs (off.take 6)).any (9 < ·) ∨ allZero (off.drop 6) = false) then fail stFormat 0x0313
    else match pinCheck (pSfmt d) field with
    | .inl e => fail stPin e
    | .inr pin =>
      let reg := padTo 16 field ++ panField (pSfmt d) pan
      if verify then
        let v := slice d 0x38 8
        let x := if t2 = 0 then (Config.aesEnc key2 (padTo 16 v)).take 8 else tdesEnc key2 v
        let tab := nibs (slice d 0x30 8)
        let want := (List.range pin.length).map (fun i => (tab.getD (nib x i) 0 + nib off i) % 10)
        let reg2 := padTo 16 field ++ ofNibs ((List.range 16).map (fun i => tab.getD (nib x i) 0))
        if want = pin then pinPlan d chain reg reg2 src2 [] 0 0 [1] else pinPlan d chain reg reg2 src2 [] stAuthFail 0x0320 []
      else pinPlan d chain reg (padTo 16 field ++ panField (pDfmt d) pan) src2 (pinBuild (pDfmt d) t2 key2 pin pan rand) 0 0 []

/-! ## MACs (R178) -/

/-- ISO 9797-1 algorithm 3 from a chaining value: K and K' are the halves of the key. -/
def alg3End (key iv : Bytes) (l : List Bytes) : Bytes :=
  let k := key.take 8
  Config.desEnc k (Config.desDec (key.drop 8) (cbcMac (Config.desEnc k) iv l))

/-- Padding method 1 or 2 of the held bytes. -/
def macPad (two : Bool) (b : Bytes) : List Bytes :=
  let b := if two then b ++ [0x80] else if b.isEmpty then zeros 8 else b
  chunks 8 (b ++ zeros ((8 - b.length % 8) % 8))

def alg3Of (two : Bool) (key msg : Bytes) : Bytes := alg3End key (zeros 8) (macPad two msg)

/-- A CMAC-like run: the tag, and the context of a message that goes on. The KSN in PARAM is checked once the input is there, before
a block is computed (DESIGN CHOICE, log 55). -/
def payMac (d : Bytes) (c : Ctx) (key0 input : Bytes) : Plan :=
  let n := pBlk d
  let chain := payChain d key0 (slice d 0x30 12) (1 + pDir d)
  let key := chain.getLastD key0
  let text := input.take (pText d)
  let r := c.dataBytes % n
  let held := if c.dataBytes ≠ 0 ∧ r = 0 then n else r
  let buf := slice c.engine 0x10 held ++ text
  let k := (buf.length - 1) / n
  let enc := if pAlg3 d then Config.desEnc (key.take 8) else Config.aesEnc key
  let mac := cbcMac enc (slice c.engine 0 n) (chunks n (buf.take (n * k)))
  let rest := buf.drop (n * k)
  let tag := (if pAlg3 d then alg3End key mac (macPad (pVar d == 1) rest) else cmacLast enc mac rest).take (pTagLen d)
  let fixed := 2
  let blocks := fun (m : Nat) (o : Bytes) => payLead d chain ++ List.replicate m (PlanBlock.of []) ++ [(.of o)]
  let done := { c with msg := false, dataBytes := 0, engine := zeros c.engine.length }
  let go := { c with
    engine := patchBytes (patchBytes c.engine 0 (padTo 16 mac)) 0x10 (padTo 16 rest), dataBytes := c.dataBytes + pText d }
  if pDukpt d ∧ ksnOk (slice d 0x30 12) = false then ⟨[], stFormat, 0x0312, 0, [], none, none, false⟩
  else if dLen d = 0 ∧ pFinal d = false then ⟨[], 0, 0, 0, [], some c, none, false⟩
  else if !pFinal d then ⟨List.replicate k (PlanBlock.of []), 0, 0, 0, [], some go, none, false⟩
  else if pDir d = 0 then ⟨blocks (k + fixed - 1) (if pNoOut d then [] else tag), 0, 0, 0, tag.take 8, some done, none, false⟩
  else if input.drop (pText d) = tag then ⟨blocks (k + fixed - 1) [], 0, 0, 0, [1], some done, none, false⟩
  else ⟨blocks (k + fixed - 1) [], stAuthFail, 0x0360, 0, [],
    some (if c.dataBytes = 0 then done else { go with st := 2, cause := stAuthFail }), none, false⟩

/-- The partial-block register with a context of a PAY_MAC descriptor (R178). -/
def payTile (d : Bytes) (c : Ctx) : Tile :=
  let n := pBlk d
  let r := c.dataBytes % n
  { Tile.zero with part := slice c.engine 0x10 (if c.dataBytes ≠ 0 ∧ r = 0 then n else r) }

/-! ## EMV application cryptograms (R179) -/

def emvMac (aes : Bool) (key msg : Bytes) : Bytes := if aes then (aesCmac key msg).take 8 else alg3Of true key msg

def payEmv (d imk input : Bytes) : Plan :=
  let aes := pEmvAes d
  let mk := Config.emvMaster aes imk (slice d 0x28 8)
  let sk := Config.emvSession aes mk (slice d 0x30 2)
  let ac := emvMac aes sk input
  let arqc := slice d 0x38 8
  let x := xorB arqc (padTo 8 (slice d 0x32 2))
  let arpc := if pArpc d = 1 then (if aes then (Config.aesEnc mk (padTo 16 x)).take 8 else tdesEnc mk x)
    else (emvMac aes sk (arqc ++ slice d 0x34 4)).take 4
  let extra := if pDir d = 0 then 0 else if pArpc d = 1 then 3 else if pArpc d = 2 then 2 else 0
  let n := 6 + cdiv input.length (if aes then 16 else 8)
  let step : PlanBlock := .of []
  let first := [step, { step with key := some mk }, step, { step with key := some sk }] ++ List.replicate (n - 5) step
  let blocks := fun (o : Bytes) =>
    if extra = 3 then first ++ [step, step, { step with key := some mk }, .of o]
    else first ++ List.replicate extra step ++ [.of o]
  if pDir d = 0 then ⟨blocks [], 0, 0, 0, ac, none, none, false⟩
  else if ac ≠ arqc then ⟨blocks [], stAuthFail, 0x0350, 0, [], none, none, false⟩
  else if pArpc d = 0 then ⟨blocks [], 0, 0, 0, [1], none, none, false⟩
  else ⟨blocks arpc, 0, 0, 0, arpc, none, none, false⟩

/-! ## Key block import (R177, R198) -/

def hexVal (b : Byte) : Option Nat :=
  let n := b.toNat
  if 48 ≤ n ∧ n ≤ 57 then some (n - 48) else if 65 ≤ n ∧ n ≤ 70 then some (n - 55) else none

/-- The number a string of digits of a base spells. -/
def numOf (base : Nat) (b : Bytes) : Option Nat :=
  b.foldl (fun acc x => match acc, hexVal x with
    | some n, some v => if v < base then some (n * base + v) else none
    | _, _ => none) (some 0)

/-- Bytes of a hexadecimal string. -/
def hexBytes (b : Bytes) : Option Bytes :=
  if b.length % 2 = 1 then none
  else (chunks 2 b).foldl (fun acc x => match acc, numOf 16 x with
    | some l, some v => some (l ++ [BitVec.ofNat 8 v])
    | _, _ => none) (some [])

/-- Length of the header with its optional blocks: n blocks from offset o. -/
def optEnd (b : Bytes) : Nat → Nat → Option Nat
  | 0, o => some o
  | n + 1, o =>
    match numOf 16 (slice b (o + 2) 2) with
    | some 0 => match numOf 16 (slice b (o + 4) 2) with
      | some k => match numOf 16 (slice b (o + 6) k) with
        | some l => if 6 + k ≤ l ∧ o + l ≤ b.length then optEnd b n (o + l) else none
        | none => none
      | none => none
    | some l => if 4 ≤ l ∧ o + l ≤ b.length then optEnd b n (o + l) else none
    | none => none

/-- ENGINE and USAGE of a key usage before the mode of use (R198): encrypt 1, decrypt 2, wrap 4, unwrap 8, MAC
generate 16, MAC verify 32, derive 128, PIN 256. -/
def kbUsage (u : Bytes) : Option (Nat × Nat) :=
  if u = [0x42, 0x30] then some (8, 128)
  else if u = [0x44, 0x30] then some (1, 3)
  else if u = [0x45, 0x30] then some (8, 128)
  else if u = [0x4B, 0x30] then some (9, 12)
  else if u = [0x4B, 0x31] then some (8, 8)
  else if u = [0x4D, 0x33] then some (8, 48)
  else if u = [0x4D, 0x36] then some (9, 48)
  else if u = [0x50, 0x30] then some (8, 259)
  else if u = [0x56, 0x31] then some (8, 288)
  else none

/-- What a mode of use keeps. -/
def kbMode (m : Byte) : Option Nat :=
  match m.toNat with
  | 0x42 | 0x4E => some 0x1FF
  | 0x45 => some 21
  | 0x44 => some 42
  | 0x47 => some 16
  | 0x56 => some 32
  | 0x43 => some 48
  | 0x58 => some 128
  | _ => none

/-- The attribute word of a header, none for KB_HEADER; the length is judged with the key. -/
def kbAttr (h : Bytes) : Option Word :=
  let u := slice h 5 2
  let m := h.getD 8 0
  let t := if h.getD 7 0 = 0x41 then some 0 else if h.getD 7 0 = 0x54 then some 1 else none
  let e := if h.getD 11 0 = 0x45 then some true
    else if h.getD 11 0 = 0x4E ∨ h.getD 11 0 = 0x53 then some false else none
  let v1 := u == [0x56, 0x31]
  let xOk := u == [0x42, 0x30] || u == [0x45, 0x30]
  match kbUsage u, kbMode m, t, e with
  | some (eng, use), some keep, some t, some e =>
    let use' := use &&& keep
    if use' = 0 ∨ (v1 ∧ m ≠ 0x56 ∧ m ≠ 0x43 ∧ m ≠ 0x4E) ∨ (m = 0x58 ∧ xOk = false) ∨
        !(within eng (typeAllows t).1 && within use' (typeAllows t).2) then none
    else some (mkAttr eng use' t true e)
  | _, _, _, _ => none

/-- The key of the decrypted data, when its length fits the algorithm. -/
def kbKey (t : Nat) (p : Bytes) : Option Bytes :=
  let bits := beNat (p.take 2)
  if bits % 8 = 0 ∧ klenOk t (bits / 8) = true ∧ bits / 8 + 2 ≤ p.length then some ((p.drop 2).take (bits / 8)) else none

/-- The blocks of an import: four that derive the two keys, the MAC over n grains under the second with its two fixed blocks, then
the decryption under the first; the imported key ends in the PIN register (R162, R181). -/
def kbBlocks (ks : Bytes × Bytes) (n : Nat) (key : Bytes) : List PlanBlock :=
  let step : PlanBlock := .of []
  let mac := [step, step, step, { step with key := some ks.2 }] ++ List.replicate (n + 1) step
  mac ++ [{ step with key := some ks.1 }] ++ List.replicate (n - 1) step ++ [withPin key step]

/-- KB_IMPORT from step 2 of R177. One that fails computes six blocks, whatever step fails (DESIGN CHOICE, log 55). -/
def payImport (d kbpk : Bytes) (t : Nat) (slot : Nat) (gens : List Nat) (input : Bytes) : Plan :=
  let h := input.take 16
  let dVer := h.getD 0 0 == 0x44
  let n := if dVer then 16 else 8
  let fail := fun (st dt : Nat) => (⟨List.replicate 6 (.of []), st, dt, 0, [], none, none, false⟩ : Plan)
  let end_ := match numOf 10 (slice h 12 2) with
    | some k => optEnd input k 16
    | none => none
  if h.getD 0 0 ≠ 0x44 ∧ h.getD 0 0 ≠ 0x42 then fail stFormat 0x0341
  else match numOf 10 (slice h 1 4), end_ with
  | some l, some e =>
    let body := hexBytes ((input.take (l - 2 * n)).drop e)
    let mac := hexBytes (input.drop (l - 2 * n))
    match body, mac with
    | some body, some mac =>
      if l ≠ dLen d ∨ l < e + 2 * n ∨ body.isEmpty = true ∨ body.length % n ≠ 0 then fail stFormat 0x0342
      else if !(if dVer then t == 0 else t == 1 && kbpk.length == 24) then fail stKeyAttr 0x0308
      else match kbAttr h with
      | none => fail stKeyAttr 0x0343
      | some attr =>
        let ks := Config.kbKeys dVer kbpk
        let enc := if dVer then Config.aesEnc else tdesEnc
        let dec := if dVer then Config.aesDec else tdesDec
        if cmacOf (enc ks.2) n (input.take e ++ body) ≠ mac then fail stAuthFail 0x0340
        else match kbKey (atType attr) (cbcDec (dec ks.1) mac (chunks n body)).2.flatten with
        | none => fail stFormat 0x0344
        | some key =>
          ⟨kbBlocks ks (cdiv (dLen d) (if dVer then 32 else 16)) key, 0, 0, 0, [], none, some ⟨slot, gens, attr, key, [], 1⟩, false⟩
    | _, _ => fail stFormat 0x0342
  | _, _ => fail stFormat 0x0342

end Sys2Proof.Machine
end

