-- ==== Sys2Proof/Machine/Hash.lean ====
section
/-!
DEFINITION. Hash and derivation operation codes (R144 to R157): header-check conditions, checks at load, messages,
and what a descriptor produces from its input.
-/

namespace Sys2Proof.Machine

/-! ## Fields (R146, R148) -/

def hMode (d : Bytes) : Nat := fld (dOpcode d) 8 4
def hAlg (d : Bytes) : Nat := fld (dOpcode d) 4 4
def hDir (d : Bytes) : Nat := fld (dOpcode d) 0 4
def hTagLen (d : Bytes) : Nat := leAt d 0x28 1
def hMflags (d : Bytes) : Nat := leAt d 0x29 1
def hInvLim (d : Bytes) : Nat := leAt d 0x2A 1
def hOutLen (d : Bytes) : Nat := leAt d 0x2C 4
def hTgt (d : Bytes) : Nat := leAt d 0x30 4
def hTgtAttr (d : Bytes) : Word := word (leAt d 0x34 4)
def hIsKdf (d : Bytes) : Bool := hMode d == 2 || hMode d == 3
def hFinal (d : Bytes) : Bool := dCtx d == noCtx || (hMflags d).testBit 0

/-- Tag length T of HMAC. -/
def hTag (d : Bytes) : Nat := if hTagLen d = 0 then algOut (hAlg d) else hTagLen d

/-- Bytes of the expected tag in the input (R149). -/
def hTagIn (d : Bytes) : Nat := if hMode d = 1 ∧ hDir d = 1 ∧ hFinal d = true then hTag d else 0

/-- Message bytes. -/
def hText (d : Bytes) : Nat := dLen d - hTagIn d

/-! ## Header check (R146 to R150) -/

def hashKnown (d : Bytes) : Bool :=
  match hMode d with
  | 0 => hDir d == 0 && algOk (hAlg d)
  | 1 => decide (hDir d ≤ 1) && algOk (hAlg d) && !algShake (hAlg d)
  | 2 => hDir d == 0 && algOk (hAlg d) && !algShake (hAlg d)
  | 3 => hDir d == 0 && (hAlg d == 0 || hAlg d == 2)
  | _ => false

def hashParamOk (d : Bytes) : Bool :=
  let kdf := hIsKdf d
  let shake := hMode d == 0 && algShake (hAlg d)
  decide (hMflags d < 2) && leAt d 0x2B 1 == 0 && leAt d 0x38 8 == 0 && (hTagLen d == 0 || hMode d == 1) &&
    (hOutLen d == 0 || shake || kdf) && (kdf || (hTgt d == 0 && hTgtAttr d == 0)) && decide (hTgt d < 2 ^ 16) &&
    (hMode d != 0 || dNoKey d) && (!kdf || (dDst d == 0 && dDstLen d == 0 && !dDstScr d))

def hashLenOk (d : Bytes) : Bool :=
  let n := dLen d
  decide (hInvLim d ≤ 64) &&
  (if hIsKdf d then
    decide (n ≤ 1024 ∧ dAuxLen d ≤ n) && hOutLen d % 8 == 0 && decide (16 ≤ hOutLen d ∧ hOutLen d ≤ 64)
  else
    dAuxLen d == 0 && decide (n ≤ 2 ^ 28) && (hFinal d || n % algRate (hAlg d) == 0) &&
      (hMode d != 1 || hTagLen d == 0 || decide (4 ≤ hTagLen d ∧ hTagLen d ≤ algOut (hAlg d))) &&
      decide (hTagIn d ≤ n) && (!algShake (hAlg d) || decide (1 ≤ hOutLen d ∧ hOutLen d ≤ 1024)))

/-- NO_CONTEXT: every code but HASH needs a key. -/
def hashKeyOk (d : Bytes) : Bool := hMode d == 0 || !dNoKey d

/-- Accepted forms (R151). -/
def hashForm (d : Bytes) (kind : Nat) : Bool :=
  match kind with
  | 0 => !hIsKdf d && algSha2 (hAlg d)
  | 1 => !hIsKdf d && decide (hAlg d ≤ 1)
  | _ => !hIsKdf d

/-- Usage bit (R146, R190), key types and lengths (R147). -/
def hashUsage (d : Bytes) : Nat := if hMode d = 1 then 4 + hDir d else 7

def hashTypes (d : Bytes) : List Nat × List Nat :=
  if hMode d = 3 then ([0], [if hAlg d = 0 then 16 else 32]) else ([2], [])

/-! ## Messages (R152, R153) -/

def hStarts (d : Bytes) (c : Ctx) : Bool := !c.msg && (dLen d != 0 || hFinal d)
def hIdle (d : Bytes) : Bool := dLen d == 0 && !hFinal d

/-- Bytes of state (R151). -/
def hStateLen (alg : Nat) : Nat := if alg ≤ 1 then 32 else if algSha2 alg then 64 else 200

/-- A generation that keeps its output in RESULT (R149). -/
def hNoOut (d : Bytes) : Bool := dDst d == 0 && dDstLen d == 0

/-- Output bytes: digest, SHAKE output or tag. -/
def hOutBytes (d : Bytes) : Nat :=
  if hMode d = 1 then (if hDir d = 0 then hTag d else 0)
  else if hIsKdf d then 0 else if algShake (hAlg d) then hOutLen d else algOut (hAlg d)

/-- The output length of R149; it depends on no context state. -/
def hashAssumed (d : Bytes) : Nat := if hFinal d && !hNoOut d then hOutBytes d else 0

/-- The checks of R150. -/
def hashPre (d : Bytes) (c : Ctx) : Option Nat :=
  if dDstLen d < hashAssumed d then some 0x0202
  else if !hIsKdf d ∧ (if hAlg d ≤ 1 then 2 ^ 61 else 2 ^ 64) ≤ c.dataBytes + hText d then some 0x0203
  else none

/-- The counter check (R152). -/
def hashReserve (d : Bytes) (hasCtx : Bool) (c : Ctx) : Option Ctx :=
  if hIsKdf d ∨ hStarts d c = false then some c
  else if hasCtx ∧ 2 ^ c.invLim ≤ c.inv + 1 then none
  else some { c with msg := true, inv := c.inv + 1 }

/-! ## Digests -/

/-- The registers of a hash tile after these blocks of a message: its state, permuted on for the output bytes of SHAKE, and the last
block in the input buffer (R144; log 48). -/
def hashTileOn (alg : Nat) (st : Bytes) (l : List Bytes) (out : Nat) : Tile :=
  let x := hashBlocks alg st l
  { Tile.zero with
    round := if algShake alg then Nat.repeat Config.keccakF ((out - 1) / algRate alg) x else x, buf := l.getLast?.getD [] }

/-- The padded blocks of the outer hash of HMAC. -/
def hmacOuter (alg : Nat) (key inner : Bytes) : List Bytes :=
  chunks (algRate alg) (hashPad alg (hmacPad alg key 0x5C ++ inner) (algRate alg + inner.length))

/-- The last block of a plan leaves these working registers. -/
def leaveTile (t : Tile) (l : List PlanBlock) : List PlanBlock :=
  l.mapIdx (fun i b => if i + 1 = l.length then { b with tile := some t } else b)

/-- State before the first message block: HMAC compresses K xor ipad first. -/
def hStart (d key : Bytes) : Bytes :=
  if hMode d = 1 then hashBlock (hAlg d) (hashInit (hAlg d)) (hmacPad (hAlg d) key 0x36) else hashInit (hAlg d)

/-- Message bytes before the first message block, for the padding. -/
def hLead (d : Bytes) : Nat := if hMode d = 1 then algRate (hAlg d) else 0

/-- Compressions or permutations of the descriptor (R161). -/
def hCount (d : Bytes) (fresh : Bool) (tail : Nat) : Nat :=
  let r := algRate (hAlg d)
  let lead := if hMode d = 1 ∧ fresh = true then 1 else 0
  if hFinal d then
    let pad := (hashPad (hAlg d) (zeros (tail % r)) 0).length / r
    let out := if algShake (hAlg d) then (hOutLen d - 1) / r else 0
    lead + tail / r + pad + out + (if hMode d = 1 then 2 else 0)
  else lead + tail / r

/-- What a HASH or HMAC descriptor does. -/
def digestPlan (d : Bytes) (c : Ctx) (key input : Bytes) : Plan :=
  let alg := hAlg d
  let text := input.take (hText d)
  let fresh := c.dataBytes == 0
  let st := if fresh then hStart d key else slice c.engine 0 (hStateLen alg)
  let w := wholeBlocks (algRate alg) text
  let n := hCount d fresh text.length
  let open_ := hashTileOn alg st w.1 0
  let st := hashBlocks alg st w.1
  if hIdle d then ⟨[], 0, 0, 0, [], some c, none, false⟩
  else if !hFinal d then
    ⟨leaveTile open_ (List.replicate n (.of [])), 0, 0, 0, [],
      some { c with engine := padTo c.engine.length st, dataBytes := c.dataBytes + text.length }, none, false⟩
  else
    let total := hLead d + c.dataBytes + text.length
    let dig := hashEnd alg st w.2 total (hOutLen d)
    let done_ := if hMode d = 1 then hashTileOn alg (hashInit alg) (hmacOuter alg key dig) 0
      else hashTileOn alg st (chunks (algRate alg) (hashPad alg w.2 total)) (hOutLen d)
    let out := if hMode d = 1 then (hashOf alg (hmacPad alg key 0x5C ++ dig) 0).take (hTag d) else dig
    let done := { c with msg := false, dataBytes := 0, engine := zeros c.engine.length }
    let blocks := fun (o : Bytes) => leaveTile done_ (List.replicate (n - 1) (PlanBlock.of []) ++ [(.of o)])
    if hDir d = 0 then ⟨blocks (if hNoOut d then [] else out), 0, 0, 0, out.take 8, some done, none, false⟩
    else if input.drop (hText d) = out then ⟨blocks [], 0, 0, 0, [1], some done, none, false⟩
    else
      ⟨blocks [], stAuthFail, 0x0207, 0, [],
        some (if fresh then done else { c with st := 2, cause := stAuthFail, dataBytes := c.dataBytes + text.length }),
        none, false⟩

/-- The working registers of a tile with a context of a hash descriptor: the state between blocks (R145). -/
def hashTile (d : Bytes) (c : Ctx) : Tile := { Tile.zero with round := slice c.engine 0 (hStateLen (hAlg d)) }

/-! ## Derivation (R156, R157, R200) -/

/-- The derived key. -/
def kdfOut (d key input : Bytes) : Bytes :=
  let label := input.take (dAuxLen d)
  let ctx := input.drop (dAuxLen d)
  if hMode d = 3 then kdf108 (aesCmac key) 16 label ctx (hOutLen d)
  else kdf108 (hmac (hAlg d) key) (algOut (hAlg d)) label ctx (hOutLen d)

/-- PRF work of the descriptor (R161). -/
def kdfCount (d : Bytes) : Nat :=
  let m := 9 + dLen d
  if hMode d = 3 then 1 + cdiv (hOutLen d) 16 * cdiv m 16
  else
    let r := algRate (hAlg d)
    let pads := fun (n : Nat) => n / r + (hashPad (hAlg d) (zeros (n % r)) 0).length / r
    2 + cdiv (hOutLen d) (algOut (hAlg d)) * (pads m + pads (algOut (hAlg d)))

/-- The attribute word of a derived key: ORIGIN is the base key's. -/
def kdfAttr (d : Bytes) (base : Word) : Word :=
  let a := hTgtAttr d
  mkAttr (atEngine a) (atUsage a) (atType a) (atOrigin base) (atExport a)

/-- TGT_ATTR meets R200 for a key of len bytes under a base key; reserved bits that are set do not (R148; DESIGN CHOICE, log 65). -/
def deriveOk (a base : Word) (len : Nat) : Bool :=
  decide (atType a ≤ 2) && attrOk a len && (!atExport a || atExport base)

/-- The registers of the tile after the last PRF call of a derivation: of CMAC the AES state and the block in the input buffer, of
HMAC those of its outer hash (R144; log 48). -/
def kdfTile (d key input : Bytes) : Tile :=
  let msg := fun (h : Nat) => kdfMsg (input.take (dAuxLen d)) (input.drop (dAuxLen d)) (hOutLen d) (cdiv (hOutLen d) h)
  if hMode d = 3 then
    let m := msg 16
    { Tile.zero with aes := aesCmac key m, buf := m.drop ((m.length - 1) / 16 * 16) }
  else
    let alg := hAlg d
    let inner := hashOf alg (hmacPad alg key 0x36 ++ msg (algOut alg)) 0
    hashTileOn alg (hashInit alg) (hmacOuter alg key inner) 0

/-- A KDF descriptor: the derived key goes to the target only. -/
def kdfPlan (d : Bytes) (key input : Bytes) (slot : Nat) (gens : List Nat) (base : Word) : Plan :=
  ⟨leaveTile (kdfTile d key input) (List.replicate (kdfCount d) (.of [])), 0, 0, 0, [], none,
    some ⟨slot, gens, kdfAttr d base, kdfOut d key input, [], 1⟩, false⟩

end Sys2Proof.Machine
end

