-- ==== Sys2Proof/Machine/Services.lean ====
section
/-!
DEFINITION. Public-key service codes (R235 to R248): header-check conditions, inputs and outputs, special inputs, what
a service computes. Each command that its Helm issues is a block of the plan (R221, log 16).
-/

namespace Sys2Proof.Machine

/-! ## Arithmetic -/

/-- b^e mod n; the fuel counts the bits of e. -/
def powModAux : Nat → Nat → Nat → Nat → Nat
  | 0, _, _, n => 1 % n
  | k + 1, b, e, n =>
    let h := powModAux k (b * b % n) (e / 2) n
    if e % 2 = 1 then b * h % n else h

def powMod (b e n : Nat) : Nat := powModAux (Nat.log2 e + 1) (b % n) e n

/-! ## Fields (R235, R237) and sizes (R238) -/

def sSvc (d : Bytes) : Nat := fld (dOpcode d) 8 4
def sPset (d : Bytes) : Nat := fld (dOpcode d) 4 4
def sVar (d : Bytes) : Nat := fld (dOpcode d) 0 4
def sTgt (d : Bytes) : Nat := leAt d 0x28 4
def sTgtAttr (d : Bytes) : Word := word (leAt d 0x2C 4)
def sHash (d : Bytes) : Nat := leAt d 0x30 1
def sSlen (d : Bytes) : Nat := leAt d 0x31 1
def sFlags (d : Bytes) : Nat := leAt d 0x32 1
def sDest (d : Bytes) : Bool := (sFlags d).testBit 0
def sPubE (d : Bytes) : Nat := leAt d 0x34 4

def rsaK (p : Nat) : Nat := [256, 384, 512, 1024].getD p 0
def ekLen (p : Nat) : Nat := [800, 1184, 1568].getD p 0
def ctLen (p : Nat) : Nat := [768, 1088, 1568].getD p 0
def pkLen (p : Nat) : Nat := [1312, 1952, 2592].getD p 0
def sigLen (p : Nat) : Nat := [2420, 3309, 4627].getD p 0
def sHashLen (d : Bytes) : Nat := [0, 32, 48, 64].getD (sHash d) 0

/-- Writes a shared secret: ECDH, X25519, ML-KEM. -/
def sShared (d : Bytes) : Bool := sSvc d == 3 || sSvc d == 5 || sSvc d == 6

/-- Uses TGT. -/
def sUsesTgt (d : Bytes) : Bool := sSvc d == 8 || (sShared d && sDest d)

def sKeygen (d : Bytes) : Bool := sSvc d == 8

/-- Loads a vault key. -/
def sPrivate (d : Bytes) : Bool :=
  match sSvc d with
  | 0 | 3 | 5 => true
  | 2 | 4 | 7 => sVar d == 0
  | 6 => sVar d == 1
  | _ => false

/-! ## Header check -/

def serviceKnown (d : Bytes) : Bool :=
  let p := sPset d
  let v := sVar d
  match sSvc d with
  | 0 | 1 => decide (p ≤ 3 ∧ v ≤ 3)
  | 2 => decide (p ≤ 2 ∧ v ≤ 1)
  | 3 => decide (p ≤ 2 ∧ v = 0)
  | 4 => decide (p = 0 ∧ v ≤ 1)
  | 5 => decide (p = 0 ∧ v = 0)
  | 6 | 7 => decide (p ≤ 2 ∧ v ≤ 1)
  | 8 => decide (3 ≤ p ∧ p ≤ 14) && (if p = 3 then decide (v ≤ 3) else v == 0)
  | _ => false

/-- RSA with an encoding. -/
def sEncoded (d : Bytes) : Bool := decide (sSvc d ≤ 1) && sVar d != 0

def serviceParamOk (d : Bytes) : Bool :=
  let e := sPubE d
  (if sUsesTgt d then decide (sTgt d < 2 ^ 16) else sTgt d == 0 && sTgtAttr d == 0) &&
    (if sEncoded d then decide (1 ≤ sHash d ∧ sHash d ≤ 3) else sHash d == 0) &&
    (if sEncoded d && sVar d == 2 then decide (sSlen d ≤ sHashLen d) else sSlen d == 0) &&
    decide (sFlags d < 4) && leAt d 0x33 1 == 0 && leAt d 0x38 8 == 0 &&
    (if sSvc d = 1 then e % 2 == 1 && decide (3 ≤ e)
     else if sKeygen d && sPset d == 3 then e % 2 == 1 && decide (65537 ≤ e) else e == 0) &&
    (sPrivate d || dNoKey d)

/-- LEN of the column of R238. -/
def serviceInOk (d : Bytes) : Bool :=
  let n := dLen d
  let k := rsaK (sPset d)
  let h := sHashLen d
  let m := ecLen (sPset d)
  match sSvc d with
  | 0 => n == if sVar d = 1 ∨ sVar d = 2 then h else k
  | 1 => if sVar d = 0 then n == 2 * k else if sVar d = 3 then decide (k ≤ n ∧ n ≤ 2 * k - 2 * h - 2) else n == 2 * k + h
  | 2 => if sVar d = 0 then decide (20 ≤ n ∧ n ≤ 64) else decide (4 * m + 20 ≤ n ∧ n ≤ 4 * m + 64)
  | 3 => n == 2 * m
  | 4 => if sVar d = 0 then decide (n ≤ 4096) else decide (96 ≤ n ∧ n ≤ 4192)
  | 5 => n == 32
  | 6 => n == if sVar d = 0 then ekLen (sPset d) else ctLen (sPset d)
  | 7 => n == if sVar d = 0 then 64 else pkLen (sPset d) + sigLen (sPset d) + 64
  | _ => n == 0

/-- Bytes of a shared secret. -/
def sSecretLen (d : Bytes) : Nat := if sSvc d = 3 then ecLen (sPset d) else 32

/-- The output length of R238; for OAEP_DEC the capacity asked. -/
def serviceAssumed (d : Bytes) : Nat :=
  let k := rsaK (sPset d)
  let z := if sDest d then 0 else sSecretLen d
  match sSvc d with
  | 0 => if sVar d = 3 then k - 2 * sHashLen d - 2 else k
  | 1 => if sVar d = 0 ∨ sVar d = 3 then k else 0
  | 2 => if sVar d = 0 then 2 * ecLen (sPset d) else 0
  | 3 | 5 => z
  | 4 => if sVar d = 0 then 64 else 0
  | 6 => (if sVar d = 0 then ctLen (sPset d) else 0) + z
  | 7 => if sVar d = 0 then sigLen (sPset d) else 0
  | _ =>
    match sPset d with
    | 3 => rsaK (sVar d) + 4
    | 4 | 5 | 6 => 1 + 2 * ecLen (sPset d - 4)
    | 7 | 8 => 32
    | 9 | 10 | 11 => ekLen (sPset d - 9)
    | _ => pkLen (sPset d - 12)

def serviceLenOk (d : Bytes) : Bool :=
  serviceInOk d && (if serviceAssumed d = 0 then dDst d == 0 && dDstLen d == 0
    else decide (serviceAssumed d ≤ dDstLen d)) &&
    !(sSvc d == 3 && sPset d == 2 && sDest d)

def serviceKeyOk (d : Bytes) : Bool := !sPrivate d || !dNoKey d

/-! ## Keys and targets -/

/-- Usage bit, counted from encrypt (R235). -/
def serviceUsage (d : Bytes) : Nat :=
  match sSvc d with
  | 0 => if sVar d = 0 ∨ sVar d = 3 then 1 else 6
  | 3 | 5 => 7
  | 6 => 1
  | _ => 6

def serviceTypes (d : Bytes) : List Nat × List Nat :=
  match sSvc d with
  | 0 => ([3], [[644, 964, 1284, 2564].getD (sPset d) 0])
  | 2 | 3 => ([4 + sPset d], [])
  | 4 => ([7], [])
  | 5 => ([8], [])
  | 6 => ([9 + sPset d], [])
  | _ => ([12 + sPset d], [])

/-- R239: EXPORT for a secret in clear; base is the private key's attribute word, if any. -/
def serviceAttrBad (d : Bytes) (base : Option Word) : Option Nat :=
  let a := sTgtAttr d
  if sShared d && !sDest d && base.any (fun b => !atExport b) then some 0x0B05
  else if sShared d && sDest d then
    if atType a == 2 && attrOk a (sSecretLen d) && base.all (fun b => !atExport a || atExport b) then none else some 0x0B06
  else if sKeygen d then
    if atType a == sPset d && atEngine a == 4 && atUsage a != 0 && within (atUsage a) (typeAllows (sPset d)).2 &&
        wfld a 13 3 == 0 && wfld a 22 10 == 0 then none else some 0x0B06
  else none

/-- KLEN of a generated record. -/
def genLen (d : Bytes) : Nat := if sPset d = 3 then [644, 964, 1284, 2564].getD (sVar d) 0 else privLen (sPset d)

/-! ## What a service computes -/

/-- An outcome: status, DETAIL, special, output, RESULT, record or secret for the target with the public encoding. -/
structure SvcOut where
  status : Nat
  detail : Nat
  special : Bool
  out : Bytes
  result : Bytes
  target : Option (Bytes × Bytes)
  deriving DecidableEq, Repr

def svcOk (out result : Bytes) : SvcOut := ⟨0, 0, false, out, result, none⟩
def svcBad (status detail : Nat) : SvcOut := ⟨status, detail, true, [], [], none⟩
def svcNone : SvcOut := ⟨0, 0x0B20, false, [], [], none⟩
def svcTgt (out key pub : Bytes) : SvcOut := ⟨0, 0, false, out, [], some (key, pub)⟩

/-- Part i of an RSA record after e, k/2 bytes each. -/
def rsaPart (rec : Bytes) (k i : Nat) : Nat := beNat (slice rec (4 + i * (k / 2)) (k / 2))

/-- The private operation with its checks (R248): c is the representative. Base and exponents are blinded from the three random
slots (R242): r, r_1, r_2 from their first bytes (log 16). -/
def rsaPrivate (rec : Bytes) (k c : Nat) (rand : Bytes) : Nat ⊕ (Nat × Nat) :=
  let e := beNat (rec.take 4)
  let p := rsaPart rec k 0
  let q := rsaPart rec k 1
  let n := p * q
  let qi := rsaPart rec k 4
  if c = 0 then .inr (stRange, 0x0B10)
  else if n ≤ c then .inr (stRange, 0x0B11)
  else if p % 2 = 0 ∨ q % 2 = 0 ∨ p < 3 ∨ q < 3 ∨ qi * q % p ≠ 1 then .inr (stKeyAttr, 0x0B15)
  else
    let l := rand.length / 3
    let r := leNat (rand.take l) % (n - 1) + 1
    let b := c * powMod r e n % n
    let m1 := powMod b (rsaPart rec k 2 + leNat (slice rand l 8) * (p - 1)) p
    let m2 := powMod b (rsaPart rec k 3 + leNat (slice rand (2 * l) 8) * (q - 1)) q
    let m := m2 + q * (qi * (m1 + p - m2 % p) % p)
    if powMod m e n = b then .inl (m * invMod r n % n) else .inr (stMismatch, 0x0B21)

def svcRsaPriv (d rec input rand : Bytes) : SvcOut :=
  let k := rsaK (sPset d)
  let c := if sVar d = 1 ∨ sVar d = 2 then
      beNat (Config.pkcsEncode (sVar d) (sHash d) k input (if sVar d = 2 then slice rand (2 * (rand.length / 3) + 8) (sSlen d) else []))
    else beNat input
  match rsaPrivate rec k c rand with
  | .inr (st, dt) => svcBad st dt
  | .inl m =>
    if sVar d = 3 then
      match Config.oaepDecode (sHash d) k (toBE k m) with
      | some t => svcOk t ([1, 0] ++ toLE 2 t.length)
      | none => svcBad stAuthFail 0x0B18
    else svcOk (toBE k m) [1]

def svcRsaPub (d input rand : Bytes) : SvcOut :=
  let k := rsaK (sPset d)
  let n := beNat (input.take k)
  let rest := input.drop k
  let x := if sVar d = 3 then beNat (Config.pkcsEncode 3 (sHash d) k rest (rand.take (sHashLen d))) else beNat (rest.take k)
  let y := powMod x (sPubE d) n
  if n % 2 = 0 ∨ n ≤ x then svcBad stRange 0x0B11
  else if sVar d = 0 ∧ x = 0 then svcBad stRange 0x0B10
  else if sVar d = 0 ∨ sVar d = 3 then svcOk (toBE k y) [1]
  else if x = 0 then svcBad stAuthFail 0x0B16
  else if Config.pkcsVerify (sVar d) (sHash d) k (sSlen d) (toBE k y) (rest.drop k) then svcOk [] [1]
  else svcBad stAuthFail 0x0B17

def ecKeyBad (c : Nat) (key : Bytes) : Bool := beNat key == 0 || decide (Config.ecOrder c ≤ beNat key)

/-- A peer or public point (R248). -/
def ecPointBad (c x y : Nat) : Option (Nat × Nat) :=
  if Config.ecPrime c ≤ x ∨ Config.ecPrime c ≤ y then some (stRange, 0x0B11)
  else if x = 0 ∧ y = 0 then some (stPoint, 0x0B13)
  else if !onCurve c x y then some (stPoint, 0x0B12)
  else none

/-- Random slot i of n (R241, R242). -/
def randSlot (rand : Bytes) (n i : Nat) : Bytes := slice rand (i * (rand.length / n)) (rand.length / n)

/-- Secret coefficients held as two additive shares modulo q, drawn anew from the random slots (R242). -/
def shares (q : Nat) (l : List Nat) (rand : Bytes) : List (Nat × Nat) :=
  l.mapIdx (fun i x => (Config.shareMask rand i % q, (x + q - Config.shareMask rand i % q) % q))

/-- What the shares stand for. -/
def joined (q : Nat) (l : List (Nat × Nat)) : List Nat := l.map (fun x => (x.1 + x.2) % q)

/-- An ECDSA signature from four random slots: nonce, scalar blinding, Z, b (log 16). -/
def ecSigned (c : Nat) (key digest rand : Bytes) : Nat × Nat :=
  ecdsaSign c (beNat key) digest ((randSlot rand 4 0).take (ecLen c + 8)) (randSlot rand 4 2) (leNat ((randSlot rand 4 1).take 8))
    (leNat (randSlot rand 4 3) % (Config.ecOrder c - 1) + 1)

def svcEcdsa (d key input rand : Bytes) : SvcOut :=
  let c := sPset d
  let m := ecLen c
  if sVar d = 0 then
    if ecKeyBad c key then svcBad stKeyAttr 0x0B15
    else
      let s := ecSigned c key input rand
      if s.1 = 0 ∨ s.2 = 0 then svcNone else svcOk (toBE m s.1 ++ toBE m s.2) [1]
  else
    let x := beNat (slice input 0 m)
    let y := beNat (slice input m m)
    let r := beNat (slice input (2 * m) m)
    let s := beNat (slice input (3 * m) m)
    let n := Config.ecOrder c
    match ecPointBad c x y with
    | some e => svcBad e.1 e.2
    | none =>
      if r = 0 ∨ s = 0 ∨ n ≤ r ∨ n ≤ s then svcBad stAuthFail 0x0B16
      else if ecdsaOk c x y (input.drop (4 * m)) r s then svcOk [] [1] else svcBad stAuthFail 0x0B17

/-- A shared secret goes to DST or to the target. -/
def svcSecret (d lead z : Bytes) : SvcOut := if sDest d then svcTgt lead z [] else svcOk (lead ++ z) [1]

/-- The scalar is blinded by a 64-bit random multiple of the group order; the ladder starts from a random Z (R242). -/
def svcEcdh (d key input rand : Bytes) : SvcOut :=
  let c := sPset d
  let m := ecLen c
  let x := beNat (slice input 0 m)
  let y := beNat (slice input m m)
  if ecKeyBad c key then svcBad stKeyAttr 0x0B15
  else match ecPointBad c x y with
  | some e => svcBad e.1 e.2
  | none => svcSecret d [] (toBE m (withZ (Config.ecPrime c)
      (Config.ecMulX c (beNat key + leNat ((randSlot rand 4 0).take 8) * Config.ecOrder c) (x, y)) (randSlot rand 4 1)))

/-- The order of the base point of edwards25519 (RFC 8032). -/
def edOrder : Nat := 2 ^ 252 + 27742317777372353535851937790883648493

/-- The prime of edwards25519 and of X25519. -/
def edPrime : Nat := 2 ^ 255 - 19

/-- Scalar and prefix of an Ed25519 seed (RFC 8032). -/
def edExpand (seed : Bytes) : Nat × Bytes :=
  let h := sha512 seed
  (leNat (h.take 32) % 2 ^ 254 / 8 * 8 + 2 ^ 254, h.drop 32)

def edPub (seed : Bytes) : Bytes := Config.edMulB (edExpand seed).1

/-- PureEdDSA (RFC 8032) from three random slots: the scalars r and s blinded by 64-bit multiples of the group order, and the Z of the
ladder (R242). -/
def edSign (seed msg rand : Bytes) : Bytes :=
  let x := edExpand seed
  let r := leNat (sha512 (x.2 ++ msg)) % edOrder + leNat ((randSlot rand 3 0).take 8) * edOrder
  let e := leNat (Config.edMulB r)
  let enc := toLE 32 (withZ edPrime (e % 2 ^ 255) (randSlot rand 3 2) + e / 2 ^ 255 * 2 ^ 255)
  let k := leNat (sha512 (enc ++ edPub seed ++ msg)) % edOrder
  enc ++ toLE 32 ((r + k * (x.1 + leNat ((randSlot rand 3 1).take 8) * edOrder)) % edOrder)

def svcEddsa (d key input rand : Bytes) : SvcOut :=
  if sVar d = 0 then svcOk (edSign key input rand) [1]
  else
    let a := slice input 0 32
    let r := slice input 32 32
    let s := slice input 64 32
    if !Config.edDecodes a then svcBad stPoint 0x0B12
    else if Config.edSmall a then svcBad stPoint 0x0B14
    else if edOrder ≤ leNat s then svcBad stAuthFail 0x0B16
    else if Config.edDecodes r && Config.edEquation a r s (input.drop 96) then svcOk [] [1]
    else svcBad stAuthFail 0x0B17

/-- X25519 with the scalar of a record, a big-endian string (R241), from a random projective Z (R242). -/
def x25519Of (key u rand : Bytes) : Bytes := toLE 32 (withZ edPrime (leNat (Config.x25519 key.reverse u)) rand)

def svcX25519 (d key input rand : Bytes) : SvcOut :=
  let z := x25519Of key input rand
  if z.all (· == 0) then svcBad stPoint 0x0B14 else svcSecret d [] z

/-- The secret coefficients of an ML-KEM key, held as two shares (R242). -/
def kemSecretOf (p : Nat) (key rand : Bytes) : List Nat := joined 3329 (shares 3329 (Config.kemSecret p key) rand)

/-- Those of an ML-DSA key. -/
def dsaSecretOf (p : Nat) (key rand : Bytes) : List Nat := joined 8380417 (shares 8380417 (Config.dsaSecret p key) rand)

/-- Decapsulation over the shares of the secret. -/
def kemOpen (p : Nat) (key ct rand : Bytes) : Bytes := Config.kemDecaps p (kemSecretOf p key rand) key ct

/-- The encapsulation key of a new key, over the shares of its secret. -/
def kemNew (p : Nat) (key rand : Bytes) : Bytes := Config.kemEk p (kemSecretOf p key rand) key

/-- The public key of a new ML-DSA key, over the shares of its secret. -/
def dsaNew (p : Nat) (key rand : Bytes) : Bytes := Config.dsaPk p (dsaSecretOf p key rand) key

def svcKem (d key input rand : Bytes) : SvcOut :=
  let p := sPset d
  if sVar d = 0 then
    if Config.kemEkOk p input then
      let x := Config.kemEncaps p input (rand.take 32)
      svcSecret d x.1 x.2
    else svcBad stRange 0x0B19
  else svcSecret d [] (kemOpen p key input rand)

/-- ML-DSA signing over the shares of the secret (R242): the first accepted one of the fixed attempts (R246). -/
def dsaSign (p : Nat) (key mu rnd rand : Bytes) : Option Bytes :=
  let x := dsaSecretOf p key rand
  (List.range ([52, 64, 47].getD p 0)).findSome? (Config.dsaAttempt p x key mu rnd)

def svcDsa (d key input rand : Bytes) : SvcOut :=
  let p := sPset d
  if sVar d = 0 then
    match dsaSign p key input (if (sFlags d).testBit 1 then zeros 32 else rand.take 32) (rand.drop 32) with
    | some s => svcOk s [1]
    | none => svcNone
  else if Config.dsaVerify p (slice input 0 (pkLen p)) (slice input (pkLen p) (sigLen p)) (input.drop (pkLen p + sigLen p)) then
    svcOk [] [1]
  else svcBad stAuthFail 0x0B17

/-- A prime for key generation: the first of the fixed number of candidates that passes (R245). -/
def rsaPrime (size e : Nat) (rand : Bytes) : Option Nat :=
  let b := 4 * rsaK size
  ((List.range ([1024, 1536, 2048, 4096].getD size 0)).map (Config.rsaCandidate b e rand)).find? (Config.rsaPasses b)

/-- A new RSA record and its public encoding. -/
def genRsa (size e : Nat) (rand : Bytes) : Option (Bytes × Bytes) :=
  let k := rsaK size
  let h := k / 2
  match rsaPrime size e (rand.take (rand.length / 2)), rsaPrime size e (rand.drop (rand.length / 2)) with
  | some p, some q =>
    some (toBE 4 e ++ toBE h p ++ toBE h q ++ toBE h (invMod e (p - 1)) ++ toBE h (invMod e (q - 1)) ++
      toBE h (invMod q p), toBE k (p * q) ++ toBE 4 e)
  | _, _ => none

/-- The pairwise consistency test (R245): the new key signs and verifies, agrees with a peer, or encapsulates and decapsulates; none
where its signature has no result (R246). -/
def pairTest (d key pub rand : Bytes) : Option Bool :=
  let t := sPset d
  match t with
  | 3 =>
    let k := rsaK (sVar d)
    match rsaPrivate key k 2 rand with
    | .inl m => some (powMod m (sPubE d) (beNat (pub.take k)) == 2)
    | .inr _ => some false
  | 4 | 5 | 6 =>
    let c := t - 4
    let m := ecLen c
    let g := ecSigned c key (zeros 32) rand
    if g.1 = 0 ∨ g.2 = 0 then none
    else some (ecdsaOk c (beNat (slice pub 1 m)) (beNat (slice pub (1 + m) m)) (zeros 32) g.1 g.2)
  | 7 =>
    let g := edSign key (zeros 32) rand
    some (Config.edEquation pub (g.take 32) (g.drop 32) (zeros 32))
  | 8 =>
    let peer := (slice rand 32 32)
    some (x25519Of key (x25519Of peer (9 :: zeros 31) rand) rand == x25519Of peer pub rand)
  | 9 | 10 | 11 =>
    let x := Config.kemEncaps (t - 9) pub (slice rand 64 32)
    some (kemOpen (t - 9) key x.1 rand == x.2)
  | _ => (dsaSign (t - 12) key (zeros 64) (slice rand 32 32) (rand.drop 64)).map (fun g => Config.dsaVerify (t - 12) pub g (zeros 64))

/-- Key generation (R239, R241, R245): the record and the public encoding, once the consistency test has passed; CHECK_MISMATCH when
it fails (R410). -/
def svcKeygen (d rand : Bytes) : SvcOut :=
  let t := sPset d
  let mk := fun (key pub : Bytes) =>
    match pairTest d key pub rand with
    | some true => svcTgt pub key pub
    | some false => ⟨stMismatch, 0x0B21, false, [], [], none⟩
    | none => svcNone
  match t with
  | 3 => match genRsa (sVar d) (sPubE d) rand with
    | some x => mk x.1 x.2
    | none => svcNone
  | 4 | 5 | 6 =>
    let c := t - 4
    let m := ecLen c
    let k := beNat (rand.take (m + 8)) % (Config.ecOrder c - 1) + 1
    let q := Config.ecPub c k
    mk (toBE m k) ([0x04] ++ toBE m q.1 ++ toBE m q.2)
  | 7 => mk (rand.take 32) (edPub (rand.take 32))
  | 8 => mk (rand.take 32) (x25519Of (rand.take 32) (9 :: zeros 31) rand)
  | 9 | 10 | 11 => mk (rand.take 64) (kemNew (t - 9) (rand.take 64) (rand.drop 64))
  | _ => mk (rand.take 32) (dsaNew (t - 12) (rand.take 32) (rand.drop 32))

def svcRun (d key input rand : Bytes) : SvcOut :=
  match sSvc d with
  | 0 => svcRsaPriv d key input rand
  | 1 => svcRsaPub d input rand
  | 2 => svcEcdsa d key input rand
  | 3 => svcEcdh d key input rand
  | 4 => svcEddsa d key input rand
  | 5 => svcX25519 d key input rand
  | 6 => svcKem d key input rand
  | 7 => svcDsa d key input rand
  | _ => svcKeygen d rand

/-- Attribute word of the target (R239): the base key's ORIGIN, or 0. -/
def svcAttr (d : Bytes) (base : Option Word) : Word :=
  let a := sTgtAttr d
  mkAttr (atEngine a) (atUsage a) (atType a) ((base.map atOrigin).getD false) (atExport a)

/-- A block that is one command of the Helm; a LOAD carries the input bytes that it reads (R221, R222). -/
def helmBlock (input : Bytes) (w : Config.HelmWord) : PlanBlock := { PlanBlock.of [] with cmd := some (w, input.drop w.off) }

/-- The steps of 128 bytes in which an EDDSA service counts its message (R243). -/
def edSteps (d : Bytes) : Nat := if sSvc d = 4 then cdiv (if sVar d = 0 then dLen d else dLen d - 96) 128 else 0

/-- The plan of a service: the commands of its program, then the block that writes its output and target (R243). tgt is the target
slot with the generations at load. -/
def servicePlan (d key input rand : Bytes) (tgt : Option (Nat × List Nat)) (base : Option Word) (prog : List Config.HelmWord) :
    Plan :=
  let o := svcRun d key input rand
  let t := match o.target, tgt with
    | some (k, pub), some (i, g) => some ⟨i, g, svcAttr d base, k, sha384 pub, if sKeygen d then 2 else 1⟩
    | _, _ => none
  ⟨prog.map (helmBlock input) ++ [.of o.out], o.status, o.detail, 0, o.result, none, t, o.special⟩

end Sys2Proof.Machine
end

