-- ==== Sys2Proof/Machine/Header.lean ====
section
/-!
DEFINITION. What depends on the family of an operation code: the header check (R37), output lengths, key and context
demands, charges (R65, R139, R159, R163, R247).
-/

namespace Sys2Proof.Machine

/-! ## By family (R32): 1 cipher, 2 hash, 3 payment, 4 service -/

def famKnown (s : State) (d : Bytes) : Bool :=
  match dFamily d with
  | 1 => cipherKnown d
  | 2 => hashKnown d
  | 3 => payKnown s.chart.policy d
  | 4 => serviceKnown d
  | _ => false

def famParamOk (d : Bytes) : Bool :=
  match dFamily d with
  | 1 => cipherParamOk d
  | 2 => hashParamOk d
  | 3 => payParamOk d
  | _ => serviceParamOk d

def famLenOk (d : Bytes) : Bool :=
  match dFamily d with
  | 1 => cipherLenOk d
  | 2 => hashLenOk d
  | 3 => payLenOk d
  | _ => serviceLenOk d

/-- The operation has the key it needs (NO_CONTEXT). -/
def famKeyOk (d : Bytes) : Bool :=
  match dFamily d with
  | 1 | 3 => !dNoKey d
  | 2 => hashKeyOk d
  | _ => serviceKeyOk d

/-- The output length that the header check assumes (R34); a code that no class knows is assumed like a service (log 44). -/
def famAssumed (d : Bytes) : Nat :=
  match dFamily d with
  | 1 => cipherAssumed d
  | 2 => hashAssumed d
  | 3 => payAssumed d
  | _ => serviceAssumed d

def famForm (d : Bytes) (kind : Nat) : Bool :=
  match dFamily d with
  | 1 => cipherForm d kind
  | 2 => hashForm d kind
  | 3 => payForm d kind
  | _ => false

/-! ## The header check (R37) -/

/-- Reserved bits that every family shares. -/
def commonReserved (d : Bytes) : Bool :=
  decide (dCtl d < 64) && decide (dKsel d < 2) && (dCtx d == noCtx || (decide (dCtx d < 2 ^ 25) && fld (dCtx d) 21 2 != 3))

def addrOk (d : Bytes) : Bool :=
  decide (dSrc d < 2 ^ 52 ∧ dDst d < 2 ^ 52 ∧ dSrc d + dLen d ≤ 2 ^ 52 ∧ dDst d + dDstLen d ≤ 2 ^ 52) &&
    (dSrc d == 0 || (dLen d != 0 && !dSrcScr d)) && (dDst d == 0 || !dDstScr d || dDstAlso d)

/-- SCRATCH_USE: prev is the descriptor before, if any. -/
def scratchOk (d : Bytes) (prev : Option Bytes) (last : Bool) : Bool :=
  (dSrcScr d == (prev.map dDstScr).getD false) && !(last && dDstScr d) && (!dDstAlso d || dDstScr d) &&
    (!dDstScr d || decide (famAssumed d ≤ 2048)) &&
    (!dSrcScr d || prev.all (fun p => famAssumed p == dLen d))

def dClass (d : Bytes) : Nat := (familyClass (dFamily d)).getD 3

def classPool (c : ClassRec) (cls : Nat) : Nat := if cls = 0 then c.poolC else if cls = 1 then c.poolH else c.poolA

/-- The first failed condition of a descriptor, in table order; i is its index in the chain, k the class of its ring. A
code without an entry in the pool that the class names is unknown (R263). -/
def headerFault (s : State) (k : ClassRec) (d : Bytes) (prev : Option Bytes) (i : Nat) (last : Bool) : Option Nat :=
  let known := famKnown s d
  if i = 15 ∧ dChain d = true then some 2
  else if !commonReserved d || (known && !famParamOk d) then some 3
  else if !known || (costRec s (classPool k (dClass d)) (dOpcode d)).isNone then some 4
  else if !addrOk d then some 5
  else if !scratchOk d prev last then some 6
  else if !famLenOk d then some 7
  else if !famKeyOk d then some 8
  else none

/-- Header check of a chain: one answer per descriptor. -/
def headerCheck (s : State) (k : ClassRec) (l : List Bytes) : List (Option Nat) :=
  l.mapIdx (fun i d => headerFault s k d (if i = 0 then none else l[i - 1]?) i (i + 1 == l.length))

/-! ## Class, pool and charge -/

/-- KEY dword, or none under NOKEY. -/
def keyRef (d : Bytes) : Nat := if dNoKey d then 0xFFFFFFFF else leAt d 8 4

/-- A handle without its action. -/
def ctxName (d : Bytes) : Nat := if dCtx d = noCtx then noCtx else dCtx d % 2 ^ 23

/-- The unit already holds key and context from the descriptor before it in the segment (R139). -/
def holdsBoth (d : Bytes) (prev : Option Bytes) : Bool :=
  prev.any (fun p => keyRef p == keyRef d && ctxName p == ctxName d && dFamily p != 3) && dFamily d != 3

def readsHost (d : Bytes) (aux : Bool) : Bool := (dLen d != 0 && !dSrcScr d) || (aux && dAuxLen d != 0)

/-- H of R65: prev is the descriptor before it in the segment. -/
def dH (d : Bytes) (prev : Option Bytes) (aux staged : Bool) : Bool :=
  if staged then false
  else readsHost d aux || dClass d == 2 || !holdsBoth d prev

/-- W of R65; 0 without a cost entry. -/
def dCharge (s : State) (pool : Nat) (d : Bytes) (prev : Option Bytes) (staged : Bool) : Nat :=
  match costRec s pool (dOpcode d) with
  | some r =>
    let b := dLen d + (if r.aux then dAuxLen d else 0)
    r.base + r.step * cdiv b (2 ^ r.grainLog) + (if dH d prev r.aux staged then fabricR s else 0)
  | none => 0

/-- Charged bytes. -/
def dBytes (s : State) (pool : Nat) (d : Bytes) : Nat :=
  dLen d + (if ((costRec s pool (dOpcode d)).map (·.aux)).getD false then dAuxLen d else 0)

/-- A chain is staged (R36): one well-formed descriptor without a context, 1 to 64 bytes, STAGE in its cost entry. -/
def isStaged (s : State) (c : ClassRec) (l : List Bytes) : Bool :=
  match l with
  | [d] => (headerCheck s c l).all (·.isNone) && dCtx d == noCtx && !dSrcScr d && decide (1 ≤ dLen d ∧ dLen d ≤ 64) &&
    ((costRec s (classPool c (dClass d)) (dOpcode d)).map (·.stage)).getD false
  | _ => false

end Sys2Proof.Machine
end

