-- ==== Sys2Proof/Machine/Queues.lean ====
section
/-!
DEFINITION. Internal queues (R84 to R98): places, order, moves, parity and poison, fallback and its return,
watermark notices.
-/

namespace Sys2Proof.Machine

/-! ## Places (R85, R86) -/

/-- Entries of a place. -/
def placeCount (x : Pool) (place : Nat) : Nat := (x.queue.filter (·.place == place)).length

/-- Room of a place: 0 head, 1 tail, 2 middle, 3 and 4 the banks. -/
def placeCap (x : Pool) (place : Nat) : Nat :=
  match place with
  | 0 => 64
  | 1 => 64
  | 2 => 1024 * x.share
  | _ => 256

def placeFree (x : Pool) (place : Nat) : Bool := decide (placeCount x place < placeCap x place)

/-- The lowest free index of a place. -/
def freeLoc (x : Pool) (place : Nat) : Nat :=
  ((List.range (placeCount x place + 1)).find? (fun i => x.queue.all (fun e => e.place ≠ place || e.loc ≠ i))).getD 0

/-- IQ_POOL_CAP (R86). -/
def iqCap (x : Pool) : Nat := if x.fallback then 640 else 128 + 1024 * x.share

/-- Free room of a pool; none while the level stays above capacity. -/
def iqRoom (x : Pool) : Nat := iqCap x - iqLevel x

/-- The filling and the draining bank. -/
def fillPlace (x : Pool) : Nat := if x.fillBank then 4 else 3
def drainPlace (x : Pool) : Nat := if x.fillBank then 3 else 4

/-- Where the tail spills (R88). -/
def spillPlace (x : Pool) : Nat := if x.fallback then fillPlace x else 2

/-! ## Dispatch order (R72, R87) -/

/-- Entry a leaves before entry b. -/
def entryBefore (s : State) (a b : IqEntry) : Bool :=
  if a.chain = b.chain then decide (a.idx < b.idx)
  else match findChain s a.chain, findChain s b.chain with
    | some c, some d => before c d
    | some _, none => true
    | none, _ => false

/-- The entry of a place set that the head needs next. -/
def nextEntry (s : State) (l : List IqEntry) : Option IqEntry :=
  l.foldl (fun best e => match best with
    | none => some e
    | some b => if entryBefore s e b then some e else some b) none

/-! ## Fallback (R89 to R92) -/

/-- The IQ_FALLBACK record (R362). -/
def fbLog (s : State) (p : Nat) : State :=
  let x := getPool s p
  logReq s 6 false false (toLE 1 p ++ toLE 1 x.cause ++ toLE 4 x.poisonLoc.toNat)

/-- Entries of a share that step 1 of a running return procedure has zeroed: one per tile cycle (R91). -/
def scrubRun (s : State) (x : Pool) : Nat :=
  if x.scrub then min (1024 * x.share) ((s.clk.meridian - x.scrubAt) / 2) else 0

/-- What a scrub has zeroed so far shows zeros from then on (R91). -/
def zeroedNow (s : State) (x : Pool) : Pool :=
  { x with mid := x.mid.filter (fun e => scrubRun s x ≤ e.1), zeroed := max x.zeroed (scrubRun s x) }

/-- Step 1 of the return procedure begins (R91). -/
def startScrub (s : State) (p : Nat) : State :=
  setPool s p { zeroedNow s (getPool s p) with scrub := true, scrubAt := s.clk.meridian }

/-- A pool enters fallback, or changes its cause: only STORM, RESHARE and HELD after READY latch and log. -/
def enterFallback (s : State) (p cause : Nat) : State :=
  let x := getPool s p
  let s' := setPool s p { zeroedNow s x with fallback := true, cause := cause, scrub := false }
  if x.fallback || cause == 1 || cause == 4 || !s.pw.ready then s'
  else
    let y := getPool s' p
    fbLog (iqMessage (setPool s' p { y with fbEntered := true }) (!x.fbEntered)) p

/-- The middle of a pool holds no entry. -/
def midEmpty (x : Pool) : Bool := placeCount x 2 == 0

/-! ## Parity and poison (R93, R94) -/

/-- First unit of a pool's share: shares lie in pool order (log 12). -/
def shareBase (s : State) (p : Nat) : Nat := ((s.pools.filter (fun e => e.1 < p)).map (·.2.share)).sum

/-- IQ_POOL_POISON_LOC for a word of an entry. -/
def poisonWord (s : State) (p : Nat) (e : IqEntry) (w : Nat) : Word :=
  let place := min e.place 3
  let entry := if e.place = 2 then 1024 * shareBase s p + e.loc else e.loc
  word (place + 4 * entry + 2 ^ 20 * w + 2 ^ 24 * b2n (e.place == 4))

/-- A word of an entry fails its check: counted once, the entry poisoned, a storm counted for the middle. -/
def parityError (s : State) (p : Nat) (e : IqEntry) (w : Nat) : State :=
  let x := getPool s p
  match x.queue.find? (· == e) with
  | none => s
  | some _ =>
    if e.bad.contains w then s
    else
      let mid := e.place == 2
      let n := if mid then x.stormCount + 1 else x.stormCount
      let s := setPool s p { x with
        queue := x.queue.map (fun y => if y == e then { y with poison := true, bad := y.bad ++ [w] } else y)
        parity := sat32 x.parity, poisonLoc := poisonWord s p e w, stormCount := n }
      let s := { s with iq := { s.iq with parityTotal := sat32 s.iq.parityTotal } }
      if mid && !x.fallback && decide (max 1 s.iq.storm.toNat ≤ n) then enterFallback s p 2 else s

/-- Applies the parity errors of the entries that a command reads. -/
def parityErrors (s : State) (p : Nat) (read : List IqEntry) (bad : List BadWord) : State :=
  bad.foldl (fun s b => match read[b.entry]? with
    | some e =>
      match (getPool s p).queue.find? (fun y => y.chain == e.chain && y.idx == e.idx && y.stage == e.stage) with
      | some y => parityError s p y b.word.toNat
      | none => s
    | none => s) s

/-! ## Places and moves (R84, R87, R88) -/

/-- An entry by name: its chain, descriptor and whether it is the staged input. -/
def sameEntry (a b : IqEntry) : Bool := a.chain == b.chain && a.idx == b.idx && a.stage == b.stage

/-- An entry with the staged input that travels with it, or the descriptor that it travels with (R84). -/
def body (x : Pool) (e : IqEntry) : List IqEntry :=
  x.queue.filter (fun y => y.chain == e.chain && y.idx == e.idx && y.place == e.place)

/-- The pool with the account of this control cycle: what the head took, the banks read and written (R87, R88). -/
def thisCycle (s : State) (x : Pool) : Pool :=
  if x.moveAt = some (controlCycle s) then x
  else { x with moveAt := some (controlCycle s), moved := 0, bankRd := [], bankWr := [] }

/-- The bank roles swap (R88). -/
def swapBanks (s : State) (x : Pool) : Pool :=
  let need := nextEntry s (x.queue.filter (fun e => 2 ≤ e.place))
  if x.fallback && (placeCount x (drainPlace x) == 0 || need.any (fun e => e.place == fillPlace x) ||
      (!placeFree x (fillPlace x) && placeFree x (drainPlace x)))
  then { x with fillBank := !x.fillBank } else x

/-- Places that supply the head. -/
def supplies (x : Pool) (e : IqEntry) : Bool :=
  e.place == 2 || (if x.fallback then e.place == drainPlace x else e.place == 3 || e.place == 4)

/-- The 64 bytes of an entry. -/
def entryBytes (s : State) (e : IqEntry) : Bytes :=
  match findChain s e.chain with
  | some c => padTo 64 (if e.stage then c.staged.getD [] else c.descs.getD e.idx [])
  | none => zeros 64

/-- Moves one entry to a place; a place of the middle keeps what is written (R91). -/
def moveEntry (s : State) (place : Nat) (x : Pool) (e : IqEntry) : Pool :=
  let n := freeLoc x place
  { x with
    queue := x.queue.map (fun y => if sameEntry y e then { y with place := place, loc := n } else y)
    mid := if place = 2 then x.mid.set n (entryBytes s e) else x.mid
    moved := if 2 ≤ e.place then x.moved + 1 else x.moved
    bankRd := if 3 ≤ e.place then e.place :: x.bankRd else x.bankRd
    bankWr := if 3 ≤ place then place :: x.bankWr else x.bankWr }

/-- Room of a place for writes in this control cycle: a bank that has been read takes none (R88). -/
def placeRoom (x : Pool) (place : Nat) : Nat :=
  if x.bankRd.contains place then 0 else placeCap x place - placeCount x place

/-- The body that the head takes next: the head has room for it, it takes 2 entries per control cycle (R87), and none from a bank
that has been written in it (R88). -/
def headNext (s : State) (x : Pool) : List IqEntry :=
  match nextEntry s (x.queue.filter (supplies x)) with
  | some e =>
    let b := body x e
    if b.length ≤ placeRoom x 0 ∧ x.moved + b.length ≤ 2 ∧ x.bankWr.contains e.place = false then b else []
  | none => []

/-- The oldest body of the tail that the place it spills to has room for. -/
def spillNext (x : Pool) : List IqEntry :=
  (((x.queue.filter (·.place == 1)).map (body x)).find? (fun b => decide (b.length ≤ placeRoom x (spillPlace x)))).getD []

/-- The bodies that the head takes in this control cycle. -/
def drawn (s : State) (x : Pool) : List IqEntry :=
  let a := headNext s x
  a ++ (if a.isEmpty then [] else headNext s (a.foldl (moveEntry s 0) x))

/-- The bodies of the tail that spill with one command: up to 2 entries. -/
def spilled (s : State) (x : Pool) : List IqEntry :=
  let a := spillNext x
  let b := if a.length = 1 then spillNext (a.foldl (moveEntry s (spillPlace x)) x) else []
  a ++ (if b.length = 1 then b else [])

/-! ## A place for a new body (R84, R85, log 12) -/

/-- The tail's next spill where its room is asked for, with the roles swapped when the filling bank is full and the draining bank has
room (R88). -/
def tailSpill (x : Pool) : Pool × List IqEntry :=
  let y := { x with fillBank := !x.fillBank }
  if (spillNext x).isEmpty && x.fallback && !placeFree x (fillPlace x) && placeFree x (drainPlace x) then
    (if (spillNext y).isEmpty then (x, []) else (y, spillNext y))
  else (x, spillNext x)

/-- Spills the tail until it has room for k entries; the fuel is how many bodies may leave it. With the pool, the entries moved,
as they were read. -/
def tailRoom (s : State) (k : Nat) : Nat → Pool → Pool × List IqEntry
  | 0, x => (x, [])
  | n + 1, x =>
    if k ≤ placeRoom x 1 then (x, [])
    else
      let r := tailSpill x
      if r.2.isEmpty then (x, [])
      else
        let t := tailRoom s k n (r.2.foldl (moveEntry s (spillPlace r.1)) r.1)
        (t.1, r.2 ++ t.2)

/-- Where the tail and the head have room for one entry each, a single entry of the tail goes to the head, so that a pair stays
together. -/
def pairRoom (s : State) (r : Pool × List IqEntry) : Pool × List IqEntry :=
  if placeRoom r.1 1 = 1 ∧ placeRoom r.1 0 = 1 then
    match r.1.queue.find? (fun e => e.place == 1 && (body r.1 e).length == 1) with
    | some e => (moveEntry s 0 r.1 e, r.2 ++ [e])
    | none => r
  else r

/-- Writes one entry into a place. -/
def pushEntry (x : Pool) (chain idx : Nat) (stage : Bool) (place : Nat) : Pool :=
  { x with queue := x.queue ++ [⟨chain, idx, stage, place, freeLoc x place, false, []⟩] }

/-- Writes a descriptor, and beside it the input of a staged chain, into the tail, or where neither the tail nor its spill has
room, into the head (R84, R85). With the pool, the entries that had to move; none where no place has room for both. -/
def pushBody (s : State) (chain idx : Nat) (staged : Bool) (x : Pool) : Option (Pool × List IqEntry) :=
  let k := if staged then 2 else 1
  let r := tailRoom s k 2 x
  let r := if staged then pairRoom s r else r
  let push := fun (place : Nat) =>
    let y := pushEntry r.1 chain idx false place
    (if staged then pushEntry y chain idx true place else y, r.2)
  if k ≤ placeRoom r.1 1 then some (push 1) else if k ≤ placeRoom r.1 0 then some (push 0) else none

/-- The bodies of descriptors i up to n of a chain enter a pool. -/
def pushBodies (s : State) (chain : Nat) (staged : Bool) (x : Pool) : List Nat → Option (Pool × List IqEntry)
  | [] => some (x, [])
  | i :: r => (pushBody s chain i staged x).bind (fun a => (pushBodies s chain staged a.1 r).map (fun b => (b.1, a.2 ++ b.2)))

/-! ## Moves of a control cycle -/

/-- One control cycle of moves (R87, R88): each entry is checked as it is read (R93), those for the head first. -/
def iqMove (s : State) (p : Nat) (bad : List BadWord) : State :=
  let x := swapBanks s (thisCycle s (getPool s p))
  let d := drawn s x
  let s := parityErrors (setPool s p x) p d bad
  let s := setPool s p (d.foldl (moveEntry s 0) (getPool s p))
  let l := spilled s (getPool s p)
  let s := parityErrors s p l (bad.filterMap (fun b =>
    if d.length ≤ b.entry then some { b with entry := b.entry - d.length } else none))
  let x := getPool s p
  setPool s p (l.foldl (moveEntry s (spillPlace x)) x)

/-- IQ_ENTRY_MOVE. -/
def execIqEntryMove (p : BitVec 6) (bad : List BadWord) (s : State) : Host.Outcome State Fault Refusal :=
  .next (if engineUp s && (poolRec s p.toNat).isSome then iqMove s p.toNat bad else s)

/-! ## Storms and the return procedure -/

/-- STORM_INTERVAL (R90): Meridian bits [21:0] have passed 0. -/
def execStormInterval (s : State) : Host.Outcome State Fault Refusal :=
  let n := s.clk.meridian / 2 ^ 22
  .next (if active s && decide (s.iq.stormIv < n) then
    { s with iq := { s.iq with stormIv := n }, pools := s.pools.mapVal (fun _ x => { x with stormCount := 0 }) }
  else s)

/-- IQ_RETURN_START (R91): the middle is empty and nothing holds the pool in fallback. -/
def execIqReturnStart (p : BitVec 6) (s : State) : Host.Outcome State Fault Refusal :=
  let x := getPool s p.toNat
  .next (
    if engineUp s && x.fallback && midEmpty x && !x.hold && !x.scrub && !x.reshare &&
        (x.cause == 2 || x.cause == 3 || (x.cause == 4 && s.ch.state == 2) || x.cause == 6)
    then startScrub s p.toNat else s)

/-- IQ_RETURN_END (R91): 2 x 1,024 x SHARE tile cycles after its start. An error of the read-back adds to no parity count
(log 50). -/
def execIqReturnEnd (p : BitVec 6) (ok : Bool) (s : State) : Host.Outcome State Fault Refusal :=
  let n := p.toNat
  let x := getPool s n
  .next (
    if engineUp s && x.scrub && decide (x.scrubAt + 4096 * x.share ≤ s.clk.meridian) then
      if ok then setPool s n { zeroedNow s x with scrub := false, fallback := false, cause := 0 }
      else fbLog (setPool s n { zeroedNow s x with scrub := false, cause := 5 }) n
    else s)

/-- IQ_POOL_CMD write (R91). -/
def retryScrubW (s : State) (p : Nat) (v : Word) : State :=
  let x := getPool s p
  if wbit v 0 && x.fallback && x.cause == 5 && !x.hold then startScrub s p else s

/-- RETRY_SCRUB. -/
def execRetryScrub (a : Access) (p : BitVec 6) (v : Word) (s : State) : Host.Outcome State Fault Refusal :=
  .next (hostWrite s a (mgmtAt a (0x3100C + p.toNat * 0x40)) (fun s => retryScrubW s p.toNat v))

/-- IQ_POOL_CTL write (R89, R91). -/
def iqHoldW (s : State) (p : Nat) (v : Word) : State :=
  let x := getPool s p
  let s' := setPool s p { x with hold := wbit v 0 }
  if (poolRec s p).isNone then s'
  else if wbit v 0 && (!x.fallback || x.scrub) then enterFallback s' p 6 else s'

/-- IQ_HOLD_FALLBACK. -/
def execIqHoldFallback (a : Access) (p : BitVec 6) (v : Word) (s : State) : Host.Outcome State Fault Refusal :=
  .next (hostWrite s a (mgmtAt a (0x31008 + p.toNat * 0x40)) (fun s => iqHoldW s p.toNat v))

/-- Lays out one reshared pool. -/
def layPool (s : State) (p : Nat) : State :=
  let x := getPool s p
  let share := ((poolRec s p).map (·.share)).getD 0
  let s := setPool s p { x with
    share := share, reshare := false, cause := if share = 0 then 1 else 3, mid := [], zeroed := 0 }
  if share ≠ 0 ∧ !x.hold then startScrub s p else s

/-- RESHARE_LAYOUT (R92): the middles of all pools whose SHARE changed are empty. A Chart load lays out its own shares (R89). -/
def execReshareLayout (s : State) : Host.Outcome State Fault Refusal :=
  let l := (s.pools.filter (·.2.reshare)).map (·.1)
  .next (
    if engineUp s && s.ch.state != 1 && s.pools.all (fun e => !e.2.reshare || midEmpty e.2) then l.foldl layPool s else s)

/-- IQ_NOTICE write (R95, R96): the new peak is the last sample (DESIGN CHOICE, log 65). -/
def iqNoticeW (s : State) (p : Nat) (v : Word) : State :=
  let x := getPool s p
  let x := if wbit v 0 then { x with crossed := false, crossCount := 0, peak := x.level } else x
  setPool s p { x with fbEntered := w1c v 1 x.fbEntered }

/-- IQ_NOTICE_CLEAR. -/
def execIqNoticeClear (a : Access) (p : BitVec 6) (v : Word) (s : State) : Host.Outcome State Fault Refusal :=
  .next (hostWrite s a (mgmtAt a (0x3102C + p.toNat * 0x40)) (fun s => iqNoticeW s p.toNat v))

end Sys2Proof.Machine
end

