-- ==== Sys2Proof/Machine/Admission.lean ====
section
/-!
DEFINITION. A dispatcher slice and a pool scheduler: fetch (R33, R35, R36, R50), the admission test (R62, R65 to R70),
acceptance (R12, R38, R43), selection and claim (R72, R84, R94).
-/

namespace Sys2Proof.Machine

/-! ## Fetch -/

/-- The slice of ring g works: not in a power-state entry, a BLOCK reset or a reset of the owner. -/
def sliceUp (s : State) (g : Nat) : Bool :=
  let r := getRing s g
  engineUp s && s.pw.mode == .run && !blockReq s && !ringResetting s g && r.enable && !r.halted

/-- Descriptors posted and not accepted, at most 16. -/
def fetchable (r : Ring) : Nat := min 16 (posDiff r.posted r.accepted).toNat

/-- The address ranges of n descriptors from position p, in pieces. -/
def fetchPieces (r : Ring) (n : Nat) : List (Nat × Nat × Nat) :=
  let p := r.accepted.toNat % 2 ^ r.size
  let a := min n (2 ^ r.size - p)
  pieces (r.base + 64 * p) (64 * a) ++ (pieces r.base (64 * (n - a))).map (fun x => (x.1 + 64 * a, x.2.1, x.2.2))

/-- A refused or failed fetch (R50). -/
def fetchFault (s : State) (g : Nat) : State :=
  let s := forget s (fun o => o == .fetch g)
  setRing s g { getRing s g with fetch := .idle, fgather := .none, descs := [], fetchFault := true, halted := true }

/-- The chain at the front of descriptors read: up to CHAIN = 0 or the sixteenth (R33); none while it is incomplete. -/
def takeChain (l : List Bytes) : Option (List Bytes) :=
  match l.findIdx? (fun d => !dChain d) with
  | some i => some (l.take (i + 1))
  | none => if 16 ≤ l.length then some (l.take 16) else none

/-- A staging read failed or was refused (R36): the chain is accepted without an offer. -/
def stageFault (s : State) (g : Nat) : State :=
  let s := forget s (fun o => o == .stage g)
  setRing s g { getRing s g with fetch := .ready, sgather := .none, sfault := true, readyAt := s.clk.meridian }

/-- Staged descriptors that slice k keeps in flight (R36). -/
def stagedInFlight (s : State) (k : Nat) : Nat :=
  (s.rings.filter (fun e => e.1 % 16 == k && (e.2.fetch == .staging || (e.2.fetch == .ready && e.2.sgather.got != [])))).length

/-- The staging read of a staged chain (R36); it waits while its slice has 256 staged descriptors in flight. -/
def startStage (s : State) (g : Nat) (d : Bytes) : State :=
  if 256 ≤ stagedInFlight s (g % 16) then setRing s g { getRing s g with fetch := .stageWait }
  else
    let f := ((ringOwner s g).map (·.func)).getD 0
    let x := startRead s (g % 8) f (dSrc d) (dLen d) (.stage g) []
    if x.2.err.isSome then stageFault x.1 g
    else setRing x.1 g { getRing x.1 g with fetch := .staging, sgather := x.2, sfault := false }

/-- All descriptors of a fetch have arrived. -/
def fetched (s : State) (g : Nat) : State :=
  let r := getRing s g
  let l := chunks 64 r.fgather.bytes
  match takeChain l with
  | none => setRing s g { r with fetch := .idle, fgather := .none, descs := l }
  | some c =>
    let s := setRing s g { r with
      fetch := .ready, fgather := .none, descs := c, sgather := .none, sfault := false, readyAt := s.clk.meridian }
    match (ringClass s g).map (fun k => isStaged s k c) with
    | some true => startStage s g (c.headD [])
    | _ => s

/-- CHAIN_FETCH (R33, R35): an incomplete chain waits for another doorbell. The fetch reads every posted descriptor up to
16 (log 44); for a chain that waits for its staging read it is that read. -/
def execChainFetch (g : BitVec 16) (s : State) : Host.Outcome State Fault Refusal :=
  let g := g.toNat
  let r := getRing s g
  let n := fetchable r
  let f := ((ringOwner s g).map (·.func)).getD 0
  .next (
    if sliceUp s g && r.fetch == .stageWait then startStage s g (r.descs.headD [])
    else if sliceUp s g && r.fetch == .idle && decide (r.descs.length < n) then
      let x := issueAll s (g % 8) f false [] (.fetch g) [] (fetchPieces r n)
      if x.2.2.isSome then fetchFault x.1 g
      else setRing x.1 g { getRing x.1 g with fetch := .reading, fgather := ⟨x.2.1, [], none⟩, descs := [] }
    else s)

/-! ## What an offer asks -/

/-- Runs of one class: class, first index, descriptors. -/
def classRuns : Nat → List Bytes → List (Nat × Nat × List Bytes)
  | _, [] => []
  | i, d :: r =>
    match classRuns (i + 1) r with
    | (k, j, l) :: t => if k = dClass d then (k, i, d :: l) :: t else (dClass d, i, [d]) :: (k, j, l) :: t
    | [] => [(dClass d, i, [d])]

/-- The occupancy of a segment (R65). -/
def segOcc (s : State) (pool : Nat) (l : List Bytes) (staged : Bool) : Nat :=
  (l.mapIdx (fun i d => dCharge s pool d (if i = 0 then none else l[i - 1]?) staged)).sum

/-- Segments of a chain before their latest starts are known. -/
def mkSegs (s : State) (c : ClassRec) (l : List Bytes) (staged : Bool) : List Seg :=
  (classRuns 0 l).mapIdx (fun i x =>
    let pool := classPool c x.1
    ⟨pool, x.1, x.2.1, x.2.2.length, segOcc s pool x.2.2 staged, 0, x.2.2.length + (if staged then 1 else 0),
      nServ s pool, if i = 0 then .waiting else .later⟩)

/-- Occupancy of segments i and later. -/
def occFrom (l : List Seg) (i : Nat) : Nat := ((l.drop i).map (·.occ)).sum

/-- The last record waits for write responses, as things stand (R14, R62). -/
def lastWaits (s : State) (func : Nat) (l : List Bytes) : Bool :=
  let d := l.getLastD []
  dlActive s func || ((!dDstScr d || dDstAlso d) &&
    (pieces (dDst d) (famAssumed d)).any (fun p => !keepsOrder (judgeOut s func true p.2.1)))

/-- Charged bytes of a chain. -/
def chainBytes (s : State) (c : ClassRec) (l : List Bytes) : Nat :=
  (l.map (fun d => dBytes s (classPool c (dClass d)) d)).sum

/-- BOUND (R62): bytes charged, E. -/
def bound (c : ClassRec) (n bytes e : Nat) : Nat := c.bFix + c.bDesc * (n - 1) + c.bKib * cdiv bytes 1024 + e

/-- ACCEPT (R79). -/
def acceptStamp (s : State) : Nat := s.clk.meridian / 4 * 4

/-- The segments with their latest starts (R66): deadline d, tail t. -/
def latestStarts (l : List Seg) (d t : Nat) : List Seg :=
  l.mapIdx (fun i g => { g with latest := (d : Int) - t - occFrom l i })

/-- Completion credit for n records (R43). -/
def cqCredit (q : Cq) (n : Nat) : Bool := decide ((q.reserved + n : Nat) ≤ posDiff q.granted q.written)

def usesScratch (l : List Bytes) : Bool := l.any dDstScr

def scratchFree (s : State) : Bool := decide ((s.chains.filter (fun e => e.2.scratch.isSome)).length < 128)

/-- Conditions 1 to 3 of R68. -/
def resourcesOk (s : State) (q : Cq) (l : List Bytes) (segs : List Seg) : Bool :=
  (segs.map (·.pool)).eraseDups.all (fun p =>
      decide (((segs.filter (·.pool == p)).map (·.entries)).sum ≤ iqRoom (getPool s p))) &&
    (!usesScratch l || scratchFree s) && cqCredit q l.length

/-- Condition 4 of R68 in one pool: d is the chain's deadline. -/
def poolTest (s : State) (segs : List Seg) (d p : Nat) : Bool :=
  let t := acceptStamp s
  let all := waitingOf s p ++ (segs.filter (·.pool == p)).map (fun g => (d, g))
  let run := runOf s p t
  (all.filter (fun k => d ≤ k.1)).all (fun k =>
    let q := ((all.filter (fun x => x.1 ≤ k.1)).map (fun x => x.2.occ)).sum
    decide (((q : Int) - k.2.occ + run) ≤ nServ s p * (k.2.latest - t)))

/-! ## Offers -/

/-- The chain at the head of ring g is not offered: malformed, or its staging read failed (R12). -/
def direct (s : State) (k : ClassRec) (r : Ring) : Bool := r.sfault || (headerCheck s k r.descs).any (·.isSome)

/-- Ring g has a chain to offer or accept now: its last byte arrived in an earlier control cycle (R70), and its slice has
accepted none in this one (R79). -/
def canOffer (s : State) (g : Nat) : Bool :=
  let r := getRing s g
  sliceUp s g && !nostart s && !alarmHold s && r.fetch == .ready && !r.descs.isEmpty &&
    decide (r.readyAt / 4 < s.clk.meridian / 4) && s.ad.sliceAt.find (g % 16) != some (controlCycle s) &&
    (match ringCq s g with
     | some q => !(getCq s q).halted
     | none => false)

/-- Pools that the chain at the head of ring g visits, rising. -/
def headPools (s : State) (g : Nat) : List Nat :=
  match ringClass s g with
  | some c => sortOn id ((classRuns 0 (getRing s g).descs).map (fun x => classPool c x.1)).eraseDups
  | none => []

def tookOffer (s : State) (p : Nat) : Bool := (getPool s p).offerAt == some (controlCycle s)

/-- An offer has been taken in this control cycle (R68). -/
def offersBegun (s : State) : Bool := s.ad.offerCycle == some (controlCycle s)

/-- The rings whose offers compete at pool p in this control cycle (R69). -/
def offerCand (s : State) (p : Nat) : List (Nat × Nat) :=
  (s.rings.filter (fun e => canOffer s e.1 && (ringClass s e.1).all (fun k => !direct s k e.2) && (headPools s e.1).head? == some p &&
    (headPools s e.1).all (fun q => !tookOffer s q))).map (fun e => (e.1, ((ringClass s e.1).map (·.weight)).getD 0))

/-- The turn of pool p: every lower pool has taken an offer in this control cycle, or has none to take (R69). -/
def poolTurn (s : State) (p : Nat) : Bool := (List.range p).all (fun q => (offerCand s q).isEmpty)

/-- The round of a pool is taken by an offer that visits pools ps. -/
def takeRound (s : State) (p : Nat) (ps : List Nat) : State :=
  let t := (swrr (getPool s p).offers (offerCand s p)).2
  let s := setPool s p { getPool s p with offers := t }
  let s := { s with ad := { s.ad with offerCycle := some (controlCycle s) } }
  ps.foldl (fun s q => setPool s q { getPool s q with offerAt := some (controlCycle s) }) s

/-- Counts a refused offer in some pools and leaves the chain at the head of its ring. -/
def refuse (s : State) (g : Nat) (ps : List Nat) (count : Pool → Pool) : State :=
  let s := ps.foldl (fun s p => setPool s p (count (getPool s p))) s
  setRing s g { getRing s g with fetch := .refused s.clk.meridian ps, offerAt := some s.clk.meridian, descs := [] }

/-- The entries of a chain are written into the queues of its pools (R84): the entries that had to move, with their pools; none where
they find no place in this control cycle. -/
def enqueue (s : State) (c : Chain) : List Seg → Option (State × List (Nat × IqEntry))
  | [] => some (s, [])
  | g :: r =>
    (pushBodies s c.id c.staged.isSome (thisCycle s (getPool s g.pool)) ((List.range g.count).map (· + g.first))).bind (fun x =>
      (enqueue (setPool s g.pool x.1) c r).map (fun y => (y.1, x.2.map (fun e => (g.pool, e)) ++ y.2)))

/-- Applies the parity errors of the entries that an acceptance moved (R93). -/
def movedErrors (s : State) (l : List (Nat × IqEntry)) (bad : List BadWord) : State :=
  bad.foldl (fun s b => match l[b.entry]? with
    | some (p, e) => parityErrors s p [e] [⟨0, b.word⟩]
    | none => s) s

/-- The chain is accepted: its name, positions, reservation (R12, R43). -/
def accept (s : State) (g : Nat) (c : Chain) : State :=
  let r := getRing s g
  let n := c.descs.length
  let s := { setChain s c with
    nextId := s.nextId + 1, ad := { s.ad with sliceAt := s.ad.sliceAt.set (g % 16) (controlCycle s) } }
  let s := setRing s g { r with
    accepted := r.accepted + word n, fetch := .idle, descs := [], sgather := .none, sfault := false,
    offerAt := none }
  let s := setCq s c.cq { getCq s c.cq with reserved := (getCq s c.cq).reserved + n }
  let s := c.segs.foldl (fun s x =>
    setPool s x.pool { getPool s x.pool with accepted := sat32 (getPool s x.pool).accepted }) s
  famineClock (depthSounding s g) g

/-- A chain record at acceptance. The last record of a chain that executes nothing waits only for the entry of a dirty-page log (R14,
R38, R62). -/
def newChain (s : State) (g q : Nat) (k : ClassRec) (bytes : Nat) : Chain :=
  let r := getRing s g
  let f := ((ringOwner s g).map (·.func)).getD 0
  let t := acceptStamp s
  let waits := if direct s k r then dlActive s f else lastWaits s f r.descs
  let e := if waits then fabricR s else 0
  { id := s.nextId, ring := g, func := f, cq := q, cls := k.cls, seq := r.accepted, descs := r.descs, staged := none,
    accept := t, deadline := t + bound k r.descs.length bytes e, epoch := s.tx.epoch, prio := dPrio (r.descs.headD []),
    segs := [], results := [], issued := 0, lastRec := s.clk.meridian,
    scratch := if usesScratch r.descs then some [] else none,
    tested := false, malformed := false, lateRec := false, voidSupply := false, voidFabric := false, voidUnit := false,
    covered := waits }

/-- A chain that executes nothing is accepted on completion credit alone (R36, R38). It holds no scratch buffer, whatever
its DST_SCR bits (log 44). -/
def acceptDirect (s : State) (g q : Nat) (k : ClassRec) : State :=
  let r := getRing s g
  if !cqCredit (getCq s q) r.descs.length then s
  else
    let c := newChain s g q k 0
    let res := fun (st dt : Nat) => (⟨st, dt, 0, zeros 8, false, true, none, 0, false⟩ : DescRes)
    let l := if r.sfault then [res stAccess 0] else (headerCheck s k r.descs).map (fun x => res stFormat (x.getD 1))
    accept s g { c with results := l, scratch := none, malformed := !r.sfault }

/-- The test of R68 on the chain at the head of ring g; an offer whose entries find no place in this control cycle is not taken in it
(R69, log 12): none. -/
def offer (s : State) (g q : Nat) (k : ClassRec) (bad : List BadWord) : Option State :=
  let r := getRing s g
  let staged := r.sgather.got != []
  let c := newChain s g q k (chainBytes s k r.descs)
  let tail := 16 + (if lastWaits s c.func r.descs then fabricR s else 0)
  let segs := latestStarts (mkSegs s k r.descs staged) c.deadline tail
  let ps := (segs.map (·.pool)).eraseDups
  if !resourcesOk s (getCq s q) r.descs segs then some (refuse s g ps (fun x => { x with nores := sat32 x.nores }))
  else
    let no := ps.filter (fun p => !poolTest s segs c.deadline p)
    if !no.isEmpty then some (refuse s g no (fun x => { x with refused := sat32 x.refused }))
    else
      let c := { c with segs := segs, tested := true, staged := if staged then some r.sgather.bytes else none }
      let s := accept s g c
      match enqueue s c segs with
      | none => none
      | some x => (enqueue (movedErrors s x.2 bad) c segs).map (·.1)

/-- ADMISSION_OFFER (R12, R68 to R70): the ring's chain is offered when the round of its lowest pool takes it. -/
def execAdmissionOffer (o : RingOffer) (s : State) : Host.Outcome State Fault Refusal :=
  let g := o.ring.toNat
  let r := getRing s g
  .next (match ringClass s g, ringCq s g with
    | some k, some q =>
      if !canOffer s g then s
      else if direct s k r then acceptDirect s g q k
      else
        let ps := headPools s g
        let p := ps.headD 64
        if poolTurn s p && ps.all (fun x => !tookOffer s x) && (swrr (getPool s p).offers (offerCand s p)).1 == some g then
          (offer (takeRound s p ps) g q k o.bad).getD s
        else s
    | _, _ => s)

/-- REOFFER_TIMER (R70): 256 control cycles after a refusal, or a unit of a refusing pool has released a job, but not sooner than 64
control cycles after the offer. The chain is fetched again. -/
def execReofferTimer (g : BitVec 16) (s : State) : Host.Outcome State Fault Refusal :=
  let r := getRing s g.toNat
  .next (match r.fetch with
    | .refused t _ =>
      if sliceUp s g.toNat && (decide (t + 1024 ≤ s.clk.meridian) || t == 0) &&
          r.offerAt.all (fun k => decide (k + 256 ≤ s.clk.meridian)) then
        setRing s g.toNat { r with fetch := .idle, descs := [] }
      else s
    | _ => s)

/-! ## Selection and claim -/

/-- A unit that the scheduler may claim. -/
def unitFree (s : State) (u : Nat) : Bool :=
  let x := getUni s u
  x.st == 0 && !x.hostHeld && !x.vault && !x.sched && x.job.isNone

/-- The unit holds, for the function, the key that a descriptor names (R72). -/
def holdsKey (s : State) (func : Nat) (d : Bytes) (u : Nat) : Bool :=
  !dNoKey d && (getUni s u).key.any (fun k =>
    k.own == func && k.gen == dKeyGen d && slotAt s func (dKeySlot d) == some k.slot)

/-- The unit for a segment: one that holds its key, else the lowest free one. -/
def chooseUnit (s : State) (p func : Nat) (d : Bytes) : Option Nat :=
  let l := ((poolUnits s p).map (·.uid)).filter (unitFree s)
  match l.find? (holdsKey s func d) with
  | some u => some u
  | none => l.head?

/-- A job as it is claimed. -/
def claimJob (c : Chain) (i : Nat) (g : Seg) (now : Nat) (poison : List Nat) (epoch : Word) : Job :=
  { chain := c.id, seg := i, idx := g.first, phase := .claimed, from_ := now, poison := poison, key := none,
    key2 := none, swap := none, base := 0, ctxRef := none, local_ := 0, ctx := .free, act := 0, target := none, rand := [], tgtHeld := none,
    gather := .none, plan := .none, blk := 0, tries := 0, outOff := 0, stop := none, waits := false, dirty := false,
    written := [], check := 0, action := 0, retryMax := 0, epoch := epoch }

/-- The segment's entries, in order. -/
def segEntries (s : State) (cid : Nat) (g : Seg) : List IqEntry :=
  sortOn (·.idx) ((getPool s g.pool).queue.filter (fun e => e.chain == cid && decide (g.first ≤ e.idx ∧ e.idx < g.first + g.count)))

/-- The fallback banks that a claim reads. -/
def claimBanks (l : List IqEntry) : List Nat := (l.map (·.place)).filter (3 ≤ ·)

/-- A claim reads its entries out of a pool: a bank that was read takes no write in this control cycle, and an entry that was needed
in the filling bank swaps the roles (R88). -/
def claimRead (s : State) (p : Nat) (l : List IqEntry) : State :=
  let x := thisCycle s (getPool s p)
  if (claimBanks l).isEmpty then s
  else setPool s p { x with
    bankRd := claimBanks l ++ x.bankRd, fillBank := x.fillBank != (x.fallback && (claimBanks l).contains (fillPlace x)) }

/-- A claim would read a bank that this control cycle has written (R88). -/
def bankBusy (s : State) (x : Pool) (l : List IqEntry) : Bool := (claimBanks l).any (thisCycle s x).bankWr.contains

/-- Claims unit u for segment i of chain c: its entries are read, checked and freed (R84, R93, R94). -/
def claim (s : State) (c : Chain) (i : Nat) (g : Seg) (u : Nat) (bad : List BadWord) : State :=
  let s := parityErrors (claimRead s g.pool (segEntries s c.id g)) g.pool (segEntries s c.id g) bad
  let poison := ((segEntries s c.id g).filter (·.poison)).map (·.idx)
  let s := setChain s { c with segs := c.segs.mapIdx (fun k x => if k = i then { x with st := .running } else x) }
  let s := freeSeg s c g
  let s := if keepsTile (getUni s u) && keptFor (getUni s u) != c.func then scrubUnit s u else s
  let x := getUni s u
  setUni s u { x with
    st := 1, sched := true, lockPool := g.pool, lockFunc := c.func, until_ := s.clk.meridian + g.occ,
    job := some (claimJob c i g s.clk.meridian poison s.tx.epoch) }

/-- SCHEDULER_SELECT (R72): no claim during a no-start hold (R341), and none behind the offers of the same control cycle
(R68) or out of a fallback bank that it has written (R88). -/
def execSchedulerSelect (p : BitVec 6) (bad : List BadWord) (s : State) : Host.Outcome State Fault Refusal :=
  .next (
    if !engineUp s || nostart s || offersBegun s then s
    else match nextSeg s p.toNat with
      | none => s
      | some (c, i) =>
        match c.segs[i]? with
        | none => s
        | some g =>
          match chooseUnit s p.toNat c.func (c.descs.getD g.first []) with
          | none => s
          | some u =>
            if bankBusy s (getPool s g.pool) (segEntries s c.id g) then s else dropKept (claim s c i g u bad))

end Sys2Proof.Machine
end

