-- ==== Sys2Proof/Machine/Commands.lean ====
section
/-!
DEFINITION. The commands of arithmetic units, whoever issues them: their checks (R223), cycles (R226), results (R222,
R224, R225), and the commands of a Helm (R221).
-/

namespace Sys2Proof.Machine

/-! ## What a command reads, and its checks (R222, R223) -/

/-- The flags that a command allows; none for an unknown one. -/
def allowedFlags (op : Nat) : Option (BitVec 3) :=
  if op = 1 ∨ op = 2 ∨ op = 3 ∨ op = 5 then some 0
  else if op = 8 ∨ op = 9 ∨ op = 0x0A then some 2
  else if op = 0x10 ∨ op = 0x11 ∨ op = 0x12 then some 1
  else if op = 0x18 then some 4
  else none

/-- The slots a command reads. -/
def sourceSlots (c : AtCmd) : List Nat :=
  if c.op = 1 ∨ c.op = 2 ∨ c.op = 5 then []
  else if c.op = 3 ∨ c.op = 0x12 then [c.a]
  else if c.op = 0x11 then [c.a, c.b, c.d] ++ (if flLo c.fl then [] else [c.d + 1])
  else if c.op = 0x18 then [c.a, c.b, c.c]
  else [c.a, c.b]

/-- Steps 1 to 5 of R223: status and detail of the first failure. -/
def atCheck (s : State) (uid : Nat) (c : AtCmd) : Option (Nat × Nat) :=
  let ar := (getUni s uid).ar
  let n := opdCount s uid
  let src := sourceSlots c
  match allowedFlags c.op with
  | none => some (stFormat, 0x0A07)
  | some f =>
    if c.fl &&& ~~~f ≠ 0 then some (stFormat, 0x0A07)
    else if (destSlots c.op c.fl c.d ++ src).any (fun x => decide (n ≤ x)) then some (stFormat, 0x0A01)
    else if c.op = 5 ∧ !((unitRec s uid).map (·.sealed)).getD false then some (stKeyAttr, 0x0A03)
    else if c.op = 3 ∧ ar.loaded.contains c.a then some (stKeyAttr, 0x0A04)
    else if src.any (fun x => !ar.valid.contains x) then some (stFormat, 0x0A02)
    else if c.op = 0x18 ∧ !(3 ≤ c.q ∧ c.q < 2 ^ 31 ∧ c.q % 2 = 1) then some (stRange, 0x0A06)
    else none

/-! ## Cycles (R226) -/

/-- Occupancy and latency, from L in bits, T, and the check mode (R226, R227). -/
def atCycles (op : Nat) (fl : BitVec 3) (l t check : Nat) : Nat × Nat :=
  let w := l / 64
  let u := cdiv w (8 * t)
  let p := cdiv w t * cdiv w 32
  let m := cdiv l (1024 * t)
  let lo := flLo fl
  let x := if op = 1 then (u, 2 + u)
    else if op = 2 ∨ op = 3 then (u, 16 + u)
    else if op = 8 ∨ op = 9 then (u, 4 + u)
    else if op = 0x0A then (2 * u, 6 + 2 * u)
    else if op = 0x10 ∨ op = 0x12 then (p, 6 + p + if lo then u else 2 * u)
    else if op = 0x11 then (p, 8 + p + if lo then u else 2 * u)
    else (2 * m, 10 + 2 * m + 2 * u)
  (x.1, x.2 + check)

def unitCycles (s : State) (uid op : Nat) (fl : BitVec 3) : Nat × Nat :=
  atCycles op fl (8 * opdBytes s uid) (tcount s uid) (((unitRec s uid).map (·.check)).getD 0)

/-- CARRY after a refused command: every command but ADD, SUB and MULACC clears it, and a refused one of these three
sets nothing, so it stays (R223, R224; log 23). -/
def refusedCarry (s : State) (uid op : Nat) : Bool := (op == 8 || op == 9 || op == 0x11) && (getUni s uid).ar.carry

/-! ## Results (R222, R225) -/

/-- Lane i of a slot value. -/
def lane (v i : Nat) : Nat := fld v (32 * i) 32

/-- A slot value from its lanes. -/
def ofLanes (n : Nat) (f : Nat → Nat) : Nat := leNat ((List.range n).flatMap (fun i => toLE 4 (f i)))

/-- One lane of a butterfly: the lanes of D and of D + 1. -/
def butterfly (gs : Bool) (q a b c : Nat) : Nat × Nat :=
  if gs then ((a + b) % q, (a % q + (q - b % q)) * c % q)
  else
    let t := c * b % q
    ((a + t) % q, (a % q + (q - t)) % q)

/-- What a command computes: the values of D and D + 1, and CARRY. L is 2 to the power l. -/
def atCompute (op : Nat) (fl : BitVec 3) (l q a b c d d1 : Nat) (carry : Bool) : Nat × Nat × Bool :=
  let m := 2 ^ l
  let k := if flCin fl then b2n carry else 0
  if op = 8 then ((a + b + k) % m, 0, decide (m ≤ a + b + k))
  else if op = 9 then ((a + 2 * m - b - k) % m, 0, decide (a < b + k))
  else if op = 0x0A then
    let x := k * m + a
    (if b ≤ x then (x - b) % m else a, 0, false)
  else if op = 0x10 ∨ op = 0x12 then
    let p := a * (if op = 0x12 then a else b)
    (p % m, p / m, false)
  else if op = 0x11 then
    if flLo fl then ((d + a * b) % m, 0, false)
    else
      let p := d + m * d1 + a * b
      (p % m, p / m % m, decide (m * m ≤ p))
  else if op = 0x18 then
    let f := fun i => butterfly (flGs fl) q (lane a i) (lane b i) (lane c i)
    (ofLanes (l / 32) (fun i => (f i).1), ofLanes (l / 32) (fun i => (f i).2), false)
  else (0, 0, false)

/-- A CSUB whose difference needs more than L bits: the spec states no result in the slot (free value, log 4). -/
def csubOver (op : Nat) (fl : BitVec 3) (a b : Nat) (carry : Bool) : Bool :=
  op == 0x0A && flCin fl && carry && decide (b ≤ a)

/-- Every lane of the sources of a BFLY is below q (R223 step 6). -/
def lanesOk (s : State) (uid : Nat) (c : AtCmd) : Bool :=
  c.op != 0x18 || [c.a, c.b, c.c].all (fun n =>
    (List.range (opdBytes s uid / 4)).all (fun i => decide (lane (opdRead s uid n) i < c.q)))

/-- What a command writes into its slots, and CARRY after it (R222, R224); data is what a LOAD has read. -/
def atEffect (s : State) (uid : Nat) (c : AtCmd) (data : Bytes) : State × Bool :=
  let r := opdRead s uid
  let carry := (getUni s uid).ar.carry
  let x := if c.op = 2 then (leNat (padTo (opdBytes s uid) data), 0, false)
    else atCompute c.op c.fl (8 * opdBytes s uid) c.q (r c.a) (r c.b) (r c.c) (r c.d) (r (c.d + 1)) carry
  let s := match destSlots c.op c.fl c.d with
    | [] => s
    | [d] => if csubOver c.op c.fl (r c.a) (r c.b) carry then
        tickFree (opdWrite s uid d (leNat (freeBytes s (opdBytes s uid)))) (opdBytes s uid)
      else opdWrite s uid d x.1
    | d :: e :: _ => opdWrite (opdWrite s uid d x.1) uid e x.2.1
  (s, x.2.2)

/-! ## Commands of a Helm (R221) -/

/-- VLOAD writes values into consecutive slots and marks them LOADED (R217, R241). -/
def vloadAt (s : State) (uid d : Nat) (v : List Nat) : State :=
  let l := (v.zip ((List.range v.length).map (· + d))).filter (·.2 < opdCount s uid)
  let s := { s with opmem := l.foldl (fun m e => Memory.writeN m (opdAddr s uid e.2) (toLE (opdBytes s uid) e.1)) s.opmem }
  let u := getUni s uid
  setUni s uid { u with ar := { u.ar with
    valid := (l.map (·.2)).foldl flagSet u.ar.valid, loaded := (l.map (·.2)).foldl flagSet u.ar.loaded } }

/-- A unit's array was held for n root cycles (R226, R230). -/
def addOcc (s : State) (uid n : Nat) : State :=
  let u := getUni s uid
  setUni s uid { u with ar := { u.ar with occ := (u.ar.occ + n) % 2 ^ 64 } }

/-- The occupancy of a VLOAD of n slots: U for each, as the rule gives its time (R226; DESIGN CHOICE, log 16). -/
def vloadOcc (s : State) (uid n : Nat) : Nat := n * (unitCycles s uid 1 0).1

/-- The operands of a command word. -/
def helmCmd (w : Config.HelmWord) : AtCmd :=
  ⟨w.op.toNat, w.flags, w.d.toNat, w.a.toNat, w.b.toNat, w.c.toNat, w.q.toNat, w.off, 0, 0, .none, 0, false, false⟩

/-- The slots that a Helm's command writes, v slots of them by a VLOAD. -/
def helmDest (c : AtCmd) (v : Nat) : List Nat :=
  if c.op = 5 then (List.range v).map (· + c.d) else destSlots c.op c.fl c.d

/-- The outcome of a Helm's command: CARRY and AT_LAST_ERR; AT_CMD_STAT does not show it (R221, R224, R230). -/
def helmEnd (s : State) (uid op status detail : Nat) (carry : Bool) : State :=
  let u := getUni s uid
  setUni s uid { u with
    lastErr := if status = 0 then u.lastErr else word (status + 256 * detail + 2 ^ 24 * op), ar := { u.ar with carry := carry } }

/-- The job of a unit has written these slots (R228). -/
def noteWritten (s : State) (uid : Nat) (l : List Nat) : State :=
  let u := getUni s uid
  setUni s uid { u with job := u.job.map (fun j => { j with written := l.foldl flagSet j.written }) }

/-- A command of a Helm whose check agrees: the checks of R223 and the effect of R222. data is what a LOAD reads of the
descriptor's input, v what a VLOAD writes; the writes of a STORE are the descriptor's output. After a command that is refused its
firmware goes on (DESIGN CHOICE, log 16). -/
def helmCommand (s : State) (uid : Nat) (w : Config.HelmWord) (data : Bytes) (v : List Nat) : State :=
  let c := helmCmd w
  match atCheck s uid c with
  | some (status, detail) => helmEnd s uid c.op status detail (refusedCarry s uid c.op)
  | none =>
    let l := (helmDest c v.length).filter (· < opdCount s uid)
    let s := noteWritten (addOcc s uid (if c.op = 5 then vloadOcc s uid l.length else (unitCycles s uid c.op c.fl).1)) uid l
    if c.op = 5 then helmEnd (vloadAt s uid c.d v) uid c.op 0 0 false
    else if !lanesOk s uid c then helmEnd (l.foldl (fun s n => opdClear s uid n) s) uid c.op stRange 0x0A05 false
    else
      let x := atEffect s uid c data
      helmEnd x.1 uid c.op 0 0 x.2

end Sys2Proof.Machine
end

