-- ==== Sys2Proof/Machine/Binnacle.lean ====
section
/-!
DEFINITION. The Binnacle: alarm sources and actions (R343 to R349), supply monitors and the no-start hold (R339 to
R342), the Logbook writer (R360 to R366). BTIME advances by one at each SUPPLY_SAMPLE (log entry 1).
-/

namespace Sys2Proof.Machine

/-! ## Floors (R346) -/

def looseFloors : List Nat := [0, 0, 0, 0, 0, 0, 0, 0, 2, 0, 0, 2]

/-- The floors in force: the strict column until the state is known. -/
def floors (s : State) : List Nat :=
  match s.bn.lcKnown with
  | some l => if l = 1 ∨ l = 2 ∨ l = 5 then looseFloors else strictFloors
  | none => strictFloors

def bnFloor (s : State) (n : Nat) : Nat := (floors s).getD n 0
def bnAct (s : State) (n : Nat) : Nat := s.bn.act.getD n 0

/-- Sources whose action cannot change (R346). -/
def bnFixed (n : Nat) : Bool := n == 8 || n == 11

/-- Level sources (R343). -/
def levelMask : BitVec 12 := 0x09F

def isLevel (n : Nat) : Bool := levelMask.getLsbD n

/-- Raises every action to its floor; done when the floors change. -/
def raiseFloors (s : State) : State :=
  { s with bn := { s.bn with act := s.bn.act.mapIdx (fun i a => max a (bnFloor s i)) } }

/-! ## Alarms (R345, R347, R348) -/

def srcList (m : BitVec 12) : List Nat := (List.range 12).filter (fun n => m.getLsbD n)

/-- The strongest action of a set of sources. -/
def strongest (s : State) (m : BitVec 12) : Nat := (srcList m).foldl (fun a n => max a (bnAct s n)) 0

def maskOf (l : List Nat) : BitVec 12 := l.foldl (fun m n => m ||| BitVec.ofNat 12 (2 ^ n)) 0

/-- DATA of an ALARM record (R362). -/
def alarmData (s : State) (src : BitVec 12) (action : Nat) : Bytes :=
  toLE 2 src.toNat ++ toLE 1 action ++ [0] ++ toLE 2 s.bn.active.toNat ++ toLE 2 s.bn.meshFail.toNat ++
    toLE 2 s.bn.vsb ++ toLE 2 s.bn.vdd ++ [s.bn.hot, s.bn.cold]

/-- The erase sequence starts: the strobe in a running core, the retained masking keys in A2 and A3 (R205, R347). -/
def startErase (s : State) (src : BitVec 12) : State :=
  match s.bn.erase with
  | some e =>
    if e.tamper then { s with bn := { s.bn with erase := some { e with src := e.src ||| src } } }
    else
      let s := zeroize (alarmStop s)
      { s with bn := { s.bn with erase := some ⟨e.src ||| src, s.clk.meridian, false, false, true⟩ } }
  | none =>
    let s := zeroize (alarmStop s)
    { s with bn := { s.bn with erase := some ⟨src, s.clk.meridian, false, false, true⟩ } }

/-- Counts the occurrences of sources in the Soundings while the core runs (R357). -/
def soundAlarms (s : State) (m : BitVec 12) : State :=
  if active s then
    (srcList m).foldl (fun s n => sounding s 2 (fun sd =>
      { sd with ext := { sd.ext with alarms := sd.ext.alarms.modify n sat32 } })) s
  else s

/-- Sources that report for the first time in this Binnacle cycle: a level source that already holds, and an event source that has
reported in it, start nothing new (R343, R348). -/
def newSources (s : State) (src : BitVec 12) : BitVec 12 :=
  src &&& ~~~(s.bn.active &&& levelMask) &&& ~~~(if s.bn.alarmAt = some s.bn.btime then s.bn.alarmSrc else 0)

/-- The ALARM record of this Binnacle cycle that waits for the writer. -/
def alarmQueued (s : State) (r : LogRec) : Bool := r.type == 4 && r.btime == s.bn.btime

/-- The record of a cycle's alarms: one that names them all (R348). A record of this cycle that waits is written anew, and is
exempt once the action is ERASE. -/
def alarmRecord (s : State) (src : BitVec 12) (act : Nat) : State :=
  let d := padTo 32 (alarmData s src act)
  if s.bn.alarmAt == some s.bn.btime && s.lb.queue.any (alarmQueued s) then
    { s with lb := { s.lb with queue := s.lb.queue.map (fun r =>
      if alarmQueued s r then { r with data := d, pin := r.pin || act == 2, exempt := r.exempt || act == 2 } else r) } }
  else if s.bn.alarmAt == some s.bn.btime && act != 2 then s
  else logReq s 4 (act == 2) (act == 2) d

/-- The conditions of level sources hold in this Binnacle cycle. -/
def holdsStill (s : State) (src : BitVec 12) : State :=
  { s with bn := { s.bn with since := (srcList (src &&& levelMask)).foldl (fun t n => t.set n s.bn.btime) s.bn.since } }

/-- Sources report in one Binnacle cycle (R345, R348): each is latched and counted, the strongest of the cycle's actions is
performed once, one record names them all. -/
def alarmReport (s : State) (src : BitVec 12) : State :=
  let start := newSources s src
  if s.bn.vsbRst then s
  else if start == 0 then holdsStill s src
  else
    let s := holdsStill s src
    let all := start ||| (if s.bn.alarmAt = some s.bn.btime then s.bn.alarmSrc else 0)
    let act := strongest s all
    let s := { s with bn := { s.bn with
      active := s.bn.active ||| (start &&& levelMask), latch := s.bn.latch ||| start,
      cnt := s.bn.cnt.mapIdx (fun i c => if start.getLsbD i then sat32 c else c) } }
    let held := maskOf ((srcList start).filter (fun n => 1 ≤ bnAct s n))
    let s := { s with bn := { s.bn with
      holdSrc := s.bn.holdSrc ||| (held &&& levelMask),
      holdFrom := if held &&& ~~~levelMask != 0 then some s.bn.btime else s.bn.holdFrom } }
    let s := soundAlarms s start
    let s := if start.getLsbD 4 && active s then
        { s with clk := { s.clk with refOk := false, refLost := true, refGone := true } } else s
    let s := if act = 2 then startErase s all else s
    let s := alarmRecord s all act
    bnLatch { s with bn := { s.bn with alarmAt := some s.bn.btime, alarmSrc := all } } 1

/-- The condition of a level source ends; its HOLD runs on (R345). -/
def alarmEnd (s : State) (k : Nat) : State :=
  let m := BitVec.ofNat 12 (2 ^ k)
  { s with
    clk := { s.clk with refOk := s.clk.refOk || (k == 4 && active s), refGone := s.clk.refGone && k != 4 }
    bn := { s.bn with
      active := s.bn.active &&& ~~~m, holdSrc := s.bn.holdSrc &&& ~~~m
      holdFrom := if s.bn.holdSrc.getLsbD k then some s.bn.btime else s.bn.holdFrom } }

/-- The mesh bit of 1 µs that runs, 32 Binnacle cycles (R344). -/
def meshBitNo (s : State) : Nat := s.bn.btime / 32

/-- The lines of enabled pairs that a report names: line A of pair n is bit n, line B bit 16 + n. -/
def meshLines (s : State) (mesh : BitVec 32) : List Nat :=
  (List.range 32).filter (fun i => mesh.getLsbD i && s.bn.meshEn.getLsbD (i % 16))

/-- The lines among them whose bit before this one disagreed too. -/
def meshTwice (s : State) (mesh : BitVec 32) : List Nat :=
  (meshLines s mesh).filter (fun i => s.bn.meshBad.get 0 i == meshBitNo s + 1)

/-- Mesh lines whose returned bit disagrees with what was sent: a pair fails with the second consecutive bit of a line (R344). -/
def meshReport (s : State) (mesh : BitVec 32) : State :=
  { s with bn := { s.bn with
    meshFail := (meshTwice s mesh).foldl (fun m i => m ||| BitVec.ofNat 16 (2 ^ (i % 16))) s.bn.meshFail
    meshAt := (meshLines s mesh).foldl (fun t i => t.set (i % 16) s.bn.btime) s.bn.meshAt
    meshBad := (meshLines s mesh).foldl (fun t i => t.set i (meshBitNo s + 2)) s.bn.meshBad } }

/-- Pairs that agree again are good after 64 bits of 1 µs, 2,048 Binnacle cycles, behind their last failing bits (R344). -/
def meshGood (s : State) (mesh : BitVec 16) : State :=
  let ok := (List.range 16).filter (fun i => mesh.getLsbD i && decide (s.bn.meshAt.get 0 i + 2048 ≤ s.bn.btime))
  { s with bn := { s.bn with meshFail := s.bn.meshFail &&& ~~~(ok.foldl (fun m i => m ||| BitVec.ofNat 16 (2 ^ i)) 0) } }

/-! ## Supply (R339 to R342) -/

/-- LSBs by which a code lies below its warning level. -/
def supplyDepth (vdd : Bool) (code : Nat) : Nat := (if vdd then 690 else 179) - code

/-- The supply whose lowest sample lay furthest below its warning level. -/
def groupVdd (g : Group) : Bool := decide (supplyDepth false g.vsbMin < supplyDepth true g.vddMin)

/-- DATA of the record of a group (R362). -/
def groupData (g : Group) (reset vddReset : Bool) : Bytes :=
  toLE 1 (b2n (groupVdd g)) ++ toLE 1 (b2n reset) ++ toLE 2 (if groupVdd g then g.vddMin else g.vsbMin) ++
    toLE 2 g.vsbMin ++ toLE 2 g.vddMin ++ toLE 4 (min g.below 0xFFFFFFFF) ++ toLE 4 (min (g.last - g.first) 0xFFFFFFFF) ++
    toLE 1 (min g.count 255) ++ (if reset then toLE 1 (b2n vddReset) else [])

/-- Closes the open group: registers, and the record of type 2 or, at a reset level, 3 (R342, R362). -/
def closeGroup (s : State) (reset : Bool) (vddReset : Bool) : State :=
  match s.bn.group with
  | none => s
  | some g =>
    let low := if groupVdd g then g.vddMin else g.vsbMin
    let s := { s with bn := { s.bn with
      group := none, dipMin := word (low + 4096 * b2n (groupVdd g) + 8192 * b2n reset),
      dipTime := word (min g.below 0xFFFFFF + 2 ^ 24 * min g.count 255), dipSpan := word (min (g.last - g.first) 0xFFFFFFFF),
      dipGroups := sat32 s.bn.dipGroups } }
    logReq s (if reset then 3 else 2) false reset (groupData g reset vddReset)

/-- The record of a VSB reset (R338): of the open group or, where a VDD_CORE reset has closed it already, of the samples at
this moment alone (log 8). -/
def resetRecord (s : State) : State :=
  match s.bn.group with
  | some _ => closeGroup s true false
  | none => logReq s 3 false true (groupData ⟨s.bn.vsb, s.bn.vdd, 0, s.bn.btime, s.bn.btime, 0⟩ true false)

/-- Moves the record requested last behind the slot in progress: at a VSB reset it is written next (R363). -/
def hurryLast (q : List LogRec) : List LogRec :=
  match q with
  | [] => []
  | a :: r => match r.getLast? with
    | none => [a]
    | some z => a :: z :: r.dropLast

/-- Updates the device extremes with a sample taken while the core runs (R357). -/
def soundSample (s : State) (vsb vdd : Nat) (hot cold : BitVec 8) : State :=
  if active s then
    sounding s 2 (fun sd =>
      let e := sd.ext
      { sd with ext := { e with
        vsbMin := min e.vsbMin vsb, vsbMax := max e.vsbMax vsb, vddMin := min e.vddMin vdd, vddMax := max e.vddMax vdd,
        tempMax := if e.tempMax.toInt < hot.toInt then hot else e.tempMax,
        tempMin := if cold.toInt < e.tempMin.toInt then cold else e.tempMin,
        vsbMinAt := if vsb < e.vsbMin then s.clk.meridian else e.vsbMinAt,
        vddMinAt := if vdd < e.vddMin then s.clk.meridian else e.vddMinAt } })
  else s

/-- The group after one sample: opened by an assertion, its minima, cycles below warning and excursions. -/
def groupSample (g : Option Group) (t vsb vdd : Nat) (rise fall warned : Bool) (n : Nat) : Option Group :=
  let g := if rise && g.isNone then some ⟨vsb, vdd, 0, t, t, 0⟩ else g
  g.map (fun g => { g with
    vsbMin := min g.vsbMin vsb, vddMin := min g.vddMin vdd, below := g.below + b2n warned,
    last := if fall || warned then t else g.last, count := g.count + n })

/-- Bits of a list of sources that hold. -/
def srcIf (b : Bool) (n : Nat) : BitVec 12 := if b then BitVec.ofNat 12 (2 ^ n) else 0

/-- TEMP, sampled every 32 cycles, and OVERVOLT follow from the samples (R343). -/
def sensorSample (s : State) (vsbMv vddMv : Nat) (hot cold : BitVec 8) : State :=
  let v1 := if 20000 < vsbMv then s.bn.overVsb + 1 else 0
  let v2 := if 850 < vddMv then s.bn.overVdd + 1 else 0
  let low := if vsbMv < 20000 ∧ vddMv < 850 then s.bn.overEnd + 1 else 0
  let s := { s with bn := { s.bn with overVsb := v1, overVdd := v2, overEnd := low } }
  let turn := s.bn.btime % 32 == 0
  let bad := decide (120 < hot.toInt ∨ cold.toInt < -50)
  let good := decide (hot.toInt ≤ 115 ∧ -45 ≤ cold.toInt)
  let s := if turn && good && s.bn.active.getLsbD 2 then alarmEnd s 2 else s
  let s := if 32 ≤ low ∧ s.bn.active.getLsbD 7 = true then alarmEnd s 7 else s
  alarmReport s (srcIf (turn && bad) 2 ||| srcIf (decide (32 ≤ v1 ∨ 4 ≤ v2)) 7)

/-- One sample of both supplies and the sensors: levels in mV (log entry 8). -/
def supplySample (s : State) (vsbMv vddMv : Nat) (hot cold : BitVec 8) : State :=
  let t := s.bn.btime + 1
  let vsb := vsbMv / 24
  let vdd := vddMv
  let w1 := if s.bn.vsbWarn then decide (vsbMv < 4400) else decide (vsbMv < 4300)
  let w2 := if s.bn.vddWarn then decide (vddMv < 700) else decide (vddMv < 690)
  let r1 := w1 && !s.bn.vsbWarn
  let r2 := w2 && !s.bn.vddWarn
  let fall := (s.bn.vsbWarn && !w1) || (s.bn.vddWarn && !w2)
  let first := (r1 || r2) && s.bn.group.isNone
  let g := groupSample s.bn.group t vsb vdd (r1 || r2) fall (w1 || w2) (b2n r1 + b2n r2)
  let low1 := if vsbMv < 3800 then s.bn.vsbLow + 1 else 0
  let low2 := if vddMv < 650 then s.bn.vddLow + 1 else 0
  let s := { s with bn := { s.bn with
    btime := t, vsb := vsb, vdd := vdd, hot := hot, cold := cold, vsbWarn := w1, vddWarn := w2, vsbLow := low1,
    vddLow := low2, group := g, nostart := s.bn.nostart || w1 || w2,
    warnEnd := if fall && !w1 && !w2 then t else s.bn.warnEnd } }
  let s := soundSample s vsb vdd hot cold
  let s := if r1 || r2 then voidSupply s else s
  sensorSample (if first then bnLatch s 0 else s) vsbMv vddMv hot cold

/-- Writes every queued record: at most two slots each (R338). -/
def drainLog : Nat → State → State
  | 0, s => s
  | n + 1, s => drainLog n (writeSlot s)

/-! ## Meanings of the commands -/

/-- The sources that the sensors report; TEMP and OVERVOLT follow from the samples (log 58). -/
def sensorMask : BitVec 12 := 0xF7B

/-- Binnacle cycles for which a condition must have been absent before it ends: LIGHT below its threshold, CLK_ROOT two windows in
range, CLK_REF edges (R343). -/
def endSpan (n : Nat) : Nat := if n = 1 then 33600 else if n = 3 then 64 else if n = 4 then 32 else 0

/-- ALARM_SOURCE (R343 to R348): with MESH, the lines that disagree in this bit. -/
def execAlarmSource (src : BitVec 12) (mesh : BitVec 32) (s : State) : Host.Outcome State Fault Refusal :=
  if s.bn.vsbRst then .next s
  else
    let src := src &&& sensorMask
    let s := if src.getLsbD 0 then meshReport s mesh else s
    let src := if s.bn.meshFail == 0 then src &&& 0xFFE else src
    .next (alarmReport s src)

/-- ALARM_CONDITION_END (R343): the mesh condition ends when every enabled pair is good, CLK_ROOT with lock; a HOLD runs on. -/
def execAlarmConditionEnd (n : BitVec 4) (mesh : BitVec 16) (s : State) : Host.Outcome State Fault Refusal :=
  let k := n.toNat
  let s := if k = 0 ∧ s.bn.vsbRst = false then meshGood s mesh else s
  .next (
    if s.bn.vsbRst || k == 2 || k == 7 || !isLevel k || !s.bn.active.getLsbD k || (k == 0 && s.bn.meshFail != 0) ||
        (k == 3 && !s.clk.lock) || decide (s.bn.btime < s.bn.since.get 0 k + endSpan k)
    then s
    else alarmEnd s k)

/-- ALARM_HOLD_END (R345): 336 Binnacle cycles after the end or event. -/
def execAlarmHoldEnd (s : State) : Host.Outcome State Fault Refusal :=
  .next (match s.bn.holdFrom with
    | some t => if s.bn.holdSrc == 0 && decide (t + 336 ≤ s.bn.btime) then { s with bn := { s.bn with holdFrom := none } } else s
    | none => s)

/-- SUPPLY_GROUP_CLOSE (R342): 33,600 Binnacle cycles without a new excursion. -/
def execSupplyGroupClose (s : State) : Host.Outcome State Fault Refusal :=
  .next (match s.bn.group with
    | some g => if !s.bn.vsbWarn && !s.bn.vddWarn && decide (g.last + 33600 ≤ s.bn.btime) then closeGroup s false false else s
    | none => s)

/-- LOGBOOK_SLOT_WRITTEN (R363): records requested during the scan wait. -/
def execLogbookSlotWritten (s : State) : Host.Outcome State Fault Refusal :=
  .next (if s.lb.scanning then s else writeSlot s)

/-- LOG_TOKEN_TICK (R364). -/
def execLogTokenTick (s : State) : Host.Outcome State Fault Refusal :=
  .next (if s.lb.tokenAt + 2 ^ 25 ≤ s.bn.btime then
    { s with lb := { s.lb with
      tokens := s.lb.tokens.mapVal (fun _ t => min 8 (t + 1)), tokenAt := s.lb.tokenAt + 2 ^ 25 } }
  else s)

/-- BN_ACTn write (R346). -/
def bnActW (s : State) (n : Nat) (v : Word) : State :=
  let a := wfld v 0 2
  let x := max a (bnFloor s n)
  if 12 ≤ n ∨ a = 3 ∨ bnFixed n = true ∨ (s.bn.lock = true ∧ x < bnAct s n) then s
  else { s with bn := { s.bn with act := s.bn.act.set n x } }

def execBnActionWrite (a : Access) (n : BitVec 4) (v : Word) (s : State) : Host.Outcome State Fault Refusal :=
  .next (hostWrite s a (mgmtAt a (0x90080 + 4 * n.toNat)) (fun s => bnActW s n.toNat v))

/-- BN_LOCK write: W1S (R346). -/
def bnLockW (s : State) (v : Word) : State :=
  if wbit v 0 then { s with bn := { s.bn with lock := true } } else s

def execBnLock (a : Access) (v : Word) (s : State) : Host.Outcome State Fault Refusal :=
  .next (hostWrite s a (mgmtAt a 0x90004) (fun s => bnLockW s v))

/-- BN_LATCH write: clears bits; a source of the erase hold leaves it when its condition has ended (R347). -/
def bnLatchW (s : State) (v : Word) : State :=
  let m := BitVec.ofNat 12 v.toNat
  { s with bn := { s.bn with
    latch := s.bn.latch &&& ~~~m, eraseHold := s.bn.eraseHold &&& ~~~(m &&& ~~~s.bn.active) } }

def execBnLatchClear (a : Access) (v : Word) (s : State) : Host.Outcome State Fault Refusal :=
  .next (hostWrite s a (mgmtAt a 0x90030) (fun s => bnLatchW s v))

/-- BN_MESH_EN write: bits may be cleared only in RAW, TEST and RETURNED (R344). -/
def bnMeshW (s : State) (v : Word) : State :=
  let free := s.bn.lcKnown == some 1 || s.bn.lcKnown == some 2 || s.bn.lcKnown == some 5
  let en := if free then BitVec.ofNat 16 v.toNat else s.bn.meshEn ||| BitVec.ofNat 16 v.toNat
  { s with bn := { s.bn with meshEn := en, meshFail := s.bn.meshFail &&& en } }

def execBnMeshEnable (a : Access) (v : Word) (s : State) : Host.Outcome State Fault Refusal :=
  .next (hostWrite s a (mgmtAt a 0x90034) (fun s => bnMeshW s v))

/-- HOLD_OK_CHANGE (R338). -/
def execHoldOkChange (up : Bool) (s : State) : Host.Outcome State Fault Refusal :=
  .next { s with bn := { s.bn with holdOk := up } }

end Sys2Proof.Machine
end

