-- ==== Sys2Proof/Machine/Drbg.lean ====
section
/-!
DEFINITION. The CTR_DRBG instances and the entropy source (R203, R204). Random output is free bytes (log 4).
-/

namespace Sys2Proof.Machine

def drbgOf (s : State) (k : Nat) : Drbg := s.kv.drbg.getD k ⟨false, 0, 0⟩

/-- Below the reseed limit: 2^20 requests and 2^32 root cycles. -/
def drbgFresh (s : State) (k : Nat) : Bool :=
  let d := drbgOf s k
  decide (d.reqs < 2 ^ 20 ∧ s.clk.meridian < d.at_ + 2 ^ 32)

/-- Instance k gives output: seeded, and below its limit or able to reseed. -/
def drbgUp (s : State) (k : Nat) : Bool := (drbgOf s k).seeded && (drbgFresh s k || !s.kv.healthFail)

/-- The instance of a tile or Helm by its index. -/
def drbgFor (index : Nat) : Nat := index % 7 + 1

def setDrbg (s : State) (k : Nat) (d : Drbg) : State := { s with kv := { s.kv with drbg := s.kv.drbg.set k d } }

/-- A reseed. -/
def drbgSeed (s : State) (k : Nat) : State := setDrbg s k ⟨true, 0, s.clk.meridian⟩

/-- One generate request of n bytes to instance k, which reseeds first when it is at its limit. -/
def drbgDraw (s : State) (k n : Nat) : State × Bytes :=
  let s := if drbgFresh s k then s else drbgSeed s k
  let d := drbgOf s k
  let s := setDrbg s k { d with reqs := d.reqs + 1 }
  (tickFree s n, freeBytes s n)

/-- KV_DRBG (R210). -/
def drbgWord (s : State) : Word :=
  word (((List.range 8).map (fun k => if (drbgOf s k).seeded && drbgFresh s k then 2 ^ k else 0)).sum +
    256 * b2n s.kv.healthFail + 512 * b2n s.kv.startupDone)

/-- A health test fails (R204). -/
def healthFail (s : State) : State :=
  alarmReport { s with kv := { s.kv with healthFail := true, drbgFail := sat32 s.kv.drbgFail } } 0x400

/-- DRBG_RESEED (R203): an instance at its limit, or one that an erase has zeroed; none while HEALTH_FAIL is 1. -/
def execDrbgReseed (k : BitVec 3) (s : State) : Host.Outcome State Fault Refusal :=
  let n := k.toNat
  .next (
    if engineUp s && decide (5 ≤ s.pw.step ∧ s.pw.step < 15) && !s.kv.healthFail && !((drbgOf s n).seeded && drbgFresh s n)
    then drbgSeed s n else s)

/-- ENTROPY_HEALTH_FAIL (R204). -/
def execEntropyHealthFail (s : State) : Host.Outcome State Fault Refusal :=
  .next (if engineUp s then healthFail s else s)

end Sys2Proof.Machine
end

