-- ==== Sys2Proof/Machine/Shadow.lean ====
section
/-!
DEFINITION. Chart records as bytes (R260 to R266), the transaction shadow (R277, R314), the configuration that a commit
would produce (R281), and the fence of a validation that runs (R282).
-/

namespace Sys2Proof.Machine

/-! ## Records (R260 to R266) -/

def parseUnit (b : Bytes) : UnitRec :=
  let fl := leAt b 3 1
  let pool := leAt b 5 1
  let m := leAt b 6 1
  let ar := leAt b 7 1
  let h := leAt b 8 1
  let parent := leAt b 0xA 2
  { uid := fld (leAt b 0 2) 0 12, cls := leAt b 2 1, group := fl.testBit 0, check := fld fl 1 2,
    hostClaim := fl.testBit 3, tile := leAt b 4 1, pool := if pool = 0xFF then none else some pool, action := fld m 0 2,
    retryMax := fld m 2 4, len := fld ar 0 3, sealed := ar.testBit 3, helm := if h.testBit 4 then some (fld h 0 4) else none,
    parent := if parent = 0xFFFF then none else some parent }

def parsePool (b : Bytes) : PoolRec := ⟨leAt b 0 1, leAt b 1 1, (leAt b 2 1).testBit 0, leAt b 3 1, leAt b 4 4⟩

/-- Cipher and hash codes have the AUX bit 0 (R124, R149), whatever the record holds there (log 53). -/
def parseCost (pool : Nat) (b : Bytes) : CostRec :=
  let g := leAt b 2 1
  ⟨pool, leAt b 0 2, fld g 0 4, g.testBit 4, g.testBit 7 && decide (3 ≤ leAt b 0 2 / 4096), leAt b 4 4, leAt b 8 4⟩

def parseClass (b : Bytes) : ClassRec :=
  ⟨leAt b 0 1, leAt b 1 1, (leAt b 2 1).testBit 0, leAt b 4 1, leAt b 5 1, leAt b 6 1, leAt b 8 4, leAt b 0xC 4,
    leAt b 0x10 4, fld (leAt b 0x14 4) 0 24, leAt b 0x18 4, leAt b 0x1C 4⟩

def parseFunc (b : Bytes) : FuncRec :=
  { func := leAt b 0 2, vectors := leAt b 2 1, domain := leAt b 3 1, stdBase := fld (leAt b 4 4) 0 21,
    stdCount := fld (leAt b 8 4) 0 21, cmpBase := fld (leAt b 0xC 4) 0 22, cmpCount := fld (leAt b 0x10 4) 0 22,
    vltCount := fld (leAt b 0x14 4) 0 17, vltBase := leAt b 0x18 2, ringBase := leAt b 0x1A 2, ringCount := leAt b 0x1C 2,
    cqBase := leAt b 0x1E 2, cqCount := leAt b 0x20 2 }

def parseRing (b : Bytes) : RingBind := ⟨leAt b 0 2, leAt b 2 1, leAt b 3 1⟩

/-- A FUNCTIONS record of given values: the body of the entry that a register write makes (R279). -/
def funcBytes (f : FuncRec) : Bytes :=
  toLE 2 f.func ++ toLE 1 f.vectors ++ toLE 1 f.domain ++ toLE 4 f.stdBase ++ toLE 4 f.stdCount ++ toLE 4 f.cmpBase ++
    toLE 4 f.cmpCount ++ toLE 4 f.vltCount ++ toLE 2 f.vltBase ++ toLE 2 f.ringBase ++ toLE 2 f.ringCount ++
    toLE 2 f.cqBase ++ toLE 2 f.cqCount ++ zeros 6

/-- Record size of a section type (R257). -/
def recSize (type : Nat) : Nat := [0, 64, 16, 16, 12, 32, 40, 4].getD type 0

/-- Bytes of an entry: header, and the record padded to 8 B; a DELETE carries none (R277, R314). -/
def patchSize (p : Patch) : Nat :=
  if 0x12 ≤ p.type then 16 else if 0x10 ≤ p.type then 40 else if p.op = 3 then 8 else 8 + cdiv (recSize p.type) 8 * 8

/-- TX_SHADOW_USED. -/
def shadowUsed (s : State) : Nat := (s.tx.shadow.map patchSize).sum

/-! ## The configuration a commit would produce -/

/-- The entries in force of a type: a later one of the same KEY supersedes (R279). -/
def patchesOf (l : List Patch) (type : Nat) : List Patch :=
  l.foldl (fun acc p => if p.type = type then acc.filter (fun q => q.key ≠ p.key) ++ [p] else acc) []

/-- Inserts a record in rising order of its key. -/
def insertRec {α : Type} (key : α → Nat) (x : α) (l : List α) : List α :=
  l.filter (fun y => decide (key y < key x)) ++ [x] ++ l.filter (fun y => decide (key x < key y))

/-- Applies the entries of one type to the records of a section. -/
def applyPatches {α : Type} (key : α → Nat) (mk : Patch → α) (l : List α) (ps : List Patch) : List α :=
  ps.foldl (fun l p =>
    if p.op = 3 then l.filter (fun y => key y ≠ p.key)
    else if p.op = 2 then insertRec key (mk p) l
    else l.map (fun y => if key y = p.key then mk p else y)) l

def costKey (c : CostRec) : Nat := c.pool * 65536 + c.opcode

/-- The configuration with every change of the shadow. -/
def proposed (c : Chart) (sh : List Patch) : Chart :=
  { c with
    policy := match (patchesOf sh 1).getLast? with
      | some p => leAt p.body 3 1
      | none => c.policy
    units := applyPatches (·.uid) (fun p => parseUnit p.body) c.units (patchesOf sh 2)
    pools := applyPatches (·.pool) (fun p => parsePool p.body) c.pools (patchesOf sh 3)
    costs := applyPatches costKey (fun p => parseCost (fld p.key 16 8) p.body) c.costs (patchesOf sh 4)
    classes := applyPatches (·.cls) (fun p => parseClass p.body) c.classes (patchesOf sh 5)
    funcs := applyPatches (·.func) (fun p => parseFunc p.body) c.funcs (patchesOf sh 6)
    rings := applyPatches (·.ring) (fun p => parseRing p.body) c.rings (patchesOf sh 7) }

/-! ## The fence (R282) -/

/-- The record that function f would have. -/
def nextFunc (s : State) (f : Nat) : Option FuncRec := (proposed s.chart s.tx.shadow).funcs.find? (·.func == f)

/-- A context that function f's new range leaves out while a validation runs. -/
def ctxFenced (s : State) (f : Nat) (r : CtxRef) : Bool :=
  s.tx.state == 2 && !(nextFunc s f).any (fun x =>
    let lo := if r.compact then x.cmpBase else x.stdBase
    let n := if r.compact then x.cmpCount else x.stdCount
    decide (lo ≤ r.idx ∧ r.idx + (if r.wide then 2 else 1) ≤ lo + n))

/-- A slot that its function's new range leaves out while a validation runs. -/
def slotFenced (s : State) (i : Nat) : Bool :=
  s.tx.state == 2 && (match slotOwner s i with
    | some f => !(nextFunc s f.func).any (fun x => decide (x.vltBase ≤ i ∧ i < x.vltBase + x.vltCount))
    | none => false)

/-- The transaction changes the pool or the host-claim mark of a unit whose validation runs. -/
def claimFenced (s : State) (u : Nat) : Bool :=
  s.tx.state == 2 && (match unitRec s u, (proposed s.chart s.tx.shadow).units.find? (·.uid == u) with
    | some a, some b => a.pool != b.pool || a.hostClaim != b.hostClaim
    | _, _ => false)

end Sys2Proof.Machine
end

