-- ==== Sys2Proof/Machine/Load.lean ====
section
/-!
DEFINITION. The load of a descriptor: the context steps of R105 with the states of R108, the engines' own checks in
their places (R415), the vault access (R193, R194), draws and reservations (R109, R131, R170, R241).
-/

namespace Sys2Proof.Machine

/-! ## Contexts at load -/

def hLocal (d : Bytes) : Nat := fld (dCtx d) 0 21
def hKind (d : Bytes) : Nat := fld (dCtx d) 21 2
/-- 0 USE, 1 OPEN, 2 CLOSE, 3 OPEN_CLOSE (R103). -/
def hAct (d : Bytes) : Nat := fld (dCtx d) 23 2

/-- The context a handle names in the ranges in force (R101, R102). -/
def ctxNamed (s : State) (func : Nat) (d : Bytes) : Option CtxRef :=
  match funcRec s func with
  | none => none
  | some f =>
    let n := hLocal d
    if hKind d = 1 then (if n < f.cmpCount then some ⟨true, false, f.cmpBase + n⟩ else none)
    else if hKind d = 2 then (if n + 1 < f.stdCount then some ⟨false, true, f.stdBase + n⟩ else none)
    else if n < f.stdCount then some ⟨false, false, f.stdBase + n⟩ else none

/-- A background zero-fill has not ended in the range that holds the context (R298). -/
def ctxFilling (s : State) (r : CtxRef) : Bool :=
  s.fns.any (fun e => e.2.ctxFill && (if r.compact then e.2.fillCmp else e.2.fillStd).any (fun x =>
    decide (r.idx < x.1 + x.2 ∧ x.1 < r.idx + (if r.wide then 2 else 1))))

/-- The 16-byte words that a load reads (R113, R114). -/
def ctxWords (r : CtxRef) : Nat := if r.compact then 4 else if r.wide then 16 else 8

/-- b, held from byte o of the context on, without the words that failed. -/
def killBytes (bad : List Nat) (o : Nat) (b : Bytes) : Bytes :=
  b.mapIdx (fun i x => if bad.contains ((o + i) / 16) then 0 else x)

def killNum (bad : List Nat) (o k n : Nat) : Nat := leNat (killBytes bad o (toLE k n))

/-- Where byte i of the engine area lies (R111, R112, R151). -/
def engineOff (c : Ctx) (i : Nat) : Nat :=
  if c.kind = 1 then 32 + i
  else if c.opcode / 4096 = 2 then
    if i < 64 then 64 + i else if i < 80 then 16 + (i - 64) else if i < 88 then 40 + (i - 80) else 132 + (i - 88)
  else if i < 64 then 64 + i else 132 + (i - 64)

/-- The fields of a context without its header, the words that failed zero. -/
def ctxKilled (c : Ctx) (bad : List Nat) : Ctx :=
  let w0 := bad.contains 0
  let k := c.kind == 1
  { c with
    opcode := if w0 then 0 else c.opcode, msg := !w0 && c.msg, dir := !w0 && c.dir,
    invLim := if w0 then 0 else c.invLim, key := if w0 then 0 else c.key, key2 := if w0 then 0 else c.key2,
    nonce := if k then c.nonce else killBytes bad 16 c.nonce, inv := killNum bad (if k then 16 else 32) 8 c.inv,
    blk := if !k && bad.contains 2 then 0 else c.blk, partLen := if !k && bad.contains 2 then 0 else c.partLen,
    dataBytes := killNum bad (if k then 24 else 48) 8 c.dataBytes,
    aadBytes := if k then c.aadBytes else killNum bad 56 8 c.aadBytes,
    engine := c.engine.mapIdx (fun i x => if bad.contains (engineOff c i / 16) then 0 else x) }

/-- The header of a context that a load found damaged (R113). -/
def ctxTainted (c : Ctx) (hdrOk : Bool) (kind owner : Nat) : Ctx :=
  { c with
    st := 2, cause := stPoison, kind := if hdrOk then c.kind else kind, owner := if hdrOk then c.owner else owner
    prior := if hdrOk then c.prior else 0 }

/-- The first half of a wide context after words of its extension, at the local number a handle names, have failed: the engine
bytes they hold read zero (R112, R113). -/
def killExt (s : State) (r : CtxRef) (bad : List Nat) : State :=
  let first : CtxRef := ⟨false, false, r.idx - 1⟩
  let c := ctxGet s first
  if !r.compact && (ctxGet s r).kind == 3 && c.kind == 2 then
    ctxPut s first { c with
      engine := c.engine.mapIdx (fun i x => if ((bad.filter (· < 8)).map (· + 8)).contains (engineOff c i / 16) then 0 else x) }
  else s

/-- The rewrite of a context with failed words (R113). Where its header stands and says that it is not the wide context that the
handle names, the words of context n + 1 are rewritten there, and nothing else of it changes; a wide context whose header is zero
is FREE with its extension. -/
def ctxRewrite (s : State) (r : CtxRef) (bad : List Nat) (kind owner : Nat) : State :=
  let c := ctxGet s r
  let hdrOk := !bad.contains 0 && c.st != 0
  let s := killExt s r bad
  let x := ctxTainted (ctxKilled c bad) hdrOk kind owner
  if r.wide && hdrOk && c.kind != 2 then
    let n : CtxRef := ⟨false, false, r.idx + 1⟩
    let own := (bad.filter (8 ≤ ·)).map (· - 8)
    let s := ctxPut s { r with wide := false } x
    if own.contains 0 then ctxPut s { n with wide := (ctxGet s n).kind == 2 } .free
    else ctxPut s n (ctxKilled (ctxGet s n) own)
  else ctxPut s r x

/-- Bytes of engine area in each form (R111, R112). -/
def engineLen (kind : Nat) (hash : Bool) : Nat :=
  if kind = 1 then 32 else if kind = 2 then (if hash then 212 else 188) else if hash then 88 else 64

/-- INV_LIM at OPEN: the field, or the maximum of the code (R132, R152, R178). -/
def famInvLim (d : Bytes) : Nat :=
  match dFamily d with
  | 1 => cipherInvLim d
  | 2 => if leAt d 0x2A 1 = 0 then 64 else leAt d 0x2A 1
  | _ => if pInvLim d = 0 then payInvMax d else pInvLim d

/-- A context that OPEN makes (R108). -/
def ctxOpened (d : Bytes) (func : Nat) : Ctx :=
  { Ctx.free with
    st := 1, kind := hKind d, owner := func, opcode := dOpcode d, dir := dOpcode d % 16 == 1, invLim := famInvLim d,
    key := word (keyRef d), key2 := 0xFFFFFFFF, nonce := zeros 16, engine := zeros (engineLen (hKind d) (dFamily d == 2)) }

/-- The context of a descriptor that has none. -/
def ctxAbsent : Ctx := { Ctx.free with nonce := zeros 16, engine := zeros 64 }

inductive CtxStep where
  | fail (status detail : Nat)
  /-- a TAINTED or SPENT context is closed without a run -/
  | close (status detail : Nat)
  | run (c : Ctx)
  deriving DecidableEq, Repr

def ctxBad (detail : Nat) : CtxStep := .fail stContext detail

/-- Steps 6 to 10 of R105 with the table of R108; ext says that a wide handle's second half is FREE. -/
def ctxJudge (d : Bytes) (c : Ctx) (func : Nat) (ext : Bool) : CtxStep :=
  let opens := hAct d == 1 || hAct d == 3
  if c.st ≠ 0 ∧ c.kind ≠ hKind d then ctxBad 0x0F03
  else if c.st ≠ 0 ∧ c.owner ≠ func then ctxBad 0x0F07
  else if c.st = 4 then ctxBad 0x0F08
  else if c.st = 0 then (if opens && ext then .run (ctxOpened d func) else ctxBad 0x0F01)
  else if c.st = 1 then
    if opens then ctxBad 0x0F01
    else if c.opcode ≠ dOpcode d then ctxBad 0x0F05
    else if c.key ≠ word (keyRef d) then ctxBad 0x0F06
    else .run c
  else if hAct d = 2 then (if dLen d = 0 ∧ dAuxLen d = 0 then .close 0 0 else .close stContext 0x0F09)
  else ctxBad 0x0F01

/-- A write-back that the unit itself has under way to an overlapping context ends before the read. -/
def ownWriteBack (s : State) (uid : Nat) (r : CtxRef) : State :=
  match s.sc.wb.find? (fun w => w.uid == uid && ctxOverlap w.ref r) with
  | some w => ctxPut { s with sc := { s.sc with wb := s.sc.wb.erase w } } w.ref w.ctx
  | none => s

/-! ## The steps of a load -/

/-- A load so far: the state, the job, and the first failure. -/
structure LoadRes where
  s : State
  j : Job
  bad : Option (Nat × Nat)
  deriving DecidableEq, Repr

def LoadRes.next (x : LoadRes) (f : State → Job → LoadRes) : LoadRes :=
  match x.bad with
  | some _ => x
  | none => f x.s x.j

def loadFail (s : State) (j : Job) (status detail : Nat) : LoadRes := ⟨s, j, some (status, detail)⟩

/-- A check: the DETAIL of its failure, if any. -/
def loadCheck (s : State) (j : Job) (status : Nat) (detail : Option Nat) : LoadRes :=
  ⟨s, j, detail.map (fun x => (status, x))⟩

/-- A context that the unit kept is written back once the descriptor names another one, in the ranges now in force (R102,
R106). -/
def letGo (s : State) (uid : Nat) (j : Job) (n : Option CtxRef) : State × Job :=
  if j.ctxRef.isSome && j.ctxRef == n then (s, j)
  else match j.ctxRef with
    | some r => (if j.dirty then writeBack s uid r j.ctx else s, { j with ctxRef := none, dirty := false })
    | none => (s, { j with dirty := false })

/-- Steps 1 to 10 of R105; the fence of R282 makes an OPEN fail as out of range. -/
def loadCtx (uid func : Nat) (d : Bytes) (bad : List Nat) (s : State) (j : Job) : LoadRes :=
  let n := if dCtx d = noCtx then none else ctxNamed s func d
  let x := letGo s uid j n
  let s := x.1
  if dCtx d = noCtx then ⟨s, { x.2 with ctx := ctxAbsent, act := 0, local_ := 0 }, none⟩
  else
    let j := { x.2 with act := hAct d, local_ := hLocal d }
    if !s.sc.ready || n.any (ctxFilling s) then loadFail s j stContext 0x0F0A
    else if !famForm d (hKind d) then loadFail s j stContext 0x0F03
    else match n with
    | none => loadFail s j stContext 0x0F02
    | some r =>
      if (hAct d == 1 || hAct d == 3) && ctxFenced s func r then loadFail s j stContext 0x0F02
      else if ctxHeld s uid r then loadFail s j stContext 0x0F04
      else
        let kept := j.dirty
        let s := if kept then s else ownWriteBack s uid r
        let c := if kept then j.ctx else ctxGet s r
        let bad := if kept then [] else bad.eraseDups.filter (· < ctxWords r)
        let j := { j with ctxRef := some r, ctx := c }
        if !bad.isEmpty && ctxFenced s func r && c.st == 0 then loadFail s { j with ctxRef := none } stContext 0x0F02
        else if !bad.isEmpty then
          let s := ctxRewrite s r bad (hKind d) func
          loadFail { s with sc := { s.sc with parity := min (s.sc.parity + bad.length) 0xFFFFFFFF } } j stPoison 0x0F10
        else match ctxJudge d c func (!r.wide || kept || (s.sc.std.get .free (r.idx + 1)).st == 0) with
        | .fail st dt => loadFail s j st dt
        | .close st dt => loadFail s j st dt
        | .run c => ⟨s, { j with ctx := c }, none⟩

/-- The FORMAT checks that need neither key nor counters (R126, R150, R172, R175, R180). -/
def famPre (s : State) (d : Bytes) (c : Ctx) : Option Nat :=
  match dFamily d with
  | 1 => cipherPre d c
  | 2 => hashPre d c
  | 3 => payPre s.chart.policy d
  | _ => none

/-- Target slot of a descriptor with its DETAIL codes for a bad and a busy target (R157, R177, R240). -/
def tgtOf (d : Bytes) : Option (Nat × Nat × Nat) :=
  match dFamily d with
  | 2 => if hIsKdf d then some (hTgt d, 0x0208, 0x020A) else none
  | 3 => if pOp d = 2 then some (pTgt d, 0x0330, 0x0331) else none
  | 4 => if sUsesTgt d then some (sTgt d, 0x0B01, 0x0B02) else none
  | _ => none

/-- A service target has room (R240): a secret goes to an EMPTY or KEY slot, a new key to EMPTY ones. -/
def tgtRoom (s : State) (func : Nat) (d : Bytes) (i : Nat) : Bool :=
  if sKeygen d then
    (List.range (extOf (genLen d) + 1)).all (fun k => (slotAt s func (sTgt d + k)).isSome && (getSlot s (i + k)).kind == 0)
  else decide ((getSlot s i).kind ≤ 1)

/-- The target checks, the fence of R282 among them; the unit holds the target from here to its write. -/
def loadTarget (uid func : Nat) (d : Bytes) (s : State) (j : Job) : LoadRes :=
  match tgtOf d with
  | none => ⟨s, j, none⟩
  | some (n, bad, busy) =>
    match slotAt s func n with
    | none => loadFail s j stKeyAttr bad
    | some i =>
      let same := !dNoKey d && n == dKeySlot d
      if (List.range (if sKeygen d && dFamily d == 4 then extOf (genLen d) + 1 else 1)).any (fun k => slotFenced s (i + k)) then
        loadFail s j stKeyAttr 0x0901
      else if !ownsSlot s func i || same || (dFamily d != 4 && decide (2 ≤ (getSlot s i).kind)) then loadFail s j stKeyAttr bad
      else if s.units.any (fun e => e.1 != uid && e.2.job.any (fun x => x.tgtHeld == some i)) then
        loadFail s j stKeyAttr busy
      else if dFamily d = 4 ∧ tgtRoom s func d i = false then loadFail s j stKeyAttr 0x0B04
      else
        let k := if sKeygen d && dFamily d == 4 then extOf (genLen d) + 1 else 1
        ⟨s, { j with target := some (i, (List.range k).map (fun m => (getSlot s (i + m)).gen)), tgtHeld := some i }, none⟩

/-- VLOAD needs a SEALED unit (R215, R236); a KEYGEN needs the vault. -/
def loadPolicy (uid : Nat) (d : Bytes) (s : State) (j : Job) : LoadRes :=
  let vload := dFamily d == 4 && (sPrivate d || sKeygen d)
  if vload && !((unitRec s uid).map (·.sealed)).getD false then loadFail s j stKeyAttr 0x0A03
  else if vload && sKeygen d && !s.kv.ready then loadFail s j stKeyRevoked 0x090C
  else ⟨s, j, none⟩

/-- What the descriptor asks of KEY. -/
def keyAsk (func : Nat) (d : Bytes) : Option KeyAsk :=
  let ask := fun (engine usage : Nat) (t : List Nat × List Nat) => some ⟨dKeySlot d, dKeyGen d, func, engine, usage, t.1, t.2⟩
  if dNoKey d then none
  else match dFamily d with
  | 1 => ask 0 (2 ^ cipherUsage d) ([if cAlg d = 3 then 1 else 0], [cipherKeyLen d])
  | 2 => ask 1 (2 ^ hashUsage d) (hashTypes d)
  | 3 => ask 3 (payUsage d) ([0, 1], [])
  | _ => if sPrivate d then ask 2 (2 ^ serviceUsage d) (serviceTypes d) else none

/-- What it asks of KEY2: the tweak key of XTS, the second key of a PIN code. -/
def keyAsk2 (func : Nat) (d : Bytes) : Option KeyAsk :=
  if dFamily d = 1 ∧ cMode d = 9 then
    some ⟨cKey2 d % 65536, cKey2 d / 65536, func, 0, 2 ^ cipherUsage d, [0], [cipherKeyLen d]⟩
  else if dFamily d = 3 ∧ pIsPin d = true then
    some ⟨pKey2 d % 65536, pKey2 d / 65536, func, 3, payUsage2 d, [0, 1], []⟩
  else none

/-- Step 11 of R105 for KEY: the vault unmasks it into the key register of a cipher or hash tile (R119). -/
def loadKey (uid func : Nat) (d : Bytes) (bad : Bool) (s : State) (j : Job) : LoadRes :=
  match keyAsk func d with
  | none => ⟨s, { j with key := none }, none⟩
  | some k =>
    match vaultAccess s k bad with
    | (s, _, _, some r) =>
      let s := if dFamily d = 4 then s else setUni s uid { getUni s uid with key := some r }
      ⟨s, { j with key := some r, base := (getSlot s r.slot).attr }, none⟩
    | (s, st, dt, none) => loadFail s j st dt

/-- Step 11 of R105 for KEY2; a payment procedure reads its second key at the swap (R164). -/
def loadKey2 (func : Nat) (d : Bytes) (bad : Bool) (s : State) (j : Job) : LoadRes :=
  match keyAsk2 func d with
  | none => ⟨s, j, none⟩
  | some k =>
    match vaultAccess s k bad with
    | (s, _, _, some r) => ⟨s, if dFamily d = 1 then { j with key2 := some r } else { j with swap := some r }, none⟩
    | (s, st, dt, none) => loadFail s j st dt

/-- The invocation count of the slot, and its reservation inside the access (R131, R194). -/
def loadCount (d : Bytes) (s : State) (j : Job) : Nat × State :=
  match j.key with
  | some k =>
    let n := (getSlot s k.slot).invcnt
    (n, if dFamily d = 1 ∧ cipherCounts d j.ctx = true ∧ n + 1 < 2 ^ 32 then bumpInv s k.slot else s)
  | none => (0, s)

def keyBytes (k : Option KeyReg) : Bytes := (k.map (·.bytes)).getD []

/-- The slot that KEY2 of a PIN code names. -/
def pinSlot2 (s : State) (func : Nat) (d : Bytes) : Option Slot :=
  if pIsPin d then (slotAt s func (pKey2 d % 65536)).map (getSlot s) else none

/-- The checks that need the key's attributes or value (R120, R166, R200, R239). -/
def loadValue (func : Nat) (d : Bytes) (s : State) (j : Job) : LoadRes :=
  loadCheck s j stKeyAttr (match dFamily d with
    | 1 => if cipherKeyBad d (keyBytes j.key) (keyBytes j.key2) then some 0x0104 else none
    | 2 => if hIsKdf d && !deriveOk (hTgtAttr d) j.base (hOutLen d) then some 0x090B else none
    | 3 => match j.key with
      | some k => payKeyBad d (getSlot s k.slot) (pinSlot2 s func d)
      | none => none
    | _ => serviceAttrBad d (if sPrivate d then some j.base else none))

/-- The components that VLOAD writes, in slot order (R241): integers as the integers they encode, seeds byte 0 first. -/
def vloadParts (d rec : Bytes) : List Nat :=
  if !sPrivate d then []
  else match sSvc d with
  | 0 => beNat (rec.take 4) :: (List.range 5).map (rsaPart rec (rsaK (sPset d)))
  | 2 | 3 | 5 => [beNat rec]
  | _ => [leNat rec]

/-- The random slots behind them. -/
def vloadRandom (d : Bytes) : Nat :=
  if sKeygen d then 8
  else if !sPrivate d then 0
  else match sSvc d with
  | 0 | 4 => 3
  | 5 => 1
  | 6 => 2
  | _ => 4

/-- DRBG instance and bytes that a load draws (R170, R203, R241): a VLOAD fills its random slots; a public service draws its seed
from the instance of its Helm. -/
def drawOf (s : State) (uid : Nat) (d : Bytes) : Option (Nat × Nat) :=
  let tile := (((leaves s uid).head?).map (·.tile)).getD 0
  let helm := ((unitRec s uid).bind (·.helm)).getD 0
  match dFamily d with
  | 3 => if payDraws d then some (drbgFor tile, 16) else none
  | 4 =>
    if sPrivate d || sKeygen d then some (0, vloadRandom d * opdBytes s uid)
    else if sSvc d == 1 && sVar d == 3 then some (drbgFor helm, sHashLen d)
    else if sSvc d == 6 then some (drbgFor helm, 32) else none
  | _ => none

def loadDraw (uid : Nat) (d : Bytes) (s : State) (j : Job) : LoadRes :=
  match drawOf s uid d with
  | none => ⟨s, j, none⟩
  | some (k, n) =>
    if drbgUp s k then
      let x := drbgDraw s k n
      ⟨x.1, { j with rand := x.2 }, none⟩
    else loadFail s j stAlarm 0x090D

/-- Step 12 of R105: cnt is the slot's count. -/
def loadReserve (d : Bytes) (cnt : Nat) (s : State) (j : Job) : LoadRes :=
  let has := j.ctxRef.isSome
  match (match dFamily d with
    | 1 => cipherReserve d has j.ctx cnt
    | 2 => hashReserve d has j.ctx
    | 3 => payReserve d has j.ctx
    | _ => some j.ctx) with
  | some c => ⟨s, { j with ctx := c }, none⟩
  | none => loadFail s j stNonce 0

/-- What VLOAD writes into the slots from 0 on (R241; log 16). -/
def vloadValues (s : State) (uid : Nat) (d : Bytes) (j : Job) : List Nat :=
  vloadParts d (keyBytes j.key) ++ (chunks (opdBytes s uid) j.rand).map leNat

/-- VLOAD writes its slots and marks them LOADED (R217, R241). -/
def loadUnit (uid : Nat) (d : Bytes) (s : State) (j : Job) : LoadRes :=
  if dFamily d = 4 ∧ (sPrivate d || sKeygen d) = true then
    let v := vloadValues s uid d j
    ⟨addOcc (vloadAt s uid 0 v) uid (vloadOcc s uid v.length), { j with written := List.range v.length }, none⟩
  else ⟨s, j, none⟩

/-- The whole load, in the order of R105 and R415. -/
def loadAll (uid func : Nat) (d : Bytes) (env : LoadEnv) (s : State) (j : Job) : LoadRes :=
  let x := (((loadCtx uid func d env.ctxBad s j).next (fun s j => loadCheck s j stFormat (famPre s d j.ctx))).next
    (loadTarget uid func d)).next (loadPolicy uid d)
  let x := (x.next (loadKey uid func d env.keyBad)).next (loadKey2 func d env.key2Bad)
  x.next (fun s j =>
    let c := loadCount d s j
    ((((loadValue func d c.2 j).next (loadDraw uid d)).next (loadReserve d c.1)).next (loadUnit uid d)))

end Sys2Proof.Machine
end

