-- ==== Sys2Proof/Machine/Execute.lean ====
section
/-!
DEFINITION. From the load of a descriptor to its end on the unit: input, plan, blocks with their checks and retries
(R136 to R138, R158, R227, R350, R351), output (R14, R39, R312), targets (R157, R177, R240), counters.
-/

namespace Sys2Proof.Machine

/-! ## Units and counters -/

/-- A unit enters FAULT (R351): bounds of its pool are void, source CHECK_FAIL reports. -/
def unitFault (s : State) (uid : Nat) : State :=
  let s := setUni s uid { getUni s uid with st := 4 }
  let s := voidFewer s
  bnLatch (alarmReport s 0x200) 2

/-! ## Payment and Helm counters (R182 to R184, R252) -/

/-- A PIN failure of a function: at the limit the latch, its message and one record. A LIMIT lowered in an interval to or below a
count raises no event in it (DESIGN CHOICE, log 55). -/
def pinFailure (s : State) (f : Nat) : State :=
  let x := getFn s f
  let s := setFn s f { x with pinIv := x.pinIv + 1, pinFail := sat32 x.pinFail }
  if s.py.limit = 0 ∨ x.pinIv + 1 ≠ s.py.limit.toNat then s
  else if s.py.notLimit then { s with py := { s.py with notCount := sat16 s.py.notCount } }
  else
    let s := pfNotice { s with py := { s.py with notLimit := true, notFunc := BitVec.ofNat 14 f } } s.py.noticeCfg
    logReq s 7 false false (toLE 2 f ++ toLE 2 s.py.limit.toNat)

/-- PY_ counters of a payment descriptor that ran; PY_XLATE counts at the record (R183). -/
def payCount (s : State) (f : Nat) (d : Bytes) (status detail : Nat) : State :=
  let y := s.py
  let s := { s with py := { y with
    pinFormat := if status = stPin then sat32 y.pinFormat else y.pinFormat,
    verifyFail := if status = stAuthFail then sat32 y.verifyFail else y.verifyFail,
    imported := if pOp d = 2 ∧ status = 0 then sat32 y.imported else y.imported } }
  if status = stPin ∨ detail = 0x0320 then pinFailure s f else s

/-- HL_SPECIAL and HL_NO_RESULT. -/
def helmCount (s : State) (p : Plan) : State :=
  { s with hl := { s.hl with
    special := if p.special then sat32 s.hl.special else s.hl.special,
    noResult := if p.detail = 0x0B20 then sat32 s.hl.noResult else s.hl.noResult } }

/-! ## Completion and failure -/

/-- The slots of an arithmetic unit are zero and unflagged after a descriptor (R218); CARRY stays as the last command of its Helm has
left it (R224; DESIGN CHOICE, log 65). -/
def clearSlots (s : State) (uid : Nat) : State :=
  let u := getUni s uid
  setUni (zeroTiles s uid) uid { u with ar := { u.ar with valid := [], loaded := [] } }

/-- A descriptor that ran to its last block ends with this outcome. -/
def complete (s : State) (uid : Nat) (j : Job) (c : Chain) (status detail flags : Nat) (result : Bytes) : State :=
  let d := c.descs.getD j.idx []
  let s := if dFamily d = 3 then payCount s c.func d status detail else s
  let s := if dFamily d = 4 then clearSlots (helmCount s j.plan) uid else s
  let ctx := match j.ctxRef with
    | none => none
    | some _ => if j.act = 2 ∨ j.act = 3 then some Ctx.free else j.plan.ctx
  endDesc s uid ⟨status, detail, flags, result, ctx, s.clk.meridian⟩

/-- DETAIL of a lost target. -/
def lostCode (d : Bytes) : Nat := if dFamily d = 2 then 0x0209 else if dFamily d = 3 then 0x0332 else 0x0B03

/-- Why a target is not written: the base key, the target or a slot that it would take was erased or rewritten after the load
(R192, R195), or the target lies
in a part of the range that a transaction removes or has removed (R282). -/
def tgtLost (s : State) (func : Nat) (d : Bytes) (j : Job) (t : Target) : Option (Nat × Nat) :=
  let l := List.range t.gens.length
  let now := fun (k : Nat) => getSlot s (t.slot + k)
  if j.key.any (fun k => (getSlot s k.slot).gen != k.gen) then some (stKeyRevoked, 0x0904)
  else if !s.kv.ready || j.tgtHeld != some t.slot || l.any (fun k => some (now k).gen != t.gens[k]? || decide (2 ≤ (now k).kind)) then
    some (stKeyRevoked, lostCode d)
  else if l.any (fun k =>
      slotFenced s (t.slot + k) || (slotOwner s (t.slot + k)).all (fun f => f.func != func)) then some (stKeyAttr, 0x0901)
  else none

/-- The target of a descriptor that has one was lost (R192, R195, R240). -/
def lostTarget (s : State) (c : Chain) (j : Job) : Option (Nat × Nat) :=
  j.plan.target.bind (tgtLost s c.func (c.descs.getD j.idx []) j)

/-- The last block is released: target, RESULT, record. -/
def finish (s : State) (uid : Nat) : State :=
  match (getUni s uid).job with
  | none => s
  | some j =>
    match findChain s j.chain with
    | none => s
    | some c =>
      let p := j.plan
      let d := c.descs.getD j.idx []
      let fl := p.flags + checked j
      match p.target, lostTarget s c j with
      | none, _ => complete s uid j c p.status p.detail fl p.result
      | some _, some (st, dt) => complete s uid j c st dt (checked j) []
      | some t, none =>
        let s := putSlot s t.slot t.attr t.key t.pubh
        let x := getSlot s t.slot
        let s := if dFamily d = 2 then count s uid (fun k => { k with fourth := sat32 k.fourth }) else s
        complete s uid j c p.status p.detail fl (toLE 2 x.gen ++ x.kcv)

/-- A running descriptor fails; what was detected before stands (R8). An arithmetic one is aborted (R249). Any other ends with its
context (R110), at once when an access was refused, else when the blocks that were released before are all issued (R138, R142). -/
def failRun (s : State) (uid status detail : Nat) : State :=
  match (getUni s uid).job with
  | none => s
  | some j =>
    let x := firstCause j status detail
    if found j then finish s uid
    else if ((unitRec s uid).map (·.cls)).getD 0 = 2 then abortRecord s uid status detail
    else if status ≠ stAccess ∧ j.phase = .exec ∧ queued s (.output j.chain j.idx) = true then
      setUni s uid { getUni s uid with job := some { j with phase := .writing, stop := some x } }
    else endDesc s uid ⟨x.1, x.2, checked j, [], ctxFail j x.1, s.clk.meridian⟩

/-- All output of a descriptor is issued: it ends as it was stopped, or as its plan says. -/
def drained (s : State) (uid : Nat) : State :=
  match (getUni s uid).job.bind (·.stop) with
  | some (status, detail) => failRun s uid status detail
  | none => finish s uid

/-! ## Input and plan -/

/-- The input of a descriptor: the staged copy, chain scratch, or what was read. Where the output before it turned out shorter than
LEN, what stands behind it in the scratch buffer is nobody's to say (free bytes; DESIGN CHOICE, log 55). -/
def inputOf (s : State) (c : Chain) (j : Job) (d : Bytes) : Bytes :=
  match c.staged with
  | some b => b
  | none =>
    if dSrcScr d then
      let b := (c.scratch.getD []).take (dLen d)
      b ++ freeBytes s (dLen d - b.length)
    else j.gather.bytes

/-- The command words of a service on a unit (R221, R243). -/
def programOf (s : State) (uid : Nat) (d : Bytes) (check : Nat) : List Config.HelmWord :=
  Config.helmProgram (dOpcode d) (8 * opdBytes s uid) (tcount s uid) check (edSteps d)

/-- What the loaded descriptor will do. -/
def makePlan (s : State) (uid : Nat) (c : Chain) (j : Job) : Plan :=
  let d := c.descs.getD j.idx []
  let key := keyBytes j.key
  let input := inputOf s c j d
  let t := (j.target.getD (0, []))
  match dFamily d with
  | 1 => cipherPlan d j.ctx key (keyBytes j.key2) input
  | 2 => if hIsKdf d then kdfPlan d key input t.1 t.2 j.base else digestPlan d j.ctx key input
  | 3 =>
    if pIsPin d then
      payPin d key (atType j.base) ((j.swap.map (fun k => atType (getSlot s k.slot).attr)).getD 0) (keyBytes j.swap) j.rand input
    else if pOp d = 2 then payImport d key (atType j.base) t.1 t.2 input
    else if pIsMac d then payMac d j.ctx key input
    else payEmv d key input
  | _ => servicePlan d key input j.rand j.target (if sPrivate d then some j.base else none) (programOf s uid d j.check)

/-- The working registers of a tile with a context, of the codes that have any (R118, R145, R178; log 48). -/
def tileOf (d : Bytes) (c : Ctx) (key2 : Bytes) : Option Tile :=
  match dFamily d with
  | 1 => some (cipherTile d c key2)
  | 2 => some (hashTile d c)
  | 3 => if pIsMac d then some (payTile d c) else none
  | _ => none

/-- All input is there: the plan begins, and ends at once when it has no block. A descriptor that writes to chain scratch begins it
anew (R34). -/
def startExec (s : State) (uid : Nat) : State :=
  let u := getUni s uid
  match u.job with
  | none => s
  | some j =>
    match findChain s j.chain with
    | none => s
    | some c =>
      let p := makePlan s uid c j
      let d := c.descs.getD j.idx []
      let j := { j with phase := .exec, plan := p, blk := 0, tries := 0 }
      let s := if dSrcScr d then tickFree s (dLen d) else s
      let s := if dDstScr d then setChain s { c with scratch := some [] } else s
      let s := setUni s uid { u with job := some j, tile := (tileOf d j.ctx (keyBytes j.key2)).getD u.tile }
      if p.blocks.isEmpty then finish s uid else s

/-- A descriptor in its input phase goes on when no piece is out; a refused or failed read ends it (R142). -/
def tryExec (s : State) (uid : Nat) : State :=
  match (getUni s uid).job with
  | none => s
  | some j =>
    if j.phase ≠ .input then s
    else if j.gather.err.isSome then failRun (commandErr s uid 2 stAccess 0) uid stAccess 0
    else if j.gather.need = 0 then startExec s uid else s

/-! ## DESCRIPTOR_LOAD -/

/-- The descriptor before it in its segment. -/
def prevDesc (c : Chain) (j : Job) : Option Bytes :=
  match c.segs[j.seg]? with
  | some g => if g.first < j.idx then c.descs[j.idx - 1]? else none
  | none => none

/-- Length of the load stage of a descriptor that fails in it (R415). -/
def loadSpan (s : State) (c : Chain) (j : Job) (d : Bytes) : Nat :=
  let pool := ((c.segs[j.seg]?).map (·.pool)).getD 0
  let aux := ((costRec s pool (dOpcode d)).map (·.aux)).getD false
  if c.staged.isSome || !dH d (prevDesc c j) aux false then 120
  else if dFamily d = 1 ∧ cMode d = 9 then 840 else 480

/-- The unit and its Helm show the descriptor (R143, R161, R253); the Helm's data half holds what the firmware puts there, which no
rule states (free bytes, log 16). -/
def beginOp (s : State) (uid : Nat) (d : Bytes) : State :=
  let s := setUni s uid { getUni s uid with op := dOpcode d, active := true }
  match (unitRec s uid).bind (·.helm) with
  | some h => tickFree (setHalf (setHelm s h { getHelm s h with op := dOpcode d }) uid (freeBytes s 16384)) 16384
  | none => s

/-- The load of the claimed descriptor; its input read is issued beside it (R10). -/
def loadDesc (s : State) (uid : Nat) (env : LoadEnv) (j : Job) (c : Chain) : State :=
  let d := c.descs.getD j.idx []
  let s := beginOp s uid d
  let r := unitRec s uid
  let j := { j with
    check := (r.map (·.check)).getD 0, action := (r.map (·.action)).getD 0, retryMax := (r.map (·.retryMax)).getD 0,
    epoch := s.tx.epoch }
  let r := if dLen d ≠ 0 ∧ dSrcScr d = false ∧ c.staged = none then
      startRead s (c.ring % 8) c.func (dSrc d) (dLen d) (.input c.id j.idx) (poolOfDesc c j.idx)
    else (s, .none)
  let x := loadAll uid c.func d env r.1 { j with gather := r.2 }
  match x.bad with
  | some (st, dt) =>
    let ctx := if x.j.dirty && st != stNonce then j.ctx else x.j.ctx
    setUni x.s uid { getUni x.s uid with
      job := some { x.j with ctx := ctx, phase := .failed st dt (j.from_ + loadSpan s c j d) } }
  | none => tryExec (setUni x.s uid { getUni x.s uid with job := some { x.j with phase := .input } }) uid

/-- The context that a poisoned descriptor names becomes TAINTED, if it is OPEN, its function's own, and no other unit holds it
(R110, R142, R160; log 45). -/
def poisoned (s : State) (uid : Nat) (j : Job) (c : Chain) : State :=
  let d := c.descs.getD j.idx []
  let n := if dCtx d = noCtx then none else ctxNamed s c.func d
  let x := letGo s uid j n
  let taint := fun (k : Ctx) => { k with st := 2, cause := stPoison }
  let done := fun (s : State) (ctx : Option Ctx) => endDesc s uid ⟨stPoison, 0, 0, [], ctx, j.from_ + 4⟩
  if x.2.dirty then done x.1 (some (if x.2.ctx.st = 1 then taint x.2.ctx else x.2.ctx))
  else
    let s := setUni x.1 uid { getUni x.1 uid with job := some x.2 }
    match n with
    | none => done s none
    | some r =>
      if !s.sc.ready || ctxFilling s r || ctxHeld s uid r then done s none
      else
        let s := ownWriteBack s uid r
        let k := ctxGet s r
        done (if k.st = 1 ∧ k.kind = hKind d ∧ k.owner = c.func then ctxPut s r (taint k) else s) none

/-- DESCRIPTOR_LOAD (R105, R193, R415): a poisoned entry is not executed (R94). -/
def execDescriptorLoad (u : BitVec 12) (env : LoadEnv) (s : State) : Host.Outcome State Fault Refusal :=
  let uid := u.toNat
  .next (match (getUni s uid).job with
    | none => s
    | some j =>
      match findChain s j.chain with
      | none => s
      | some c =>
        if !engineUp s || j.phase != .claimed then s
        else if j.poison.contains j.idx then poisoned s uid j c
        else loadDesc s uid env j c)

/-- The context that a failed load leaves: written back only when it is SPENT or closed without a run (R105, R108). -/
def failedCtx (j : Job) (status detail : Nat) : Option Ctx :=
  if status = stNonce then ctxFail j status
  else if status = 0 ∨ detail = 0x0F09 then some .free else none

/-- LOAD_STAGE_END (R415). -/
def execLoadStageEnd (u : BitVec 12) (s : State) : Host.Outcome State Fault Refusal :=
  let uid := u.toNat
  .next (match (getUni s uid).job with
    | none => s
    | some j =>
      match j.phase with
      | .failed st dt due =>
        if engineUp s && decide (due ≤ s.clk.meridian) then
          let s := if dt / 256 = 9 ∨ dt / 256 = 0xA then commandErr s uid 5 st dt else s
          endDesc s uid ⟨st, dt, 0, [], failedCtx j st dt, due + 16⟩
        else s
      | _ => s)

/-! ## Blocks -/

/-- An output write of a descriptor left: its record waits for the responses if the code does not keep order (R14). -/
def outIssued (s : State) (id idx : Nat) (v : Verdict) : State :=
  if keepsOrder v then s
  else { s with units := s.units.mapVal (fun _ u => { u with job := u.job.map (fun j =>
    if j.chain = id ∧ j.idx = idx then { j with waits := true } else j) }) }

/-- Output of a block to host memory, piece by piece; a refused piece ends it. Of a block that is written whole or not at all, a
piece is issued only while the rules grant those behind it (R142, R182, R310). -/
def issueOut (s : State) (c : Chain) (idx : Nat) (data : Bytes) (whole : Bool) : List (Nat × Nat × Nat) → State × Bool
  | [] => (s, true)
  | (o, a, l) :: r =>
    let t : Txn := ⟨0, true, a, l, c.func, 0, 0, 0, (data.drop o).take l, o, .output c.id idx, poolOfDesc c idx, s.clk.meridian,
      false, 0, false, if whole then data.length - (o + l) else 0⟩
    match issueTxn s (c.ring % 8) t with
    | (s, .refused) => (s, false)
    | (s, .issued v) => issueOut (outIssued s c.id idx v) c idx data whole r
    | (s, .waits _) => issueOut s c idx data whole r

/-- A block of a cipher, hash or payment tile is written whole or not at all: a prefix ends on a block boundary (R142, R182). -/
def wholeOutput (d : Bytes) : Bool := dFamily d != 4

/-- Moves a block's output to chain scratch and to the destination; false when a piece was refused. -/
def releaseOut (s : State) (uid : Nat) (j : Job) (c : Chain) (out : Bytes) : State × Bool :=
  let d := c.descs.getD j.idx []
  let s := if dDstScr d then setChain s { c with scratch := some ((c.scratch.getD []).take j.outOff ++ out) } else s
  let s := setUni s uid { getUni s uid with job := some { j with outOff := j.outOff + out.length } }
  if dDstScr d && !dDstAlso d then (s, true)
  else
    issueOut s c j.idx out (wholeOutput d) (pieces (dDst d + j.outOff) out.length)

/-- The vault swap of a payment procedure (R164) checks the slot that the load found, as R193 states: its failure, or the key it
reads. -/
def vaultSwap (s : State) (k : KeyReg) (ask : KeyAsk) (bad : Bool) : State × Nat × Nat ⊕ KeyReg :=
  let x := getSlot s k.slot
  if !s.kv.ready then .inl (s, stKeyRevoked, 0x090C)
  else if (slotAt s ask.func ask.slot).isNone then .inl (s, stKeyAttr, 0x0901)
  else if bad || x.badSeen then .inl (slotParity s k.slot, stPoison, 0x0902)
  else
    let v := slotJudge x ask
    if v.1 = 0 then .inr ⟨k.slot, x.gen, ask.func, slotKey s k.slot⟩ else .inl (s, v.1, v.2)

/-- A block is computed and agrees: it is counted (R143; that one which never agrees is not is log 65, DESIGN CHOICE) and released, but
for the output of a descriptor whose target was lost (R240); a block of a service is a command of its Helm. The descriptor ends
when all its output is issued (R14). -/
def releaseBlock (s : State) (uid : Nat) (j : Job) (c : Chain) (b : PlanBlock) : State :=
  let s := match b.cmd with
    | some w => helmCommand s uid w.1 w.2 (vloadValues s uid (c.descs.getD j.idx []) j)
    | none => s
  let u := getUni s uid
  let j : Job := { j with blk := j.blk + 1, tries := 0, written := (u.job.map (·.written)).getD j.written }
  let key := match b.key, u.key with
    | some k, some r => some { r with bytes := k }
    | _, k => k
  let left := if j.blk < j.plan.blocks.length then none
    else j.plan.ctx.bind (fun k => tileOf (c.descs.getD j.idx []) k (keyBytes j.key2))
  let s := setUni s uid { u with job := some j, key := key, tile := b.tile.getD (left.getD u.tile) }
  let s := count s uid (fun k => { k with blocks := (k.blocks + b.count) % 2 ^ 64 })
  let lost := if j.blk < j.plan.blocks.length then none else lostTarget s c j
  let x := if b.out.isEmpty || lost.isSome then (s, true) else releaseOut s uid j c b.out
  if !x.2 then failRun (commandErr x.1 uid 3 stAccess 0) uid stAccess 0
  else if j.blk < j.plan.blocks.length then x.1
  else if queued x.1 (.output c.id j.idx) then
    setUni x.1 uid { getUni x.1 uid with job := (getUni x.1 uid).job.map (fun j => { j with phase := .writing }) }
  else finish x.1 uid

/-- The vault swap that comes before a block, if it has one. -/
def swapThen (s : State) (uid : Nat) (j : Job) (c : Chain) (bad : Bool) (b : PlanBlock) : State :=
  match (if b.swap then j.swap else none), keyAsk2 c.func (c.descs.getD j.idx []) with
  | some k, some ask =>
    match vaultSwap s k ask bad with
    | .inl (s, st, dt) => if found j then releaseBlock s uid j c b else failRun s uid st dt
    | .inr k =>
      let s := countScrub (setUni s uid { getUni s uid with key := some k }) uid
      releaseBlock s uid { j with key2 := some k, swap := none } c b
  | _, _ => releaseBlock s uid j c b

/-- OP of the command that a block of a service is; its last block is the STORE of what it puts out (R230). -/
def blockOp (b : PlanBlock) : Nat := (b.cmd.map (·.1.op.toNat)).getD 3

/-- A block fails its check (R138, R350, R351); of a service, a block is one command, with its own attempts (R227). -/
def mismatch (s : State) (uid : Nat) (j : Job) (b : PlanBlock) : State :=
  let cls := ((unitRec s uid).map (·.cls)).getD 0
  let s := countMismatch s uid
  if j.action = 0 then alarmReport s 0x100
  else if j.tries < j.retryMax then
    let u := getUni s uid
    let s := if cls = 2 then s else count s uid (fun c => { c with retry := sat32 c.retry })
    voidUnit (setUni s uid { u with job := some { j with tries := j.tries + 1 } }) (visits [u.lockPool])
  else
    let s := failRun (commandErr (setUni s uid { getUni s uid with st := 4 }) uid (blockOp b) stMismatch 0) uid stMismatch 0
    let s := if cls = 2 then release (setUni s uid { getUni s uid with st := 4 }) uid else s
    unitFault s uid

/-- An operand word of one of a unit's tiles fails its parity: AT_PARITY of that tile (R230). -/
def tileParity (s : State) (uid n : Nat) : State :=
  let l := leaves s uid
  match l[n % l.length]? with
  | some r => { s with cnts := s.cnts.set r.uid { getCnt s r.uid with parity := sat32 (getCnt s r.uid).parity } }
  | none => s

/-- Operand-port reads of LOADED slots, answered with zero (R217, R252). -/
def loadedReads (s : State) (uid n : Nat) : State :=
  if (getUni s uid).ar.loaded.isEmpty then s
  else { s with hl := { s.hl with loadedRead := min (s.hl.loadedRead + n) 0xFFFFFFFF } }

/-- EXECUTE_BLOCK_DONE: the unit's next block is computed. -/
def execExecuteBlockDone (u : BitVec 12) (env : BlockEnv) (s : State) : Host.Outcome State Fault Refusal :=
  let uid := u.toNat
  .next (match (getUni s uid).job with
    | none => s
    | some j =>
      match findChain s j.chain, j.plan.blocks[j.blk]? with
      | some c, some b =>
        let s' := loadedReads s uid env.loadedReads.toNat
        if !engineUp s || j.phase != .exec then s
        else
        let s := s'
        if j.stop.isSome then failRun s uid (j.stop.getD (0, 0)).1 (j.stop.getD (0, 0)).2
        else if env.parity then
          let arith := ((unitRec s uid).map (·.cls)).getD 0 == 2
          let s := if arith then commandErr (tileParity s uid env.tile.toNat) uid (blockOp b) stPoison 0x0A08 else s
          failRun s uid stPoison (if arith then 0x0A08 else 0)
        else if !env.agree && checkFlag j != 0 && b.count != 0 then mismatch s uid j b
        else swapThen s uid j c env.swapBad b
      | _, _ => s)

end Sys2Proof.Machine
end

