-- ==== Sys2Proof/Machine/Arith.lean ====
section
/-!
DEFINITION. Host commands of arithmetic units (R219 to R227), the host claim of a unit and its release (R19, R229),
and the end of slot scrubs (R228).
-/

namespace Sys2Proof.Machine

/-! ## The write of AT_CMD (R221) -/

/-- Issues the read of a LOAD on port 0 as the PF (R221). -/
def atTransfer (s : State) (uid : Nat) (c : AtCmd) : State × AtCmd :=
  if c.op = 2 then
    let x := startRead s 0 0 c.xaddr (opdBytes s uid) (.atRead uid) []
    (x.1, { c with gather := x.2 })
  else (s, c)

/-- The command begins: its operands are sampled and it holds the array. -/
def atStart (s : State) (uid : Nat) (c : AtCmd) : State :=
  let cyc := unitCycles s uid c.op c.fl
  let x := atTransfer s uid { c with due := s.clk.meridian + cyc.2 }
  let u := getUni x.1 uid
  setUni x.1 uid { u with ar := { u.ar with busy := true, cmd := some x.2, occ := (u.ar.occ + cyc.1) % 2 ^ 64 } }

/-- A write of AT_CMD (R221, R223). -/
def atCmdW (s : State) (uid : Nat) (v : Word) : State :=
  let top := topUnit s uid
  let u := getUni s top
  match unitRec s uid with
  | none => s
  | some r =>
    if r.cls ≠ 2 ∨ quietWrites s = true ∨ struck s = true then s
    else if u.ar.busy || !u.hostHeld || top != uid then
      setUni s top { u with ar := { u.ar with cmdIgnored := true } }
    else
      let ar := u.ar
      let c : AtCmd := ⟨wfld v 0 5, BitVec.ofNat 3 (wfld v 5 3), wfld ar.opdDA 0 16, wfld ar.opdDA 16 16,
        wfld ar.opdBC 0 16, wfld ar.opdBC 16 16, wfld ar.q 0 31, ar.xaddr, 0, 0, .none, 0, false, false⟩
      match atCheck s uid c with
      | some (st, dt) => atEnd s uid c.op st dt (refusedCarry s uid c.op)
      | none => atStart s uid c

/-- The value of AT_CMD of a command and its flags. -/
def atCmdWord (op : Nat) (fl : BitVec 3) : Word := word (op + 32 * fl.toNat)

/-- AT_CLEAR. -/
def execAtClear (a : Access) (u : BitVec 12) (fl : BitVec 3) (s : State) : Host.Outcome State Fault Refusal :=
  .next (hostWrite s a (unitAt a u.toNat 0x48) (fun s => atCmdW s u.toNat (atCmdWord 1 fl)))

/-- AT_LOAD. -/
def execAtLoad (a : Access) (u : BitVec 12) (fl : BitVec 3) (s : State) : Host.Outcome State Fault Refusal :=
  .next (hostWrite s a (unitAt a u.toNat 0x48) (fun s => atCmdW s u.toNat (atCmdWord 2 fl)))

/-- AT_STORE. -/
def execAtStore (a : Access) (u : BitVec 12) (fl : BitVec 3) (s : State) : Host.Outcome State Fault Refusal :=
  .next (hostWrite s a (unitAt a u.toNat 0x48) (fun s => atCmdW s u.toNat (atCmdWord 3 fl)))

/-- AT_VLOAD: only a Helm's VLOAD is carried out (R217, R223). -/
def execAtVload (a : Access) (u : BitVec 12) (fl : BitVec 3) (s : State) : Host.Outcome State Fault Refusal :=
  .next (hostWrite s a (unitAt a u.toNat 0x48) (fun s => atCmdW s u.toNat (atCmdWord 5 fl)))

/-- AT_ADD. -/
def execAtAdd (a : Access) (u : BitVec 12) (fl : BitVec 3) (s : State) : Host.Outcome State Fault Refusal :=
  .next (hostWrite s a (unitAt a u.toNat 0x48) (fun s => atCmdW s u.toNat (atCmdWord 8 fl)))

/-- AT_SUB. -/
def execAtSub (a : Access) (u : BitVec 12) (fl : BitVec 3) (s : State) : Host.Outcome State Fault Refusal :=
  .next (hostWrite s a (unitAt a u.toNat 0x48) (fun s => atCmdW s u.toNat (atCmdWord 9 fl)))

/-- AT_CSUB. -/
def execAtCsub (a : Access) (u : BitVec 12) (fl : BitVec 3) (s : State) : Host.Outcome State Fault Refusal :=
  .next (hostWrite s a (unitAt a u.toNat 0x48) (fun s => atCmdW s u.toNat (atCmdWord 0x0A fl)))

/-- AT_MUL. -/
def execAtMul (a : Access) (u : BitVec 12) (fl : BitVec 3) (s : State) : Host.Outcome State Fault Refusal :=
  .next (hostWrite s a (unitAt a u.toNat 0x48) (fun s => atCmdW s u.toNat (atCmdWord 0x10 fl)))

/-- AT_MULACC. -/
def execAtMulacc (a : Access) (u : BitVec 12) (fl : BitVec 3) (s : State) : Host.Outcome State Fault Refusal :=
  .next (hostWrite s a (unitAt a u.toNat 0x48) (fun s => atCmdW s u.toNat (atCmdWord 0x11 fl)))

/-- AT_SQR. -/
def execAtSqr (a : Access) (u : BitVec 12) (fl : BitVec 3) (s : State) : Host.Outcome State Fault Refusal :=
  .next (hostWrite s a (unitAt a u.toNat 0x48) (fun s => atCmdW s u.toNat (atCmdWord 0x12 fl)))

/-- AT_BFLY. -/
def execAtBfly (a : Access) (u : BitVec 12) (fl : BitVec 3) (s : State) : Host.Outcome State Fault Refusal :=
  .next (hostWrite s a (unitAt a u.toNat 0x48) (fun s => atCmdW s u.toNat (atCmdWord 0x18 fl)))

/-! ## The end of a command (R222, R223) -/

/-- The command's results are written (R222). -/
def atWriteBack (s : State) (uid : Nat) (c : AtCmd) : State :=
  let x := atEffect s uid c c.gather.bytes
  atEnd x.1 uid c.op 0 0 x.2

/-- The check of a host command disagrees (R138, R227, R350, R351). -/
def atMismatch (s : State) (uid : Nat) (c : AtCmd) : State :=
  let r := unitRec s uid
  let s := countMismatch s uid
  if (r.map (·.action)).getD 0 = 0 then alarmReport s 0x100
  else if c.tries < (r.map (·.retryMax)).getD 0 then
    let u := getUni s uid
    let c := { c with tries := c.tries + 1, due := s.clk.meridian + (unitCycles s uid c.op c.fl).2 }
    setUni s uid { u with ar := { u.ar with cmd := some c } }
  else unitFault (atFail s uid c stMismatch 0) uid

/-- The read of a LOAD was refused or failed. -/
def atFault (c : AtCmd) : Bool := c.gather.err.isSome

/-- A STORE issues its writes, up to the first refusal (R223). -/
def atStore (s : State) (uid : Nat) (c : AtCmd) : State :=
  let n := opdBytes s uid
  match issueAll s 0 0 true (toLE n (opdRead s uid c.a)) (.atWrite uid) [] (pieces c.xaddr n) with
  | (s, k, bad) =>
    if k = 0 then atFail s uid c stAccess 0
    else
      let u := getUni s uid
      setUni s uid { u with ar := { u.ar with cmd := some { c with sent := true, out := k, fault := bad.isSome } } }

/-- Steps 6 to 9 of R223, then the results; the writes of a STORE wait for its check (R138, R227). -/
def atFinish (s : State) (uid : Nat) (c : AtCmd) (env : BlockEnv) : State :=
  let check := ((unitRec s uid).map (·.check)).getD 0
  if c.sent then (if c.fault then atFail s uid c stAccess 0 else atWriteBack s uid c)
  else if !lanesOk s uid c then atFail s uid c stRange 0x0A05
  else if env.parity && !(sourceSlots c).isEmpty then atFail (tileParity s uid env.tile.toNat) uid c stPoison 0x0A08
  else if atFault c then atFail s uid c stAccess 0
  else if !env.agree && check != 0 then atMismatch s uid c
  else if c.op = 3 then atStore s uid c
  else atWriteBack s uid c

/-- AT_CMD_DONE: the latency of R226 has passed and every transfer has its response. -/
def execAtCmdDone (u : BitVec 12) (env : BlockEnv) (s : State) : Host.Outcome State Fault Refusal :=
  let uid := u.toNat
  .next (match (getUni s uid).ar.cmd with
    | none => s
    | some c =>
      if engineUp s && decide (c.due ≤ s.clk.meridian) && c.gather.need == 0 && c.out == 0 then atFinish s uid c env
      else s)

/-! ## The operand aperture (R219, R220) -/

/-- The leaf that stands for an arithmetic tile. -/
def leafAt (s : State) (tile : Nat) : Option UnitRec :=
  s.chart.units.find? (fun r => r.cls == 2 && !r.group && r.tile == tile)

/-- The top-level unit of the tile that an aperture offset names. -/
def apertureUnit (s : State) (off : Nat) : Option Nat := (leafAt s (off / tileBytes)).map (fun r => topUnit s r.uid)

/-- The conditions of R219, the access rules having granted it. -/
def apertureOk (s : State) (uid : Nat) (a : Access) (off : Nat) : Bool :=
  let u := getUni s uid
  let n := accessBytes a.size
  ((unitRec s uid).map (fun r => !r.sealed)).getD false && u.hostHeld && !u.ar.busy &&
    (compTiles s uid).any (fun r => r.tile == off / tileBytes) && decide (4 ≤ n ∧ n ≤ 64) && off % n == 0

/-- An access that fails a condition latches APERTURE_REFUSED of the top-level unit. -/
def apertureRefuse (s : State) (uid : Option Nat) : State :=
  match uid with
  | some u => setUni s u { getUni s u with ar := { (getUni s u).ar with apRefused := true } }
  | none => s

/-- The slots that an access touches. -/
def slotsTouched (s : State) (uid off n : Nat) : List Nat :=
  let o := off - firstTile s uid * tileBytes
  let b := opdBytes s uid
  (List.range ((o + n - 1) / b - o / b + 1)).map (· + o / b)

/-- Writes bytes of one or two slots: an INVALID slot is zero before (R219). -/
def apertureStore (s : State) (uid off : Nat) (data : Bytes) : State :=
  let l := slotsTouched s uid off data.length
  let s := (l.filter (fun n => !(getUni s uid).ar.valid.contains n)).foldl (fun s n => opdClear s uid n) s
  let s := { s with opmem := Memory.writeN s.opmem off data }
  let u := getUni s uid
  setUni s uid { u with ar := { u.ar with
    valid := l.foldl flagSet u.ar.valid, loaded := u.ar.loaded.filter (fun n => !l.contains n) } }

/-- Bytes of the aperture: zero in an INVALID slot. -/
def apertureBytes (s : State) (uid off n : Nat) : Bytes :=
  let o := off - firstTile s uid * tileBytes
  (List.range n).map (fun i =>
    if (getUni s uid).ar.valid.contains ((o + i) / opdBytes s uid) then Memory.read s.opmem (off + i) else 0)

/-- A compare of the two halves fails (R220). -/
def apertureDiffers (s : State) (uid : Nat) (agree : Bool) : Bool :=
  !agree && ((unitRec s uid).map (·.check)).getD 0 == 1

/-- A granted write of the aperture: its effect and its answer. -/
def apertureWriteAt (s : State) (a : Access) (o : Nat) (data : Bytes) : State × Resp :=
  match apertureUnit s o with
  | some u =>
    if apertureOk s u a o then (apertureStore s u o (padTo (accessBytes a.size) data), respOk [])
    else (apertureRefuse s (some u), ⟨1, []⟩)
  | none => (s, ⟨1, []⟩)

/-- AT_PARITY of the tile that an aperture offset names (R230). -/
def aperturePar (s : State) (o : Nat) : State :=
  match leafAt s (o / tileBytes) with
  | some r => { s with cnts := s.cnts.set r.uid { getCnt s r.uid with parity := sat32 (getCnt s r.uid).parity } }
  | none => s

/-- A granted read of the aperture; a parity error in it is counted, and the read answers with the stored bytes (R22, R219,
R230; log 63). -/
def apertureReadAt (s : State) (a : Access) (o : Nat) (agree parity : Bool) : State × Resp :=
  let n := accessBytes a.size
  match apertureUnit s o with
  | some u =>
    if !apertureOk s u a o then (apertureRefuse s (some u), respErr 1 n)
    else
      let s := if parity then aperturePar s o else s
      if apertureDiffers s u agree then (countMismatch s u, respErr 1 n)
      else (s, respOk (apertureBytes s u o n))
  | none => (s, respErr 1 n)

/-- APERTURE_WRITE. -/
def execApertureWrite (a : Access) (off : BitVec 23) (data : Bytes) (s : State) : Host.Outcome State Fault Refusal :=
  .next (if !coreRstN s then s else match access s a true (mgmtAt a (0x02000000 + off.toNat)) with
    | (s, some c) => respond s a ⟨c, []⟩
    | (s, none) =>
      let x := apertureWriteAt s a off.toNat data
      respond x.1 a x.2)

/-- APERTURE_READ. -/
def execApertureRead (a : Access) (off : BitVec 23) (env : ApertureEnv) (s : State) : Host.Outcome State Fault Refusal :=
  .next (if !coreRstN s then s else match access s a false (mgmtAt a (0x02000000 + off.toNat)) with
    | (s, some c) => respond s a (respErr c (accessBytes a.size))
    | (s, none) =>
      let x := apertureReadAt s a off.toNat env.agree env.parity
      respond x.1 a x.2)

/-! ## Host claims (R19, R229) -/

/-- OWNER is FREE: a top-level unit that nobody holds, and whose release scrub has ended. -/
def ownerFree (s : State) (uid : Nat) : Bool :=
  let u := getUni s uid
  !u.sched && !u.hostHeld && !u.vault && !u.relScrub

/-- A write of HOST_HELD = 1 (R19, R341; R282 for a unit that a commit is about to change). -/
def claimW (s : State) (uid : Nat) : State :=
  match unitRec s uid with
  | some r =>
    if r.hostClaim && r.parent.isNone && ownerFree s uid && !nostart s && !struck s && !claimFenced s uid then
      setUni s uid { getUni s uid with hostHeld := true }
    else s
  | none => s

/-- A write of HOST_HELD = 0: a cipher or hash unit is free at once, an arithmetic one scrubs first (R19, R229). -/
def releaseW (s : State) (uid : Nat) : State :=
  let u := getUni s uid
  if !u.hostHeld then s
  else if ((unitRec s uid).map (·.cls)).getD 0 = 2 then
    let s := abortCmd s uid stAborted 0x0A09
    let u := getUni s uid
    setUni s uid { u with hostHeld := false, relScrub := true, scrubAt := s.clk.meridian }
  else setUni s uid { u with hostHeld := false }

/-- A write of UN_LOCK: only HOST_HELD is writable. -/
def unLockW (s : State) (uid : Nat) (v : Word) : State :=
  if quietWrites s then s else if wbit v 31 then claimW s uid else releaseW s uid

/-- HOST_CLAIM. -/
def execHostClaim (a : Access) (u : BitVec 12) (s : State) : Host.Outcome State Fault Refusal :=
  .next (hostWrite s a (unitAt a u.toNat 4) (fun s => unLockW s u.toNat 0x80000000))

/-- HOST_RELEASE. -/
def execHostRelease (a : Access) (u : BitVec 12) (s : State) : Host.Outcome State Fault Refusal :=
  .next (hostWrite s a (unitAt a u.toNat 4) (fun s => unLockW s u.toNat 0))

/-- HOST_RELEASE_SCRUB_DONE: 4,096 root cycles after the release every slot is zero and the unit is FREE. -/
def execHostReleaseScrubDone (u : BitVec 12) (s : State) : Host.Outcome State Fault Refusal :=
  let uid := u.toNat
  let x := getUni s uid
  .next (if running s && x.relScrub && decide (x.scrubAt + 4096 ≤ s.clk.meridian) then
      setUni (zeroTiles s uid) uid { x with
        relScrub := false, ar := { x.ar with valid := [], loaded := [] } }
    else s)

/-- A preemption of a unit is done once its scrub has ended (R250). -/
def preemptEnd (s : State) (uid : Nat) : State :=
  if s.hl.preBusy && s.hl.preUid == uid then { s with hl := { s.hl with preBusy := false, preResult := 0 } } else s

/-- ABORT_SCRUB_DONE: the unit leaves SCRUB and is released; a preemption of it is done (R228, R250), also of a unit that a trap
of its Helm has put into FAULT meanwhile. -/
def execAbortScrubDone (u : BitVec 12) (s : State) : Host.Outcome State Fault Refusal :=
  let uid := u.toNat
  let x := getUni s uid
  .next (if running s && x.st == 2 then
      preemptEnd (if x.sched then release s uid else setUni s uid { x with st := 0 }) uid
    else if running s && x.st == 4 then preemptEnd s uid
    else s)

end Sys2Proof.Machine
end

