-- ==== Sys2Proof/Machine/Rings.lean ====
section
/-!
DEFINITION. Request rings and completion queues as the host drives them: doorbells, credits, enable and disable,
grants, Waypoints, notices (R28 to R60, R75 to R77).
-/

namespace Sys2Proof.Machine

/-! ## Draining (R49) -/

/-- RG_CFG.ACTIVE falls when a disabled ring has no chain left outstanding. -/
def drainRing (s : State) (g : Nat) : State :=
  let r := getRing s g
  if !r.enable && r.active && s.chains.all (fun e => e.2.ring != g || !live e.2) then
    setRing s g { r with active := false }
  else s

/-- CQ_CFG.ACTIVE falls when a disabled queue has no record reserved. -/
def drainCq (s : State) (q : Nat) : State :=
  let c := getCq s q
  if !c.enable && c.active && c.reserved == 0 then setCq s q { c with active := false } else s

/-! ## Ring registers -/

/-- RG_DOORBELL (R41). -/
def rgDoorbell (s : State) (g : Nat) (v : Word) : State :=
  let r := getRing s g
  let n := wfld v 0 17
  if !r.enable || n == 0 || ringResetting s g then s
  else if (n : Int) ≤ posDiff r.credit r.posted then
    let s := setRing s g { r with posted := r.posted + word n }
    famineClock (depthSounding s g) g
  else depthSounding (setRing s g { r with dbRefused := true }) g

/-- An enable is refused (R48, R267, R380). -/
def rgRefuses (s : State) (g : Nat) (r : Ring) : Bool :=
  quietWrites s || failedStart s || r.size < 6 || 16 < r.size || r.active ||
    (match ringCq s g with
     | some q => !(getCq s q).enable
     | none => true)

/-- RG_CFG: SIZE while inactive, then ENABLE (R48, R49). -/
def rgCfg (s : State) (g : Nat) (v : Word) : State :=
  if ringResetting s g then s
  else
    let r := getRing s g
    let r := if r.active then r else { r with size := wfld v 0 5 }
    if wbit v 7 then
      if r.enable then s
      else if rgRefuses s g r then setRing s g { r with enRefused := true }
      else
        let burst := ((ringClass s g).map (·.burst)).getD 0
        let first := min burst (2 ^ r.size)
        famineClock (setRing s g { r with
          enable := true, active := true, posted := 0, accepted := 0,
          credit := word first, halted := false, bucket := (burst - first) * tokenUnit, bucketAt := s.clk.meridian,
          tickAt := none, fetch := .idle, fgather := .none, descs := [], sgather := .none, sfault := false,
          readyAt := 0, offerAt := none }) g
    else if !r.enable then setRing s g r
    else
      let s := forget s (fun o => o == .fetch g || o == .stage g)
      let s := setRing s g { r with
        enable := false, fetch := .idle, fgather := .none, descs := [], sgather := .none,
        sfault := false, offerAt := none }
      famineClock (drainRing s g) g

/-- A write to the base pair; ignored while ACTIVE (R48). -/
def rgBase (s : State) (g : Nat) (base : Nat) : State :=
  let r := getRing s g
  if r.active || ringResetting s g then s else setRing s g { r with base := base }

/-- RG_STATUS write (R58). -/
def rgStatusW (s : State) (g : Nat) (v : Word) : State :=
  let r := getRing s g
  if ringResetting s g then s
  else setRing s g { r with
                            dbRefused := w1c v 0 r.dbRefused, fetchFault := w1c v 1 r.fetchFault,
                            enRefused := w1c v 3 r.enRefused }

/-! ## Queue registers -/

/-- Rings bound to queue q. -/
def boundRings (s : State) (q : Nat) : List Nat := (s.rings.filter (fun e => ringCq s e.1 == some q)).map (·.1)

/-- CQ_CFG: VECTOR below the owner's VECTORS or the write is ignored whole (R291), SIZE while inactive, ENABLE. VECTOR takes
the value written even where ENABLE has no effect (log 44). -/
def cqCfg (s : State) (q : Nat) (v : Word) : State :=
  let vec := wfld v 12 4
  let badVec := match cqOwner s q with
    | some f => decide (f.vectors ≤ vec)
    | none => false
  if cqResetting s q || badVec then s
  else
    let c := { getCq s q with vector := vec }
    let c := if c.active then c else { c with size := wfld v 0 5 }
    if wbit v 7 then
      if c.enable then setCq s q c
      else if quietWrites s || failedStart s || c.size < 6 || 16 < c.size || c.active || (cqOwner s q).isNone then
        setCq s q { c with enRefused := true }
      else setCq s q { c with
        enable := true, active := true, granted := 0, written := 0, reserved := 0, halted := false,
        wpValid := false, noteN := 0, opAt := none, ops := [] }
    else if !c.enable then setCq s q c
    else if (boundRings s q).any (fun g => (getRing s g).active) then setCq s q c
    else drainCq (setCq s q { c with enable := false }) q

def cqBase (s : State) (q : Nat) (base : Nat) : State :=
  let c := getCq s q
  if c.active || cqResetting s q then s else setCq s q { c with base := base }


/-- CQ_STATUS write (R59). -/
def cqStatusW (s : State) (q : Nat) (v : Word) : State :=
  let c := getCq s q
  if cqResetting s q then s
  else setCq s q { c with
    grantOver := w1c v 0 c.grantOver, wpLost := w1c v 1 c.wpLost,
    writeFault := w1c v 2 c.writeFault, enRefused := w1c v 4 c.enRefused, lateErr := w1c v 5 c.lateErr }

/-- The position at which the mark slot is written over (R55, R56). -/
def wpLimit (c : Cq) : Word := c.wpMark + word (2 ^ c.size)

/-- CQ_WP_POS: after a SET the mark in force, 0 when none is valid (R54, R59), else what was written (log 44). -/
def wpPosWord (c : Cq) : Word := if c.wpShown then (if c.wpValid then c.wpMark else 0) else c.wpPos

/-- SET with M = m (R54): RESULT DONE 0 or RANGE 2. -/
def wpSet (m : Word) (c : Cq) : Cq :=
  let d := posDiff c.written m
  if 0 ≤ d ∧ d < 2 ^ c.size then { c with wpMark := m, wpValid := true, wpResult := 0, wpShown := true }
  else { c with wpResult := 2, wpShown := true }

/-- REWIND (R56): LOST 3, NONE 1, RESERVED 4, DONE 0. -/
def wpRewind (c : Cq) : Cq :=
  if !c.wpValid then { c with wpResult := if c.wpLost then 3 else 1 }
  else if posDiff (c.written + word c.reserved) c.wpMark > 2 ^ c.size then { c with wpResult := 4 }
  else { c with wpResult := 0, granted := if posDiff c.granted (wpLimit c) > 0 then wpLimit c else c.granted }

/-- CLEAR (R59). -/
def wpClear (c : Cq) : Cq := { c with wpValid := false, wpResult := 0 }

/-- A grant of n records (R44). -/
def cqGrant (n : Nat) (c : Cq) : Cq :=
  if posDiff (c.granted + word n) c.written ≤ 2 ^ c.size then { c with granted := c.granted + word n }
  else { c with grantOver := true }

/-- Applies a grant or a Waypoint command. -/
def CqOp.run (o : CqOp) (c : Cq) : Cq :=
  match o with
  | .grant n => if c.active then cqGrant n c else c
  | .waypoint op m => if op = 1 then wpSet m c else if op = 2 then wpRewind c else wpClear c

/-- The queue's one operation of this control cycle is still to come (R57). -/
def cqSlot (s : State) (c : Cq) : Bool := c.opAt != some (controlCycle s)

/-- The first of the operations that wait must be applied in control cycle now: a Waypoint command stands behind it that would else
not be applied in the third control cycle after its write, so that BUSY falls at most 4 control cycles after it (R57). -/
def cqDue (now : Nat) (l : List (CqOp × Nat)) : Bool :=
  l.zipIdx.any (fun x => match x.1.1 with
    | .waypoint _ _ => decide (x.1.2 + 3 ≤ now + x.2)
    | .grant _ => false)

/-- A record write may be the queue's operation of this control cycle: it goes before what waits, but not where a Waypoint command
would come too late (R57). -/
def cqRecordSlot (s : State) (c : Cq) : Bool := cqSlot s c && !cqDue (controlCycle s) c.ops

/-- A grant is applied at once where it can be the queue's one operation of this control cycle. A Waypoint command waits for the
end of its cycle, since a record write of that cycle goes first; a grant behind another operation waits in order (R57). -/
def cqOp (s : State) (q : Nat) (o : CqOp) : State :=
  let c := getCq s q
  let now := controlCycle s
  let wait := setCq s q { c with ops := c.ops ++ [(o, now)] }
  match o with
  | .waypoint _ _ => wait
  | .grant _ => if cqSlot s c && c.ops.isEmpty then setCq s q { o.run c with opAt := some now } else wait

/-- At the end of a control cycle without another operation the first of those that wait is applied: they keep the order of their
writes (R24, R57), also where more wait than BUSY has cycles left (DESIGN CHOICE, log 65). -/
def cqTurn (now : Nat) (c : Cq) : Cq :=
  match c.ops with
  | [] => c
  | (o, _) :: r => if c.opAt = some now then c else { o.run c with opAt := some now, ops := r }

/-- CQ_GRANT write (R44). -/
def cqGrantW (s : State) (q : Nat) (v : Word) : State :=
  if !(getCq s q).active || cqResetting s q then s else cqOp s q (.grant (wfld v 0 17))

/-- CQ_WP_CMD write (R57, R59): ignored while BUSY; M is sampled here. -/
def cqWpCmd (s : State) (q : Nat) (op : Nat) : State :=
  let c := getCq s q
  if cqResetting s q || wpBusy c || op == 0 then s else cqOp s q (.waypoint op (wpPosWord c))

/-! ## Notices of queues (R51, R52) -/

/-- Raises the queue's notice and restarts both coalescing values. -/
def cqNotice (s : State) (q : Nat) : State :=
  let c := getCq s q
  let s := setCq s q { c with noteN := 0, noteAt := 0 }
  match cqOwner s q with
  | some f => if c.halted || fnResetting s f.func then s else sendNotice s f.func c.vector
  | none => s

/-- The count is reached (R51). -/
def coalCheck (s : State) (q : Nat) : State :=
  let c := getCq s q
  if c.noteN ≠ 0 ∧ max 1 c.coalCount ≤ c.noteN then cqNotice s q else s

/-- A chain of the queue becomes noticeable. -/
def cqNoticeable (s : State) (q : Nat) : State :=
  let c := getCq s q
  if c.halted || cqResetting s q then s
  else coalCheck (setCq s q { c with noteN := c.noteN + 1, noteAt := if c.noteN = 0 then s.clk.meridian else c.noteAt }) q

/-- CQ_COAL write. -/
def cqCoal (s : State) (q : Nat) (v : Word) : State :=
  if cqResetting s q then s
  else coalCheck (setCq s q { getCq s q with coalCount := wfld v 0 8, coalTime := wfld v 8 16 }) q

/-- CQ_NV_CTL of vector k of function f (R52). -/
def nvHold (s : State) (f k : Nat) (v : Word) : State :=
  if fnResetting s f || (f != 0 && (funcRec s f).isNone) then s
  else
    let n := getNv s f k
    if wbit v 0 then setNv s f k { n with hold := true }
    else
      let s := setNv s f k { n with hold := false, pend := false }
      if n.pend then emitNotice s f k else s

/-! ## Credits (R75, R76) -/

/-- A ring that may receive excess credit now (R76). -/
def excessOk (s : State) (g : Nat) : Bool :=
  let r := getRing s g
  r.enable && creditRoom r && decide (bucketNow s g < tokenUnit) &&
    (match ringClass s g with
     | some c => c.excess && (classPools c).all (inSpare s)
     | none => false)

def namesPool (s : State) (p g : Nat) : Bool := ((ringClass s g).map (fun c => (classPools c).contains p)).getD false

def weightOf (s : State) (g : Nat) : Nat := ((ringClass s g).map (·.weight)).getD 0

/-- Rings that compete for a pool's excess credit, with their weights. -/
def excessCand (s : State) (p : Nat) : List (Nat × Nat) :=
  (s.rings.filter (fun e => excessOk s e.1 && namesPool s p e.1)).map (fun e => (e.1, weightOf s e.1))

/-- The pool that hands ring g an excess credit in this control cycle: the lowest-numbered that has handed out none in it and
whose round takes g (DESIGN CHOICE, log 7). -/
def excessPool (s : State) (g : Nat) : Option Nat :=
  (s.chart.pools.map (·.pool)).find? (fun p => namesPool s p g && (getPool s p).excessAt != some (controlCycle s) &&
    (swrr (getPool s p).excess (excessCand s p)).1 == some g)

/-- One credit for ring g: a reserved token, one per control cycle (R75), else the excess credit of one SPARE pool, of which
each hands out one per control cycle (R76). -/
def creditTick (s : State) (g : Nat) : State :=
  let r := getRing s g
  let now := controlCycle s
  if !r.enable || !creditRoom r then s
  else
    let b := bucketNow s g
    if tokenUnit ≤ b then
      if r.tickAt == some now then s else famineClock (setRing s g { r with
        bucket := b - tokenUnit, bucketAt := s.clk.meridian, credit := r.credit + 1,
        tickAt := some now }) g
    else if excessOk s g then
      match excessPool s g with
      | some p =>
        let x := getPool s p
        let s := setPool s p { x with excess := (swrr x.excess (excessCand s p)).2, excessAt := some now }
        famineClock (setRing s g { r with bucket := b, bucketAt := s.clk.meridian, credit := r.credit + 1 }) g
      | none => s
    else s

/-! ## Meanings of the commands -/

/-- Applies a ring write of an access to the ring it names. -/
def onRing (s : State) (a : Access) (g : BitVec 16) (f : State → Nat → State) : State :=
  match ringNamed s a.func.toNat g.toNat with
  | some n => f s n
  | none => s

def onCq (s : State) (a : Access) (q : BitVec 16) (f : State → Nat → State) : State :=
  match cqNamed s a.func.toNat q.toNat with
  | some n => f s n
  | none => s

/-- DOORBELL (R41). -/
def execDoorbell (a : Access) (g : BitVec 16) (v : Word) (s : State) : Host.Outcome State Fault Refusal :=
  .next (hostWrite s a (ringAt a g.toNat 0xC) (fun s => onRing s a g (fun s n => rgDoorbell s n v)))

/-- RING_ENABLE (R48): RG_CFG written with ENABLE 1. -/
def execRingEnable (a : Access) (g : BitVec 16) (v : Word) (s : State) : Host.Outcome State Fault Refusal :=
  .next (hostWrite s a (ringAt a g.toNat 8) (fun s => onRing s a g (fun s n => rgCfg s n (v ||| 0x80))))

/-- RING_DISABLE (R49): RG_CFG written with ENABLE 0. -/
def execRingDisable (a : Access) (g : BitVec 16) (v : Word) (s : State) : Host.Outcome State Fault Refusal :=
  .next (hostWrite s a (ringAt a g.toNat 8) (fun s => onRing s a g (fun s n => rgCfg s n (v &&& 0xFFFFFF7F))))

/-- CQ_ENABLE (R48): CQ_CFG written with ENABLE 1. -/
def execCqEnable (a : Access) (q : BitVec 16) (v : Word) (s : State) : Host.Outcome State Fault Refusal :=
  .next (hostWrite s a (cqAt a q.toNat 8) (fun s => onCq s a q (fun s n => cqCfg s n (v ||| 0x80))))

/-- CQ_DISABLE (R49): CQ_CFG written with ENABLE 0. -/
def execCqDisable (a : Access) (q : BitVec 16) (v : Word) (s : State) : Host.Outcome State Fault Refusal :=
  .next (hostWrite s a (cqAt a q.toNat 8) (fun s => onCq s a q (fun s n => cqCfg s n (v &&& 0xFFFFFF7F))))

/-- CQ_GRANT (R44). -/
def execCqGrant (a : Access) (q : BitVec 16) (v : Word) (s : State) : Host.Outcome State Fault Refusal :=
  .next (hostWrite s a (cqAt a q.toNat 0x10) (fun s => onCq s a q (fun s n => cqGrantW s n v)))

/-- WAYPOINT_SET (R54). -/
def execWaypointSet (a : Access) (q : BitVec 16) (s : State) : Host.Outcome State Fault Refusal :=
  .next (hostWrite s a (cqAt a q.toNat 0x28) (fun s => onCq s a q (fun s n => cqWpCmd s n 1)))

/-- WAYPOINT_REWIND (R56). -/
def execWaypointRewind (a : Access) (q : BitVec 16) (s : State) : Host.Outcome State Fault Refusal :=
  .next (hostWrite s a (cqAt a q.toNat 0x28) (fun s => onCq s a q (fun s n => cqWpCmd s n 2)))

/-- WAYPOINT_CLEAR (R59). -/
def execWaypointClear (a : Access) (q : BitVec 16) (s : State) : Host.Outcome State Fault Refusal :=
  .next (hostWrite s a (cqAt a q.toNat 0x28) (fun s => onCq s a q (fun s n => cqWpCmd s n 3)))

/-- NOTICE_HOLD_WRITE (R52). -/
def execNoticeHoldWrite (a : Access) (k : BitVec 4) (v : Word) (s : State) : Host.Outcome State Fault Refusal :=
  .next (hostWrite s a (nvAt a k.toNat 0) (fun s => nvHold s a.func.toNat k.toNat v))

/-- NOTICE_COAL_TIMER (R51): TIME microseconds since the first noticeable chain. -/
def execNoticeCoalTimer (q : BitVec 16) (s : State) : Host.Outcome State Fault Refusal :=
  let c := getCq s q.toNat
  .next (if engineUp s && c.noteN != 0 && c.coalTime != 0 && decide (c.noteAt + c.coalTime * 3000 ≤ s.clk.meridian) then
    cqNotice s q.toNat else s)

/-- CREDIT_TICK (R75, R76): not in A2, where credits are frozen (R373). -/
def execCreditTick (g : BitVec 16) (s : State) : Host.Outcome State Fault Refusal :=
  .next (if running s then creditTick s g.toNat else s)

/-- FAMINE_NOTICE_CLEAR (R77): a write of 1 clears CROSSED and COUNT and restarts the peak. -/
def famineNoticeW (s : State) (p : Nat) (v : Word) : State :=
  if wbit v 0 then
    setPool s p { getPool s p with famCrossed := false, famCount := 0, famPeak := famineLevel s p }
  else s

def execFamineNoticeClear (a : Access) (p : BitVec 6) (v : Word) (s : State) : Host.Outcome State Fault Refusal :=
  .next (hostWrite s a (mgmtAt a (0x21034 + p.toNat * 0x40)) (fun s => famineNoticeW s p.toNat v))

/-- Root cycles of famine of a ring that no unit has counted. -/
def famineTime (s : State) (r : Ring) : Nat := r.faminePart + (match r.famineAt with
  | some t => s.clk.meridian - t
  | none => 0)

/-- One unit is taken out of the famine that is not yet counted. -/
def famineTaken (r : Ring) : Ring :=
  if 4096 ≤ r.faminePart then { r with faminePart := r.faminePart - 4096 }
  else { r with famineAt := r.famineAt.map (· + (4096 - r.faminePart)), faminePart := 0 }

/-- FAMINE_TIME_UNIT (R356): 4,096 root cycles of famine have passed. -/
def execFamineTimeUnit (g : BitVec 16) (s : State) : Host.Outcome State Fault Refusal :=
  let r := getRing s g.toNat
  .next (
    if running s && decide (4096 ≤ famineTime s r) then
      sounding (setRing s g.toNat (famineTaken r)) 1 (fun sd =>
        let x := sd.rings.get .init g.toNat
        { sd with rings := sd.rings.set g.toNat { x with famine := min (x.famine + 1) (2 ^ 30 - 1) } })
    else s)

end Sys2Proof.Machine
end

