-- ==== Sys2Proof/Machine/Soundings.lean ====
section
/-!
DEFINITION. The Soundings: latency histograms and summaries (R354, R355), freeze and clear (R358, R359), the data
aperture (R353, R355 to R357).
-/

namespace Sys2Proof.Machine

/-- A counter of 64 bits that saturates (R353). -/
def sat64 (n : Nat) : Nat := min n (2 ^ 64 - 1)

/-- The bin of a latency (R354). -/
def latencyBin (l : Nat) : Nat :=
  if l < 1280 then 0 else if 58720256 ≤ l then 63
  else
    let e := Nat.log2 l
    4 * (e - 10) + (l - 2 ^ e) / 2 ^ (e - 2)

/-- A pool summary after one more chain (R355). -/
def sumAdd (x : PoolSum) (l ring finish : Nat) (late : Bool) : PoolSum :=
  let top := decide (x.max < l)
  { chains := sat64 (x.chains + 1), sum := sat64 (x.sum + l), max := max x.max l, min := min x.min l
    late := sat64 (x.late + b2n late), maxRing := if top then ring else x.maxRing, maxAt := if top then finish else x.maxAt }

/-- The CHAIN_END record of a chain that visited the pools adds its latency (R354). -/
def latencySounding (s : State) (pools : List Nat) (l ring finish : Nat) (late : Bool) : State :=
  pools.foldl (fun s p => sounding s 0 (fun sd =>
    let k := 64 * p + latencyBin l
    { sd with
      hist := sd.hist.set k (sat64 (sd.hist.get 0 k + 1))
      sums := sd.sums.set p (sumAdd (sd.sums.get .init p) l ring finish late) })) s

/-! ## The aperture -/

/-- The 8-byte words of a pool summary. -/
def sumWord (x : PoolSum) (i : Nat) : Nat :=
  match i with
  | 0 => x.chains
  | 1 => x.sum
  | 2 => x.max
  | 3 => x.min
  | 4 => x.late
  | 5 => x.maxRing % 65536
  | 6 => x.maxAt
  | _ => 0

/-- The 8-byte words of the device extremes (R357). -/
def extWord (e : Extremes) (i : Nat) : Nat :=
  match i with
  | 0 => e.vsbMin + 2 ^ 16 * e.vsbMax + 2 ^ 32 * e.vddMin + 2 ^ 48 * e.vddMax
  | 1 => e.tempMax.toNat + 256 * e.tempMin.toNat
  | 2 => e.vsbMinAt
  | 3 => e.vddMinAt
  | _ => if 8 ≤ i ∧ i < 14 then e.alarms.getD (2 * (i - 8)) 0 + 2 ^ 32 * e.alarms.getD (2 * (i - 8) + 1) 0 else 0

/-- The 8-byte word at aperture offset 8 i (R353). -/
def sdWord (sd : Sd) (i : Nat) : Nat :=
  if i < 0x1000 then sd.hist.get 0 i
  else if i < 0x1200 then sumWord (sd.sums.get .init ((i - 0x1000) / 8)) (i % 8)
  else if i < 0x1220 then extWord sd.ext (i - 0x1200)
  else if 0x10000 ≤ i ∧ i < 0x20000 then
    let r := sd.rings.get .init (i - 0x10000)
    r.depthMax + 2 ^ 17 * r.depthMin + 2 ^ 34 * r.famine
  else 0

/-- n bytes of the aperture from offset o. -/
def sdRead (s : State) (o n : Nat) : Bytes :=
  (List.range n).map (fun k => BitVec.ofNat 8 (sdWord s.sd ((o + k) / 8) / 256 ^ ((o + k) % 8)))

/-! ## SD_ registers (R358, R359, R367) -/

/-- SD_FREEZE write: a freeze begins, or ends. -/
def sdFreezeW (s : State) (v : Word) : State :=
  if wbit v 0 then
    if s.sd.frozen then s else { s with sd := { s.sd with frozen := true, freezeAt := s.clk.meridian } }
  else { s with sd := { s.sd with frozen := false } }

/-- Root cycles of a clear at 64 bytes a tile cycle: 36 KiB of the pools, 512 KiB of the rings, 256 bytes of the device. -/
def clearTime (v : Word) : Nat := 1152 * b2n (wbit v 0) + 16384 * b2n (wbit v 1) + 8 * b2n (wbit v 2)

/-- SD_CMD write: clears the areas; ignored while CLEARING is 1. -/
def sdCmdW (s : State) (v : Word) : State :=
  if s.sd.clearing ≠ 0 then s
  else
    { s with sd := { s.sd with
      clearing := BitVec.ofNat 3 v.toNat
      clearEnd := s.clk.meridian + clearTime v
      hist := if wbit v 0 then [] else s.sd.hist
      sums := if wbit v 0 then [] else s.sd.sums
      rings := if wbit v 1 then [] else s.sd.rings
      ext := if wbit v 2 then .init else s.sd.ext } }

/-- SD_FREEZE (R358). -/
def execSdFreeze (a : Access) (v : Word) (s : State) : Host.Outcome State Fault Refusal :=
  .next (hostWrite s a (mgmtAt a 0xB0004) (fun s => sdFreezeW s (v ||| 1)))

/-- SD_UNFREEZE (R358). -/
def execSdUnfreeze (a : Access) (v : Word) (s : State) : Host.Outcome State Fault Refusal :=
  .next (hostWrite s a (mgmtAt a 0xB0004) (fun s => sdFreezeW s (v &&& 0xFFFFFFFE)))

/-- SD_AUTO_RELEASE (R358): 30,000,000 root cycles after the freeze. -/
def execSdAutoRelease (s : State) : Host.Outcome State Fault Refusal :=
  .next (if active s && s.sd.frozen && decide (s.sd.freezeAt + 30000000 ≤ s.clk.meridian) then
    { s with sd := { s.sd with frozen := false, autoReleased := true } }
  else s)

/-- SD_CLEAR_POOLS (R359). -/
def execSdClearPools (a : Access) (v : Word) (s : State) : Host.Outcome State Fault Refusal :=
  .next (hostWrite s a (mgmtAt a 0xB000C) (fun s => sdCmdW s (v ||| 1)))

/-- SD_CLEAR_RINGS (R359). -/
def execSdClearRings (a : Access) (v : Word) (s : State) : Host.Outcome State Fault Refusal :=
  .next (hostWrite s a (mgmtAt a 0xB000C) (fun s => sdCmdW s (v ||| 2)))

/-- SD_CLEAR_DEVICE (R359). -/
def execSdClearDevice (a : Access) (v : Word) (s : State) : Host.Outcome State Fault Refusal :=
  .next (hostWrite s a (mgmtAt a 0xB000C) (fun s => sdCmdW s (v ||| 4)))

/-- SD_CLEAR_DONE (R359): the areas' 64-byte writes are done. -/
def execSdClearDone (s : State) : Host.Outcome State Fault Refusal :=
  .next (if running s ∧ s.sd.clearEnd ≤ s.clk.meridian then { s with sd := { s.sd with clearing := 0 } } else s)

end Sys2Proof.Machine
end

