-- ==== Sys2Proof/Machine/Records.lean ====
section
/-!
DEFINITION. Completion records (R14, R43, R45, R47, R50, R55, R74, R416), failed output writes (R14, R388), late
responses (R73, R296).
-/

namespace Sys2Proof.Machine

/-! ## The end of a chain -/

/-- A transaction of the chain is waiting or outstanding. -/
def txnOfChain (id : Nat) (t : Txn) : Bool :=
  match t.who with
  | .input c _ => c == id
  | .output c _ => c == id
  | .record c _ => c == id
  | .log c _ _ => c == id
  | _ => false

def anyTxn (s : State) (f : Txn → Bool) : Bool := s.ports.any (fun e => e.2.out.any f || e.2.sendQ.any f)

/-- A chain whose records are all issued and that owes no response is forgotten. -/
def reap (s : State) (id : Nat) : State :=
  match findChain s id with
  | none => s
  | some c => if live c || anyTxn s (txnOfChain id) then s else { s with chains := s.chains.del id }

/-- The last record of a chain is issued, or lost: scratch, soundings, drains. A chain without a CHAIN_END record adds no latency
(R354). -/
def chainEnds (s : State) (c : Chain) (finish : Nat) (issued : Bool) : State :=
  let s := setChain s { c with scratch := none }
  let pools := (c.segs.map (·.pool)).eraseDups
  let late := c.lateRec
  let s := if issued then latencySounding s pools (finish - c.accept) c.ring finish late else s
  let s := if late then lateChain s c finish else s
  drainRing s c.ring

/-! ## Issue of a record -/

/-- A write of len bytes at addr can leave port n at once (R386). -/
def portReady (s : State) (n addr len : Nat) : Bool :=
  let p := getPort s n
  p.sendQ.isEmpty && portCan p true addr len

/-- Responses that the record of descriptor k waits for (R14). -/
def recordWaits (s : State) (c : Chain) (k : Nat) (r : DescRes) : Bool :=
  anyTxn s (fun t => match t.who with
    | .output i x => r.waits && i == c.id && x == k
    | .log i x _ => i == c.id && x == k
    | _ => false)

/-- FINISH (R79). -/
def finishStamp (s : State) : Nat := s.clk.meridian / 2 * 2

/-- The flags of a record (R9, R74); a late POISON record carries DEADLINE_VOID too (log 51). -/
def recordFlags (c : Chain) (k : Nat) (r : DescRes) (finish : Nat) : Nat :=
  r.flags + (if c.deadline < finish then flVoid else 0) + (if 2 ^ 48 ≤ finish - c.accept then flTruncated else 0) +
    (if k + 1 = c.descs.length then flEnd else 0)

/-- The chain after record k; a record that is lost is not late (R74). -/
def recorded (s : State) (c : Chain) (k : Nat) (finish : Nat) (issued : Bool) : Chain :=
  { c with
    issued := k + 1, lastRec := s.clk.meridian, lateRec := c.lateRec || (issued && decide (c.deadline < finish)),
    results := c.results.mapIdx (fun i r => if i = k then { r with issued := true } else r) }

/-- The queue after the write of its next record is issued: the mark slot may be written over (R55). -/
def cqWrote (q : Cq) : Cq :=
  let lost := q.wpValid && q.written == wpLimit q
  { q with written := q.written + 1, reserved := q.reserved - 1, wpValid := q.wpValid && !lost, wpLost := q.wpLost || lost }

/-- A record lost to a refusal or a halted queue (R12, R50). -/
def cqLost (q : Cq) : Cq := { q with reserved := q.reserved - 1, dropped := sat32 q.dropped }

/-- The page of a chain's record k is logged before it (R302); none while the entry has to wait for the port. -/
def recordPage (s : State) (c : Chain) (k addr : Nat) (r : DescRes) : Option State :=
  let port := c.ring % 8
  if !dlActive s c.func || r.paged == some (addr / 4096) then some s
  else if !(getPort s port).sendQ.isEmpty then none
  else
    let s := setChain s { c with results := c.results.mapIdx (fun i r =>
      if i = k then { r with paged := some (addr / 4096) } else r) }
    dlPage s c.func port (addr / 4096) (.record c.id k) (poolOfDesc c k)

/-- The record write, and what became of it in the queue: its operation of this control cycle (R57), or lost to a halted queue or a
refusal (R50). -/
def writeRecord (s : State) (c : Chain) (addr : Nat) (k : Nat) (data : Bytes) : State × Bool :=
  let q := getCq s c.cq
  let t : Txn := ⟨0, true, addr, 32, c.func, 0, 0, 0, data, 0, .record c.id k, poolOfDesc c k, s.clk.meridian, false, 0, true, 0⟩
  if q.halted then (setCq s c.cq (cqLost q), false)
  else match comesToIssue s (c.ring % 8) t with
    | (s, .issued _) => (setCq s c.cq { cqWrote q with opAt := some (controlCycle s) }, true)
    | (s, _) => (setCq s c.cq { cqLost q with writeFault := true, halted := true }, false)

/-- A PIN translation that ended OK is counted when its record is due: nothing can turn it into another outcome any more (R14,
R183). -/
def xlateCount (s : State) (d : Bytes) (r : DescRes) : State :=
  if dFamily d = 3 ∧ pOp d = 0 ∧ r.status = 0 then { s with py := { s.py with xlate := sat32 s.py.xlate } } else s

/-- The next record of a chain: the page it goes to is logged first (R302), then it is written, or discarded. -/
def issueRecord (s : State) (c : Chain) (k : Nat) (r : DescRes) : State :=
  let q := getCq s c.cq
  let addr := q.base + 32 * (q.written.toNat % 2 ^ q.size)
  match if q.halted then some s else recordPage s c k addr r with
  | none => s
  | some s =>
    match findChain s c.id with
    | none => s
    | some c =>
      if recordWaits s c k r || (!q.halted && !(portReady s (c.ring % 8) addr 32 && cqRecordSlot s q)) then s
      else
        let fin := finishStamp s
        let data := mkRecord r.status (recordFlags c k r fin) c.ring (c.seq + word k) c.accept fin r.detail k
          (phaseBit q.written q.size) r.result
        let x := writeRecord (xlateCount s (c.descs.getD k []) r) c addr k data
        let c := recorded x.1 c k fin x.2
        let s := setChain x.1 c
        let s := if live c then s else chainEnds s c fin x.2
        reap (drainCq s c.cq) c.id

/-- The result whose record is next. -/
def nextRes (c : Chain) : Option DescRes := c.results[c.issued]?

/-- RECORD_ISSUE (R14, R45). -/
def execRecordIssue (c : Nat) (s : State) : Host.Outcome State Fault Refusal :=
  .next (match findChain s c with
    | none => s
    | some c =>
      match nextRes c with
      | none => s
      | some r =>
        if engineUp s && !blockReq s && !r.noexec && decide (r.notBefore ≤ s.clk.meridian) && !fnResetting s c.func then
          issueRecord s c c.issued r
        else s)

/-- NOEXEC_RECORD (R416): one per control cycle after the record before it, or after the acceptance. -/
def execNoexecRecord (c : Nat) (s : State) : Host.Outcome State Fault Refusal :=
  .next (match findChain s c with
    | none => s
    | some c =>
      match nextRes c with
      | none => s
      | some r =>
        if engineUp s && !blockReq s && r.noexec && decide (c.lastRec / 4 < s.clk.meridian / 4) && !fnResetting s c.func then
          issueRecord s c c.issued r
        else s)

/-! ## Late responses (R73, R296) -/

/-- A response took longer than the budget: bounds of the job's own chain and of its pool's chains are void. -/
def voidLate (s : State) (t : Txn) : State :=
  let own := fun (id : Nat) => voidFabric s (fun x => x.id == id || visits t.pools x)
  match t.who with
  | .input c _ => own c
  | .output c _ => own c
  | .record c _ => own c
  | .log c _ _ => own c
  | _ => s

/-- VF functions under reset that a late transaction belongs to. -/
def lateReset (s : State) (t : Txn) : State :=
  { s with fns := s.fns.mapVal (fun f x =>
    if x.resetting && (t.func == f || (match t.who with | .log _ _ v => v == f | _ => false)) then { x with late := true }
    else x) }

/-- Judges the time of a response. -/
def timely (s : State) (t : Txn) : State :=
  if t.at_ + fabricR s < s.clk.meridian then lateReset (voidLate s t) t else s

/-! ## Failed output writes -/

/-- A later descriptor of a chain that has ended stops; its context is TAINTED. -/
def stopLater (s : State) (id uid : Nat) : State :=
  let u := getUni s uid
  match u.job with
  | none => s
  | some j =>
    if j.chain ≠ id then s
    else
      let ctx := match j.phase with
        | .input => ctxFail j stAccess
        | .exec => ctxFail j stAccess
        | .writing => ctxFail j stAccess
        | _ => if j.dirty then some j.ctx else none
      let s := match j.ctxRef, ctx with
        | some r, some x => writeBack s uid r x
        | _, _ => s
      abortUnit (dropDesc s j) uid

/-- The context of a descriptor becomes TAINTED after its write-back began (R110). -/
def taintLate (s : State) (func : Nat) (d : Bytes) : State :=
  let bad := fun (c : Ctx) => if c.st = 1 then { c with st := 2, cause := stAccess } else c
  match (if dCtx d = noCtx then none else ctxNamed s func d) with
  | none => s
  | some r =>
    if s.sc.wb.any (fun w => ctxOverlap w.ref r) then
      { s with sc := { s.sc with wb := s.sc.wb.map (fun w => if ctxOverlap w.ref r then { w with ctx := bad w.ctx } else w) } }
    else ctxPut s r (bad (ctxGet s r))

/-- A job whose output write failed: it ends at its next block boundary, at once when its blocks are all released (R8, R14). -/
def failWriting (s : State) (uid : Nat) (j : Job) : State :=
  let j := j.stopped stAccess 0
  let s := setUni s uid { getUni s uid with job := some j }
  if j.phase = .writing then failRun s uid (j.stop.getD (stAccess, 0)).1 (j.stop.getD (stAccess, 0)).2 else s

/-- An output write failed: after its record it shows in LATE_WRITE_ERR only; before, it ends the descriptor. The flags of a
check that the result has passed stay (R9). -/
def outputFailed (s : State) (id idx : Nat) : State :=
  match findChain s id with
  | none => s
  | some c =>
    if idx < c.issued then setCq s c.cq { getCq s c.cq with lateErr := true }
    else match c.results[idx]? with
      | some r =>
        if r.status ≠ 0 then s
        else
          let s := (unitIds s).foldl (fun s u => stopLater s id u) s
          let s := taintLate s c.func (c.descs.getD idx [])
          addResult s { c with results := c.results.take idx }
            { r with status := stAccess, detail := 0, flags := r.flags &&& (flDual + flInverse), result := zeros 8, noexec := false }
      | none =>
        (unitIds s).foldl (fun s u => match (getUni s u).job with
          | some j => if j.chain = id ∧ j.idx = idx then failWriting s u j else s
          | none => s) s

/-- A piece of output that waited is refused when it comes to issue: no later piece of the descriptor is issued (R312). -/
def outRefused (s : State) (id idx : Nat) : State := outputFailed (dropQueued s (fun o => o == .output id idx)) id idx

end Sys2Proof.Machine
end

