-- ==== Sys2Proof/Machine/CostMin.lean ====
section
/-!
DEFINITION. What a cost entry must at least hold: cipher codes (R140), hash codes (R159), payment codes (R181), services
(R244, R245, R247), scaled for the entry's GRAIN (R64).
-/

namespace Sys2Proof.Machine

/-- A minimum: BASE, STEP, and the reference GRAIN of the STEP. -/
structure CostMin where
  base : Nat
  step : Nat
  grain : Nat
  deriving DecidableEq, Repr

/-- The minimum STEP at GRAIN g: scaled above the reference, unscaled below it (R64). -/
def CostMin.stepAt (m : CostMin) (g : Nat) : Nat := if m.grain ≤ g then m.step * g / m.grain else m.step

/-- 2 in INVERSE, else 1. -/
def invMul (check : Nat) : Nat := if check = 2 then 2 else 1

/-- Root cycles of a block of a cipher algorithm (R118). -/
def blockTime (alg : Nat) : Nat := [20, 24, 28, 96].getD alg 0

/-- R140. -/
def cipherMin (d : Bytes) (check : Nat) : CostMin :=
  let i := invMul check
  let b := i * blockTime (cAlg d)
  let kw := decide (10 ≤ cMode d)
  let serial := (cMode d == 1 || cMode d == 3) && cDir d == 0
  let dual := if check = 1 then 2 else 0
  let row := match cMode d with
    | 2 | 3 | 5 => (136 + b, b)
    | 6 => (136 + 3 * b, 2 * b)
    | 7 => (136 + 3 * b + 8 * i, b)
    | 8 => (136 + 2 * b + 8 * i, 4 * i)
    | 9 => (136 + 360, 2 * b)
    | 10 | 11 => (136, 6 * b)
    | _ => (136, b)
  ⟨row.1 + (if serial then 0 else dual), row.2 + (if serial then dual else 0), if kw || cAlg d == 3 then 8 else 16⟩

/-- Time of a compression or permutation, and the sponge STEP per 8 B (R144). -/
def hashTime (alg : Nat) : Nat := if alg ≤ 1 then 128 else if alg ≤ 4 then 160 else 48
def spongeStep (alg : Nat) : Nat := if alg = 10 then 4 else if alg = 11 then 6 else 3

/-- R159. -/
def hashMin (d : Bytes) (check : Nat) : CostMin :=
  let alg := hAlg d
  let b := hashTime alg
  let st := if algSha2 alg then b else spongeStep alg
  let g := if algSha2 alg then algRate alg else 8
  let dual := if check = 1 then 2 else 0
  let n := cdiv 64 (algOut alg)
  match hMode d with
  | 0 => ⟨136 + (if alg = 12 then 7 * b else if alg = 13 then 8 * b else b) + dual, st, g⟩
  | 1 => ⟨136 + 4 * b + dual, st, g⟩
  | 2 => ⟨232 + (2 + 2 * n) * b + dual, n * st, g⟩
  | _ =>
    let a := if alg = 0 then 20 else 28
    ⟨232 + 5 * a + dual, 4 * a, 16⟩

/-- A form of a payment code: fixed cycles, block time and blocks in BASE, block time and blocks per GRAIN, GRAIN. -/
structure PayForm where
  const : Nat
  time : Nat
  blocks : Nat
  stepTime : Nat
  stepBlocks : Nat
  grain : Nat
  deriving DecidableEq, Repr

/-- The form of a payment code that costs least: format 4 and AES-128 keys where the code allows them (R181, log 20). -/
def payLeast (d : Bytes) : PayForm :=
  let dk := pDukpt d
  let dkC := if dk then 72 else 0
  let dkT := if dk then 1008 else 0
  let dkB := if dk then 36 else 0
  match pOp d with
  | 0 => ⟨232 + dkC, 80 + dkT, 4 + dkB, 0, 0, 16⟩
  | 1 => ⟨236 + dkC, 60 + dkT, 3 + dkB, 0, 0, 16⟩
  | 2 => ⟨232, 120, 6, 40, 2, 32⟩
  | 3 => if pAlg3 d then ⟨136, 128, 2, 32, 1, 8⟩ else ⟨136 + dkC, 20 + dkT, 1 + dkB, 20, 1, 16⟩
  | _ =>
    let aes := pEmvAes d
    let verify := pDir d == 1
    let arpc := if verify then pArpc d else 0
    let c := if aes then 20 else 96
    let (ac, at_, ab) := if arpc = 1 then (4, 3 * c, 3) else if arpc = 2 then (0, if aes then 40 else 128, 2) else (0, 0, 0)
    if aes then ⟨144 + ac, 120 + at_, 6 + ab, 20, 1, 16⟩ else ⟨144 + ac, 512 + at_, 6 + ab, 32, 1, 8⟩

def payMin (d : Bytes) (check : Nat) : CostMin :=
  let f := payLeast d
  let i := invMul check
  let dual := if check = 1 then 2 else 0
  ⟨f.const + i * f.time + dual * f.blocks, i * f.stepTime + dual * f.stepBlocks, f.grain⟩

/-- F for T = 1, 2, 4, 8 (0 where the column is empty) and K: R244, R245. -/
def serviceTime (d : Bytes) : List Nat × Nat :=
  let p := sPset d
  match sSvc d with
  | 0 => ([[0, 0, 14864, 9100], [0, 0, 101400, 54800], [0, 0, 135216, 73000], [0, 0, 1820000, 1050000]].getD p [],
      [1180, 4420, 5860, 23300].getD p 0)
  | 1 => ([[5040, 2800, 1400, 1100], [16400, 8700, 4500, 2900], [16400, 8700, 4500, 2900],
      [63000, 33000, 17000, 9800]].getD p [], 110)
  | 2 =>
    if sVar d = 0 then ([[0, 0, 10064, 9400], [0, 0, 21900, 18600], [0, 0, 52300, 38500]].getD p [], [840, 1240, 1680].getD p 0)
    else ([[22700, 18600, 16200, 15000], [56200, 42100, 35800, 30400], [170000, 112000, 86000, 62800]].getD p [],
      [1520, 2260, 3060].getD p 0)
  | 3 => ([[0, 0, 9200, 8600], [0, 0, 20400, 17300], [0, 0, 49600, 36100]].getD p [], [780, 1160, 1580].getD p 0)
  | 4 => if sVar d = 0 then ([0, 0, 7760, 7300], 700) else ([19900, 16500, 14340, 13400], 1400)
  | 5 => ([0, 0, 7600, 7300], 660)
  | 6 =>
    if sVar d = 0 then ([[8700, 5000, 3100, 2700], [12600, 7100, 4400, 3700], [17400, 9700, 6000, 5000]].getD p [],
      [240, 320, 420].getD p 0)
    else ([[0, 0, 4300, 3600], [0, 0, 6080, 5000], [0, 0, 8200, 6700]].getD p [], [340, 460, 600].getD p 0)
  | 7 =>
    if sVar d = 0 then ([[0, 0, 26900, 19800], [0, 0, 38080, 28000], [0, 0, 44700, 33200]].getD p [],
      [2080, 2880, 3360].getD p 0)
    else ([[15400, 8900, 5400, 4300], [22600, 13000, 7900, 6200], [32300, 18600, 11300, 8900]].getD p [],
      [300, 420, 560].getD p 0)
  | _ =>
    if p = 3 then ([[0, 0, 16200000, 9900000], [0, 0, 54000000, 29400000], [0, 0, 126000000, 68500000],
      [0, 0, 2700000000, 1350000000]].getD (sVar d) [], [1310000, 3300000, 5900000, 31000000].getD (sVar d) 0)
    else ([[0, 0, 36800, 33400], [0, 0, 78500, 66300], [0, 0, 190000, 138000], [0, 0, 30500, 27900], [0, 0, 15300, 14700],
      [0, 0, 7600, 6300], [0, 0, 10900, 8900], [0, 0, 14800, 12100], [0, 0, 38000, 28500], [0, 0, 54100, 40200],
      [0, 0, 66400, 49700]].getD (p - 4) [],
      [3000, 4400, 6100, 2700, 1320, 560, 780, 1040, 2900, 4000, 4800].getD (p - 4) 0)

/-- LEN code of the slot length a parameter set needs (R236, R244, R245). -/
def serviceSlot (d : Bytes) : Nat :=
  let p := sPset d
  let rsa := fun (i : Nat) => [3, 4, 4, 5].getD i 0
  match sSvc d with
  | 0 | 1 => rsa p
  | 2 | 3 => p
  | 4 | 5 => 0
  | 6 | 7 => 5
  | _ => if p = 3 then rsa (sVar d) else if p ≤ 6 then p - 4 else if p ≤ 8 then 0 else 5

/-- Per-128 B time of EDDSA, the STEP of its entry (R244, R247). -/
def eddsaStep (d : Bytes) : Nat := if sSvc d = 4 then (if sVar d = 0 then 320 else 160) else 0

/-- R247: tiles is T of the pool; a private service or a KEYGEN of an OPEN pool ends at its vault access. Of a pool of SEALED units
with T = 2 the minimum is 480, and EDDSA SIGN in an OPEN pool has STEP 0 (DESIGN CHOICE, log 65). -/
def serviceMin (d : Bytes) (check tiles : Nat) : CostMin :=
  let x := serviceTime d
  let f := x.1.getD (if tiles = 1 then 0 else if tiles = 2 then 1 else if tiles = 4 then 2 else 3) 0
  if f = 0 then ⟨480, 0, 128⟩ else ⟨120 + f + check * x.2, eddsaStep d, 128⟩

/-- The minimum of an operation code in a pool of the given check mode and T. -/
def costMin (op check tiles : Nat) : CostMin :=
  let d := toLE 2 op
  match dFamily d with
  | 1 => cipherMin d check
  | 2 => hashMin d check
  | 3 => payMin d check
  | _ => serviceMin d check tiles

end Sys2Proof.Machine
end

