-- ==== Sys2Proof/Machine/ChartCheck.lean ====
section
/-!
DEFINITION. The record rules of a configuration in the order of R271: R260 to R266, R63, R101, R188, R212, R215, R232,
R236, and R407. One function serves the CHECK phase of a load and step 3 of a commit's validation (R281).
-/

namespace Sys2Proof.Machine

/-- A failed check: code of R271, section TYPE, record index, Info. -/
structure CheckFail where
  code : Nat
  type : Nat
  idx : Nat
  info : Nat
  deriving DecidableEq, Repr

/-- The record index of a missing item. -/
def missing : Nat := 0xFFFFFF

/-- The first record that fails: bad gives its Info. -/
def firstBad {α : Type} (code type : Nat) (l : List α) (bad : Nat → α → Option Nat) : Option CheckFail :=
  l.zipIdx.findSome? (fun e => (bad e.2 e.1).map (fun i => ⟨code, type, e.2, i⟩))

def failIf (b : Bool) (info : Nat) : Option Nat := if b then some info else none

/-! ## Reserved fields and stated ranges (0x10), by byte offset in the record -/

/-- The first byte offset whose field fails. -/
def firstOff (l : List (Nat × Bool)) : Option Nat := (l.find? (fun e => !e.2)).map (·.1)

def zeroAt (b : Bytes) (o n : Nat) : Bool := (slice b o n).all (· == 0)

def globalBad (b : Bytes) : Option Nat :=
  let budget := leAt b 0 2
  firstOff [(0, decide (100 ≤ budget ∧ budget ≤ 10000)), (2, decide (leAt b 2 1 ≤ 128)), (3, decide (leAt b 3 1 < 8)),
    (4, fld (leAt b 4 2) 12 3 == 0), (6, zeroAt b 6 58)]

def unitBad (b : Bytes) : Option Nat :=
  let r := parseUnit b
  let top := r.parent.isNone
  let arith := top && r.cls == 2
  let tileOk := if r.group then decide (2 ≤ r.tile ∧ r.tile ≤ 8) else decide (r.tile < if r.cls = 0 then 128 else 32)
  firstOff [(0, decide (leAt b 0 2 < 4096)), (2, decide (r.cls ≤ 2)), (3, decide (leAt b 3 1 < 16) && r.check != 3),
    (4, tileOk), (5, r.pool.isNone || (top && r.pool.any (· < 64))), (6, decide (leAt b 6 1 < 64) && decide (r.action ≤ 1)),
    (7, decide (leAt b 7 1 < 16) && (arith || leAt b 7 1 == 0)), (8, decide (leAt b 8 1 < 32) && (arith || leAt b 8 1 == 0)),
    (9, zeroAt b 9 1), (0xC, zeroAt b 0xC 4)]

def poolBad (costs : Nat) (b : Bytes) : Option Nat :=
  firstOff [(0, decide (leAt b 0 1 < 64)), (1, decide (leAt b 1 1 ≤ 2)), (2, decide (leAt b 2 1 < 2)),
    (3, decide (leAt b 3 1 ≤ 192)), (0xA, decide (1 ≤ costs)), (0xC, zeroAt b 0xC 4)]

def costBad (b : Bytes) : Option Nat :=
  let g := leAt b 2 1
  firstOff [(2, decide (3 ≤ fld g 0 4 ∧ fld g 0 4 ≤ 10) && fld g 5 2 == 0), (3, zeroAt b 3 1)]

def classBad (b : Bytes) : Option Nat :=
  firstOff [(2, decide (leAt b 2 1 < 2)), (3, zeroAt b 3 1), (7, zeroAt b 7 1), (0x14, zeroAt b 0x17 1)]

def funcBad (b : Bytes) : Option Nat :=
  firstOff [(0, decide (leAt b 0 2 ≤ 0x2000)), (4, decide (leAt b 4 4 < 2 ^ 21)), (8, decide (leAt b 8 4 < 2 ^ 21)),
    (0xC, decide (leAt b 0xC 4 < 2 ^ 22)), (0x10, decide (leAt b 0x10 4 < 2 ^ 22)), (0x14, decide (leAt b 0x14 4 ≤ 65536)),
    (0x1C, decide (leAt b 0x1C 2 ≤ 256)), (0x20, decide (leAt b 0x20 2 ≤ 256)), (0x22, zeroAt b 0x22 6)]

/-- 0x11: R139 and R159 ask for 120 ns where a cipher or hash pool is defined. -/
def checkBudget (c : Chart) : Option CheckFail :=
  if c.budget < 120 ∧ c.pools.any (fun p => decide (p.cls ≤ 1)) then some ⟨0x11, 1, 0, c.budget⟩ else none

/-! ## Units (0x12 to 0x1A) -/

/-- 0x12. -/
def checkUid (c : Chart) : Option CheckFail :=
  firstBad 0x12 2 c.units (fun i u => failIf ((c.units.take i).any (·.uid == u.uid)) u.uid)

/-- 0x13: a tile named twice, then a tile missing. -/
def checkTiles (c : Chart) : Option CheckFail :=
  let same := fun (a b : UnitRec) => !a.group && !b.group && a.cls == b.cls && a.tile == b.tile
  let names := fun (cls n : Nat) => c.units.any (fun u => !u.group && u.cls == cls && u.tile == n)
  let lacks := fun (cls n : Nat) => ((List.range n).find? (fun t => !names cls t)).map (fun t =>
    (⟨0x13, 2, missing, 256 * cls + t⟩ : CheckFail))
  firstBad 0x13 2 c.units (fun i u => failIf ((c.units.take i).any (same u)) (256 * u.cls + u.tile)) <|>
    lacks 0 128 <|> lacks 1 32 <|> lacks 2 32

/-- Level of a unit (R16); a cycle reaches the fuel. -/
def levelOf (us : List UnitRec) : Nat → Nat → Nat
  | 0, _ => 0
  | n + 1, u =>
    match us.find? (·.uid == u) with
    | some r => if r.group then 1 + ((membersOf us u).map (fun m => levelOf us n m.uid)).foldl max 0 else 0
    | none => 0

/-- 0x14. A cycle gives its units a level above 7. -/
def checkTree (c : Chart) : Option CheckFail :=
  let us := c.units
  firstBad 0x14 2 us (fun _ u =>
    let ms := membersOf us u.uid
    let up := match u.parent with
      | none => true
      | some p => (us.find? (·.uid == p)).any (fun r => r.group && r.cls == u.cls)
    let hash := !u.group || u.cls != 1 || (ms.length == 2 && u.check == 1 && ms.all (fun m => !m.group))
    failIf (!up || (u.group && ms.length != u.tile) || !hash || decide (7 < levelOf us 9 u.uid)) u.uid)

/-- The structure below a unit, as a list of numbers. -/
def shapeOf (us : List UnitRec) : Nat → Nat → List Nat
  | 0, _ => []
  | n + 1, u =>
    match us.find? (·.uid == u) with
    | some r => if r.group then
        let ms := membersOf us u
        [1, r.check, ms.length] ++ ms.flatMap (fun m => shapeOf us n m.uid)
      else [0, r.cls]
    | none => []

/-- 0x15. -/
def checkModes (c : Chart) : Option CheckFail :=
  let us := c.units
  firstBad 0x15 2 us (fun _ u =>
    let ms := (membersOf us u.uid).map (fun m => shapeOf us 8 m.uid)
    let dual := u.check != 1 || (u.group && ms.length == 2 && ms[0]? == ms[1]?)
    let member := match u.parent.bind (fun p => us.find? (·.uid == p)) with
      | none => true
      | some p => u.check == (if p.check = 1 then 0 else p.check)
    failIf (!dual || !member || (u.cls == 1 && u.check == 2) ||
      (u.check == 0 && (u.action != 0 || u.retryMax != 0))) u.uid)

/-- T of a unit, and the tiles under it in record order (R212). -/
def tilesT (us : List UnitRec) (u : Nat) : Nat := (computing us 9 u).length
def tilesAll (us : List UnitRec) (u : Nat) : List Nat := (leavesOf us 9 u).map (·.tile)

def pow8 (n : Nat) : Bool := n == 1 || n == 2 || n == 4 || n == 8

/-- 0x16. -/
def checkShape (c : Chart) : Option CheckFail :=
  firstBad 0x16 2 c.units (fun _ u =>
    let l := sortOn id (tilesAll c.units u.uid)
    let lo := l.headD 0
    failIf (u.cls == 2 && !(pow8 (tilesT c.units u.uid) && pow8 l.length && lo % l.length == 0 &&
      l == (List.range l.length).map (· + lo))) u.uid)

/-- 0x17. -/
def checkPolicy (c : Chart) : Option CheckFail :=
  firstBad 0x17 2 c.units (fun _ u =>
    failIf (u.cls == 2 && u.parent.isNone &&
      (decide (5 < u.len) || u.sealed != decide (4 ≤ (tilesAll c.units u.uid).length))) u.uid)

/-- 0x18. -/
def checkClaim (c : Chart) : Option CheckFail :=
  firstBad 0x18 2 c.units (fun _ u => failIf (u.hostClaim && (u.pool.isSome || u.parent.isSome || u.sealed)) u.uid)

/-- Top-level units of a pool in a configuration. -/
def unitsIn (c : Chart) (p : Nat) : List UnitRec := c.units.filter (fun u => u.pool == some p && u.parent.isNone)

/-- 0x19. -/
def checkHelms (c : Chart) : Option CheckFail :=
  firstBad 0x19 2 c.units (fun i u => match u.helm with
    | some h => failIf (decide (2 ≤ ((c.units.take i).filter (·.helm == some h)).length)) h
    | none => none) <|>
  firstBad 0x19 4 c.costs (fun _ k =>
    failIf (k.opcode / 4096 == 4 && (unitsIn c k.pool).any (fun u => u.helm.isNone)) k.opcode)

/-- 0x1A. -/
def checkKsu (c : Chart) : Option CheckFail :=
  match c.ksu with
  | none => none
  | some k =>
    if (c.units.find? (·.uid == k)).any (fun u =>
        u.cls == 2 && u.parent.isNone && u.pool.isNone && u.sealed && !u.hostClaim && u.helm.isSome) then none
    else some ⟨0x1A, 1, 0, k⟩

/-! ## Pools and costs (0x1B to 0x1E) -/

def allSame (l : List Nat) : Bool := l.all (fun x => x == l.headD 0)

/-- 0x1B; covers says whether the cost range of pool record i continues where the one before ended. -/
def checkPools (c : Chart) (covers : Nat → Bool) : Option CheckFail :=
  firstBad 0x1B 3 c.pools (fun i p =>
    let us := unitsIn c p.pool
    let order := (c.pools.take i).all (fun q => decide (q.pool < p.pool))
    failIf (!order || !decide (1 ≤ us.length ∧ us.length ≤ 128) || us.any (fun u => u.cls != p.cls) ||
      !allSame (us.map (·.check)) || (p.preempt && p.cls != 2) || !covers i ||
      (p.cls == 2 && !(allSame (us.map (·.len)) && allSame (us.map (fun u => tilesT c.units u.uid))))) p.pool) <|>
  firstBad 0x1B 2 c.units (fun _ u => match u.pool with
    | some p => failIf (!c.pools.any (·.pool == p)) p
    | none => none) <|>
  firstBad 0x1B 4 c.costs (fun _ k => failIf (!c.pools.any (·.pool == k.pool)) k.pool)

/-- 0x1C. -/
def checkShares (c : Chart) : Option CheckFail :=
  firstBad 0x1C 3 c.pools (fun i _ =>
    let sum := ((c.pools.take (i + 1)).map (·.share)).sum
    failIf (decide (192 < sum)) sum)

/-- An operation code is defined by its family's chapter; ALG3 decides the TDES payment codes (R165). -/
def opKnown (policy op : Nat) : Bool :=
  let d := toLE 2 op
  match dFamily d with
  | 1 => cipherKnown d
  | 2 => hashKnown d
  | 3 => payKnown policy d
  | 4 => serviceKnown d
  | _ => false

/-- The first unit of a pool: all share check mode, L and T. -/
def poolHead (c : Chart) (p : Nat) : Option UnitRec := (unitsIn c p).head?

/-- 0x1D. -/
def checkCosts (c : Chart) : Option CheckFail :=
  firstBad 0x1D 4 c.costs (fun i k =>
    let cls := ((c.pools.find? (·.pool == k.pool)).map (·.cls)).getD 3
    let order := (c.costs.take i).all (fun q => q.pool != k.pool || decide (q.opcode < k.opcode))
    let len := k.opcode / 4096 != 4 || (poolHead c k.pool).any (fun u => u.len == serviceSlot (toLE 2 k.opcode))
    failIf (!order || !opKnown c.policy k.opcode || familyClass (k.opcode / 4096) != some cls || (k.stage && cls == 2) || !len)
      k.opcode)

/-- 0x1E. -/
def checkCostMin (c : Chart) : Option CheckFail :=
  firstBad 0x1E 4 c.costs (fun _ k =>
    let u := poolHead c k.pool
    let m := costMin k.opcode ((u.map (·.check)).getD 0) ((u.map (fun r => tilesT c.units r.uid)).getD 1)
    failIf (decide (k.base < m.base ∨ k.step < m.stepAt (2 ^ k.grainLog))) k.opcode)

/-! ## Classes (0x1F, 0x20, 0x26) -/

/-- 0x1F. -/
def checkClasses (c : Chart) : Option CheckFail :=
  let is := fun (p cls : Nat) => c.pools.any (fun r => r.pool == p && r.cls == cls)
  firstBad 0x1F 5 c.classes (fun i k =>
    failIf (!(c.classes.take i).all (fun q => decide (q.cls < k.cls)) || k.weight == 0 ||
      !decide (1 ≤ k.burst ∧ k.burst ≤ 65536) || !is k.poolC 0 || !is k.poolH 1 || !is k.poolA 2) k.cls)

/-- The first bound condition of R63 that a class breaks, as Info. -/
def boundBad (c : Chart) (k : ClassRec) : Option Nat :=
  let r := c.budget * 3
  if k.bFix < 3600 then some (2 * 2 ^ 24)
  else [k.poolC, k.poolH, k.poolA].findSome? (fun p => (c.costs.filter (·.pool == p)).findSome? (fun e =>
    let at_ := e.opcode + 2 ^ 16 * p
    if k.bFix < e.base + e.step + r + 16 then some (at_ + 3 * 2 ^ 24)
    else if k.bDesc < e.base + e.step + r then some (at_ + 4 * 2 ^ 24)
    else if k.bKib * 2 ^ e.grainLog < e.step * 1024 then some (at_ + 5 * 2 ^ 24)
    else none))

/-- 0x20. -/
def checkBounds (c : Chart) : Option CheckFail := firstBad 0x20 5 c.classes (fun _ k => boundBad c k)

/-- The charge that a ring adds to a pool (R63). -/
def ringRate (c : Chart) (b : RingBind) (p : Nat) : Nat :=
  match c.classes.find? (·.cls == b.cls) with
  | some k => ([k.poolC, k.poolH, k.poolA].filter (· == p)).length * (k.rate * k.ref)
  | none => 0

/-- 0x26: the ring whose addition first breaks the rate condition of a pool. -/
def checkRates (c : Chart) : Option CheckFail :=
  firstBad 0x26 7 c.rings (fun i _ =>
    (c.pools.map (·.pool)).find? (fun p =>
      decide (3000000 * (unitsIn c p).length < ((c.rings.take (i + 1)).map (fun b => ringRate c b p)).sum)))

/-! ## Functions and rings (0x21 to 0x25) -/

/-- 0x21. -/
def checkFuncs (c : Chart) : Option CheckFail :=
  firstBad 0x21 6 c.funcs (fun i f =>
    failIf (!(c.funcs.take i).all (fun g => decide (g.func < f.func)) || !decide (1 ≤ f.vectors ∧ f.vectors ≤ 16)) f.func) <|>
  (if c.funcs.any (·.func == 0) then none else some ⟨0x21, 6, missing, 0⟩)

/-- A range of f overlaps a range of an earlier record. -/
def rangeClash (l : List FuncRec) (base count : FuncRec → Nat) (f : FuncRec) : Bool :=
  l.any (fun g => decide (0 < count f ∧ 0 < count g ∧ base f < base g + count g ∧ base g < base f + count f))

/-- 0x22. -/
def checkContexts (c : Chart) : Option CheckFail :=
  firstBad 0x22 6 c.funcs (fun i f =>
    let l := c.funcs.take i
    failIf (decide (0 < f.stdCount ∧ c.stdMib * 8192 < f.stdBase + f.stdCount) ||
      decide (0 < f.cmpCount ∧ (128 - c.stdMib) * 16384 < f.cmpBase + f.cmpCount) ||
      rangeClash l (·.stdBase) (·.stdCount) f || rangeClash l (·.cmpBase) (·.cmpCount) f) f.func)

/-- 0x23. -/
def checkVault (c : Chart) : Option CheckFail :=
  firstBad 0x23 6 c.funcs (fun i f =>
    failIf (decide (0 < f.vltCount ∧ 65536 < f.vltBase + f.vltCount) ||
      rangeClash (c.funcs.take i) (·.vltBase) (·.vltCount) f) f.func)

/-- 0x24. -/
def checkRanges (c : Chart) : Option CheckFail :=
  firstBad 0x24 6 c.funcs (fun i f =>
    let l := c.funcs.take i
    failIf (decide (65536 < f.ringBase + f.ringCount ∨ 65536 < f.cqBase + f.cqCount) ||
      rangeClash l (·.ringBase) (·.ringCount) f || rangeClash l (·.cqBase) (·.cqCount) f) f.func)

/-- 0x25: a record, then a ring of some range without one. -/
def checkRings (c : Chart) : Option CheckFail :=
  let owner := fun (g : Nat) => c.funcs.find? (fun f => decide (f.ringBase ≤ g ∧ g < f.ringBase + f.ringCount))
  firstBad 0x25 7 c.rings (fun i r =>
    failIf (!(c.rings.take i).all (fun q => decide (q.ring < r.ring)) || !c.classes.any (·.cls == r.cls) ||
      !(owner r.ring).any (fun f => decide (r.cqLocal < f.cqCount))) r.ring) <|>
  (c.funcs.findSome? (fun f => (List.range f.ringCount).find? (fun n => !c.rings.any (·.ring == f.ringBase + n)) |>.map
    (fun n => (⟨0x25, 7, missing, f.ringBase + n⟩ : CheckFail))))

/-! ## The certified rule (0x27, R407) -/

/-- A family 0x4 code that needs a private key. -/
def needsPrivate (op : Nat) : Bool := op / 4096 == 4 && sPrivate (toLE 2 op)

def checkCertified (c : Chart) : Option CheckFail :=
  if !c.certified then none
  else if c.policy % 4 ≠ 0 then some ⟨0x27, 1, 0, 0⟩
  else if c.ksu.isNone then some ⟨0x27, 1, 0, 0⟩
  else
    firstBad 0x27 2 c.units (fun _ u => failIf (u.parent.isNone && u.check == 0) u.uid) <|>
    firstBad 0x27 2 c.units (fun _ u => failIf u.hostClaim u.uid) <|>
    (if c.units.any (fun u => u.parent.isNone && u.pool.isSome && u.cls == 2 && u.sealed) then none
     else some ⟨0x27, 2, missing, 0⟩) <|>
    firstBad 0x27 3 c.pools (fun _ p =>
      failIf (c.costs.any (fun k => k.pool == p.pool && needsPrivate k.opcode) &&
        (unitsIn c p.pool).any (fun u => !u.sealed)) p.pool)

/-! ## All rules in the order of R271, after RESERVED -/

def checkChart (c : Chart) (covers : Nat → Bool) : Option CheckFail :=
  checkBudget c <|> checkUid c <|> checkTiles c <|> checkTree c <|> checkModes c <|> checkShape c <|> checkPolicy c <|>
    checkClaim c <|> checkHelms c <|> checkKsu c <|> checkPools c covers <|> checkShares c <|> checkCosts c <|>
    checkCostMin c <|> checkClasses c <|> checkBounds c <|> checkFuncs c <|> checkContexts c <|> checkVault c <|>
    checkRanges c <|> checkRings c <|> checkRates c <|> checkCertified c

end Sys2Proof.Machine
end

