-- ==== Sys2Proof/Machine/LifeCycle.lean ====
section
/-!
DEFINITION. Fuses and the life cycle (R324 to R336): the fields of the array, its decoding at start-up, the steps
of a transition and of the fuse commands, LC_REQUEST and LC_FUSE_CMD.
-/

namespace Sys2Proof.Machine

/-! ## The fuse array (R326, R397) -/

def fuseWord (s : State) (w : Nat) : Word := s.fuses.get 0 w

/-- One complete programming pulse: the bit reads 1 for ever. -/
def programBit (s : State) (b : Nat) : State :=
  { s with fuses := s.fuses.set (b / 32) (fuseWord s (b / 32) ||| BitVec.ofNat 32 (2 ^ (b % 32))) }

def fuseBit (s : State) (b : Nat) : Bool := (fuseWord s (b / 32)).getLsbD (b % 32)

/-- n words from w as bytes. -/
def fuseBytes (s : State) (w n : Nat) : Bytes := (List.range n).flatMap (fun i => toLE 4 (fuseWord s (w + i)).toNat)

/-- LC_WORD. -/
def lcWord (s : State) : Nat := leNat (fuseBytes s 1 2)

/-- A mark is set when at least one of its four fuses reads 1. -/
def mark (s : State) (w lo : Nat) : Bool := wfld (fuseWord s w) lo 4 != 0

def trTest (s : State) : Bool := mark s 3 0
def trProv (s : State) : Bool := mark s 4 0
def l0Spoiled (s : State) : Bool := mark s 4 4
def lsDone (s : State) : Bool := mark s 4 8

/-- A field of n words at w with its check word verifies. -/
def checkOk (s : State) (w n : Nat) : Bool := (sha384 (fuseBytes s w n)).take 4 == fuseBytes s (w + n) 1

def fieldEmpty (s : State) (w n : Nat) : Bool := (fuseBytes s w (n + 1)).all (· == 0)

/-- First word of Lodestone field k. -/
def lodeAt (k : Nat) : Nat := if k = 0 then 8 else 17

/-- 0 EMPTY, 1 VALID, 2 SPOILED, 3 BURNT (R326). -/
def lodeState (s : State) (k : Nat) : Nat :=
  if fieldEmpty s (lodeAt k) 8 then 0
  else if (fuseBytes s (lodeAt k) 9).all (· == 0xFF) then 3
  else if checkOk s (lodeAt k) 8 then 1 else 2

/-- The Lodestone field in use (R333). -/
def lodeUse (s : State) : Nat := if l0Spoiled s then 1 else 0

/-- The Lodestone. -/
def lodestone (s : State) : Bytes := fuseBytes s (lodeAt (lodeUse s)) 8

def ownerHash (s : State) : Bytes := fuseBytes s 32 8
def chartKeyHash (s : State) : Bytes := fuseBytes s 48 12
def ownOk (s : State) : Bool := checkOk s 32 8
def ckeyOk (s : State) : Bool := checkOk s 48 12

/-- LC_FIELDS (R336). -/
def lcFields (s : State) : Word :=
  word (b2n (ownOk s) + 2 * b2n (fieldEmpty s 32 8) + 4 * b2n (ckeyOk s) + 8 * b2n (fieldEmpty s 48 12) +
    16 * lodeState s 0 + 64 * lodeState s 1)

/-- LC_STATUS (R336). -/
def lcStatus (s : State) : Word :=
  word (s.lc.state + 256 * s.lc.reason + 4096 * b2n s.lc.busy + 8192 * b2n s.lc.resumed + 16384 * b2n (l0Spoiled s) +
    65536 * (s.lc.target % 16) + 2 ^ 20 * s.lc.stepNo)

/-- Ones of a thermometer field of two words at w (R272): the minimum it encodes. -/
def thermo (s : State) (w : Nat) : Nat := ((List.range 64).filter (fun i => fuseBit s (32 * w + i))).length

def fwMinSvn (s : State) : Nat := thermo s 64
def chartMinSvn (s : State) : Nat := thermo s 66

/-- KV_STATUS.LODESTONE: the derivation engine may use the Lodestone (R185, R321); from the erase of a transition to RETURNED or
SCRAPPED onwards it may not (R330), also between its end and the BLOCK reset, whatever a later LC_REQUEST asks. -/
def lodeUsable (s : State) : Bool :=
  (s.lc.state == 3 || s.lc.state == 4) && !s.ac.lodeOff && !s.lc.erased && s.lc.target != 5 && s.lc.target != 6

/-! ## Bits of an operation -/

/-- Addresses of LC_WORD bits hi down to lo. -/
def lcBits (hi lo : Nat) : List Nat := (List.range (hi + 1 - lo)).map (fun i => 32 + hi - i)

def markBits (w lo : Nat) : List Nat := (List.range 4).map (fun i => 32 * w + lo + i)

/-- Addresses of the bits that a byte string at word w sets. -/
def oneBits (w : Nat) (b : Bytes) : List Nat :=
  (List.range (8 * b.length)).filterMap (fun i => if (b.getD (i / 8) 0).getLsbD (i % 8) then some (32 * w + i) else none)

/-- All 288 bits of a Lodestone field: to burn it (R329). -/
def burnBits (k : Nat) : List Nat := (List.range 288).map (fun i => 32 * lodeAt k + i)

/-- Step 2 of TEST to PROVISIONED: a drawn value and its check, into field k. -/
def lodeBits (k : Nat) (v : Bytes) : List Nat := oneBits (lodeAt k) (v ++ (sha384 v).take 4)

/-! ## Decoding (R333, R334) -/

def codeTest : Nat := 0xFF
def codeProv : Nat := 0xFFFF
def codeSec : Nat := 0xFFFFFFFF
def codeRet : Nat := 0xFFFFFFFFFFFF
def codeScrap : Nat := 0xFFFFFFFFFFFFFFFF

/-- The outcome of decoding: a state, or a transition to resume, by its target. -/
inductive Decoded where
  | state (n : Nat)
  | resume (target : Nat)
  deriving DecidableEq, Repr

/-- RAW to TEST or TEST to PROVISIONED resumed; item 5 of R334 is INVALID. -/
def resumable (s : State) : Decoded :=
  if !lsDone s && l0Spoiled s && 2 ≤ lodeState s 1 then .state 0x0F else .resume 3

/-- The first row of R333 that applies. -/
def decodeFuses (s : State) : Decoded :=
  let w := lcWord s
  let start := w == 0 || w == codeTest
  if fuseWord s 0 ≠ 0x5AC33CA5 then .state 0x0F
  else if start && !trProv s && (lodeState s 0 != 0 || lodeState s 1 != 0 || lsDone s || l0Spoiled s) then .state 0x0F
  else if w = codeTest ∧ trProv s then resumable s
  else if w = 0 ∧ trTest s then .resume 2
  else if w = 0 then .state 1
  else if w = codeTest then .state 2
  else if w = codeProv ∨ w = codeSec then
    if lodeState s (lodeUse s) == 1 && ownOk s && ckeyOk s then .state (if w = codeProv then 3 else 4) else .state 0x0F
  else if w = codeRet then .state 5
  else if w = codeScrap then .state 6
  else if trTest s && w &&& codeTest == w then .resume 2
  else if trProv s && w &&& codeProv == w && w &&& codeTest == codeTest then resumable s
  else .state 0x0F

/-- The steps of a resumed transition (R333, R334). -/
def resumeSteps (s : State) (target : Nat) : List FuseStep :=
  if target = 2 then [.bits 2 (lcBits 7 0)]
  else
    let tail : List FuseStep := [.bits 3 (markBits 4 8), .bits 4 (lcBits 15 8)]
    let k := lodeUse s
    if lsDone s then [.bits 4 (lcBits 15 8)]
    else match lodeState s k with
      | 1 => tail
      | 0 => .draw 2 k :: tail
      | _ => .bits 2 (markBits 4 4) :: .bits 2 (burnBits 0) :: .draw 2 1 :: tail

/-- The steps of a transition requested in root cycle now (R329). -/
def transitionSteps (target now : Nat) : List FuseStep :=
  match target with
  | 2 => [.bits 1 (markBits 3 0), .bits 2 (lcBits 7 0)]
  | 3 => [.bits 1 (markBits 4 0), .draw 2 0, .bits 3 (markBits 4 8), .bits 4 (lcBits 15 8)]
  | 4 => [.bits 1 (lcBits 31 16)]
  | 5 => [.erase 1 now, .bits 2 (lcBits 47 0), .bits 3 (burnBits 0 ++ burnBits 1)]
  | _ => [.erase 1 now, .bits 2 (lcBits 63 0), .bits 3 (burnBits 0 ++ burnBits 1)]

/-- TARGET and STEP that a decoded state shows when nothing was resumed: those of the transition that led to it;
INVALID shows none (log 9). -/
def lastOf (state : Nat) : Nat × Nat :=
  match state with
  | 2 => (2, 2)
  | 3 => (3, 4)
  | 4 => (4, 1)
  | 5 => (5, 3)
  | 6 => (6, 3)
  | _ => (0, 0)

/-! ## Running an operation (R327) -/

/-- 256 bits of DRBG instance 0 (R329). A transition that resumes in start-up step 3 finds no instance seeded yet and seeds
this one (log 9); an instance that gives no output keeps the step waiting. -/
def lodeDraw (s : State) : Option (State × Bytes) :=
  if drbgUp s 0 then some (drbgDraw s 0 32)
  else if s.pw.step = 3 ∧ !s.kv.healthFail then some (drbgDraw (drbgSeed s 0) 0 32)
  else none

/-- The steps still to run: bits that already read 1 are skipped, a draw that is reached is made, and an erase ends after 120
root cycles (R330). -/
def trimSteps (s : State) : List FuseStep → State × List FuseStep
  | [] => (s, [])
  | .bits n l :: r =>
    match l.filter (fun b => !fuseBit s b) with
    | [] => trimSteps s r
    | l => (s, .bits n l :: r)
  | .erase n t :: r => if t + 120 ≤ s.clk.meridian then trimSteps s r else (s, .erase n t :: r)
  | .draw n k :: r =>
    match lodeDraw s with
    | some x =>
      (match (lodeBits k x.2).filter (fun b => !fuseBit x.1 b) with
      | [] => trimSteps x.1 r
      | l => (x.1, .bits n l :: r))
    | none => (s, .draw n k :: r)

/-- Programming may begin the next bit: no supply warning or hold, and no ERASE (R335, R347). -/
def fuseGo (s : State) : Bool := !supplyBad s && !struck s

/-- The number of a step. -/
def FuseStep.no : FuseStep → Nat
  | .bits n _ => n
  | .draw n _ => n
  | .erase n _ => n

/-- A step has a bit to program. -/
def hasBit (l : List FuseStep) : Bool :=
  match l with
  | .bits _ _ :: _ => true
  | _ => false

/-- A transition or resume drives LC_STATUS.STEP. -/
def showsStep (w : FuseWhat) : Bool :=
  match w with
  | .transition _ => true
  | .resume _ => true
  | _ => false

/-- Begins the head operation's next bit; the steps of an ended one are empty. STEP shows the step that runs, or the last one
that ended. A bit begins now. -/
def fuseBegin (s : State) : State :=
  match s.lc.ops with
  | [] => s
  | o :: r =>
    let x := trimSteps s o.steps
    let s := x.1
    let last := (o.steps.getLast?.map (·.no)).getD s.lc.stepNo
    { s with lc := { s.lc with
      stepNo := if showsStep o.what then (x.2.head?.map (·.no)).getD last else s.lc.stepNo
      ops := { o with steps := x.2, run := hasBit x.2 && fuseGo s, bitAt := (s.clk.meridian, s.bn.btime) } :: r } }

/-- Ends the operations whose steps are done and that end by themselves: LC_FUSE_CMD (R332) and ADVANCE (R272).
The fuel is the number of waiting operations. -/
def fuseEnd : Nat → State → State
  | 0, s => s
  | n + 1, s =>
    match s.lc.ops with
    | ⟨.field, [], _, _, _, _⟩ :: r =>
      fuseEnd n (fuseBegin { s with lc := { s.lc with ops := r, fuseBusy := false, fuseResult := 0 } })
    | ⟨.advance oldC newC oldF newF, [], _, _, _, _⟩ :: r =>
      let s := { s with lc := { s.lc with ops := r }, ch := { s.ch with busy := false, result := 0 } }
      fuseEnd n (fuseBegin (logReq s 0xF true true (toLE 1 oldC ++ toLE 1 newC ++ toLE 1 oldF ++ toLE 1 newF)))
    | _ => s

/-- Adds an operation behind those that run. -/
def fuseStart (s : State) (what : FuseWhat) (steps : List FuseStep) : State :=
  let s := { s with lc := { s.lc with ops := s.lc.ops ++ [⟨what, steps, 0, false, s.clk.meridian, (s.clk.meridian, s.bn.btime)⟩] } }
  if s.lc.ops.length = 1 then fuseEnd 1 (fuseBegin s) else s

/-- FUSE_PGM has been held for 12 µs since the bit began: 36,000 root cycles, or 384 Binnacle cycles where the Meridian has stood
meanwhile (R397). -/
def pulseDone (s : State) (t : Nat × Nat) : Bool :=
  decide (t.1 + 36000 ≤ s.clk.meridian) || decide (t.2 + 384 ≤ s.bn.btime)

/-- One pulse ends: the bit reads 1 and the next begins. -/
def fusePulse (s : State) : State :=
  match s.lc.ops with
  | ⟨w, .bits n (b :: l) :: r, d, true, t, p⟩ :: rest =>
    if pulseDone s p then
      let s := programBit s b
      let s := { s with lc := { s.lc with ops := ⟨w, .bits n l :: r, d + 1, false, t, p⟩ :: rest } }
      fuseEnd s.lc.ops.length (fuseBegin s)
    else s
  | _ => s

/-- An operation goes on when the warning and its hold have ended (R335), its erase has ended, or its draw can be made. -/
def fuseResume (s : State) : State :=
  match s.lc.ops with
  | ⟨_, _ :: _, _, false, _, _⟩ :: _ => fuseBegin s
  | _ => s

/-- A fuse bit is in progress (R347). -/
def fuseInBit (s : State) : Bool :=
  match s.lc.ops with
  | o :: _ => o.run
  | [] => false

/-! ## Quiescence (R267) -/

/-- The conditions of the NOT_QUIESCED row of R267 other than the one on contexts. -/
def busyDevice (s : State) : Bool :=
  s.rings.any (fun e => e.2.active) || s.cqs.any (fun e => e.2.active) ||
    s.units.any (fun e => e.2.st == 1 || e.2.st == 2 || e.2.hostHeld || e.2.relScrub) ||
    s.kv.busy || s.sc.busy || s.hl.preBusy || s.tx.state != 0

/-- A context is not FREE. -/
def anyCtx (s : State) : Bool := s.sc.std.any (fun e => e.2.st != 0) || s.sc.cmp.any (fun e => e.2.st != 0)

/-! ## Transitions (R328 to R331) -/

/-- Transitions permitted (R325). -/
def permitted (state target : Nat) : Bool :=
  match state with
  | 1 => target == 2 || target == 6
  | 2 => target == 3 || target == 6
  | 3 => target == 4 || target == 5 || target == 6
  | 4 => target == 5 || target == 6
  | 5 => target == 6
  | 0x0F => target == 6
  | _ => false

/-- The first REASON of R328 that applies. -/
def lcReason (s : State) (v : Word) : Nat :=
  let t := wfld v 0 8
  if wfld v 16 16 ≠ 0x4C43 ∨ wfld v 8 8 ≠ 0 then 1
  else if s.lc.busy then 5
  else if !permitted s.lc.state t then 2
  else if s.ch.state == 1 || busyDevice s then 3
  else if supplyBad s then 4
  else if t == 3 && !(ownOk s && ckeyOk s) then 6
  else 0

/-- The erase of a transition to RETURNED or SCRAPPED (R330). -/
def lcErase (s : State) : State :=
  let s := zeroize (eraseVault s)
  { s with lc := { s.lc with erased := true } }

/-- LC_REQUEST; ignored after a FAILED start-up (R380). -/
def lcRequest (s : State) (v : Word) : State :=
  if failedStart s then s
  else
    let r := lcReason s v
    let s1 := { s with lc := { s.lc with reason := r } }
    if r ≠ 0 then s1
    else
      let t := wfld v 0 8
      let s := { s1 with lc := { s1.lc with busy := true, target := t, stepNo := 1 } }
      let s := if t = 5 ∨ t = 6 then lcErase s else s
      fuseStart s (.transition t) (transitionSteps t s.clk.meridian)

/-- LC_REQUEST (R328). -/
def execLcRequest (a : Access) (v : Word) (s : State) : Host.Outcome State Fault Refusal :=
  .next (hostWrite s a (mgmtAt a 0x80004) (fun s => lcRequest s v))

/-- The microseconds that an operation of d bits took which began in root cycle t: 12 for each bit (R327), and what the clock
shows beyond that, since programming may pause (R335). -/
def fuseMicros (s : State) (d t : Nat) : Nat := max (12 * d) ((s.clk.meridian - t) / 3000)

/-- The same as LC_LAST_TIME holds it. -/
def fuseTime (s : State) (d t : Nat) : Nat := min (fuseMicros s d t) 0xFFFFFF

/-- The last step of a requested transition has ended (R331): the record, and the BLOCK reset that replaces one
requested meanwhile (R335). -/
def lcEnd (s : State) : State :=
  match s.lc.ops with
  | ⟨.transition t, [], d, _, t0, _⟩ :: r =>
    let s := logReq s 0xC true true
      (toLE 1 s.lc.state ++ toLE 1 t ++ [0, 0] ++ toLE 4 (min (fuseMicros s d t0) 0xFFFFFFFF))
    fuseBegin { s with
      lc := { s.lc with ops := r, busy := false, lastTime := fuseTime s d t0 }
      pw := { s.pw with block := some (s.clk.meridian, s.bn.btime) } }
  | _ => s

/-- LC_TRANSITION_END (R331). -/
def execLcTransitionEnd (s : State) : Host.Outcome State Fault Refusal :=
  .next (if active s && !struck s then lcEnd s else s)

/-! ## Owner fields (R332) -/

/-- LC_DATA as a byte string of n words. -/
def lcDataBytes (s : State) (n : Nat) : Bytes := (s.lc.data.take n).flatMap (fun w => toLE 4 w.toNat)

/-- LC_FUSE_CMD: the result at once, or the bits to program. The order of the refusals is log 10. -/
def lcFuseCmd (s : State) (v : Word) : State :=
  let f := wfld v 0 2
  let fail := fun n => { s with lc := { s.lc with fuseResult := n } }
  if s.lc.busy || s.lc.fuseBusy then fail 4
  else if s.lc.state ≠ 2 then fail 1
  else if f ≠ 1 ∧ f ≠ 2 then fail 5
  else if supplyBad s then fail 3
  else
    let w := if f = 1 then 32 else 48
    let n := if f = 1 then 8 else 12
    let b := lcDataBytes s n
    let img := b ++ (sha384 b).take 4
    if (List.zipWith (fun x y => x &&& ~~~y) (fuseBytes s w (n + 1)) img).any (· != 0) then fail 2
    else fuseStart { s with lc := { s.lc with fuseBusy := true } } .field [.bits 0 (oneBits w img)]

/-- LC_FUSE_CMD (R332). -/
def execLcFuseCmd (a : Access) (v : Word) (s : State) : Host.Outcome State Fault Refusal :=
  .next (hostWrite s a (mgmtAt a 0x8000C) (fun s => lcFuseCmd s v))

/-- FUSE_BIT_PROGRAMMED (R327): the bit in progress. -/
def execFuseBitProgrammed (s : State) : Host.Outcome State Fault Refusal :=
  .next (if active s then fusePulse s else s)

/-! ## The fuse-read step (R333, R346) -/

/-- The Binnacle learns the state; each ACTION is raised to its floor. -/
def lcPass (s : State) (n : Nat) : State := raiseFloors { s with bn := { s.bn with lcKnown := some n } }

/-- The LC_DECODE record of an INVALID decode or a resumption (R362). -/
def lcDecodeLog (s : State) (n : Nat) : State :=
  logReq s 0xD true true (toLE 1 n ++ toLE 1 (b2n s.lc.resumed) ++ [0, 0] ++ toLE 8 (lcWord s) ++
    toLE 1 (wfld (fuseWord s 3) 0 4) ++ toLE 2 (wfld (fuseWord s 4) 0 12) ++ toLE 1 ((lcFields s).toNat % 256))

/-- The step ends in a state. -/
def lcSettle (s : State) (n : Nat) : State :=
  let x := lastOf n
  let s := { s with lc := { s.lc with
    state := n
    target := if s.lc.resumed then s.lc.target else x.1
    stepNo := if s.lc.resumed then s.lc.stepNo else x.2 } }
  lcPass (if n = 0x0F ∨ s.lc.resumed then lcDecodeLog s n else s) n

/-- Lodestone fields of RETURNED and SCRAPPED that are not BURNT. -/
def toBurn (s : State) (n : Nat) : List Nat :=
  if n = 5 ∨ n = 6 then ((List.range 2).filter (fun k => lodeState s k ≠ 3)).flatMap burnBits else []

/-- The decoded state after a resumption or a burn. -/
def fuseSettle (s : State) : State :=
  match decodeFuses s with
  | .state n => lcSettle s n
  | .resume _ => lcSettle s 0x0F

/-- The fuse-read step: decodes, starts a resumption or a burn, or ends it; the flag says that the step ends. BUSY is 1
meanwhile: a transition runs to its end (log 9). -/
def fuseRead (s : State) : State × Bool :=
  match s.lc.ops with
  | ⟨.resume _, [], d, _, t, _⟩ :: r =>
    (fuseSettle { s with lc := { s.lc with ops := r, busy := false, resumed := true, lastTime := fuseTime s d t } }, true)
  | ⟨.burn, [], _, _, _, _⟩ :: r => (fuseSettle { s with lc := { s.lc with ops := r, busy := false } }, true)
  | _ :: _ => (s, false)
  | [] =>
    match decodeFuses s with
    | .state n =>
      if (toBurn s n).isEmpty then (lcSettle s n, true)
      else (fuseStart { s with lc := { s.lc with busy := true, target := n } } .burn [.bits 0 (toBurn s n)], false)
    | .resume t =>
      (fuseStart { s with lc := { s.lc with busy := true, target := t } } (.resume t) (resumeSteps s t), false)

end Sys2Proof.Machine
end

