-- ==== Sys2Proof/Machine/Vault.lean ====
section
/-!
DEFINITION. Vault commands (R195 to R202, R206 to R209), the keys derived from the Lodestone (R186), the attestation key
and its key service unit (R187), the scrub of the vault (R208).
-/

namespace Sys2Proof.Machine

/-- The bytes of an ASCII label. -/
def ascii (x : String) : Bytes := x.toList.map (fun c => BitVec.ofNat 8 c.toNat)

/-! ## Derived keys (R186) -/

/-- SP 800-108 under the Lodestone with AES-256-CMAC. -/
def lodeKdf (s : State) (label : String) (context : Bytes) (l : Nat) : Bytes :=
  kdf108 (aesCmac (lodestone s)) 16 (ascii label) context l

/-- K_WRAP[d]. -/
def domainKey (s : State) (d : Nat) : Bytes := lodeKdf s "KW7-WRAP" (toLE 1 d ++ ownerHash s) 32

/-- A new K_VLT from 32 drawn bytes, by the Lodestone where it is usable (R185). -/
def newKvlt (s : State) (draw : Bytes) : Bytes := if lodeUsable s then lodeKdf s "KW7-VLT" draw 32 else draw

/-- d_ATT. -/
def attKey (s : State) : Nat := beNat (lodeKdf s "KW7-ATT" (ownerHash s) 56) % (Config.ecOrder 1 - 1) + 1

/-- The vault places d_ATT in the key service unit: it is held until Q_ATT is computed (R187). -/
def placeAtt (s : State) : State :=
  match s.chart.ksu with
  | none => s
  | some k =>
    if lodeUsable s && (unitRec s k).isSome && (getUni s k).st != 4 then
      setUni { s with kv := { s.kv with dAtt := some (attKey s), attValid := false } } k { getUni s k with vault := true }
    else s

/-- X ‖ Y of a point of P-384. -/
def point384 (p : Nat × Nat) : Bytes := toBE 48 p.1 ++ toBE 48 p.2

/-- ATT_PUBKEY_DONE (R187): KV_STATUS.ATT_VALID rises. -/
def execAttPubkeyDone (s : State) : Host.Outcome State Fault Refusal :=
  .next (match s.kv.dAtt, s.chart.ksu with
    | some d, some k =>
      if engineUp s && !s.kv.attValid && (getUni s k).vault then
        setUni { s with kv := { s.kv with attValid := true, attPub := point384 (Config.ecPub 1 d) } } k
          { getUni s k with vault := false }
      else s
    | _, _ => s)

/-- DEVICE_ID (R187). -/
def deviceId (s : State) : Bytes := (sha384 ([4] ++ s.kv.attPub)).take 8

/-! ## Results and checks (R209) -/

/-- A command ends. -/
def kvResult (s : State) (n : Nat) : State := { s with kv := { s.kv with busy := false, result := n, cmd := none } }

/-- The function whose range holds a slot; none also while a reset of it runs (R300). -/
def kvHolder (s : State) (i : Nat) : Option FuncRec := (slotOwner s i).filter (fun f => !fnResetting s f.func)

/-- The slot takes a write of any path: RANGE outside every range and behind the fence of R282, KIND. -/
def kvWritable (s : State) (i : Nat) : Option Nat :=
  if (kvHolder s i).isNone || slotFenced s i then some 1
  else if 2 ≤ (getSlot s i).kind then some 2
  else none

/-- A parity error that a command finds in a slot it reads: counted at the first access (R193). -/
def kvFound (s : State) (i : Nat) (bad : Bool) : State := if bad then slotParity s i else s

/-- The KEK of a command with the given USAGE bit (R197, R201). A slot found with a parity error is no KEK (DESIGN CHOICE, log 55). -/
def kvKek (s : State) (c : KvCmd) (func bit : Nat) : Option Bytes :=
  let x := getSlot s (wfld c.kek 0 16)
  if x.kind == 1 && x.gen == wfld c.kek 16 16 && x.own == func && atType x.attr == 0 && (atUsage x.attr).testBit bit &&
      !x.badSeen then some x.key
  else none

/-- Key and DOMAIN byte that wrap for a function, or the failure: USAGE bit 2 wrap, 3 unwrap. -/
def kvWrapKey (s : State) (c : KvCmd) (f : FuncRec) (bit : Nat) : Nat ⊕ (Bytes × Nat) :=
  if c.wrapper then
    match kvKek s c f.func bit with
    | some k => .inr (k, 0)
    | none => .inl 7
  else if lodeUsable s then .inr (domainKey s f.domain, f.domain)
  else .inl 15

/-! ## Blobs (R196) -/

def blobHeader (wrapper : Bool) (domain : Nat) (attr : Word) (klen : Nat) : Bytes :=
  ascii "KWB1" ++ [1] ++ toLE 1 (b2n wrapper) ++ toLE 1 domain ++ [0] ++ toLE 4 attr.toNat ++ toLE 2 klen ++ zeros 2

/-- Length of a blob whose P has p bytes. -/
def blobLen (p : Nat) : Nat := 24 + 8 * cdiv p 8

/-- Bytes of P: header, PUBH of a private key, key. -/
def blobInner (attr : Word) (klen : Nat) : Nat := 16 + (if 3 ≤ atType attr then 48 else 0) + klen

/-! ## DMA of a command (R206): port 0, function 0 -/

/-- A command that writes output ends: OUTLEN is what was written (R210). -/
def kvWrote (s : State) (c : KvCmd) : State :=
  kvResult { s with kv := { s.kv with outLen := c.outLen } } (if c.outErr then 11 else 0)

/-- Writes the output; the command ends when no response is owed. -/
def kvStore (s : State) (c : KvCmd) (out : Bytes) : State :=
  match issueAll s 0 0 true out .kvWrite [] (pieces c.dst out.length) with
  | (s, n, bad) =>
    let c := { c with out := n, outErr := bad.isSome }
    if n = 0 then kvWrote s c else { s with kv := { s.kv with cmd := some c } }

/-- k writes of the command are done with, n bytes written or an error (R388). -/
def kvWritten (s : State) (k n : Nat) (ok : Bool) : State :=
  match s.kv.cmd with
  | none => s
  | some c =>
    let c := { c with out := c.out - k, outErr := c.outErr || !ok, outLen := if ok then c.outLen + n else c.outLen }
    if c.out ≠ 0 then { s with kv := { s.kv with cmd := some c } } else kvWrote s c

/-! ## The commands -/

/-- KV_PEEK registers from a slot. -/
def kvPeek (s : State) (i : Nat) : State :=
  let x := getSlot s i
  { s with kv := { s.kv with
    peekSlot := word (x.gen + 2 ^ 16 * x.own + 2 ^ 30 * x.kind), peekAttr := x.attr,
    peekKlen := word (x.klen + 2 ^ 16 * (if x.kind = 2 then x.ref else 0)), peekKcv := word (leNat x.kcv),
    peekInv := word x.invcnt } }

/-- Odd parity in bit 0 of a DES key byte. -/
def oddParity (b : Byte) : Byte :=
  let ones := ((List.range 7).filter (fun i => b.getLsbD (i + 1))).length
  (b &&& 0xFE) ||| (if ones % 2 = 0 then 1 else 0)

/-- Neighbouring 8-byte parts differ. -/
def partsDiffer (k : Bytes) : Bool :=
  let p := chunks 8 k
  (p.zip (p.drop 1)).all (fun e => e.1 != e.2)

/-- Draws the key of a GENERATE and writes it. A TDES key with equal neighbouring parts is not written: the command goes on and
draws again in the next control cycle (R199). -/
def kvDraw (s : State) (c : KvCmd) (attr : Word) : State :=
  let x := drbgDraw s 0 c.klen
  let k := if c.ktype = 1 then x.2.map oddParity else x.2
  if c.ktype = 1 ∧ partsDiffer k = false then x.1 else kvResult (putSlot x.1 c.idx attr k []) 0

/-- GENERATE (R199). -/
def kvGenerate (s : State) (c : KvCmd) : State :=
  let attr := mkAttr (atEngine c.attr) (atUsage c.attr) c.ktype false (atExport c.attr)
  match kvWritable s c.idx with
  | some r => kvResult s r
  | none =>
    if 3 ≤ c.ktype || wfld c.attr 13 3 != 0 || wfld c.attr 22 10 != 0 || !attrOk attr c.klen then kvResult s 3
    else if !drbgUp s 0 then kvResult s 13
    else kvDraw s c attr

/-- A GENERATE that draws again. -/
def kvRedraw (s : State) : State :=
  match s.kv.cmd with
  | some c => if c.op = 3 ∧ c.held = false then kvGenerate s c else s
  | none => s

/-- UNWRAP from step 3 of R197 on. -/
def kvUnwrapped (s : State) (c : KvCmd) (b : Bytes) : State :=
  let h := slice b 0 16
  let w := leAt h 5 1
  let dom := leAt h 6 1
  let attr := wordAt h 2
  let klen := leAt h 0xC 2
  let priv := decide (3 ≤ atType attr)
  match kvHolder s c.idx with
  | none => kvResult s 1
  | some f =>
    if h.take 4 != ascii "KWB1" || leAt h 4 1 != 1 || decide (1 < w) || w != b2n c.wrapper || (w == 1 && dom != 0) ||
        leAt h 7 1 != 0 || leAt h 0xE 2 != 0 || c.len != blobLen (blobInner attr klen) then kvResult s 4
    else if !attrOk attr klen then kvResult s 3
    else if !c.wrapper && dom != f.domain then kvResult s 6
    else
    let s := kvFound s (wfld c.kek 0 16) (c.wrapper && c.kekBad)
    match kvWrapKey s c f 3 with
    | .inl r => kvResult s r
    | .inr (k, _) =>
      let cells := (List.range (if priv then extOf klen + 1 else 1)).map (· + c.idx)
      if priv && !cells.all (fun i => ((slotOwner s i).map (·.func)) == some f.func && (getSlot s i).kind == 0) then
        kvResult s 14
      else match kwpDec (Config.aesDec k) (b.drop 16) with
      | .ok p =>
        if p.length ≠ blobInner attr klen ∨ p.take 16 ≠ h then kvResult s 5
        else if (kvWritable s c.idx).isSome then kvResult s ((kvWritable s c.idx).getD 0)
        else if cells.any (slotFenced s) then kvResult s 1
        else
          let a := mkAttr (atEngine attr) (atUsage attr) (atType attr) (c.wrapper || atOrigin attr) (atExport attr)
          kvResult (putSlot s c.idx a (p.drop (if priv then 64 else 16)) (if priv then slice p 16 48 else [])) 0
      | _ => kvResult s 5

/-- The 128 signed bytes of a statement (R202). -/
def statement (s : State) (i : Nat) (x : Slot) (f : FuncRec) (challenge : Bytes) : Bytes :=
  ascii "KWA1" ++ [1] ++ toLE 1 s.lc.state ++ zeros 2 ++ deviceId s ++ toLE 8 s.clk.meridian ++ toLE 4 x.attr.toNat ++
    toLE 2 x.gen ++ toLE 2 x.klen ++ toLE 2 x.own ++ toLE 2 (i - f.vltBase) ++ zeros 4 ++
    padTo 48 (if x.kind = 2 then x.pubh else x.kcv) ++ padTo 32 challenge ++ zeros 8

/-- Why a slot is not attested (R202). -/
def attestBad (s : State) (c : KvCmd) : Option Nat :=
  let x := getSlot s c.idx
  if (kvHolder s c.idx).isNone then some 1
  else if (x.kind != 1 && x.kind != 2) || atOrigin x.attr || atExport x.attr then some 9
  else if !s.kv.attValid then some 10
  else none

/-- ATTEST once the challenge is there: the slot is judged again, the statement signed with d_ATT under a drawn nonce, then
written. -/
def kvAttested (s : State) (c : KvCmd) (challenge : Bytes) : State :=
  match attestBad s c, kvHolder s c.idx, s.kv.dAtt with
  | none, some f, some d =>
    if !drbgUp s 0 then kvResult s 13
    else
      let b := statement s c.idx (getSlot s c.idx) f challenge
      let x := drbgDraw s 0 56
      let g := ecdsaSign 1 d (sha384 b) x.2 [] 0 1
      kvStore x.1 c (b ++ toBE 48 g.1 ++ toBE 48 g.2)
  | r, _, _ => kvResult s (r.getD 10)

/-- The command's input is there, or a piece of it failed. -/
def kvRead (s : State) : State :=
  match s.kv.cmd with
  | none => s
  | some c =>
    if c.gather.need ≠ 0 then s
    else if c.gather.err.isSome then kvResult s 11
    else if c.op = 4 then kvUnwrapped s c c.gather.bytes
    else if c.op = 6 then kvAttested s c c.gather.bytes
    else s

/-- Starts the read of a command's input. -/
def kvFetch (s : State) (c : KvCmd) (len : Nat) : State :=
  let x := startRead s 0 0 c.src len .kvRead []
  kvRead { x.1 with kv := { x.1.kv with cmd := some { c with gather := x.2 } } }

/-- WRAP (R201). Of several refusals the first in this order stands, and a parity error of the slot itself refuses nothing (DESIGN
CHOICE, log 55). -/
def kvWrap (s : State) (c : KvCmd) : State :=
  let s := kvFound s c.idx (c.bad && (kvHolder s c.idx).isSome)
  let x := getSlot s c.idx
  match kvHolder s c.idx with
  | none => kvResult s 1
  | some f =>
    if x.kind = 0 ∨ x.kind = 3 then kvResult s 2
    else if c.wrapper && !atExport x.attr then kvResult s 8
    else
    let s := kvFound s (wfld c.kek 0 16) (c.wrapper && c.kekBad)
    match kvWrapKey s c f 2 with
    | .inl r => kvResult s r
    | .inr (k, dom) =>
      let h := blobHeader c.wrapper dom x.attr x.klen
      let p := h ++ x.pubh ++ slotKey s c.idx
      if c.dlen < blobLen p.length then kvResult s 12 else kvStore s c (h ++ kwpEnc (Config.aesEnc k) p)

/-- ATTEST (R202). -/
def kvAttest (s : State) (c : KvCmd) : State :=
  let s := kvFound s c.idx (c.bad && (kvHolder s c.idx).isSome)
  match attestBad s c with
  | some r => kvResult s r
  | none => if c.dlen < 224 then kvResult s 12 else kvFetch s c 32

/-- A command starts (R206). -/
def kvStart (s : State) (c : KvCmd) : State :=
  let s := { s with kv := { s.kv with
    busy := true, cmd := some c, outLen := if c.op = 5 ∨ c.op = 6 then 0 else s.kv.outLen } }
  match c.op with
  | 1 => if (kvHolder s c.idx).isNone then kvResult s 1 else kvResult (kvPeek (kvFound s c.idx c.bad) c.idx) 0
  | 2 =>
    if (kvHolder s c.idx).isNone then kvResult s 1
    else if (getSlot s c.idx).kind = 3 then kvResult s 2
    else kvResult (eraseSlots s (eraseSet s c.idx)) 0
  | 3 => kvGenerate s c
  | 4 => match kvWritable s c.idx with
    | some r => kvResult s r
    | none => kvFetch s c c.len
  | 5 => kvWrap s c
  | 6 => kvAttest s c
  | 7 => kvResult (eraseFn s c.func) 0
  | _ => eraseVault s

/-- KV_CMD write (R206): ignored while BUSY, in FAILED (R380), LOADING (R267), a transition (R328) and an erase; a
no-start hold delays the start (R341). The flags say which slots it will find with a parity error: its own, and its KEK's. -/
def kvCmdW (s : State) (v : Word) (bad kekBad : Bool) : State :=
  let op := wfld v 0 4
  if failedStart s || quietWrites s || s.kv.busy || struck s || op == 0 || decide (8 < op) then s
  else
    let k := s.kv
    let c : KvCmd := ⟨op, wbit v 4, wfld v 8 4, wfld v 16 7, k.idx.toNat, k.fnSel.toNat, k.attr, k.kek, k.src, k.dst,
      k.len.toNat, k.dlen.toNat, .none, 0, false, 0, nostart s,
      bad, kekBad⟩
    if nostart s then { s with kv := { k with busy := true, cmd := some c } } else kvStart s c

/-- A command held through a no-start hold starts. -/
def kvRelease (s : State) : State :=
  match s.kv.cmd with
  | some c => if c.held then kvStart s { c with held := false } else s
  | none => s

/-- The offset of KV_CMD. -/
def kvCmdAt (a : Access) : Option Nat := mgmtAt a 0x50004

def execKvPeek (a : KvAccess) (s : State) : Host.Outcome State Fault Refusal :=
  .next (hostWrite s a.acc (kvCmdAt a.acc) (fun s => kvCmdW s 1 a.bad false))

def execKvErase (a : Access) (s : State) : Host.Outcome State Fault Refusal :=
  .next (hostWrite s a (kvCmdAt a) (fun s => kvCmdW s 2 false false))

def execKvGenerate (a : Access) (ktype : BitVec 4) (klen : BitVec 7) (s : State) : Host.Outcome State Fault Refusal :=
  .next (hostWrite s a (kvCmdAt a) (fun s => kvCmdW s (word (3 + 2 ^ 8 * ktype.toNat + 2 ^ 16 * klen.toNat)) false false))

def execKvUnwrap (a : KvAccess) (kek : Bool) (s : State) : Host.Outcome State Fault Refusal :=
  .next (hostWrite s a.acc (kvCmdAt a.acc) (fun s => kvCmdW s (word (4 + 16 * b2n kek)) false a.kekBad))

def execKvWrap (a : KvAccess) (kek : Bool) (s : State) : Host.Outcome State Fault Refusal :=
  .next (hostWrite s a.acc (kvCmdAt a.acc) (fun s => kvCmdW s (word (5 + 16 * b2n kek)) a.bad a.kekBad))

def execKvAttest (a : KvAccess) (s : State) : Host.Outcome State Fault Refusal :=
  .next (hostWrite s a.acc (kvCmdAt a.acc) (fun s => kvCmdW s 6 a.bad false))

def execKvEraseFn (a : Access) (s : State) : Host.Outcome State Fault Refusal :=
  .next (hostWrite s a (kvCmdAt a) (fun s => kvCmdW s 7 false false))

def execKvEraseAll (a : Access) (s : State) : Host.Outcome State Fault Refusal :=
  .next (hostWrite s a (kvCmdAt a) (fun s => kvCmdW s 8 false false))

/-! ## The scrub (R208) -/

/-- An ERASE_ALL that has started ends with its scrub. -/
def eraseAllEnds (s : State) (n : Nat) : State := if s.kv.cmd.any (fun c => c.op == 8 && !c.held) then kvResult s n else s

/-- The scrub has ended: a new K_VLT is formed from 32 drawn bytes and READY rises. -/
def vaultScrubbed (s : State) : State :=
  let x := drbgDraw s 0 32
  let s := { x.1 with kv := { x.1.kv with
    kvlt := some (newKvlt x.1 x.2), ready := true, erasing := false, scrubAt := none } }
  eraseAllEnds s 0

/-- The scrub has ended and K_VLT waits for DRBG output: an ERASE_ALL ends with NO_ENTROPY (R204). -/
def vaultStarved (s : State) : State := eraseAllEnds s 13

/-- VAULT_SCRUB_DONE (R205, R208): 16,384 tile cycles after its start; K_VLT needs DRBG output. -/
def execVaultScrubDone (s : State) : Host.Outcome State Fault Refusal :=
  .next (match s.kv.scrubAt with
    | some t =>
      if engineUp s && maskable s && decide (t + 32768 ≤ s.clk.meridian) then
        (if drbgUp s 0 then vaultScrubbed s else vaultStarved s)
      else s
    | none => s)

end Sys2Proof.Machine
end

