-- ==== Sys2Proof/Machine/Chart.lean ====
section
/-!
DEFINITION. The Chart: its layout (R255 to R259), CH_CMD (R267, R272), the end of a load with its checks and the install
(R268 to R271).
-/

namespace Sys2Proof.Machine

/-! ## The byte string -/

/-- Field f of directory entry i: TYPE, COUNT, OFFSET, LENGTH (R257). -/
def dirType (b : Bytes) (i : Nat) : Nat := leAt b (0x40 + 64 * i) 2
def dirCount (b : Bytes) (i : Nat) : Nat := leAt b (0x44 + 64 * i) 4
def dirOff (b : Bytes) (i : Nat) : Nat := leAt b (0x48 + 64 * i) 4
def dirLen (b : Bytes) (i : Nat) : Nat := leAt b (0x4C + 64 * i) 4
def dirHash (b : Bytes) (i : Nat) : Bytes := slice b (0x50 + 64 * i) 48

/-- The bytes of section i + 1. -/
def section_ (b : Bytes) (i : Nat) : Bytes := slice b (dirOff b i) (dirLen b i)

def totalLen (b : Bytes) : Nat := leAt b 8 4
def trailer (b : Bytes) : Bytes := slice b (totalLen b - 256) 256

/-- The Chart digest (R258). -/
def chartDigest (b : Bytes) : Bytes := sha384 (slice b 0 0x240 ++ (trailer b).take 0x80)

/-- The records of a section. -/
def records (b : Bytes) (type : Nat) : List Bytes :=
  let x := section_ b (type - 1)
  (List.range (dirCount b (type - 1))).map (fun i => slice x (i * recSize type) (recSize type))

/-- COST_FIRST and COST_COUNT of a POOLS record. -/
def costFirst (r : Bytes) : Nat := leAt r 8 2
def costCount (r : Bytes) : Nat := leAt r 0xA 2

/-- The pool that COST record i falls in by the ranges. -/
def costPool (pools : List Bytes) (i : Nat) : Nat :=
  match pools.find? (fun r => decide (costFirst r ≤ i ∧ i < costFirst r + costCount r)) with
  | some r => leAt r 0 1
  | none => 256

/-- The configuration that a Chart holds. -/
def parseChart (b : Bytes) : Chart :=
  let g := (records b 1).headD []
  let pools := records b 3
  let ksu := leAt g 4 2
  { budget := leAt g 0 2, stdMib := leAt g 2 1, policy := leAt g 3 1,
    ksu := if ksu.testBit 15 then some (fld ksu 0 12) else none,
    units := (records b 2).map parseUnit, pools := pools.map parsePool,
    costs := (records b 4).mapIdx (fun i r => parseCost (costPool pools i) r),
    classes := (records b 5).map parseClass, funcs := (records b 6).map parseFunc, rings := (records b 7).map parseRing,
    certified := (leAt b 0xC 4).testBit 0 }

/-! ## READ: header, lengths, directory (0x02 to 0x04) -/

/-- R256, by byte offset. -/
def headerOff (b : Bytes) : Option Nat :=
  firstOff [(0, b.take 4 == ascii "KW7C"), (4, leAt b 4 2 == 1), (6, leAt b 6 2 == 8), (0xC, decide (leAt b 0xC 4 < 2)),
    (0x10, decide (leAt b 0x10 2 ≤ 64)), (0x12, zeroAt b 0x12 2), (0x20, zeroAt b 0x20 32)]

/-- R255. -/
def lengthBad (b : Bytes) (len : Nat) : Bool :=
  len != totalLen b || decide (2228480 < totalLen b ∨ 655360 < totalLen b - dirLen b 7 ∨ 1573120 < dirLen b 7)

/-- Limits of COUNT. -/
def countOk (type n : Nat) : Bool :=
  let r := [(0, 0), (1, 1), (192, 383), (3, 64), (1, 2048), (1, 256), (1, 8193), (0, 65536), (1, 1)].getD type (0, 0)
  decide (r.1 ≤ n ∧ n ≤ r.2)

def up16 (n : Nat) : Nat := cdiv n 16 * 16

/-- Directory entry i meets R257, with the padding behind its section. -/
def dirOk (b : Bytes) (i : Nat) : Bool :=
  let start := if i = 0 then 0x240 else up16 (dirOff b (i - 1) + dirLen b (i - 1))
  let stop := dirOff b i + dirLen b i
  let code := leAt (section_ b 7) 8 4
  dirType b i == i + 1 && zeroAt b (0x42 + 64 * i) 2 && countOk (i + 1) (dirCount b i) &&
    dirLen b i == (if i = 7 then 256 + code else dirCount b i * recSize (i + 1)) && dirOff b i == start &&
    zeroAt b stop (up16 stop - stop) && (i != 7 || up16 stop + 256 == totalLen b)

/-! ## SIG and HELM (0x05 to 0x0B) -/

/-- The Chart key as X ‖ Y, accepted in the life-cycle state (R258). -/
def keyOk (s : State) (t : Bytes) : Bool :=
  let pub := slice t 0x10 97
  let point := pub.headD 0 == 4 && onCurve 1 (beNat (slice pub 1 48)) (beNat (slice pub 49 48))
  t.take 4 == ascii "KW7S" && zeroAt t 4 12 && zeroAt t 0x71 15 && zeroAt t 0xE0 32 &&
    (if s.lc.state = 3 ∨ s.lc.state = 4 then pub.headD 0 == 4 && sha384 pub == chartKeyHash s
     else (s.lc.state == 1 || s.lc.state == 2 || s.lc.state == 5) && point)

/-- R259, by byte offset in the section. -/
def helmOff (h : Bytes) : Option Nat :=
  let n := leAt h 8 4
  firstOff [(0, h.take 4 == ascii "KW7H"), (4, decide (leAt h 4 2 ≤ 64)), (8, n % 64 == 0 && decide (64 ≤ n ∧ n ≤ 1572864)),
    (0xC, zeroAt h 0xC 116), (0xE0, zeroAt h 0xE0 32)]

/-- The Helm code. -/
def helmCodeOf (b : Bytes) : Bytes := (section_ b 7).drop 0x100

/-- Darvavel's signature verifies. -/
def helmSigOk (h : Bytes) : Bool :=
  let k := point384 Config.fwKey
  verify384 k (sha384 (slice h 0 0x80 ++ h.drop 0x100)) (slice h 0x80 96)

/-! ## CHECK (0x10 to 0x28) -/

/-- 0x10: sections in order, records in order. -/
def checkReserved (b : Bytes) : Option CheckFail :=
  let f := fun (type : Nat) (bad : Bytes → Option Nat) => firstBad 0x10 type (records b type) (fun _ r => bad r)
  f 1 globalBad <|> f 2 unitBad <|> f 3 (fun r => poolBad (costCount r) r) <|> f 4 costBad <|> f 5 classBad <|>
    f 6 funcBad

/-- The cost range of pool record i begins where the one before ends; the last ends with the section (R262). -/
def costCovers (b : Bytes) (i : Nat) : Bool :=
  let l := records b 3
  let before := ((l.take i).map costCount).sum
  let r := l.getD i []
  costFirst r == before && (i + 1 != l.length || before + costCount r == dirCount b 3)

/-- A slot that is not EMPTY lies outside its OWNER's range in a configuration. -/
def orphaned (c : Chart) (i : Nat) (x : Slot) : Bool :=
  x.kind != 0 && !c.funcs.any (fun f => f.func == x.own && decide (f.vltBase ≤ i ∧ i < f.vltBase + f.vltCount))

/-- Orphans in ascending global index (R270). -/
def orphans (s : State) (c : Chart) : List (Nat × Slot) := s.kv.slots.filter (fun e => orphaned c e.1 e.2)

/-- 0x28, under KEEP_VAULT. -/
def checkOrphans (s : State) (c : Chart) : Option CheckFail :=
  if !s.ch.keep then none
  else match orphans s c with
  | [] => none
  | (i, x) :: _ => some ⟨0x28, 6, (c.funcs.findIdx? (·.func == x.own)).getD missing, i⟩

/-- The first failed check of a load with the phase it belongs to (R268, R271). -/
def loadFailure (s : State) (b : Bytes) : Option (Nat × CheckFail) :=
  let at0 := fun (phase code info : Nat) => some (phase, (⟨code, 0, 0, info⟩ : CheckFail))
  let helm := section_ b 7
  let t := trailer b
  match headerOff b with
  | some o => at0 1 0x02 o
  | none =>
    if lengthBad b s.ch.loadLen then at0 1 0x03 (totalLen b)
    else match (List.range 8).find? (fun i => !dirOk b i) with
    | some i => at0 1 0x04 i
    | none =>
      if !keyOk s t then at0 2 0x05 0
      else if !verify384 (slice t 0x11 96) (chartDigest b) (slice t 0x80 96) then at0 2 0x06 0
      else match (List.range 8).find? (fun i => sha384 (section_ b i) != dirHash b i) with
      | some i => at0 2 0x07 (i + 1)
      | none =>
        if leAt b 0x10 2 < chartMinSvn s then at0 2 0x08 (chartMinSvn s)
        else match helmOff helm with
        | some o => some (3, ⟨0x09, 8, 0, o⟩)
        | none =>
          if !helmSigOk helm then some (3, ⟨0x0A, 8, 0, 0⟩)
          else if leAt helm 4 2 < fwMinSvn s then some (3, ⟨0x0B, 8, 0, fwMinSvn s⟩)
          else ((checkReserved b <|> checkChart (parseChart b) (costCovers b)) <|> checkOrphans s (parseChart b)).map
            (fun f => (4, f))

/-! ## The end of a load (R269, R270) -/

/-- The CHART record (R362). -/
def chartLog (s : State) (result svn fw : Nat) : State :=
  let c := s.ch
  logReq s 9 false true (toLE 1 result ++ toLE 1 c.reason ++ toLE 4 c.failLoc.toNat ++ toLE 4 c.failInfo.toNat ++
    toLE 4 c.id.toNat ++ c.digest.take 8 ++ toLE 1 svn ++ toLE 1 fw)

/-- A rejected load: the Chart store and the Helm code memory are zero-filled. The record shows the CHART_ID, digest and
versions of the Chart that was read. -/
def chartReject (s : State) (b : Bytes) (phase : Nat) (f : CheckFail) : State :=
  let c := s.ch
  let c := { c with
    state := 0, phase := phase, reason := f.code, busy := false, result := 5, rejects := sat32 c.rejects, gather := .none,
    failLoc := word (f.type + 256 * f.idx), failInfo := word f.info, image := [], helmCode := [], helmZero := true,
    id := word (leAt b 0x14 4), digest := chartDigest b }
  let s := chartLog { s with ch := c, chart := .empty, tx := { s.tx with high := 0 } } 5 (leAt b 0x10 2) (leAt (section_ b 7) 4 2)
  { s with ch := { s.ch with
    id := 0, digest := zeros 48, svn := 0, flags := 0, fwValid := false, fwSvn := 0, fwBuild := 0, fwHash := zeros 48 } }

/-- A unit under a new Chart: its counters stay (R270). -/
def freshUnit (u : Uni) : Uni :=
  { u with
    st := 0, sched := false, hostHeld := false, vault := false, lockPool := 0, lockFunc := 0, until_ := 0, key := none, tile := .zero, job := none,
    active := false, relScrub := false,
    ar := { u.ar with valid := [], loaded := [], carry := false, busy := false, cmd := none } }

/-- A pool under a new Chart: its counters and latches stay; SHARE 0 starts in NO_SHARE, any other in the return
procedure under CAUSE CHART. -/
def freshPool (now : Nat) (x : Pool) (share : Nat) : Pool :=
  { x with
    queue := [], level := 0, excess := [], offers := [], share := share, reshare := false, fallback := true,
    cause := if share = 0 then 1 else 4, scrub := share != 0 && !x.hold, scrubAt := now, fillBank := false,
    mid := [], zeroed := 0 }

/-- The middle store and the pools of a new configuration. -/
def layPools (s : State) (c : Chart) : State :=
  let s := { s with pools := s.pools.mapVal (fun _ x => { freshPool 0 x 0 with fallback := false, cause := 0 }) }
  c.pools.foldl (fun s p => setPool s p.pool (freshPool s.clk.meridian (getPool s p.pool) p.share)) s

/-- INSTALL (R270). -/
def chartInstall (s : State) (b : Bytes) : State :=
  let c := parseChart b
  let h := section_ b 7
  let lost := ((orphans s c).flatMap (fun e => eraseSet s e.1)).eraseDups
  let s := eraseSlots s lost
  let s := layPools { s with
    chart := c
    units := s.units.mapVal (fun _ u => freshUnit u)
    opmem := []
    helms := s.helms.mapVal (fun _ x => if x.st = 3 then { x with st := 0, trap := 0 } else x)
    sc := { s.sc with std := [], cmp := [] }
    tx := { s.tx with epoch := s.tx.epoch + 1 } } c
  let s := { s with ch := { s.ch with
    state := 2, phase := 0, reason := 0, busy := false, result := 0, loads := sat32 s.ch.loads, orphans := lost.length,
    gather := .none, image := patchBytes s.ch.image 0 (b.take (dirOff b 7) ++ trailer b),
    helmCode := patchBytes s.ch.helmCode 0 (helmCodeOf b), digest := chartDigest b,
    id := word (leAt b 0x14 4), svn := leAt b 0x10 2, flags := word (leAt b 0xC 4), fwSvn := leAt h 4 2,
    fwBuild := leAt h 6 2, fwValid := true, fwHash := sha384 (helmCodeOf b) } }
  chartLog { s with pw := { s.pw with step := 6 } } 0 s.ch.svn s.ch.fwSvn

/-- The checks of a load on the bytes read. -/
def chartEnd (s : State) : State :=
  match s.ch.gather.err with
  | some o => chartReject s (padTo 0x240 []) 1 ⟨0x01, 0, 0, o⟩
  | none =>
    let b := s.ch.gather.bytes
    match loadFailure s b with
    | some (phase, f) => chartReject s b phase f
    | none => chartInstall s b

/-- CHART_LOAD_END (R269): every read has its response. -/
def execChartLoadEnd (s : State) : Host.Outcome State Fault Refusal :=
  .next (if engineUp s && s.ch.state == 1 && s.ch.gather.need == 0 then chartEnd s else s)

/-! ## CH_CMD (R267, R272) -/

def chResult (s : State) (n : Nat) : State := { s with ch := { s.ch with result := n } }

/-- The bytes that stand in order from the first one on. -/
def gotPrefix (g : Gather) : Bytes := (sortOn (·.1) g.got).foldl (fun b e => if e.1 = b.length then b ++ e.2 else b) []

/-- READ places what has arrived: the configuration image (the Chart without its HELM section, so the trailer behind the RINGS
section) in the Chart store, the Helm code in Helm memory, over what stood there (R255, R268, R269); nothing is placed before the
directory is there, which says where each byte belongs (log 47). -/
def chartPlace (s : State) : State :=
  let b := gotPrefix s.ch.gather
  let rest := if b.length ≤ totalLen b - 256 then b.take (dirOff b 7)
    else padTo (dirOff b 7) (b.take (dirOff b 7)) ++ (b.drop (totalLen b - 256)).take 256
  if b.length < 0x240 then s
  else { s with ch := { s.ch with
    image := patchBytes s.ch.image 0 (rest.take 655360)
    helmCode := patchBytes s.ch.helmCode 0 (((b.drop (dirOff b 7 + 0x100)).take (dirLen b 7 - 0x100)).take 1572864) } }

/-- A phase whose checks pass may end: when, the spec bounds only; a free value decides (log 47). -/
def chartPhase (s : State) : State :=
  if s.ch.state ≠ 1 ∨ s.ch.gather.need ≠ 0 ∨ s.ch.gather.err.isSome = true ∨ 5 ≤ s.ch.phase then s
  else
    let ends := (Config.freeByte s.free).getLsbD 0
    let s := tickFree s 1
    if ends && (loadFailure s s.ch.gather.bytes).all (fun f => decide (s.ch.phase < f.1)) then
      { s with ch := { s.ch with phase := s.ch.phase + 1 } }
    else s

/-- LOAD is accepted: READ begins, ATT_VALID falls, pools of the old Chart enter fallback with CAUSE CHART, those already in
fallback too (R269, R270, R379; log 50); a share of the old Chart that still waits to be laid out is dropped. -/
def chartBegin (s : State) (keep : Bool) : State :=
  let s := (s.chart.pools.map (·.pool)).foldl (fun s p => enterFallback s p 4) s
  let s := { s with
    ch := { s.ch with state := 1, phase := 1, busy := true, keep := keep, loadLen := s.ch.len }
    kv := { s.kv with attValid := false, dAtt := none }
    units := s.units.mapVal (fun _ u => { u with vault := false })
    pools := s.pools.mapVal (fun _ x => { x with reshare := false })
    pw := { s.pw with step := 5, ready := false } }
  let x := startRead s 0 0 s.ch.src s.ch.len .chart []
  { x.1 with ch := { x.1.ch with gather := x.2 } }

/-- LOAD: in a transition NOT_QUIESCED (R328), else the first condition of R267 that applies. INVALID answers as SCRAPPED
(R379). -/
def chLoad (s : State) (keep : Bool) : State :=
  if s.lc.busy then chResult s 4
  else if s.ch.state = 1 then chResult s 1
  else if s.lc.state = 6 ∨ s.lc.state = 0x0F then chResult s 2
  else if s.ch.src % 64 ≠ 0 ∨ s.ch.len = 0 then chResult s 3
  else if s.ch.state == 2 && (busyDevice s || anyCtx s) then chResult s 4
  else chartBegin s keep

/-- The lowest zero bits of a thermometer field at word w that bring its count from old to new. -/
def thermoBits (s : State) (w old new : Nat) : List Nat :=
  (((List.range 64).map (· + 32 * w)).filter (fun b => !fuseBit s b)).take (new - old)

/-- ADVANCE (R272); in a transition LIFE_CYCLE (R328). -/
def chAdvance (s : State) : State :=
  let oldC := chartMinSvn s
  let oldF := fwMinSvn s
  let newC := max oldC s.ch.svn
  let newF := max oldF s.ch.fwSvn
  if s.lc.busy then chResult s 2
  else if s.ch.state ≠ 2 then chResult s 6
  else if s.lc.state ≠ 3 ∧ s.lc.state ≠ 4 then chResult s 2
  else fuseStart { s with ch := { s.ch with busy := true } } (.advance oldC newC oldF newF)
    [.bits 1 (thermoBits s 66 oldC newC ++ thermoBits s 64 oldF newF)]

/-- The command is judged. -/
def chJudge (s : State) (v : Word) : State :=
  if wfld v 0 4 = 1 then chLoad s (wbit v 4) else if wfld v 0 4 = 2 then chAdvance s else s

/-- CH_CMD write: ignored in FAILED (R380) and in an erase; held before step 5 (R267) and in a no-start hold (R341). A write
while ADVANCE runs starts nothing (log 21), but for a life-cycle transition, which answers it (R328). -/
def chCmdW (s : State) (v : Word) : State :=
  let op := wfld v 0 4
  if failedStart s || struck s || s.ch.held.isSome || (op != 1 && op != 2) then s
  else if s.pw.step < 5 || nostart s then { s with ch := { s.ch with held := some v, busy := true } }
  else if s.ch.busy = true ∧ s.ch.state ≠ 1 ∧ s.lc.busy = false then s
  else chJudge s v

/-- A held command is judged once step 5 runs and no hold does. -/
def chRelease (s : State) : State :=
  match s.ch.held with
  | some v =>
    if s.pw.step < 5 || nostart s then s else chJudge { s with ch := { s.ch with held := none, busy := s.ch.state == 1 } } v
  | none => s

/-- CH_LOAD (R267). -/
def execChLoad (a : Access) (keep : Bool) (s : State) : Host.Outcome State Fault Refusal :=
  .next (hostWrite s a (mgmtAt a 0x10004) (fun s => chCmdW s (word (1 + 16 * b2n keep))))

/-- CH_ADVANCE (R272). -/
def execChAdvance (a : Access) (s : State) : Host.Outcome State Fault Refusal :=
  .next (hostWrite s a (mgmtAt a 0x10004) (fun s => chCmdW s 2))

end Sys2Proof.Machine
end

