-- ==== Sys2Proof/Machine/Tx.lean ====
section
/-!
DEFINITION. Transactions (R274 to R285, R294, R314, R315): opening, patches, transactional register writes, validation,
the commit point.
-/

namespace Sys2Proof.Machine

/-! ## Commands (R280) -/

def txResult (s : State) (n : Nat) : State := { s with tx := { s.tx with result := n } }

/-- Any TX_ write while the state is COMMITTING is ignored with RESULT BUSY. -/
def txGate (s : State) (f : State → State) : State := if s.tx.state = 2 then txResult s 4 else f s

/-- TX_BEGIN write; ignored in FAILED (R380), LOADING (R267) and a transition (R328). -/
def txBeginW (s : State) (v : Word) : State :=
  if !wbit v 0 || failedStart s || quietWrites s then s
  else txGate s (fun s =>
    if s.tx.state = 1 then txResult s 3
    else if s.ch.state ≠ 2 then txResult s 5
    else { s with tx := { s.tx with state := 1, result := 0, reason := 0, shadow := [], spoiled := false } })

/-- TX_COMMIT write. -/
def txCommitW (s : State) (v : Word) : State :=
  if !wbit v 0 then s
  else txGate s (fun s => if s.tx.state = 0 then txResult s 2 else { s with tx := { s.tx with state := 2 } })

/-- TX_ROLLBACK write. -/
def txRollbackW (s : State) (v : Word) : State :=
  if !wbit v 0 then s
  else txGate s (fun s =>
    if s.tx.state = 0 then txResult s 2
    else { s with tx := { s.tx with state := 0, result := 0, reason := 0, shadow := [], spoiled := false } })

def execTxBegin (a : Access) (v : Word) (s : State) : Host.Outcome State Fault Refusal :=
  .next (hostWrite s a (mgmtAt a 0x100) (fun s => txBeginW s v))

def execTxCommit (a : Access) (v : Word) (s : State) : Host.Outcome State Fault Refusal :=
  .next (hostWrite s a (mgmtAt a 0x104) (fun s => txCommitW s v))

def execTxRollback (a : Access) (v : Word) (s : State) : Host.Outcome State Fault Refusal :=
  .next (hostWrite s a (mgmtAt a 0x108) (fun s => txRollbackW s v))

/-! ## Patch lists (R277, R279) -/

/-- The entries of a list; none where a header breaks R277 or a record is cut. -/
def parsePatches : Nat → Bytes → Option (List Patch)
  | 0, _ => some []
  | n + 1, b =>
    if b.isEmpty then some []
    else
      let p : Patch := ⟨leAt b 0 1, leAt b 1 1, leAt b 4 4, slice b 8 (recSize (leAt b 0 1))⟩
      let ok := decide (8 ≤ b.length ∧ 1 ≤ p.type ∧ p.type ≤ 7 ∧ 1 ≤ p.op ∧ p.op ≤ 3) && leAt b 2 2 == 0 &&
        (decide (3 ≤ p.type) || p.op == 1) && decide (patchSize p ≤ b.length)
      if ok then (parsePatches n (b.drop (patchSize p))).map (fun l => (if p.op = 3 then { p with body := [] } else p) :: l)
      else none

def patchResult (s : State) (n : Nat) : State :=
  { s with tx := { s.tx with pbusy := false, presult := n, gather := .none } }

/-- TX_PATCH write: the list is read; a length that R279 does not allow is FORMAT at once. In COMMITTING any write is answered
BUSY (R280); one that asks for a read then reports NOT_OPEN too (R279). -/
def txPatchW (s : State) (v : Word) : State :=
  let asks := wbit v 0 && !s.tx.pbusy
  if s.tx.state = 2 then txResult (if asks then patchResult s 1 else s) 4
  else if !asks then s
  else if s.tx.state = 0 then patchResult s 1
  else if s.tx.plen % 8 ≠ 0 ∨ s.tx.plen = 0 ∨ 131072 < s.tx.plen then patchResult s 3
  else
    let x := startRead s 0 0 s.tx.psrc s.tx.plen .patch []
    { x.1 with tx := { x.1.tx with pbusy := true, gather := x.2 } }

/-- TX_PATCH (R279). -/
def execTxPatch (a : Access) (v : Word) (s : State) : Host.Outcome State Fault Refusal :=
  .next (hostWrite s a (mgmtAt a 0x130) (fun s => txPatchW s v))

/-- New content of the shadow, with the mark of how far it has ever reached (R255, R269). -/
def setShadow (s : State) (l : List Patch) : State :=
  { s with tx := { s.tx with shadow := l, high := max s.tx.high (l.map patchSize).sum } }

/-- The list is there: whole or not at all. -/
def patchEnd (s : State) : State :=
  let b := s.tx.gather.bytes
  if s.tx.state ≠ 1 then patchResult s 1
  else if s.tx.gather.err.isSome then patchResult s 2
  else match parsePatches (b.length / 8) b with
  | none => patchResult s 3
  | some l =>
    if 131072 < shadowUsed s + b.length then patchResult s 4
    else patchResult (setShadow s (s.tx.shadow ++ l)) 0

/-- TX_PATCH_READ_DONE: every read has its response. -/
def execTxPatchReadDone (s : State) : Host.Outcome State Fault Refusal :=
  .next (if engineUp s && s.tx.pbusy && s.tx.gather.need == 0 then patchEnd s else s)

/-! ## Transactional registers (R275, R279, R314) -/

/-- Writes an entry of the shadow: it updates the entry of its record, or is appended where there is room; else the
write is lost and spoils the transaction. -/
def shadowPut (s : State) (p : Patch) : State :=
  match (patchesOf s.tx.shadow p.type).find? (fun q => q.key == p.key && q.op != 3) with
  | some q => setShadow s (s.tx.shadow.map (fun x => if x == q then { x with body := p.body } else x))
  | none =>
    if 131072 < shadowUsed s + patchSize p then { s with tx := { s.tx with lost := true, spoiled := true } }
    else setShadow s (s.tx.shadow ++ [p])

/-- The body that a register write starts from: the entry's, else the record in force. -/
def shadowBody (s : State) (type key : Nat) (inForce : Bytes) : Bytes :=
  match (patchesOf s.tx.shadow type).find? (fun q => q.key == key && q.op != 3) with
  | some q => q.body
  | none => inForce

/-- A FUNCTIONS field of the selected function. -/
def funcWrite (s : State) (f o n v : Nat) : State :=
  let base := match funcRec s f with
    | some r => funcBytes r
    | none => toLE 2 f ++ zeros 38
  shadowPut s ⟨6, 1, f, patchBytes (shadowBody s 6 f base) o (toLE n v)⟩

def ruleBytes (r : List Word) : Bytes := (List.range 8).flatMap (fun i => toLE 4 (ruleW r i).toNat)

/-- Makes or updates the entry of a rule with bytes of its image replaced (R314). -/
def rulePut (s : State) (type i o : Nat) (x : Bytes) : State :=
  let t := if type = 0x10 then s.ac.inRules else s.ac.outRules
  shadowPut s ⟨type, 1, i, patchBytes (shadowBody s type i (ruleBytes (t.get [] i))) o x⟩

/-- A write of word k of a rule of a table makes or updates the entry (R314). The base and the limit of an outbound rule are pairs
(R6): their lower words go into the holding register, and the upper one applies all 64 bits to the entry (log 52). -/
def ruleWrite (s : State) (type i k : Nat) (v : Word) : State :=
  let key := 0x410000 + 0x20 * i + 4 * (k / 2 * 2)
  if type = 0x11 ∧ k < 4 then
    if k % 2 = 0 then rulePut (loWrite s key v) type i 0 []
    else hiWrite s key v (fun s n => rulePut s type i (4 * (k - 1)) (toLE 8 n))
  else rulePut s type i (4 * k) (toLE 4 v.toNat)

/-- The effect of a transactional register on the shadow, by window offset; none for every other offset. -/
def txTarget (s : State) (off : Nat) (v : Word) : Option (State → State) :=
  let n := v.toNat
  let sf := s.sc.fnSel.toNat
  let kf := s.kv.fnSel.toNat
  if off = 0x40024 then some (fun s => funcWrite s sf 0x04 4 (n % 2 ^ 21))
  else if off = 0x40028 then some (fun s => funcWrite s sf 0x08 4 (n % 2 ^ 21))
  else if off = 0x4002C then some (fun s => funcWrite s sf 0x0C 4 (n % 2 ^ 22))
  else if off = 0x40030 then some (fun s => funcWrite s sf 0x10 4 (n % 2 ^ 22))
  else if off = 0x50048 then some (fun s => funcWrite s kf 0x18 2 (n % 2 ^ 16))
  else if off = 0x5004C then some (fun s => funcWrite s kf 0x14 4 (n % 2 ^ 17))
  else if off = 0x50050 then some (fun s => funcWrite s kf 0x03 1 (n % 2 ^ 8))
  else if off = 0x400000 then some (fun s => shadowPut s ⟨0x13, 1, 0, toLE 8 n⟩)
  else if off = 0x400048 then some (fun s => shadowPut s ⟨0x12, 1, s.ac.fnSel.toNat, toLE 8 n⟩)
  else if 0x401000 ≤ off ∧ off < 0x403000 then
    some (fun s => ruleWrite s 0x10 ((off - 0x401000) / 0x20) (off % 0x20 / 4) v)
  else if 0x410000 ≤ off ∧ off < 0x490000 then
    some (fun s => ruleWrite s 0x11 ((off - 0x410000) / 0x20) (off % 0x20 / 4) v)
  else none

/-- A transactional write: STRAY unless a transaction is open (R275, R280). -/
def txWriteW (s : State) (off : Nat) (v : Word) : State :=
  match txTarget s off v with
  | none => s
  | some f => if s.tx.state = 1 then f s else { s with tx := { s.tx with stray := true } }

/-- TRANSACTIONAL_WRITE: an offset that carries no transactional register names no command. -/
def execTransactionalWrite (a : Access) (off : BitVec 26) (v : Word) (s : State) : Host.Outcome State Fault Refusal :=
  .next (if off.toNat % 4 = 0 ∧ (txTarget s off.toNat v).isSome = true then
    hostWrite s a (mgmtAt a off.toNat) (fun s => txWriteW s off.toNat v)
  else s)

/-! ## The active image (R254) -/

/-- The records of a section of the image with their keys (R277). -/
def imageRecords (b : Bytes) (type : Nat) : List (Nat × Bytes) :=
  (records b type).mapIdx (fun i r => (match type with
    | 1 => 0
    | 2 => fld (leAt r 0 2) 0 12
    | 4 => costPool (records b 3) i * 65536 + leAt r 0 2
    | 3 => leAt r 0 1
    | 5 => leAt r 0 1
    | _ => leAt r 0 2, r))

/-- A section after a commit: INSERTed records in the order of their keys, each pool's cost range recomputed (R277). -/
def imageSection (b : Bytes) (sh : List Patch) (type : Nat) : List (Nat × Bytes) :=
  let sec := fun t => applyPatches (·.1) (fun p => (p.key, padTo (recSize t) p.body)) (imageRecords b t) (patchesOf sh t)
  if type = 3 then
    (sec 3).map (fun e => (e.1, patchBytes e.2 8
      (toLE 2 ((sec 4).filter (fun k => k.1 / 65536 < e.1)).length ++
        toLE 2 ((sec 4).filter (fun k => k.1 / 65536 = e.1)).length)))
  else sec type

/-- The image that a commit leaves: sections 1 to 7 with the changes, the directory's COUNT, OFFSET and LENGTH following them;
header, section hashes and trailer stay as loaded (log 47). -/
def imageCommit (b : Bytes) (sh : List Patch) : Bytes :=
  let secs := (List.range 7).map (fun i => ((imageSection b sh (i + 1)).map (·.2)))
  let body := secs.map (fun l => padTo (up16 l.flatten.length) l.flatten)
  let off := fun i => 0x240 + ((body.take i).map List.length).sum
  let entry := fun i =>
    let n := (secs.getD i []).length
    slice b (0x40 + 64 * i) 4 ++ (if i < 7 then toLE 4 n else toLE 4 (dirCount b 7)) ++ toLE 4 (off i) ++
      (if i < 7 then toLE 4 (n * recSize (i + 1)) else toLE 4 (dirLen b 7)) ++ dirHash b i
  if sh.all (fun p => 8 ≤ p.type) then b
  else slice b 0 0x40 ++ (List.range 8).flatMap entry ++ body.flatten ++ slice b (dirOff b 7) 256

/-! ## Validation (R281) -/

/-- A refusal: REASON, TYPE, KEY, Info. -/
structure TxFail where
  reason : Nat
  type : Nat
  key : Nat
  info : Nat
  deriving DecidableEq, Repr

/-- KEY of a record of the proposed configuration. -/
def keyAt (c : Chart) (type idx : Nat) : Nat :=
  match type with
  | 2 => ((c.units[idx]?).map UnitRec.uid).getD missing
  | 3 => ((c.pools[idx]?).map PoolRec.pool).getD missing
  | 4 => ((c.costs[idx]?).map costKey).getD missing
  | 5 => ((c.classes[idx]?).map ClassRec.cls).getD missing
  | 6 => ((c.funcs[idx]?).map FuncRec.func).getD missing
  | 7 => ((c.rings[idx]?).map RingBind.ring).getD missing
  | _ => 0

/-- A failed record rule as a refusal. -/
def ruleFail (c : Chart) (f : CheckFail) : TxFail := ⟨f.code, f.type, keyAt c f.type f.idx, f.info⟩

/-- A key is in force. -/
def keyInForce (c : Chart) (type key : Nat) : Bool :=
  match type with
  | 1 => key == 0
  | 2 => c.units.any (·.uid == key)
  | 3 => c.pools.any (·.pool == key)
  | 4 => c.costs.any (fun k => costKey k == key)
  | 5 => c.classes.any (·.cls == key)
  | 6 => c.funcs.any (·.func == key)
  | _ => c.rings.any (·.ring == key)

/-- The entries of the Chart's types that are in force in the shadow. -/
def entries (s : State) : List Patch := (List.range 7).flatMap (fun i => patchesOf s.tx.shadow (i + 1))

/-- 0x32. -/
def entryUnknown (s : State) (p : Patch) : Bool := (p.op == 2) == keyInForce s.chart p.type p.key

/-- The key that a record carries itself; the pool of a COST record stands only in KEY. -/
def bodyKey (p : Patch) : Nat :=
  match p.type with
  | 2 => (parseUnit p.body).uid
  | 3 => leAt p.body 0 1
  | 4 => (fld p.key 16 8) * 65536 + leAt p.body 0 2
  | 5 => leAt p.body 0 1
  | 6 => leAt p.body 0 2
  | 7 => leAt p.body 0 2
  | _ => 0

/-- The fields of a GLOBAL record that no transaction changes (R278): BUDGET, STD_MIB, the KSU's UID and PRESENT. -/
def globalCore (b : Bytes) : List Nat := [leAt b 0 2, leAt b 2 1, fld (leAt b 4 2) 0 12, fld (leAt b 4 2) 15 1]

/-- The same of a UNITS record: UID, CLASS, GROUP, TILE, LEN, POLICY, the Helm number, HELM_VALID, PARENT. -/
def unitCore (b : Bytes) : List Nat :=
  [fld (leAt b 0 2) 0 12, leAt b 2 1, fld (leAt b 3 1) 0 1, leAt b 4 1, fld (leAt b 7 1) 0 3, fld (leAt b 7 1) 3 1,
    fld (leAt b 8 1) 0 4, fld (leAt b 8 1) 4 1, leAt b 0xA 2]

/-- A record of the active image. -/
def imageRecord (s : State) (type key : Nat) : Option Bytes :=
  ((imageRecords s.ch.image type).find? (·.1 == key)).map (·.2)

/-- A unit is a DUAL pair or a member of one. -/
def inDual (c : Chart) (r : UnitRec) : Bool :=
  r.check == 1 || (r.parent.bind (fun p => c.units.find? (·.uid == p))).any (fun p => p.check == 1)

/-- 0x31: a field outside R278 changes. -/
def entryImmutable (s : State) (p : Patch) : Bool :=
  let c := s.chart
  match p.type with
  | 1 => (imageRecord s 1 0).all (fun b => globalCore p.body != globalCore b)
  | 2 => match imageRecord s 2 p.key, c.units.find? (·.uid == p.key) with
    | some b, some old =>
      let new := parseUnit p.body
      unitCore p.body != unitCore b || (new.check != old.check && (inDual c old || (new.check != 0 && new.check != 2)))
    | _, _ => true
  | 3 => p.op != 3 && (bodyKey p != p.key || (p.op == 1 && c.pools.any (fun r => r.pool == p.key && r.cls != leAt p.body 1 1)))
  | _ => p.op != 3 && bodyKey p != p.key

/-- 0x10 over the entries in record order; a pool of the proposal that has no cost entry fails at COST_COUNT. -/
def checkEntries (s : State) (c : Chart) : Option TxFail :=
  let sh := s.tx.shadow
  let body := fun (type key : Nat) => (patchesOf sh type).find? (fun p => p.key == key && p.op != 3)
  let f := fun (type : Nat) (keys : List Nat) (bad : Nat → Bytes → Option Nat) => keys.findSome? (fun k =>
    (body type k).bind (fun p => (bad k p.body).map (fun o => (⟨0x10, type, k, o⟩ : TxFail))))
  let costs := fun (p : Nat) => (c.costs.filter (·.pool == p)).length
  f 1 [0] (fun _ => globalBad) <|> f 2 (c.units.map (·.uid)) (fun _ => unitBad) <|>
    c.pools.findSome? (fun p => f 3 [p.pool] (fun k => poolBad (costs k)) <|>
      (if costs p.pool = 0 then some ⟨0x10, 3, p.pool, 0xA⟩ else none)) <|>
    f 4 (c.costs.map costKey) (fun _ => costBad) <|> f 5 (c.classes.map (·.cls)) (fun _ => classBad) <|>
    f 6 (c.funcs.map (·.func)) (fun _ => funcBad)

/-- A job holds its context changed: an earlier descriptor wrote it, its own OPEN has passed the load, or its OPEN failed the
counter check, which leaves the context SPENT (R105 step 12, R106, R108). -/
def ctxChanged (j : Job) : Bool :=
  j.dirty || match j.phase with
    | .failed st _ _ => j.act == 1 && st == stNonce
    | .input | .exec | .writing => j.act == 1 || j.act == 3
    | .claimed => false

/-- The contexts of one kind as they stand: those that a unit holds changed, or that a write-back carries, are taken from there
(R107, R108). -/
def ctxStand (s : State) (compact : Bool) : Tbl Ctx :=
  let held := s.units.filterMap (fun e => match e.2.job with
    | some j => if ctxChanged j then (match j.ctxRef, j.ctx with | some r, c => some (r, c) | none, _ => none) else none
    | none => none)
  ((s.sc.wb.map (fun w => (w.ref, w.ctx))) ++ held).foldl
    (fun t e => if e.1.compact = compact then t.set e.1.idx e.2 else t) (if compact then s.sc.cmp else s.sc.std)

/-- 0x33 for the contexts of one kind. -/
def strandedCtx (c : Chart) (compact : Bool) (t : Tbl Ctx) : Option TxFail :=
  t.findSome? (fun e =>
    let x := e.2
    let n := if x.kind = 2 then 2 else 1
    let fits := c.funcs.any (fun f => f.func == x.owner &&
      (if compact then decide (f.cmpBase ≤ e.1 ∧ e.1 < f.cmpBase + f.cmpCount)
       else decide (f.stdBase ≤ e.1 ∧ e.1 + n ≤ f.stdBase + f.stdCount)))
    if x.st != 0 && x.kind != 3 && !fits then some ⟨0x33, 6, x.owner, e.1 + 2 ^ 22 * x.kind⟩ else none)

/-- 0x35: an active ring or queue leaves its function's range, or an active ring's CQ_LOCAL changes. -/
def strandedRing (s : State) (c : Chart) : Option TxFail :=
  let keeps := fun (f : FuncRec) (g : Nat) => c.funcs.any (fun x => x.func == f.func &&
    decide (x.ringBase ≤ g ∧ g < x.ringBase + x.ringCount))
  let keepsQ := fun (f : FuncRec) (q : Nat) => c.funcs.any (fun x => x.func == f.func &&
    decide (x.cqBase ≤ q ∧ q < x.cqBase + x.cqCount))
  (s.rings.findSome? (fun e => match ringOwner s e.1 with
    | some f => if e.2.active && !keeps f e.1 then some (⟨0x35, 6, f.func, e.1⟩ : TxFail) else none
    | none => none)) <|>
  (s.cqs.findSome? (fun e => match cqOwner s e.1 with
    | some f => if e.2.active && !keepsQ f e.1 then some (⟨0x35, 6, f.func, e.1⟩ : TxFail) else none
    | none => none)) <|>
  (s.rings.findSome? (fun e => match ringBind s e.1, c.rings.find? (·.ring == e.1) with
    | some a, some b => if e.2.active && a.cqLocal != b.cqLocal then some (⟨0x35, 7, e.1, e.1⟩ : TxFail) else none
    | _, _ => none))

/-- The dynamic conditions, then R294. -/
def checkDynamic (s : State) (c : Chart) : Option TxFail :=
  let gone := s.chart.pools.filter (fun p => !c.pools.any (·.pool == p.pool))
  let busy := fun (p : Nat) => c.units.any (·.pool == some p) || c.classes.any (fun k => (classPools k).contains p) ||
    s.chains.any (fun e => e.2.segs.any (fun g => g.pool == p && (g.st == .later || g.st == .waiting)))
  let reset := fun (f : Nat) => f != 0 && fnResetting s f
  strandedCtx c false (ctxStand s false) <|> strandedCtx c true (ctxStand s true) <|>
  (s.kv.slots.findSome? (fun e => if orphaned c e.1 e.2 then some (⟨0x34, 6, e.2.own, e.1⟩ : TxFail) else none)) <|>
  strandedRing s c <|>
  (gone.find? (fun p => busy p.pool)).map (fun p => (⟨0x36, 3, p.pool, p.pool⟩ : TxFail)) <|>
  (s.cqs.findSome? (fun e => match cqOwner s e.1 with
    | some f => if e.2.enable && (c.funcs.find? (·.func == f.func)).any (fun x => decide (x.vectors ≤ e.2.vector)) then
        some (⟨0x37, 6, f.func, e.1⟩ : TxFail) else none
    | none => none)) <|>
  (c.units.findSome? (fun u => if (getUni s u.uid).hostHeld && (u.pool.isSome || !u.hostClaim) then
    some (⟨0x3B, 2, u.uid, u.uid⟩ : TxFail) else none)) <|>
  ((patchesOf s.tx.shadow 6).findSome? (fun p => if reset p.key then some (⟨0x39, 6, p.key, p.key⟩ : TxFail) else none)) <|>
  ((patchesOf s.tx.shadow 7).findSome? (fun p => match ringOwner s p.key with
    | some f => if reset f.func then some (⟨0x39, 7, p.key, f.func⟩ : TxFail) else none
    | none => none))

/-- 0x3A for one rule image (R314). -/
def ruleBad (inbound : Bool) (b : Bytes) : Bool :=
  let w := fun i => wordAt b i
  let ctl := w 2
  if inbound then
    let scope := wfld ctl 16 2
    let func := wfld (w 3) 0 14
    (wbit ctl 31 && decide (wfld (w 1) 8 18 < wfld (w 0) 8 18)) || scope == 3 ||
      (scope == 2 && !decide (1 ≤ func ∧ func ≤ 0x2000)) || wfld ctl 12 4 != 0 || wfld ctl 18 13 != 0 ||
      wfld (w 0) 26 6 != 0 || wfld (w 1) 26 6 != 0 || wfld (w 3) 14 18 != 0 || (b.drop 16).any (· != 0)
  else
    let c := w 4
    let at_ := fun i => wfld (w i) 12 20 + 2 ^ 20 * wfld (w (i + 1)) 0 20
    (wbit c 31 && decide (at_ 2 < at_ 0)) || wfld c 14 2 == 3 || wfld c 8 4 != 0 || wfld c 17 14 != 0 ||
      wfld (w 1) 20 12 != 0 || wfld (w 3) 20 12 != 0 || wfld (w 5) 14 18 != 0 || (b.drop 24).any (· != 0)

/-- 0x3A: inbound before outbound, in rule order; then AC_FN_DMA and AC_CFG, of which only PL and OUT_DEFAULT may be set. -/
def checkRules (s : State) : Option TxFail :=
  let f := fun (type : Nat) (bad : Bytes → Bool) => (sortOn (·.key) (patchesOf s.tx.shadow type)).findSome? (fun p =>
    if bad p.body then some (⟨0x3A, type, p.key, 0⟩ : TxFail) else none)
  f 0x10 (ruleBad true) <|> f 0x11 (ruleBad false) <|> f 0x12 (fun b => decide (4 ≤ leAt b 0 8)) <|>
    f 0x13 (fun b => decide (2 ≤ leAt b 0 8))

/-- The first failure of a validation. -/
def txCheck (s : State) : Option TxFail :=
  let c := proposed s.chart s.tx.shadow
  let l := entries s
  if s.tx.spoiled then some ⟨0x38, 0, 0, 0⟩
  else
    (l.find? (entryUnknown s)).map (fun p => (⟨0x32, p.type, p.key, 0⟩ : TxFail)) <|>
    (l.find? (entryImmutable s)).map (fun p => (⟨0x31, p.type, p.key, 0⟩ : TxFail)) <|>
    checkEntries s c <|> (checkChart c (fun _ => true)).map (ruleFail c) <|> checkDynamic s c <|> checkRules s

/-! ## The commit point (R283, R284, R92, R315) -/

/-- The words of a rule image. -/
def ruleWords (b : Bytes) : List Word := (List.range 8).map (wordAt b)

/-- The access tables with the shadow's entries. -/
def applyRules (ac : Ac) (sh : List Patch) : Ac :=
  let put := fun (t : Tbl (List Word)) (l : List Patch) => l.foldl (fun t p => t.set p.key (ruleWords p.body)) t
  { ac with
    inRules := put ac.inRules (patchesOf sh 0x10)
    outRules := put ac.outRules (patchesOf sh 0x11)
    fnDma := (patchesOf sh 0x12).foldl (fun t p => t.set p.key (leAt p.body 0 1)) ac.fnDma
    outDefault := match (patchesOf sh 0x13).getLast? with
      | some p => leAt p.body 0 1 == 1
      | none => ac.outDefault }

/-- A pool whose SHARE changes enters fallback with CAUSE RESHARE; one that is new starts empty (R92). -/
def reshare (s : State) (old : Chart) (p : PoolRec) : State :=
  match old.pools.find? (·.pool == p.pool) with
  | some q =>
    if q.share = p.share then s
    else
      let s := enterFallback s p.pool 3
      setPool s p.pool { getPool s p.pool with reshare := true }
  | none =>
    let x := freshPool s.clk.meridian (getPool s p.pool) 0
    if p.share = 0 then setPool s p.pool x
    else
      let s := enterFallback (setPool s p.pool { x with fallback := false, cause := 0 }) p.pool 3
      setPool s p.pool { getPool s p.pool with reshare := true }

/-- A deleted pool holds nothing. -/
def dropPool (s : State) (p : Nat) : State :=
  setPool s p { freshPool 0 (getPool s p) 0 with fallback := false, cause := 0 }

/-- The commit point: every change at once, the epoch advances; buckets keep their tokens under the new BURST, and a unit that has
left its pool with a key in it scrubs it (R19). -/
def txApply (s : State) : State :=
  let old := s.chart
  let c := proposed old s.tx.shadow
  let s := (s.rings.map (·.1)).foldl settleBucket s
  let s := { s with
    chart := c
    ch := { s.ch with image := patchBytes s.ch.image 0 (imageCommit s.ch.image s.tx.shadow) }
    ac := applyRules s.ac s.tx.shadow
    tx := { s.tx with state := 0, result := 0, reason := 0, shadow := [], epoch := s.tx.epoch + 1 } }
  let s := (s.rings.map (·.1)).foldl settleBucket s
  let s := c.pools.foldl (fun s p => reshare s old p) s
  let s := ((old.pools.map (·.pool)).filter (fun p => !c.pools.any (·.pool == p))).foldl dropPool s
  dropKept (voidFewer s)

/-- A refused commit leaves the transaction open. -/
def txRefuse (s : State) (f : TxFail) : State :=
  { s with tx := { s.tx with
    state := 1, result := 1, reason := f.reason, failLoc := word (f.type + 256 * f.key), failInfo := word f.info } }

/-- COMMIT_VALIDATION_END (R281, R283). -/
def execCommitValidationEnd (s : State) : Host.Outcome State Fault Refusal :=
  .next (if engineUp s && s.tx.state == 2 then
    match txCheck s with
    | some f => txRefuse s f
    | none => txApply s
  else s)

end Sys2Proof.Machine
end

