-- ==== Sys2Proof/Machine/Completion.lean ====
section
/-!
DEFINITION. What the host chip sends to the initiator ports and the notice lanes: read data, write responses and
credits (R385 to R388, R393), and how each originator goes on.
-/

namespace Sys2Proof.Machine

/-- The outstanding transaction of a tag, and the state without it. A write is answered when its beats have been sent. -/
def takeTxn (s : State) (port tag : Nat) (write : Bool) : Option (Txn × State) :=
  let p := getPort s port
  match p.out.find? (fun t => t.tag == tag && t.write == write && t.left == 0) with
  | some t => some (t, setPort s port { p with out := p.out.filter (fun x => x.tag != tag) })
  | none => none

/-- The bytes that a read asked for, out of the beats returned (R385). -/
def asked (t : Txn) (data : Bytes) : Bytes := padTo t.len (data.drop (t.addr % 64))

/-! ## Reads -/

/-- Descriptors of a fetch (R33, R50). -/
def fetchArrived (s : State) (g : Nat) (t : Txn) (ok : Bool) (data : Bytes) : State :=
  let r := getRing s g
  if r.fetch != .reading then s
  else if !ok then fetchFault s g
  else
    let x := r.fgather.arrive t.off ok data
    let s := setRing s g { r with fgather := x }
    if x.need = 0 then fetched s g else s

/-- Bytes of a staging read (R36). -/
def stageArrived (s : State) (g : Nat) (t : Txn) (ok : Bool) (data : Bytes) : State :=
  let r := getRing s g
  if r.fetch != .staging then s
  else if !ok then stageFault s g
  else
    let x := r.sgather.arrive t.off ok data
    setRing s g { r with
      sgather := x, fetch := if x.need = 0 then .ready else .staging
      readyAt := if x.need = 0 then s.clk.meridian else r.readyAt }

/-- Whether a unit's job is descriptor idx of a chain. -/
def runs (u : Uni) (id idx : Nat) : Bool := u.job.any (fun j => j.chain == id && j.idx == idx)

/-- The input of a descriptor on its unit takes a step. -/
def inputStep (s : State) (id idx : Nat) (f : Gather → Gather) : State :=
  match s.units.find? (fun e => runs e.2 id idx) with
  | none => s
  | some (uid, u) => tryExec (setUni s uid { u with job := u.job.map (fun j => { j with gather := f j.gather }) }) uid

/-- Operands of a host LOAD (R223). -/
def loadStep (s : State) (uid : Nat) (f : Gather → Gather) : State :=
  let u := getUni s uid
  setUni s uid { u with ar := { u.ar with cmd := u.ar.cmd.map (fun c => { c with gather := f c.gather }) } }

/-- A vault command's input (R206). -/
def kvStep (s : State) (f : Gather → Gather) : State :=
  kvRead { s with kv := { s.kv with cmd := s.kv.cmd.map (fun c => { c with gather := f c.gather }) } }

/-- The chain that an originator works for. -/
def Origin.chainOf : Origin → Option Nat
  | .input c _ => some c
  | .output c _ => some c
  | .record c _ => some c
  | .log c _ _ => some c
  | .fetch _ => none
  | .stage _ => none
  | .kvRead => none
  | .kvWrite => none
  | .atRead _ => none
  | .atWrite _ => none
  | .chart => none
  | .patch => none

/-- A chain whose last response has come is forgotten. -/
def reapOf (s : State) (o : Origin) : State :=
  match o.chainOf with
  | some c => reap s c
  | none => s

/-- The originator of a read goes on. -/
def readArrived (s : State) (t : Txn) (ok : Bool) (data : Bytes) : State :=
  let f := fun (g : Gather) => g.arrive t.off ok data
  match t.who with
  | .fetch g => fetchArrived s g t ok data
  | .stage g => stageArrived s g t ok data
  | .input c i => inputStep s c i f
  | .kvRead => kvStep s f
  | .atRead u => loadStep s u f
  | .chart => chartPlace { s with ch := { s.ch with gather := f s.ch.gather } }
  | .patch => { s with tx := { s.tx with gather := f s.tx.gather } }
  | .output _ _ => s
  | .record _ _ => s
  | .log _ _ _ => s
  | .kvWrite => s
  | .atWrite _ => s

/-! ## Writes -/

/-- A record's response: the CHAIN_END record makes its chain noticeable (R51); an error halts the queue (R50, R388). -/
def recordDone (s : State) (id idx : Nat) (ok : Bool) : State :=
  match findChain s id with
  | none => s
  | some c =>
    let q := getCq s c.cq
    if !ok then setCq s c.cq { q with writeFault := true, halted := true, dropped := sat32 q.dropped }
    else if idx + 1 = c.descs.length then cqNoticeable s c.cq
    else s

/-- A dirty-page log entry failed (R303, R388). -/
def logFailed (s : State) (vf : Nat) : State :=
  let d := (getFn s vf).dl
  setDl s vf { d with fault := true, allDirty := true }

/-- k writes of a host STORE are done with (R223). -/
def storeDone (s : State) (uid k : Nat) (ok : Bool) : State :=
  let u := getUni s uid
  setUni s uid { u with ar := { u.ar with
    cmd := u.ar.cmd.map (fun c => { c with out := c.out - k, fault := c.fault || !ok }) } }

/-- The originator of a write goes on. -/
def writeDone (s : State) (t : Txn) (ok : Bool) : State :=
  match t.who with
  | .output c i => if ok then s else outputFailed s c i
  | .record c i => recordDone s c i ok
  | .log _ _ vf => if ok then s else logFailed s vf
  | .kvWrite => kvWritten s 1 t.len ok
  | .atWrite u => storeDone s u 1 ok
  | .fetch _ => s
  | .stage _ => s
  | .input _ _ => s
  | .kvRead => s
  | .atRead _ => s
  | .chart => s
  | .patch => s

/-! ## Transactions that waited at a port -/

/-- A read loses k of its pieces to a refusal at offset off (R312). -/
def Gather.refuse (g : Gather) (off k : Nat) : Gather :=
  { g with need := g.need - k, err := some (match g.err with | some e => min e off | .none => off) }

/-- The output of a descriptor is all issued: the descriptor ends (R14). -/
def writingDone (s : State) (id idx : Nat) : State :=
  if queued s (.output id idx) then s
  else match s.units.find? (fun e => e.2.job.any (fun j => j.chain == id && j.idx == idx && j.phase == .writing)) with
    | some (uid, _) => drained s uid
    | none => s

/-- A transaction that waited was issued. -/
def txnIssued (s : State) (t : Txn) (v : Verdict) : State :=
  match t.who with
  | .output c i => writingDone (outIssued s c i v) c i
  | .fetch _ => s
  | .stage _ => s
  | .input _ _ => s
  | .record _ _ => s
  | .log _ _ _ => s
  | .kvRead => s
  | .kvWrite => s
  | .atRead _ => s
  | .atWrite _ => s
  | .chart => s
  | .patch => s

/-- A transaction that waited is refused: no later piece of its range is issued (R312), and its originator goes on. -/
def txnRefused (s : State) (t : Txn) : State :=
  let k := 1 + (s.ports.map (fun e => (e.2.sendQ.filter (fun x => x.who == t.who)).length)).sum
  let rest := dropQueued s (fun o => o == t.who)
  let f := fun (g : Gather) => g.refuse t.off k
  match t.who with
  | .fetch g => fetchFault rest g
  | .stage g => stageFault rest g
  | .input c i => inputStep rest c i f
  | .output c i => outRefused rest c i
  | .log _ _ vf => logFailed s vf
  | .record c i => recordDone rest c i false
  | .kvRead => kvStep rest f
  | .kvWrite => kvWritten rest k 0 false
  | .atRead u => loadStep rest u f
  | .atWrite u => storeDone rest u k false
  | .chart => { rest with ch := { rest.ch with gather := f rest.ch.gather } }
  | .patch => { rest with tx := { rest.tx with gather := f rest.tx.gather } }

/-- The descriptor that a waiting output write belongs to, when its target was lost: nothing more of it is written (R240). -/
def outputLost (s : State) (t : Txn) : Option (Nat × Nat) :=
  match t.who with
  | .output id idx =>
    if !portsOpen s then none
    else match findChain s id, s.units.find? (fun e => e.2.job.any (fun j => j.chain == id && j.idx == idx && j.phase == .writing)) with
    | some c, some (_, u) => if (u.job.bind (lostTarget s c)).isSome then some (id, idx) else none
    | _, _ => none
  | _ => none

/-- Issues what waits at a port, in order, while credits and tags allow: each is judged as it comes to issue (R284, R302, R310);
the fuel is how many may leave. -/
def pumpN : Nat → State → Nat → State
  | 0, s, _ => s
  | n + 1, s, port =>
    let p := getPort s port
    match p.sendQ with
    | [] => s
    | t :: r =>
      match outputLost s t with
      | some (id, idx) => pumpN n (reapOf (writingDone (dropQueued s (fun o => o == .output id idx)) id idx) t.who) port
      | none =>
      match comesToIssue (setPort s port { p with sendQ := r }) port t with
      | (s, .waits t) =>
        let p := getPort s port
        setPort s port { p with sendQ := t :: p.sendQ }
      | (s, .issued v) => pumpN n (reapOf (txnIssued s t v) t.who) port
      | (s, .refused) => pumpN n (reapOf (txnRefused s t) t.who) port

def pump (s : State) (port : Nat) : State := pumpN (getPort s port).sendQ.length s port

/-! ## Commands -/

/-- What a response does to its originator; one that is gone discards it. -/
def txnAnswered (s : State) (port : Nat) (t : Txn) (f : State → State) : State :=
  if struck s then s
  else
    let s := timely s t
    pump (reapOf (if t.gone then s else f s) t.who) port

/-- Beat i of a read comes whole: no RD_ERR, and RD_PAR is odd over each 4 bytes of its RD_DATA (R384, R388). -/
def beatOk (data : Bytes) (i : Nat) (c : RdCheck) : Bool :=
  !c.err && (List.range 16).all (fun k => c.par.getLsbD k == oddBit (leAt data (64 * i + 4 * k) 4) 0 32)

/-- READ_COMPLETION: all beats of a read are in; it fails when one of them does (R388). -/
def execReadCompletion (port : BitVec 3) (tag : BitVec 10) (chk : List RdCheck) (data : Bytes) (s : State) :
    Host.Outcome State Fault Refusal :=
  .next (if !running s then s
    else match takeTxn s port.toNat tag.toNat false with
    | none => s
    | some (t, x) =>
      if chk.length ≠ beats t.addr t.len then s
      else txnAnswered x port.toNat t (fun s => readArrived s t ((chk.mapIdx (beatOk data)).all id) (asked t data)))

/-- WRITE_RESPONSE. -/
def execWriteResponse (port : BitVec 3) (tag : BitVec 10) (ok : Bool) (s : State) : Host.Outcome State Fault Refusal :=
  .next (if !running s then s
    else match takeTxn s port.toNat tag.toNat true with
    | none => s
    | some (t, s) => txnAnswered s port.toNat t (fun s => writeDone s t ok))

/-- One more credit, at most 1,024 (R386). -/
def credit (n : Nat) : Nat := min (n + 1) 1024

/-- A credit of a notice lane: the notice that waits longest leaves with it. -/
def laneCredit (s : State) (odd : Bool) : State :=
  let l := getLane s odd
  flushLane (setLane s odd { l with crd := credit l.crd }) odd

/-- A credit of a port that runs on the PLL (R383, R386). -/
def portCredit (s : State) (n : Nat) (f : Port → Port) : State :=
  if running s then pump (setPort s n (sendBeats (f (getPort s n)))) n else s

/-- CRD_PULSE: while the core is in reset every input is ignored (R389), and a port whose clock stands samples none (R383). A ready
input is a level, which stands until it changes (log 56). -/
def execCrdPulse (c : Credit) (s : State) : Host.Outcome State Fault Refusal :=
  .next (match c with
    | .req n => portCredit s n.toNat (fun p => { p with reqCrd := credit p.reqCrd })
    | .wd n => portCredit s n.toNat (fun p => { p with wdCrd := credit p.wdCrd })
    | .notice k => if ported s then laneCredit s k else s
    | .trsReady port level => { s with ready :=
        if port then { s.ready with trs1 := level } else { s.ready with trs0 := level } }
    | .fdnReady level => { s with ready := { s.ready with fdn := level } }
    | .dbgReady level => { s with ready := { s.ready with dbg := level } })

end Sys2Proof.Machine
end

