-- ==== Sys2Proof/Machine/Contexts.lean ====
section
/-!
DEFINITION. The context store as management sees it: totals and ranges (R100, R101), use counts, SC_CMD (R116),
crypto-erase (R115), write-back (R106), the header word (R111).
-/

namespace Sys2Proof.Machine

/-! ## Totals, ranges, counts -/

/-- SC_STD_TOTAL and SC_CMP_TOTAL (R117): 0 unless CHARTED, so also while a Chart is LOADING (DESIGN CHOICE, log 65). -/
def stdTotal (s : State) : Nat := if s.ch.state = 2 then s.chart.stdMib * 8192 else 0
def cmpTotal (s : State) : Nat := if s.ch.state = 2 then (128 - s.chart.stdMib) * 16384 else 0

/-- Contexts of a table that lie in a range and are not FREE: a use count (R117) reads the store, where a context whose OPEN runs
stands from its write-back on (DESIGN CHOICE, log 65). -/
def inUse (t : Tbl Ctx) (base count : Nat) : Nat :=
  (t.filter (fun e => e.2.st != 0 && decide (base ≤ e.1 ∧ e.1 < base + count))).length

def stdUse (s : State) (f : FuncRec) : Nat := inUse s.sc.std f.stdBase f.stdCount
def cmpUse (s : State) (f : FuncRec) : Nat := inUse s.sc.cmp f.cmpBase f.cmpCount

/-- HDR (R111). -/
def ctxHdr (c : Ctx) : Word := word (c.st + 8 * c.kind + 32 * c.prior + 256 * c.owner + 2 ^ 24 * c.cause)

/-- SFLAGS (R111). -/
def ctxFlags (c : Ctx) : Nat := b2n c.msg + 2 * b2n c.dir

/-- A reset of a function whose range holds the context runs (R300). -/
def ctxResetting (s : State) (compact : Bool) (i : Nat) : Bool :=
  s.fns.any (fun e => e.2.resetting &&
    (let r := if compact then e.2.rstCmp else e.2.rstStd
     decide (r.1 ≤ i ∧ i < r.1 + r.2)))

/-- The context a command names. -/
def scRef (s : State) (compact : Bool) (i : Nat) : CtxRef :=
  ⟨compact, !compact && (s.sc.std.get .free i).kind == 2, i⟩

/-- No unit has this number. -/
def noUnit : Nat := 2 ^ 12

/-! ## SC_CMD (R116) -/

def scResult (s : State) (n : Nat) : State :=
  { s with sc := { s.sc with busy := false, result := n, cmd := none, cmdWaits := false } }

/-- The effect of a command on a context that no unit holds. -/
def scApply (s : State) (op : Nat) (r : CtxRef) : State :=
  let c := ctxGet s r
  if op = 1 then
    scResult { s with sc := { s.sc with
      peekHdr := ctxHdr c, peekInv := c.inv
      peekOp := word (c.opcode + 2 ^ 16 * c.invLim + 2 ^ 24 * ctxFlags c) } } 0
  else if op = 2 then
    if c.st = 0 ∨ c.st = 4 then scResult s 1
    else scResult (ctxPut s r { c with st := 4, prior := c.st, cause := 0xFF }) 0
  else if op = 3 then
    if c.st = 4 then scResult (ctxPut s r { c with st := c.prior, cause := 0xFF }) 0 else scResult s 1
  else scResult (ctxPut s r .free) 0

/-- A command starts: the first result in the order of R116; SEAL and FREE wait for the holder. -/
def scStart (s : State) (op kind i : Nat) : State :=
  let compact := kind == 1
  if 2 ≤ kind then scResult s 3
  else if (if compact then cmpTotal s else stdTotal s) ≤ i then scResult s 2
  else if !s.sc.ready || ctxResetting s compact i then scResult s 4
  else if !compact && (s.sc.std.get .free i).kind == 3 then scResult s 3
  else
    let r := scRef s compact i
    if (op == 2 || op == 4) && ctxHeld s noUnit r then
      { s with sc := { s.sc with busy := true, cmd := some (op, kind, i), cmdWaits := true } }
    else scApply s op r

/-- SC_CMD write: ignored in FAILED (R380), LOADING (R267), a transition (R328) and while BUSY; a no-start hold
delays it (R341). -/
def scCmd (s : State) (v : Word) : State :=
  let op := wfld v 0 3
  let kind := wfld v 3 2
  if failedStart s || quietWrites s || s.sc.busy || op == 0 || decide (4 < op) then s
  else if nostart s then
    { s with sc := { s.sc with busy := true, cmd := some (op, kind, s.sc.idx.toNat), cmdWaits := false } }
  else scStart s op kind s.sc.idx.toNat

/-- A command held through a no-start hold starts. -/
def scRelease (s : State) : State :=
  match s.sc.cmd with
  | some (op, kind, i) => if s.sc.cmdWaits then s else scStart { s with sc := { s.sc with busy := false, cmd := none } } op kind i
  | none => s

/-- A command that waited for a holder is judged again when none is left (R116); in a reset of the owner it answers ERASING
(R300). -/
def scWaiting (s : State) : State :=
  match s.sc.cmd with
  | some (op, kind, i) => if s.sc.cmdWaits then scStart s op kind i else s
  | none => s

/-- SC_PEEK (R116). -/
def execScPeek (a : Access) (kind : BitVec 2) (s : State) : Host.Outcome State Fault Refusal :=
  .next (hostWrite s a (mgmtAt a 0x40040) (fun s => scCmd s (word (1 + 8 * kind.toNat))))

/-- SC_SEAL (R116). -/
def execScSeal (a : Access) (kind : BitVec 2) (s : State) : Host.Outcome State Fault Refusal :=
  .next (hostWrite s a (mgmtAt a 0x40040) (fun s => scCmd s (word (2 + 8 * kind.toNat))))

/-- SC_UNSEAL (R116). -/
def execScUnseal (a : Access) (kind : BitVec 2) (s : State) : Host.Outcome State Fault Refusal :=
  .next (hostWrite s a (mgmtAt a 0x40040) (fun s => scCmd s (word (3 + 8 * kind.toNat))))

/-- SC_FREE (R116). -/
def execScFree (a : Access) (kind : BitVec 2) (s : State) : Host.Outcome State Fault Refusal :=
  .next (hostWrite s a (mgmtAt a 0x40040) (fun s => scCmd s (word (4 + 8 * kind.toNat))))

/-! ## Write-back (R106, R107) -/

/-- The write-back of a context reaches the store. -/
def wbStore (s : State) (compact : Bool) (i : Nat) : State :=
  match s.sc.wb.find? (fun w => w.ref.compact == compact && w.ref.idx == i) with
  | some w => ctxPut { s with sc := { s.sc with wb := s.sc.wb.erase w } } w.ref w.ctx
  | none => s

/-- CONTEXT_WRITEBACK_DONE. -/
def execContextWritebackDone (compact : Bool) (idx : BitVec 21) (s : State) : Host.Outcome State Fault Refusal :=
  .next (if engineUp s then scWaiting (wbStore s compact idx.toNat) else s)

/-! ## Crypto-erase (R115) -/

/-- SC_ERASE write. -/
def scEraseW (s : State) (v : Word) : State :=
  if !wbit v 0 then s
  else if s.rings.any (fun e => e.2.active) || s.units.any (fun e => e.2.st == 1) then
    { s with sc := { s.sc with eraseRefused := true } }
  else
    let t := eraseCtx s
    { t with sc := { t.sc with eraseCmd := true } }

/-- SC_ERASE_ALL (R115). -/
def execScEraseAll (a : Access) (v : Word) (s : State) : Host.Outcome State Fault Refusal :=
  .next (hostWrite s a (mgmtAt a 0x40014) (fun s => scEraseW s v))

/-- Start-up step 4 scrubs the context store and the vault, once no erase hold is left (R117, R347, R379). -/
def keyScrubs (s : State) : State :=
  if s.pw.step = 4 ∧ eraseHold s = false then { s with
    sc := if s.sc.erasing then s.sc else { s.sc with erasing := true, scrubAt := some s.clk.meridian }
    kv := if s.kv.erasing then s.kv else { s.kv with erasing := true, scrubAt := some s.clk.meridian } }
  else s

/-- The scrub ends: every context FREE under a new K_CTX, drawn from instance 0 (R114, R203). -/
def ctxScrubbed (s : State) : State :=
  let x := drbgDraw s 0 32
  let s := x.1
  { s with sc := { s.sc with
    std := [], cmp := [], wb := [], kctx := some x.2, ready := true, erasing := false, scrubAt := none, scrubLeft := 0
    eraseDone := s.sc.eraseDone || s.sc.eraseCmd, eraseCmd := false } }

/-- CONTEXT_SCRUB_DONE (R115): 196,608 tile cycles after the erase, when the DRBG gives K_CTX (log 46). -/
def execContextScrubDone (s : State) : Host.Outcome State Fault Refusal :=
  .next (match s.sc.scrubAt with
    | some t => if engineUp s && maskable s && decide (t + 393216 ≤ s.clk.meridian) && drbgUp s 0 then ctxScrubbed s else s
    | none => s)

end Sys2Proof.Machine
end

