-- ==== Sys2Proof/Machine/Power.lean ====
section
/-!
DEFINITION. Clocks, power states and resets (R369 to R378, R389, R399, R402, R403), the supply reset levels (R339,
R340) and the Logbook scan (R363).
-/

namespace Sys2Proof.Machine

/-! ## Start-up records (R362, R379, R380) -/

/-- Byte 0 of a START record (R375, R377). -/
def startKind (s : State) : Nat := s.pw.kind + 128 * b2n s.pw.tamperPending

def startRecord (s : State) (step error : Nat) : State :=
  logReq s 1 false true (toLE 1 (startKind s) ++ toLE 1 step ++ toLE 2 error)

/-! ## The resets (R375 to R378) -/

/-- CORE_RST_N falls: every credit count of every initiator port is 0, and what is owed is discarded (R389). -/
def portsDown : Tbl Port := (List.range 8).map (fun n => (n, Port.down))

/-- Every output of the ports is 0 and nothing waits at them (R389). -/
def outputsDown (s : State) : State :=
  { s with
    ports := portsDown, lane0 := .init, lane1 := .init, fdn := [], tpq := [], fpPerr := none, tp0 := [], tp1 := [], dbg := []
    dbgIn := ⟨[], false⟩ }

/-- The core is held in reset until the next PWR_CORE (R339, R389, R403). -/
def holdCore (s : State) : State := outputsDown { s with pw := { s.pw with coreHeld := true } }

/-- What each class of core state holds after a reset of code kind (the survival table, R378). A BLOCK reset goes on at step 2
whatever the PLL does (R375, R376); a reset that keeps the Meridian keeps the intervals counted in it (R90, R184, R318). Of a
BLOCK or TAMPER reset CORE_RST_N stays 0 for 64 control cycles (R376, log 61), and no port has a credit until it rises (R389). -/
def resetCore (s : State) (kind : Nat) : State :=
  let warm := kind == 3 || kind == 4
  { State.reset with
    clk := if kind = 3 then s.clk
      else if warm then { Clk.reset with meridian := s.clk.meridian, slow := s.clk.slow, refGone := s.clk.refGone }
      else { Clk.reset with refGone := s.clk.refGone }
    pw := { Pw.reset with
      kind := kind, step := if kind = 3 then 2 else 1, rstLeft := if warm then 64 else 0, sentinel := s.pw.sentinel }
    bn := { s.bn with noticeCfg := 0, faultBusy := false, faultResult := 0, faultUid := 0 }
    lb := { s.lb with noticeCfg := 0 }
    sd := if warm then s.sd else .reset
    fuses := s.fuses
    ac := if warm then { Ac.reset with
        lodeOff := s.ac.lodeOff, lockIv := s.ac.lockIv, lockSeen := s.ac.lockSeen, lockCur := s.ac.lockCur
        lockPrev := s.ac.lockPrev }
      else .reset
    iq := { State.reset.iq with stormIv := if warm then s.clk.meridian / 2 ^ 22 else 0 }
    py := { Py.reset with iv := if warm then s.clk.meridian / 2 ^ 32 else 0 }
    ports := if warm then portsDown else []
    flrPend := if warm then s.flrPend ++ s.fdn else []
    ready := s.ready
    scanMode := s.scanMode
    free := s.free
    nextId := s.nextId
    pending := s.pending }

/-- Level sources that keep the erase asserted after a TAMPER reset (R347). -/
def eraseHolders (s : State) : BitVec 12 := maskOf ((srcList s.bn.active).filter (fun n => bnAct s n = 2))

/-- No transaction of an initiator port is out or waiting for credit. -/
def portsQuiet (s : State) : Bool := s.ports.all (fun e => e.2.out.isEmpty && e.2.sendQ.isEmpty)

/-- Every transaction sent has its response; those that wait for credit are not sent any more (R376). -/
def blockQuiet (s : State) : Bool := s.ports.all (fun e => e.2.out.isEmpty)

/-- 2 µs and the fabric budget have passed since a Meridian and a BTIME, by the Meridian or, where it has stood meanwhile, by the
Binnacle's clock (R369, R376). -/
def blockBound (s : State) (t : Nat × Nat) : Bool :=
  decide (t.1 + 6000 + fabricR s ≤ s.clk.meridian) || decide (t.2 + cdiv ((6000 + fabricR s) * 32) 3000 ≤ s.bn.btime)

/-- BLOCK_RESET (R376): every response is in, or the bound has passed. -/
def execBlockReset (s : State) : Host.Outcome State Fault Refusal :=
  .next (match s.pw.block with
    | some t => if active s && !struck s && !s.lc.busy && (blockQuiet s || blockBound s t) then resetCore s 3 else s
    | none => s)

/-- TAMPER_RESET (R347): after the scrubs, the fuse bit in progress and the record. -/
def execTamperReset (s : State) : Host.Outcome State Fault Refusal :=
  .next (match s.bn.erase with
    | some e =>
      if active s && e.tamper && e.scrubbed && e.logged && !fuseInBit s then
        let t := resetCore s 4
        { t with bn := { t.bn with erase := none, eraseHold := t.bn.eraseHold ||| eraseHolders s } }
      else s
    | none => s)

/-- ERASE_SCRUB_DONE (R205): root cycle 393,336 of the erase. -/
def execEraseScrubDone (s : State) : Host.Outcome State Fault Refusal :=
  .next (match s.bn.erase with
    | some e =>
      if active s && decide (e.at_ + 393336 ≤ s.clk.meridian) then
        { s with bn := { s.bn with erase := some { e with scrubbed := true } } }
      else s
    | none => s)

/-- VDD_CORE may be up: since a reset, a sample has reached its release level (R339). -/
def vddUp (s : State) : Bool := !s.bn.vddRst || s.bn.vddUp

/-- PWR_CORE (R375, R401): held off while VSB is in reset and during the Logbook scan. An ERASE whose TAMPER reset
is still owed makes this a TAMPER start-up, whose code goes before that of PWR_SENTINEL (R347, R348, R375, R377). -/
def execPwrCore (s : State) : Host.Outcome State Fault Refusal :=
  .next (
    if s.bn.vsbRst || s.lb.scanning || !vddUp s then s
    else
      let owed := s.bn.erase.isSome
      let t := resetCore s (if s.pw.sentinel && !owed then 1 else 2)
      { t with
        scanMode := false
        pw := { t.pw with tamperPending := owed, sentinel := false }
        bn := { t.bn with
          vddRst := false, vddUp := false, vddLow := 0, erase := none
          eraseHold := if owed then t.bn.eraseHold ||| eraseHolders s else t.bn.eraseHold } })

/-! ## Supply samples (R339, R340) -/

/-- VSB crosses its reset level: the core is held, the record goes before the queue, the Binnacle holds itself. -/
def vsbReset (s : State) : State :=
  let s := resetRecord s
  let s := { s with lb := { s.lb with queue := hurryLast s.lb.queue } }
  holdCore { s with bn := { s.bn with vsbRst := true, vsbUp := false, holdAtReset := s.bn.holdOk } }

/-- VDD_CORE crosses its reset level: PWR_CORE asserts. -/
def vddReset (s : State) : State :=
  let s := closeGroup s true true
  holdCore { s with bn := { s.bn with vddRst := true, vddUp := false } }

/-- SUPPLY_SAMPLE (R339 to R342): one Binnacle cycle. While the Binnacle is in reset it watches for the release level of VSB alone,
4.10 V (R339, R340). -/
def execSupplySample (vsb vdd : BitVec 16) (hot cold : BitVec 8) (s : State) : Host.Outcome State Fault Refusal :=
  .next (
    if s.bn.vsbRst then { s with bn := { s.bn with vsbUp := s.bn.vsbUp || decide (4100 ≤ vsb.toNat) } }
    else
      let s := supplySample s vsb.toNat vdd.toNat hot cold
      let s := { s with bn := { s.bn with vddUp := s.bn.vddUp || (s.bn.vddRst && decide (670 ≤ vdd.toNat)) } }
      if 2 ≤ s.bn.vsbLow then vsbReset s
      else if 2 ≤ s.bn.vddLow ∧ vddUp s = true then vddReset s
      else s)

/-! ## PWR_SENTINEL and the scan (R338, R340, R363) -/

/-- What a slot cut short holds: bytes that the spec leaves undefined (log 4), which fail the CRC (R363). -/
def tornBytes (b : Bytes) : Bytes := if recordOk b then b.take 63 ++ (b.drop 63).map (· ^^^ 1) else b

/-- The slot in progress when the hold-up ran out; an unread record may stand there (R366). -/
def tearSlot (s : State) : State :=
  match s.lb.queue with
  | [] => s
  | r :: _ =>
    let b := tornBytes (freeBytes s 64)
    let s := tickFree s 64
    if r.pin && !s.lb.second && decide (s.lb.pinned < 256) then
      let t := { s with lb := { s.lb with slots := s.lb.slots.set s.lb.pinned b, pinned := s.lb.pinned + 1 } }
      if s.lb.pinned = 255 then lbLatch t 2 else t
    else
      let lost := overrun s
      let s := { s with lb := { s.lb with slots := s.lb.slots.set s.lb.next b } }
      if lost then lbLatch s 0 else s

/-- What the writer did in the hold-up: its queue whole when HOLD_OK was 1, else the slot in progress is torn. -/
def holdUp (s : State) (ok : Bool) : State :=
  let s := if ok then drainLog (2 * s.lb.queue.length) s else tearSlot s
  { s with lb := { s.lb with queue := [], second := false } }

/-- PWR_SENTINEL (R340, R375, R378): once VSB has reached its release level, the Binnacle starts anew and scans the Logbook; the
core waits. -/
def execPwrSentinel (s : State) : Host.Outcome State Fault Refusal :=
  .next (
    if s.bn.vsbRst && s.bn.vsbUp then
      let t := resetCore (holdUp s s.bn.holdAtReset) 1
      { t with
        scanMode := false
        pw := { t.pw with coreHeld := true, sentinel := true }
        bn := .reset
        ports := portsDown
        lb := { t.lb with powers := sat16 t.lb.powers, scanning := true, tokens := [], tokenAt := 0 } }
    else s)

/-- The newest record whose CRC holds in the slots from lo on: slot and SEQ, newer under R29. -/
def newest (lo : Nat) (l : Tbl Bytes) : Option (Nat × Word) :=
  l.foldl (fun best e =>
    if e.1 < lo || !recordOk e.2 then best
    else match best with
      | none => some (e.1, wordAt e.2 0)
      | some (_, q) => if 0 < posDiff (wordAt e.2 0) q then some (e.1, wordAt e.2 0) else best) none

/-- The highest SEQ whose record holds, with its wrap (R29, R360, R363): a pinned record stands behind the newest circular one,
whose copy it is or precedes, unless it is one of the next of the area, whose circular copy did not come to be (DESIGN CHOICE, log 65). -/
def lastSeq (l : Tbl Bytes) : Option Word :=
  let live := newest 256 l
  match live with
  | none => (newest 0 l).map (·.2)
  | some (_, q) => (newest 0 (l.filter (fun e =>
      decide (256 ≤ e.1) || decide (0 < posDiff (wordAt e.2 0) q ∧ posDiff (wordAt e.2 0) q ≤ 16128)))).map (·.2)

/-- The scan's result (R363): SEQ after the highest that holds, the circular position after the newest circular record,
the failing slots. -/
def scanLog (s : State) : State :=
  let torn := (s.lb.slots.filter (fun e => !recordOk e.2 && e.2.any (· != 0))).length
  let s := { s with lb := { s.lb with torn := torn, scanning := false } }
  let s := match lastSeq s.lb.slots with
    | some q => { s with lb := { s.lb with seq := q.toNat } }
    | none => s
  match newest 256 s.lb.slots with
  | some (i, _) => { s with lb := { s.lb with next := nextSlot i } }
  | none => s

/-- LOGBOOK_SCAN_DONE (R363, R375, R401): PWR_CORE follows and the core starts, when VDD_CORE is up. -/
def execLogbookScanDone (s : State) : Host.Outcome State Fault Refusal :=
  .next (
    if s.lb.scanning then
      let t := scanLog s
      if t.pw.coreHeld && !t.bn.vddRst then
        { t with pw := { t.pw with coreHeld := false, sentinel := false }, ports := [] }
      else t
    else s)

/-! ## The root PLL (R369, R379 to R381) -/

/-- PLL_LOCK: step 1 ends, or the root-derived domains go on; the windows of CLK_ROOT with lock begin here (R343). In the exit from A2 every PSW_ACK has risen before (R403, log 59). -/
def execPllLock (khz : BitVec 18) (time : BitVec 16) (s : State) : Host.Outcome State Fault Refusal :=
  .next (
    if s.clk.lock || s.pw.coreHeld || s.scanMode || s.pw.mode == .a2 || s.pw.mode == .a3 then s
    else
      let s := { s with
        clk := { s.clk with lock := true, bypass := false, refOk := true, refGone := false, refKhz := khz, lockTime := time }
        pw := { s.pw with pswAck := .allOnes 23 }
        bn := { s.bn with since := s.bn.since.set 3 s.bn.btime } }
      if s.pw.step = 1 ∧ s.pw.mode = .run then
        { s with pw := { s.pw with step := 2, micros := s.pw.micros + time.toNat / 100 } }
      else s)

/-- PLL_LOCK_LOST: registers run from the reference, CLK_ROOT reports. -/
def execPllLockLost (s : State) : Host.Outcome State Fault Refusal :=
  .next (
    if s.clk.lock && active s then
      alarmReport { s with clk := { s.clk with lock := false, bypass := true, lockLost := true } } 0x008
    else s)

/-- PLL_LOCK_RETRY (R379, R380): the first miss of the bound shows its code and writes a START record. -/
def execPllLockRetry (noRef : Bool) (s : State) : Host.Outcome State Fault Refusal :=
  .next (
    if s.pw.step = 1 ∧ !s.clk.lock ∧ active s then
      let code := if noRef then 0x101 else 0x102
      let t := { s with
        clk := { s.clk with refOk := !noRef, refGone := noRef }
        pw := { s.pw with error := code, micros := s.pw.micros + 50 } }
      if s.pw.error = 0x101 ∨ s.pw.error = 0x102 then t else startRecord t 1 code
    else s)

/-! ## A2 and A3 (R371 to R374, R402, R403) -/

/-- A pool holds a waiting segment, a unit is BUSY or SCRUB, a record is reserved, or a VF reset runs. -/
def hasWork (s : State) : Bool :=
  s.chains.any (fun e => e.2.segs.any (fun g => g.st == .later || g.st == .waiting)) ||
    s.units.any (fun e => e.2.st == 1 || e.2.st == 2 || e.2.relScrub) || s.cqs.any (fun e => e.2.reserved != 0) ||
    s.fns.any (fun e => e.2.resetting)

/-- A command of R372's last refusal is busy. -/
def hasCommand (s : State) : Bool :=
  s.kv.busy || s.sc.busy || s.units.any (fun e => e.2.ar.busy) || s.hl.preBusy || s.ac.dbgBusy || s.tx.pbusy ||
    s.sd.clearing != 0

/-- The judgement of PW_REQ: the first condition that holds (R372). -/
def pwJudge (s : State) (a2 : Bool) : Nat :=
  if a2 && !s.pw.ready then 6
  else if s.lc.busy || !s.lc.ops.isEmpty then 4
  else if supplyBad s || eraseHold s then 5
  else if s.tx.state != 0 || loading s then 3
  else if hasWork s then 1
  else if hasCommand s then 2
  else 0

/-- PW_REQ with target A2 or A3; ignored after a FAILED start-up (R380) and while an entry runs. No key stays in a tile through
A2 (R119, R378). -/
def pwReq (s : State) (a2 : Bool) : State :=
  if failedStart s || s.pw.reqBusy then s
  else
    let r := pwJudge s a2
    let s := { s with pw := { s.pw with reqResult := r } }
    if r ≠ 0 then s
    else if a2 then dropKept { s with pw := { s.pw with reqBusy := true, mode := .a2Entry } }
    else
      let s := zeroize s
      { s with pw := { s.pw with mode := .a3, pdA3Ready := true } }

/-- PW_REQ write (R382). -/
def pwReqW (s : State) (v : Word) : State :=
  if wfld v 0 2 = 2 then pwReq s true else if wfld v 0 2 = 3 then pwReq s false else s

/-- PW_REQ_A2. -/
def execPwReqA2 (a : Access) (s : State) : Host.Outcome State Fault Refusal :=
  .next (hostWrite s a (mgmtAt a 0xA0108) (fun s => pwReqW s 2))

/-- PW_REQ_A3. -/
def execPwReqA3 (a : Access) (s : State) : Host.Outcome State Fault Refusal :=
  .next (hostWrite s a (mgmtAt a 0xA0108) (fun s => pwReqW s 3))

/-- A wake request: the exit sequence of A2; one that is held while the block enters A2 acts at the end of the entry (R371, R403);
no effect in A3 (R374). -/
def wake (s : State) : State := if s.pw.mode = .a2 then { s with pw := { s.pw with mode := .a2Exit } } else s

/-- A2_ENTRY_COMPLETE (R373, R403): isolated, clocks stopped, retained, and every group switched off. -/
def execA2EntryComplete (s : State) : Host.Outcome State Fault Refusal :=
  .next (
    if s.pw.mode = .a2Entry ∧ portsQuiet s ∧ active s then
      let t := { s with
        clk := { Clk.reset with meridian := s.clk.meridian, slow := s.clk.slow, refGone := s.clk.refGone }
        pw := { s.pw with
          mode := .a2, reqBusy := false, pdA2Ready := true, pdWakeAck := false, a2At := s.bn.btime, pswAck := 0 } }
      if s.pw.pdWake || !s.pw.flrWake.isEmpty then wake t else t
    else s)

/-- PD_WAKE rises, and is held until PD_WAKE_ACK (R403). -/
def execPdWake (s : State) : Host.Outcome State Fault Refusal :=
  .next (if s.pw.mode = .a2 ∨ s.pw.mode = .a2Entry then wake { s with pw := { s.pw with pdWake := true } } else s)

/-- Every DRBG instance reseeds before its first use; while HEALTH_FAIL is 1 none can, and none gives output (R203, R204, R373). -/
def reseedAll (s : State) : State :=
  { s with kv := { s.kv with drbg := s.kv.drbg.map (fun d =>
    if s.kv.healthFail then { d with seeded := false } else ⟨true, 0, s.clk.meridian⟩) } }

/-- The exit from A2 ends (R373): relocked, reseeded, isolation released. -/
def exitA2 (s : State) : State :=
  let s := reseedAll s
  { s with pw := { s.pw with
    mode := .run, pdA2Ready := false, pdWakeAck := true, a2Time := s.bn.btime - s.pw.a2At
    a2Count := sat32 s.pw.a2Count, pdWake := false } }

/-- POWER_SWITCH_LOSS (R403): a PSW_ACK falls while its PSW_EN is 1, which it is in every mode but A2. -/
def execPowerSwitchLoss (g : BitVec 5) (s : State) : Host.Outcome State Fault Refusal :=
  .next (if g.toNat < 23 ∧ s.pw.mode ≠ .a2 ∧ s.pw.pswAck.getLsbD g.toNat = true then
    holdCore { s with pw := { s.pw with pswAck := s.pw.pswAck &&& ~~~(BitVec.ofNat 23 (2 ^ g.toNat)) } }
  else s)

/-! ## Test modes (R325, R399) -/

/-- The test group is live. -/
def testEnabled (s : State) : Bool :=
  (s.lc.state == 1 || s.lc.state == 2 || s.lc.state == 5) && !s.pw.coreHeld && s.pw.mode != .a2 && s.pw.mode != .a3

/-- The actions of root cycles 1 to 20 alone: no scrub follows, so READY stays 0. -/
def zeroOnly (s : State) : State :=
  let s := zeroize (dropJobs s)
  { s with kv := { s.kv with scrubAt := none }, sc := { s.sc with scrubAt := none } }

/-- SCAN_MODE_ENTRY. -/
def execScanModeEntry (s : State) : Host.Outcome State Fault Refusal :=
  .next (if testEnabled s && !s.scanMode then { zeroOnly s with scanMode := true } else s)

/-- SCAN_MODE_EXIT: the core stays in reset until the next PWR_CORE. -/
def execScanModeExit (s : State) : Host.Outcome State Fault Refusal :=
  .next (if s.scanMode then holdCore { s with scanMode := false } else s)

/-- MBIST_START. -/
def execMbistStart (s : State) : Host.Outcome State Fault Refusal :=
  .next (if testEnabled s && !s.scanMode then zeroOnly s else s)

end Sys2Proof.Machine
end

