-- ==== Sys2Proof/Machine/Functions.lean ====
section
/-!
DEFINITION. Resets of functions (R289, R295 to R300), the BLOCK reset request (R286, R289), and the function port
(R393, R394).
-/

namespace Sys2Proof.Machine

/-! ## A BLOCK reset is requested -/

/-- The request runs from now; a transition defers it (R335), a request already made stands. -/
def blockRequest (s : State) : State :=
  { s with pw := { s.pw with block := some (s.pw.block.getD (s.clk.meridian, s.bn.btime)) } }

/-- MG_RESET write (R286). -/
def mgResetW (s : State) (v : Word) : State := if v = 0xB10C0001 then blockRequest s else s

/-- MG_RESET: bits [31:16] guard, bit [0] BLOCK, every other value ignored. -/
def execMgReset (a : Access) (v : Word) (s : State) : Host.Outcome State Fault Refusal :=
  .next (hostWrite s a (mgmtAt a 8) (fun s => mgResetW s v))

/-! ## The stop of a function (R296, steps 1 and 2) -/

def ownsRing (s : State) (f g : Nat) : Bool := ((ringOwner s g).map (·.func)) == some f
def ownsCq (s : State) (f q : Nat) : Bool := ((cqOwner s q).map (·.func)) == some f

/-- Step 1: no fetch, no notice; what F has not issued yet is never issued, but for dirty-page log entries, and read data that
arrives is discarded. -/
def stopIo (s : State) (f : Nat) : State :=
  let mine := fun c => (findChain s c).any (fun x => x.func == f)
  let s := forget s (fun o => match o with
    | .fetch g => ownsRing s f g
    | .stage g => ownsRing s f g
    | .input c _ => mine c
    | _ => false)
  let s := dropQueued s (fun o => match o with
    | .output c _ => mine c
    | _ => false)
  let lane := fun (l : Lane) => { l with waiting := l.waiting.filter (fun n => n.func ≠ f) }
  { s with
    rings := s.rings.mapVal (fun g r => if ownsRing s f g then
      { r with fetch := .idle, fgather := .none, descs := [], sgather := .none, sfault := false, offerAt := none } else r)
    lane0 := lane s.lane0
    lane1 := lane s.lane1 }

/-- Units that run a descriptor of the function. -/
def unitsOf (s : State) (f : Nat) : List Nat :=
  (s.units.filter (fun e => match e.2.job with
    | some j => (findChain s j.chain).any (fun c => c.func == f)
    | none => false)).map (·.1)

/-- A chain that has claimed no unit: it is removed as discarded (R304). -/
def neverStarted (c : Chain) : Bool := c.segs.all (fun g => g.st == .waiting || g.st == .later)

/-- Removes every chain of the function with its queue entries; one that had a late record is counted as late (R74). -/
def dropChains (s : State) (f : Nat) : State :=
  let late := s.chains.filter (fun e => e.2.func == f && live e.2 && e.2.lateRec)
  let s := late.foldl (fun s e => lateChain s e.2 e.2.lastRec) s
  let ids := (s.chains.filter (fun e => e.2.func == f)).map (·.1)
  { s with
    chains := s.chains.filter (fun e => e.2.func ≠ f)
    pools := s.pools.mapVal (fun _ p => { p with queue := p.queue.filter (fun e => !ids.contains e.chain) }) }

/-- Every context of the function's ranges becomes FREE; the zero-fill begins (R298). -/
def freeContexts (s : State) (f : Nat) : State :=
  match funcRec s f with
  | none => s
  | some r =>
    let inStd := fun i => decide (r.stdBase ≤ i ∧ i < r.stdBase + r.stdCount)
    let inCmp := fun i => decide (r.cmpBase ≤ i ∧ i < r.cmpBase + r.cmpCount)
    let s := { s with sc := { s.sc with
      std := s.sc.std.filter (fun e => !inStd e.1)
      cmp := s.sc.cmp.filter (fun e => !inCmp e.1)
      wb := s.sc.wb.filter (fun w => !(if w.ref.compact then inCmp w.ref.idx else inStd w.ref.idx)) } }
    let x := getFn s f
    setFn s f { x with
      rstStd := (r.stdBase, r.stdCount), rstCmp := (r.cmpBase, r.cmpCount)
      ctxFill := true, fillAt := s.clk.meridian, fillStd := (r.stdBase, r.stdCount) :: x.fillStd
      fillCmp := (r.cmpBase, r.cmpCount) :: x.fillCmp }

/-- Every slot whose OWNER is the function is erased, and what it owns of its range (R207, R295, R296). -/
def eraseOwner (s : State) (f : Nat) : State :=
  scrubOwner (eraseWhere s (fun i => ownsSlot s f i || ((getSlot s i).kind != 0 && (getSlot s i).own == f))) f

/-- The reset's course up to step 2 for a function with a record. -/
def vfStop (s : State) (f : Nat) : State :=
  let discard := (s.chains.filter (fun e => e.2.func == f && live e.2 && neverStarted e.2)).length
  let us := unitsOf s f
  let s := dropChains (stopIo s f) f
  let s := us.foldl stopNoRecord s
  let s := eraseOwner s f
  let s := scWaiting (freeContexts s f)
  let s := { s with cqs := s.cqs.mapVal (fun q c => if ownsCq s f q then { c with reserved := 0, noteN := 0, ops := [] } else c) }
  dropKept (setFn s f { getFn s f with discard := min discard 0xFFFFFF, aborted := min us.length 0xFFFF })

/-- A reset of VF function f is requested (R295); flr tells who asks. A function without a record has its slots
erased and nothing else. -/
def vfReset (s : State) (f : Nat) (flr : Bool) : State :=
  let x := getFn s f
  if x.resetting then
    setFn s f { x with merged := true, causeCtl := x.causeCtl || !flr, causeFlr := x.causeFlr || flr }
  else
    let s := setFn s f { x with
      resetting := true, causeCtl := !flr, causeFlr := flr, t0 := controlCycle s, discard := 0, aborted := 0,
      rstStd := (0, 0), rstCmp := (0, 0) }
    if (funcRec s f).isSome then vfStop s f else eraseOwner s f

/-- VF_CTL write. -/
def vfCtlW (s : State) (f : Nat) (v : Word) : State := if wbit v 0 then vfReset s f false else s

/-- VF_CTL_RESET (R295). -/
def execVfCtlReset (a : Access) (f : BitVec 13) (v : Word) (s : State) : Host.Outcome State Fault Refusal :=
  .next (hostWrite s a (vfAt a f.toNat 0) (fun s => vfCtlW s (f.toNat + 1) v))

/-- FLR_READY is 1: start-up has reached step 5 (R376), and the block is not in A2 or on its way into it or out of it (R394). -/
def flrReady (s : State) : Bool := active s && s.pw.mode == .run && decide (5 ≤ s.pw.step ∧ s.pw.step < 15)

/-- An FLR request is taken: that of the PF is a BLOCK reset (R289, R295). -/
def takeFlr (s : State) (n : Nat) : State :=
  if !flrReady s || decide (0x2000 < n) then s
  else
    let s := { s with flrPend := s.flrPend ++ [n] }
    if n = 0 then blockRequest s else vfReset s n true

/-- A beat of the function port fails its parity check: it is discarded, and FP_PERR pulses in the next cycle (R394). -/
def fpError (s : State) : State := { s with fpPerr := some (controlCycle s) }

/-- FLR_VALID is held at 1 while FLR_READY is 0: from the A2 entry until the exit has ended (R371, R394). -/
def flrHeld (s : State) (n : Nat) (parityOk : Bool) : State :=
  wake { s with pw := { s.pw with flrWake := if s.pw.flrWake.isEmpty then [(n, parityOk)] else s.pw.flrWake } }

/-- A beat of FLR_VALID while FLR_READY may be 1: taken, or discarded where FLR_PAR fails (R394). -/
def flrBeat (s : State) (x : Nat × Bool) : State := if x.2 then takeFlr s x.1 else fpError s

/-- FLR_REQUEST (R289, R295, R371, R394). -/
def execFlrRequest (f : BitVec 14) (parityOk : Bool) (s : State) : Host.Outcome State Fault Refusal :=
  .next (
    if s.pw.coreHeld then s
    else if s.pw.mode = .a2Entry ∨ s.pw.mode = .a2 ∨ s.pw.mode = .a2Exit then flrHeld s f.toNat parityOk
    else if !ported s then s
    else flrBeat s (f.toNat, parityOk))

/-- A2_EXIT_COMPLETE (R373): an FLR request that woke the block starts its reset (R371). -/
def execA2ExitComplete (s : State) : Host.Outcome State Fault Refusal :=
  .next (
    if s.pw.mode = .a2Exit ∧ s.clk.lock ∧ !s.pw.coreHeld then
      let t := exitA2 s
      s.pw.flrWake.foldl flrBeat { t with pw := { t.pw with flrWake := [] } }
    else s)

/-- A transaction belongs to function f: its own, or an entry of its log (R296). -/
def txnOf (f : Nat) (t : Txn) : Bool :=
  t.func == f || (match t.who with
    | .log _ _ v => v == f
    | _ => false)

/-- Steps 2 and 3 are done: no response is owed and no unit of the function is being scrubbed. -/
def vfQuiet (s : State) (f : Nat) : Bool :=
  s.ports.all (fun e => !e.2.out.any (txnOf f) && !e.2.sendQ.any (txnOf f)) &&
    !s.units.any (fun e => e.2.st == 2 && e.2.lockFunc == f)

/-- Steps 4 and 5 (R296): rings, queues and notices of the function at reset values, FLR done for its requests. The holding
registers and the captured upper halves of its address pairs (R6) stay as they are (log 44). -/
def vfDone (s : State) (f : Nat) : State :=
  let x := getFn s f
  let n := (s.flrPend.filter (· == f)).length
  let s := { s with
    rings := s.rings.filter (fun e => !ownsRing s f e.1)
    cqs := s.cqs.filter (fun e => !ownsCq s f e.1)
    nv := if (funcRec s f).isSome then s.nv.filter (fun e => e.1 / 16 ≠ f) else s.nv
    flrPend := s.flrPend.filter (· ≠ f)
    fdn := s.fdn ++ List.replicate n f }
  setFn s f { x with
    resetting := false, done := true, resets := (x.resets + 1) % 2 ^ 16, rstCount := sat32 x.rstCount
    rstTime := min (controlCycle s - x.t0) 0xFFFFFF }

/-- VF_RESET_COMPLETE: that of a function with STATE NONE waits for nothing (R295). -/
def execVfResetComplete (f : BitVec 14) (s : State) : Host.Outcome State Fault Refusal :=
  .next (
    if engineUp s && (getFn s f.toNat).resetting && ((funcRec s f.toNat).isNone || vfQuiet s f.toNat) then vfDone s f.toNat else s)

/-- Root cycles that a fill takes at least: 8 granules of 64 bytes in a tile cycle (R298). -/
def fillTime (x : Fn) : Nat :=
  2 * cdiv (2 * ((x.fillStd.head?).map (·.2)).getD 0 + ((x.fillCmp.head?).map (·.2)).getD 0) 8

/-- CTX_FILL_DONE (R298): the last granule is written. -/
def execCtxFillDone (f : BitVec 14) (s : State) : Host.Outcome State Fault Refusal :=
  let x := getFn s f.toNat
  .next (if engineUp s && x.ctxFill && decide (x.fillAt + fillTime x ≤ s.clk.meridian) then
    setFn s f.toNat { x with ctxFill := false, fillStd := [], fillCmp := [] } else s)

/-! ## The function port (R393, R394) -/

/-- A read with this function id awaits data on some port. -/
def readPending (s : State) (f : Nat) : Bool := s.ports.any (fun e => e.2.out.any (fun t => !t.write && t.func == f))

/-- PENDING_QUERY. -/
def execPendingQuery (f : BitVec 14) (parityOk : Bool) (s : State) : Host.Outcome State Fault Refusal :=
  .next (
    if !ported s then s
    else if parityOk then { s with tpq := s.tpq ++ [readPending s f.toNat] }
    else fpError s)

/-- The beat that a lane sent in the flagged cycle, the one before this, goes ahead of those that wait. -/
def resend (s : State) (odd : Bool) : State :=
  let l := getLane s odd
  match l.sent.find? (fun x => x.2 + 1 == controlCycle s) with
  | some x => flushLane (setLane s odd { l with waiting := { x.1 with again := true } :: l.waiting }) odd
  | none => s

/-- FP_HOST_PERR: both lanes' beats of the flagged cycle are sent again, each with a fresh credit (R394). -/
def execFpHostPerr (s : State) : Host.Outcome State Fault Refusal :=
  .next (if ported s then resend (resend s false) true else s)

/-- What leaves the block in a CCLK cycle: an answer to a pending query, and where the host chip is ready for it a response of each
target port, an FLR done beat and a response byte of the debug link (R390, R393, R395; log 56). -/
def hostTakes (s : State) : State :=
  { s with
    tp0 := if s.ready.trs0 then s.tp0.drop 1 else s.tp0, tp1 := if s.ready.trs1 then s.tp1.drop 1 else s.tp1
    fdn := if s.ready.fdn then s.fdn.drop 1 else s.fdn, tpq := s.tpq.drop 1
    dbg := if s.ready.dbg then s.dbg.drop 1 else s.dbg }

end Sys2Proof.Machine
end

