-- ==== Sys2Proof/Machine/Control.lean ====
section
/-!
DEFINITION. What the clock does whatever is commanded: what waits at the ports and in the notice lanes leaves, the samples and
waits of a control cycle end with it (R57, R77, R95, R116, R199, R268), and the root cycle itself (log 1).
-/

namespace Sys2Proof.Machine

/-- The end of a control cycle: levels are sampled after everything of the cycle, queue operations that wait are applied,
commands that wait are judged again, the scrubs of start-up step 4 begin, and the host chip takes what it is ready for. -/
def controlEdge (s : State) : State :=
  let s := (s.pools.map (·.1)).foldl (fun s p => famineSample (iqSample s p) p) s
  let s := { s with cqs := s.cqs.mapVal (fun _ c => cqTurn (controlCycle s) c) }
  let s := ((s.rings.filter (·.2.enable)).map (·.1)).foldl famineClock s
  let s := hostTakes (keyScrubs (fuseResume s))
  if engineUp s then chartPhase (kvRedraw (scWaiting s)) else s

/-- A control cycle of the 64 in which CORE_RST_N is 0 after a BLOCK or TAMPER reset; at the last one the credits are granted
again (R376, R389). -/
def resetEdge (s : State) : State :=
  { s with pw := { s.pw with rstLeft := s.pw.rstLeft - 1 }, ports := if s.pw.rstLeft ≤ 1 then [] else s.ports }

/-- The end of a control cycle, in a reset or out of it. -/
def cycleEdge (s : State) : State := if s.pw.rstLeft = 0 then controlEdge s else resetEdge s

/-- What waits at the initiator ports and in the notice lanes leaves. -/
def leave (s : State) : State := flushLanes ((s.ports.map (·.1)).foldl pump s)

/-- What every root cycle counts: the Meridian, the busy cycles of units, the time of pools in fallback. -/
def countCycle (s : State) : State :=
  let busy := ((s.units.map (·.1)).eraseDups).filter (fun u => (getUni s u).st == 1)
  let s := busy.foldl (fun s u => count s u (fun c => { c with busy := (c.busy + 1) % 2 ^ 64 })) s
  { s with
    clk := { s.clk with meridian := s.clk.meridian + 1 }
    pools := s.pools.mapVal (fun _ x => if x.fallback then { x with fbTime := (x.fbTime + 1) % 2 ^ 64 } else x) }

/-- One root cycle; until the PLL locks, one control cycle of the reference, in which no root-derived domain advances and the
Meridian stands (R369). -/
def rootCycle (s : State) : State :=
  if !powered s then s
  else if s.clk.lock then
    let s := leave s
    countCycle (if s.clk.meridian % 4 = 3 then cycleEdge s else s)
  else if onRef s then
    let s := cycleEdge (leave s)
    { s with clk := { s.clk with slow := s.clk.slow + 1 } }
  else s

end Sys2Proof.Machine
end

