-- ==== Sys2Proof/Machine/Debug.lean ====
section
/-!
DEFINITION. Debug authorisation (R320, R321) and the access notices (R313, R318, R322).
-/

namespace Sys2Proof.Machine

/-- DEVICE_ID (R187): zero while ATT_VALID is 0 (R320). -/
def dbgDeviceId (s : State) : Bytes := if s.kv.attValid then (sha384 ([0x04] ++ s.kv.attPub)).take 8 else zeros 8

/-- A nonce is valid (R320). -/
def nonceValid (s : State) : Bool := s.ac.nonceAt.isSome

/-- The statement that the owner signs. -/
def dbgStatement (s : State) : Bytes :=
  [0x4B, 0x57, 0x44, 0x31] ++ dbgDeviceId s ++ s.ac.nonce ++ toLE 1 s.lc.state ++ zeros 3

/-- The first failing check of AUTH, or DONE. -/
def authCode (s : State) : Nat :=
  if s.lc.state ≠ 3 ∧ s.lc.state ≠ 4 then 5
  else if !nonceValid s then 1
  else if s.rings.any (fun e => e.2.active) || s.units.any (fun e => e.2.st == 1) then 4
  else if (sha384 ([0x04] ++ s.ac.key)).take 32 ≠ ownerHash s then 2
  else if !verify384 s.ac.key (sha384 (dbgStatement s)) s.ac.sig then 3
  else 0

def setDbg (s : State) (code : Nat) : State := { s with ac := { s.ac with dbgResult := code } }

/-- CHALLENGE: a nonce of DRBG instance 0; without output of it no nonce exists (log 11). -/
def dbgChallenge (s : State) : State :=
  if !drbgUp s 0 then setDbg s 1
  else
    let x := drbgDraw s 0 32
    setDbg { x.1 with ac := { x.1.ac with nonceAt := some s.clk.meridian, nonce := x.2 } } 0

/-- The four bytes of the debug key's hash that a DEBUG_GRANT record names (R362). -/
def dbgKeyHash (s : State) : Bytes := (sha384 ([0x04] ++ s.ac.key)).take 4

/-- AUTH: the checks are made on the registers as they stand (log 30), the nonce is consumed, the end is an event. -/
def dbgAuth (s : State) : State :=
  { s with ac := { s.ac with dbgBusy := true, dbgCode := authCode s, dbgHash := dbgKeyHash s, nonceAt := none } }

def dbgRelease (s : State) : State := setDbg { s with ac := { s.ac with granted := false } } 0

/-- AC_DBG_CMD (R322): BUSY while an AUTH runs. -/
def dbgCmd (s : State) (v : Word) : State :=
  let op := wfld v 0 2
  if op = 0 then s
  else if s.ac.dbgBusy then setDbg s 6
  else if op = 1 then dbgChallenge s
  else if op = 2 then dbgAuth s
  else dbgRelease s

/-- DBG_CHALLENGE (R320). -/
def execDbgChallenge (a : Access) (s : State) : Host.Outcome State Fault Refusal :=
  .next (hostWrite s a (mgmtAt a 0x400050) (fun s => dbgCmd s 1))

/-- DBG_AUTH (R320). -/
def execDbgAuth (a : Access) (s : State) : Host.Outcome State Fault Refusal :=
  .next (hostWrite s a (mgmtAt a 0x400050) (fun s => dbgCmd s 2))

/-- DBG_RELEASE (R321). -/
def execDbgRelease (a : Access) (s : State) : Host.Outcome State Fault Refusal :=
  .next (hostWrite s a (mgmtAt a 0x400050) (fun s => dbgCmd s 3))

/-- A new K_OPR of a reseeded instance 0; none while HEALTH_FAIL keeps it from reseeding (R204, R216), or in an erase hold, which
keeps it cleared (R347). -/
def drawOpr (s : State) : State :=
  let s := reseedAll s
  if drbgUp s 0 && !eraseHold s then
    let x := drbgDraw s 0 16
    { x.1 with kv := { x.1.kv with kopr := some x.2 } }
  else s

/-- A successful AUTH (R321), in its order: every secret goes and the scrubs start, every slot and context is erased, the
Lodestone is unusable and a new K_OPR is drawn, one record is written; then GRANTED rises. -/
def dbgGrant (s : State) : State :=
  let data := dbgDeviceId s ++ s.ac.dbgHash
  let s := eraseVault (zeroize s)
  let s := drawOpr { s with ac := { s.ac with lodeOff := true } }
  let s := logReq s 0xB true true data
  acLatch { s with ac := { s.ac with granted := true } } 4

/-- DBG_AUTH_COMPLETE (R320, R321). -/
def execDbgAuthComplete (s : State) : Host.Outcome State Fault Refusal :=
  .next (
    if engineUp s && s.ac.dbgBusy then
      let t := { s with ac := { s.ac with dbgBusy := false, dbgResult := s.ac.dbgCode } }
      if s.ac.dbgCode = 0 then dbgGrant t else t
    else s)

/-- DBG_NONCE_EXPIRE (R320): 2^32 root cycles after the draw. -/
def execDbgNonceExpire (s : State) : Host.Outcome State Fault Refusal :=
  .next (match s.ac.nonceAt with
    | some t => if active s && decide (t + 2 ^ 32 ≤ s.clk.meridian) then { s with ac := { s.ac with nonceAt := none } } else s
    | none => s)

/-- LOCKED_LOG_INTERVAL (R318): Meridian bits [31:0] have passed 0. -/
def execLockedLogInterval (s : State) : Host.Outcome State Fault Refusal :=
  let n := s.clk.meridian / 2 ^ 32
  .next (if active s && decide (s.ac.lockIv < n) then
    { s with ac := { s.ac with
      lockIv := n, lockPrev := if n = s.ac.lockIv + 1 then s.ac.lockCur else 0, lockCur := 0, lockSeen := false } }
  else s)

/-- AC_NOTICE write (R313): a cleared violation bit arms its record again. -/
def acNoticeW (s : State) (v : Word) : State :=
  { s with ac := { s.ac with notice := s.ac.notice &&& ~~~(BitVec.ofNat 5 v.toNat) } }

/-- AC_NOTICE_CLEAR (R313). -/
def execAcNoticeClear (a : Access) (v : Word) (s : State) : Host.Outcome State Fault Refusal :=
  .next (hostWrite s a (mgmtAt a 0x400008) (fun s => acNoticeW s v))

end Sys2Proof.Machine
end

