-- ==== Sys2Proof/Machine/Helms.lean ====
section
/-!
DEFINITION. Traps of Helm sequencers (R234), preemption (R250), and the return of a unit in FAULT (R351).
-/

namespace Sys2Proof.Machine

/-- The units bound to a Helm, in the order of the Chart (R232, R253). -/
def helmUnits (s : State) (h : Nat) : List Nat := (s.chart.units.filter (fun r => r.helm == some h)).map (·.uid)

/-- A unit of a trapped Helm: its descriptor ends CHECK_MISMATCH and it enters FAULT (R234). -/
def trapUnit (s : State) (uid : Nat) : State :=
  let s := abortRecord s uid stMismatch 0x0B22
  let s := setUni s uid { getUni s uid with st := 4 }
  if (getUni s uid).sched then release s uid else s

/-- HELM_TRAP (R234): causes 1 to 3 of R253. -/
def helmTrap (s : State) (h cause : Nat) : State :=
  let l := helmUnits s h
  let x := getHelm s h
  let s := l.foldl trapUnit s
  let s := setHelm s h { getHelm s h with st := 3, trap := cause }
  let s := voidFewer { s with hl := { s.hl with traps := sat32 s.hl.traps } }
  logReq s 8 false false
    (toLE 1 h ++ toLE 1 cause ++ toLE 2 x.op ++ toLE 2 (l.getD 0 0) ++ toLE 2 (l.getD 1 0))

def execHelmTrap (h : BitVec 4) (cause : BitVec 8) (s : State) : Host.Outcome State Fault Refusal :=
  .next (
    if engineUp s && s.ch.state == 2 && (getHelm s h.toNat).st != 3 && decide (1 ≤ cause.toNat ∧ cause.toNat ≤ 3) then
      helmTrap s h.toNat cause.toNat
    else s)

/-- A unit that HL_PREEMPT may name. -/
def preemptible (s : State) (uid : Nat) : Bool :=
  match unitRec s uid with
  | some r => r.cls == 2 && r.parent.isNone && (r.pool.bind (poolRec s)).any (·.preempt)
  | none => false

/-- HL_PREEMPT write (R250); a write while BUSY is ignored, as one during a load is (R267). -/
def preemptW (s : State) (v : Word) : State :=
  let uid := wfld v 0 12
  if quietWrites s || s.hl.preBusy then s
  else if !preemptible s uid then { s with hl := { s.hl with preResult := 2 } }
  else if (getUni s uid).job.isNone then { s with hl := { s.hl with preResult := 1 } }
  else
    let s := abortRecord s uid stAborted 0x0B23
    { s with hl := { s.hl with preBusy := true, preUid := uid, preempted := sat32 s.hl.preempted } }

def execHlPreempt (a : Access) (v : Word) (s : State) : Host.Outcome State Fault Refusal :=
  .next (hostWrite s a (mgmtAt a 0x70038) (fun s => preemptW s v))

/-- BN_FAULT_CLR write (R351); a write while BUSY is ignored. -/
def faultClrW (s : State) (v : Word) : State :=
  let uid := wfld v 0 12
  if s.bn.faultBusy then s
  else
    let halt := ((unitRec s uid).bind (·.helm)).any (fun h => (getHelm s h).st == 3)
    let ok := (unitRec s uid).any (·.parent.isNone) && (getUni s uid).st == 4 && !halt
    { s with bn := { s.bn with
      faultUid := BitVec.ofNat 12 uid, faultBusy := ok, faultResult := if ok then s.bn.faultResult else 2 } }

def execBnFaultClr (a : Access) (v : Word) (s : State) : Host.Outcome State Fault Refusal :=
  .next (hostWrite s a (mgmtAt a 0x9003C) (fun s => faultClrW s v))

/-- UNIT_KAT_DONE (R351). -/
def execUnitKatDone (pass : Bool) (s : State) : Host.Outcome State Fault Refusal :=
  let uid := s.bn.faultUid.toNat
  .next (
    if !running s || !s.bn.faultBusy then s
    else
      let s := { s with bn := { s.bn with faultBusy := false, faultResult := if pass then 0 else 1 } }
      if pass then setUni s uid { getUni s uid with st := 0 } else logReq s 0xE false false (toLE 2 uid))

end Sys2Proof.Machine
end

