-- ==== Sys2Proof/Machine/Payments.lean ====
section
/-!
DEFINITION. PIN failure limits of functions (R184): the intervals and PY_NOTICE.
-/

namespace Sys2Proof.Machine

/-- PIN_FAIL_INTERVAL (R184): Meridian bits [31:0] have passed 0. -/
def execPinFailInterval (s : State) : Host.Outcome State Fault Refusal :=
  let n := s.clk.meridian / 2 ^ 32
  .next (if active s && decide (s.py.iv < n) then
    { s with
      py := { s.py with iv := n }
      fns := s.fns.mapVal (fun _ x => { x with pinIv := 0 }) }
  else s)

/-- PY_NOTICE write: clearing LIMIT clears FUNC and COUNT. -/
def pyNoticeW (s : State) (v : Word) : State :=
  if wbit v 0 then { s with py := { s.py with notLimit := false, notFunc := 0, notCount := 0 } } else s

/-- PY_NOTICE_CLEAR (R183, R184). -/
def execPyNoticeClear (a : Access) (v : Word) (s : State) : Host.Outcome State Fault Refusal :=
  .next (hostWrite s a (mgmtAt a 0x60020) (fun s => pyNoticeW s v))

end Sys2Proof.Machine
end

