-- ==== Sys2Proof/Machine/RegsBase.lean ====
section
/-!
DEFINITION. Register maps, part 1: pairs (R6), rings, queues and notices (R58 to R60), AD_ (R81 to R83), IQ_
(R97, R98). A read answers the state after its side effect and the value; a write answers the state. Offsets are
relative to the block.
-/

namespace Sys2Proof.Machine

/-! ## Shapes of registers (R4, R6) -/

/-- A read without a side effect. -/
def ro (s : State) (n : Nat) : State × Word := (s, word n)

/-- An address of bits [51:0]. -/
def addr52 (n : Nat) : Nat := n % 2 ^ 52

/-- A base of bits [51:12]. -/
def page52 (n : Nat) : Nat := n % 2 ^ 52 / 4096 * 4096

/-- A count that saturates in its register. -/
def sat (n : Nat) : Nat := min n 0xFFFFFFFF

/-! ## Request rings (R58) -/

/-- Bits of an owner register: function and local index. -/
def ownerWord (o : Option FuncRec) (base : FuncRec → Nat) (n : Nat) : Nat :=
  match o with
  | some f => f.func + 2 ^ 16 * ((n - base f) % 256)
  | none => 0

/-- RG_BIND. -/
def rgBind (s : State) (g : Nat) : Nat :=
  match ringCq s g, ringBind s g with
  | some q, some b => q + 2 ^ 16 * b.cls
  | _, _ => 0

def rgRead (s : State) (g o : Nat) : State × Word :=
  let r := getRing s g
  let key := 0x03000000 + g * 0x80
  match o with
  | 0x00 => loRead s key r.base
  | 0x04 => hiRead s key r.base
  | 0x08 => (s, rgCfgWord r)
  | 0x10 => (s, r.posted)
  | 0x14 => (s, r.accepted)
  | 0x18 => (s, r.credit)
  | 0x1C => (s, rgStatusWord r)
  | 0x20 => ro s (rgBind s g)
  | 0x24 => ro s (ownerWord (ringOwner s g) (·.ringBase) g)
  | _ => ro s 0

/-- A write of a ring's register block; the base pair is written while ACTIVE is 0 only, both halves (R48). -/
def rgWrite (s : State) (g o : Nat) (v : Word) : State :=
  let key := 0x03000000 + g * 0x80
  match o with
  | 0x00 => if (getRing s g).active || ringResetting s g then s else loWrite s key v
  | 0x04 => hiWrite s key v (fun s n => rgBase s g (page52 n))
  | 0x08 => rgCfg s g v
  | 0x0C => rgDoorbell s g v
  | 0x1C => rgStatusW s g v
  | _ => s

/-! ## Completion queues (R59) -/

def cqRead (s : State) (q o : Nat) : State × Word :=
  let c := getCq s q
  let key := 0x03800000 + q * 0x80
  match o with
  | 0x00 => loRead s key c.base
  | 0x04 => hiRead s key c.base
  | 0x08 => (s, cqCfgWord c)
  | 0x0C => ro s (c.coalCount + 2 ^ 8 * c.coalTime)
  | 0x14 => (s, c.granted)
  | 0x18 => (s, c.written)
  | 0x1C => ro s c.reserved
  | 0x20 => (s, cqStatusWord c)
  | 0x24 => (s, wpPosWord c)
  | 0x2C => (s, wpStatusWord c)
  | 0x30 => (setCq s q { c with dropped := 0 }, word c.dropped)
  | 0x34 => ro s (ownerWord (cqOwner s q) (·.cqBase) q)
  | _ => ro s 0

/-- CQ_WP_POS write. -/
def wpPosW (s : State) (q : Nat) (v : Word) : State :=
  if cqResetting s q then s else setCq s q { getCq s q with wpPos := v, wpShown := false }

def cqWrite (s : State) (q o : Nat) (v : Word) : State :=
  let key := 0x03800000 + q * 0x80
  match o with
  | 0x00 => if (getCq s q).active || cqResetting s q then s else loWrite s key v
  | 0x04 => hiWrite s key v (fun s n => cqBase s q (page52 n))
  | 0x08 => cqCfg s q v
  | 0x0C => cqCoal s q v
  | 0x10 => cqGrantW s q v
  | 0x20 => cqStatusW s q v
  | 0x24 => wpPosW s q v
  | 0x28 => cqWpCmd s q (wfld v 0 2)
  | _ => s

/-! ## Notices (R60) -/

/-- A vector of a function without a FUNCTIONS record behaves as RSV (R287). -/
def nvRead (s : State) (f k o : Nat) : State × Word :=
  let n := getNv s f k
  if f ≠ 0 ∧ (funcRec s f).isNone then ro s 0
  else match o with
  | 0x0 => ro s (b2n n.hold + 2 * b2n n.pend)
  | 0x4 => (setNv s f k { n with count := 0 }, word n.count)
  | _ => ro s 0

def nvWrite (s : State) (f k o : Nat) (v : Word) : State :=
  match o with
  | 0x0 => nvHold s f k v
  | _ => s

/-! ## AD_ (R81 to R83) -/

/-- AD_POOL_CFG. -/
def adPoolCfg (s : State) (r : PoolRec) : Nat :=
  let l := poolUnits s r.pool
  r.cls + 4 * ((l.head?).map (·.check)).getD 0 + 2 ^ 8 * l.length

/-- AD_POOL_STATE: SPARE reads 1 where no Chart defines the pool (R82). -/
def adPoolState (s : State) (p : Nat) : Nat :=
  nServ s p + 2 ^ 8 * b2n (inSpare s p || (poolRec s p).isNone) + 2 ^ 9 * b2n (getPool s p).fallback

def adPoolRead (s : State) (p o : Nat) : State × Word :=
  let x := getPool s p
  match o with
  | 0x00 => ro s (((poolRec s p).map (adPoolCfg s)).getD 0)
  | 0x04 => ro s (adPoolState s p)
  | 0x08 => ro s (sat (runOf s p s.clk.meridian))
  | 0x0C => ro s (sat (queuedOf s p))
  | 0x10 => ro s (waitingOf s p).length
  | 0x14 => ro s (((poolRec s p).map (·.spareLvl)).getD 0)
  | 0x18 => (setPool s p { x with accepted := 0 }, word x.accepted)
  | 0x1C => (setPool s p { x with refused := 0 }, word x.refused)
  | 0x20 => (setPool s p { x with nores := 0 }, word x.nores)
  | 0x24 => (setPool s p { x with late := 0 }, word x.late)
  | 0x28 => ro s (famineLevel s p)
  | 0x2C => ro s x.famWm
  | 0x30 => ro s x.famPeak
  | 0x34 => ro s (b2n x.famCrossed + 2 ^ 16 * x.famCount)
  | _ => ro s 0

def adClassRead (s : State) (k o : Nat) : State × Word :=
  match classRec s k with
  | none => ro s 0
  | some c =>
    match o with
    | 0x00 => ro s (c.poolC + 2 ^ 8 * c.poolH + 2 ^ 16 * c.poolA + 2 ^ 24 * c.weight)
    | 0x04 => ro s c.bFix
    | 0x08 => ro s c.bDesc
    | 0x0C => ro s c.bKib
    | 0x10 => ro s (c.rate + 2 ^ 24 * b2n c.excess)
    | 0x14 => ro s c.burst
    | 0x18 => ro s c.ref
    | 0x1C => ro s (s.chart.rings.filter (·.cls == k)).length
    | _ => ro s 0

def adRead (s : State) (o : Nat) : State × Word :=
  match o with
  | 0x00 => loRead s 0x20000 s.clk.meridian
  | 0x04 => hiRead s 0x20000 s.clk.meridian
  | 0x08 => ro s (0x0E10 + 2 ^ 16 * s.chart.pools.length)
  | 0x0C => ro s s.chart.budget
  | 0x10 => ({ s with ad := { s.ad with voidSupply := 0 } }, word s.ad.voidSupply)
  | 0x14 => ({ s with ad := { s.ad with voidFabric := 0 } }, word s.ad.voidFabric)
  | 0x18 => ({ s with ad := { s.ad with voidUnit := 0 } }, word s.ad.voidUnit)
  | 0x1C => ({ s with ad := { s.ad with lateOther := 0 } }, word s.ad.lateOther)
  | o =>
    if 0x1000 ≤ o ∧ o < 0x2000 then adPoolRead s ((o - 0x1000) / 0x40) (o % 0x40)
    else if 0x2000 ≤ o ∧ o < 0x4000 then adClassRead s ((o - 0x2000) / 0x20) (o % 0x20)
    else ro s 0

/-- AD_FAMINE_WM write. -/
def famWmW (s : State) (p : Nat) (v : Word) : State := setPool s p { getPool s p with famWm := wfld v 0 17 }

def adWrite (s : State) (o : Nat) (v : Word) : State :=
  if 0x1000 ≤ o ∧ o < 0x2000 then
    let p := (o - 0x1000) / 0x40
    match o % 0x40 with
    | 0x2C => famWmW s p v
    | 0x34 => famineNoticeW s p v
    | _ => s
  else s

/-! ## IQ_ (R97, R98) -/

/-- Pools with a latch of IQ_NOTICE set (R96). -/
def noticeSum (s : State) (lo : Nat) : Nat :=
  ((s.pools.filter (fun e => decide (lo ≤ e.1 ∧ e.1 < lo + 32) && (e.2.crossed || e.2.fbEntered))).map
    (fun e => 2 ^ (e.1 - lo))).sum

/-- IQ_POOL_STATE. -/
def iqPoolState (x : Pool) : Nat :=
  b2n x.fallback + 2 * x.cause + 16 * b2n x.scrub + 32 * b2n (x.fallback && !midEmpty x) + 64 * b2n x.fillBank +
    128 * min x.stormCount 127

/-- A word of a pool's IQ block. IQ_POOL_LEVEL reads the last sample (R95; DESIGN CHOICE, log 65). -/
def iqPoolRead (s : State) (p o : Nat) : State × Word :=
  let x := getPool s p
  let key := 0x31038 + p * 0x40
  match o with
  | 0x00 => ro s (((poolRec s p).map (·.share)).getD 0)
  | 0x04 => ro s (iqPoolState x)
  | 0x08 => ro s (b2n x.hold)
  | 0x10 => ro s (if (poolRec s p).isSome then iqCap x else 0)
  | 0x14 => ro s x.level
  | 0x18 => ro s (placeCount x 0 + 2 ^ 8 * placeCount x 1)
  | 0x1C => ro s (placeCount x 2)
  | 0x20 => ro s (placeCount x 3 + 2 ^ 16 * placeCount x 4)
  | 0x24 => ro s x.wm
  | 0x28 => ro s x.peak
  | 0x2C => ro s (b2n x.crossed + 2 * b2n x.fbEntered + 2 ^ 16 * x.crossCount)
  | 0x30 => (setPool s p { x with parity := 0 }, word x.parity)
  | 0x34 => (s, x.poisonLoc)
  | 0x38 => loRead s key x.fbTime
  | 0x3C => hiRead s key x.fbTime
  | _ => ro s 0

def iqRead (s : State) (o : Nat) : State × Word :=
  match o with
  | 0x00 => ro s 0x01004040
  | 0x04 => ro s ((s.chart.pools.map (·.share)).sum + 0xC000)
  | 0x08 => ro s s.iq.storm.toNat
  | 0x0C => ro s s.iq.noticeCfg.toNat
  | 0x10 => loRead s 0x30010 (noticeSum s 0 + 2 ^ 32 * noticeSum s 32)
  | 0x14 => hiRead s 0x30010 (noticeSum s 0 + 2 ^ 32 * noticeSum s 32)
  | 0x18 => ({ s with iq := { s.iq with parityTotal := 0 } }, word s.iq.parityTotal)
  | o => if 0x1000 ≤ o ∧ o < 0x2000 then iqPoolRead s ((o - 0x1000) / 0x40) (o % 0x40) else ro s 0

/-- IQ_WM write: the next sample compares with it. -/
def iqWmW (s : State) (p : Nat) (v : Word) : State := setPool s p { getPool s p with wm := wfld v 0 18 }

def iqWrite (s : State) (o : Nat) (v : Word) : State :=
  match o with
  | 0x08 => { s with iq := { s.iq with storm := BitVec.ofNat 8 v.toNat } }
  | 0x0C => { s with iq := { s.iq with noticeCfg := BitVec.ofNat 5 v.toNat } }
  | o =>
    if 0x1000 ≤ o ∧ o < 0x2000 then
      let p := (o - 0x1000) / 0x40
      match o % 0x40 with
      | 0x08 => iqHoldW s p v
      | 0x0C => retryScrubW s p v
      | 0x24 => iqWmW s p v
      | 0x2C => iqNoticeW s p v
      | _ => s
    else s

end Sys2Proof.Machine
end

