-- ==== Sys2Proof/Machine/RegsUnit.lean ====
section
/-!
DEFINITION. Register maps, part 2: the unit register array (R17 to R20, R143, R161, R230) and HL_ (R252, R253). A member
shows the values of the unit above it where its own record gives none (R18, R20, R230).
-/

namespace Sys2Proof.Machine

/-- The counters of a unit's own registers (R20): a read that clears them clears no other unit's. -/
def setCnt (s : State) (uid : Nat) (c : Counts) : State := { s with cnts := s.cnts.set uid c }

/-! ## Common unit registers (R18) -/

/-- UN_ID. -/
def unId (s : State) (r : UnitRec) : Nat :=
  r.uid + 2 ^ 12 * r.cls + 2 ^ 14 * b2n r.group + 2 ^ 15 * b2n r.parent.isNone +
    2 ^ 16 * levelOf s.chart.units 9 r.uid + 2 ^ 20 * r.parent.getD 0

/-- UN_LOCK: FREE, SCHEDULER, HOST (also while the vault or the scrub of a release holds the unit), PARENT. -/
def unLock (s : State) (r : UnitRec) : Nat :=
  let u := getUni s r.uid
  if r.parent.isSome then 3
  else if u.sched then 1 + 4 * u.lockPool + 256 * u.lockFunc
  else if u.hostHeld then 2 + 2 ^ 31
  else if u.vault || u.relScrub then 2
  else 0

/-- UN_STATUS: STATE, POOL and HOSTCLAIM of the top-level unit, CHECK of the unit itself. -/
def unStatus (s : State) (r : UnitRec) : Nat :=
  let t := (unitRec s (topUnit s r.uid)).getD r
  let u := getUni s t.uid
  shownState t u + 16 * r.check + 256 * (if u.sched then u.lockPool else t.pool.getD 0) + 2 ^ 14 * b2n t.hostClaim

/-- UN_MEMBERS. -/
def unMembers (s : State) (r : UnitRec) : Nat :=
  if r.group then 256 * (membersOf s.chart.units r.uid).length else r.tile

/-- UN_CHILDn. -/
def unChild (s : State) (r : UnitRec) (n : Nat) : Nat :=
  let m := membersOf s.chart.units r.uid
  let f := fun i => ((m[i]?).map (·.uid)).getD 0
  if r.group then f (2 * n) + 2 ^ 16 * f (2 * n + 1) else 0

/-- DONE and PASS of the known-answer tests of a unit's tiles (R143, R161, R230). -/
def unKat (s : State) (r : UnitRec) : Nat :=
  let pass := (leaves s r.uid).all (fun l => !s.pw.tileBad.contains (l.cls, l.tile))
  if s.pw.katDone then 1 + 2 * b2n pass else 0

def unCommon (s : State) (r : UnitRec) (o : Nat) : State × Word :=
  let t := topUnit s r.uid
  let u := getUni s t
  let c := getCnt s r.uid
  let key := 0x01000000 + r.uid * 0x100
  match o with
  | 0x00 => ro s (unId s r)
  | 0x04 => ro s (unLock s r)
  | 0x08 => ro s (unStatus s r)
  | 0x0C => ro s (unMembers s r)
  | 0x10 => ro s (unChild s r 0)
  | 0x14 => ro s (unChild s r 1)
  | 0x18 => ro s (unChild s r 2)
  | 0x1C => ro s (unChild s r 3)
  | 0x20 => loRead s (key + 0x20) c.jobs
  | 0x24 => hiRead s (key + 0x20) c.jobs
  | 0x28 => loRead s (key + 0x28) c.busy
  | 0x2C => hiRead s (key + 0x28) c.busy
  | 0x30 => (setCnt s r.uid { c with mismatch := 0 }, word c.mismatch)
  | 0x34 => ro s (u.lastStatus + 256 * u.lastFunc)
  | _ => ro s 0

/-! ## CT_ and HT_ registers (R143, R161) -/

/-- CT_KEY and HT_KEY. -/
def keyWord (k : Option KeyReg) : Nat :=
  match k with
  | some k => k.slot % 2 ^ 16 + 2 ^ 16 * (k.gen % 2 ^ 16)
  | none => 0xFFFFFFFF

/-- CT_KEY_OWN.KLEN of a key of n bytes. -/
def klenCode (n : Nat) : Nat := if n ≤ 16 then 1 else if n ≤ 24 then 2 else 3

/-- CT_KEY_OWN and HT_KEY_OWN. -/
def keyOwn (cls : Nat) (k : Option KeyReg) : Nat :=
  match k with
  | some k => k.own + 2 ^ 16 * (if cls = 0 then klenCode k.bytes.length else k.bytes.length) + 2 ^ 31
  | none => 0

def unTile (s : State) (r : UnitRec) (o : Nat) : State × Word :=
  let u := getUni s (topUnit s r.uid)
  let c := getCnt s r.uid
  let key := 0x01000050 + r.uid * 0x100
  match o with
  | 0x40 => ro s (r.action + 4 * r.retryMax)
  | 0x44 => ro s (keyWord u.key)
  | 0x48 => ro s (keyOwn r.cls u.key)
  | 0x4C => ro s (u.op + 2 ^ 16 * b2n u.active)
  | 0x50 => loRead s key c.blocks
  | 0x54 => hiRead s key c.blocks
  | 0x58 => (setCnt s r.uid { c with authFail := 0 }, word c.authFail)
  | 0x5C => (setCnt s r.uid { c with fourth := 0 }, word c.fourth)
  | 0x60 => (setCnt s r.uid { c with retry := 0 }, word c.retry)
  | 0x64 => (setCnt s r.uid { c with scrubs := 0 }, word c.scrubs)
  | 0x68 => ro s u.lastErr.toNat
  | 0x6C => ro s (unKat s r)
  | _ => ro s 0

/-! ## AT_ registers (R230) -/

/-- AT_CFG. -/
def atCfg (s : State) (r : UnitRec) : Nat :=
  r.len + 8 * b2n r.sealed + 16 * tcount s r.uid + 256 * b2n (s.chart.ksu == some r.uid) + 2 ^ 12 * r.helm.getD 0 +
    2 ^ 16 * b2n r.helm.isSome + 2 ^ 18 * r.action + 2 ^ 20 * r.retryMax

/-- AT_CMD_STAT. -/
def atCmdStat (a : Arith) : Nat := b2n a.busy + 2 * b2n a.carryStat + 256 * a.status + 2 ^ 16 * a.detail

/-- AT_PARITY belongs to each tile; a group shows and clears the sum of its tiles (R230, log 49). -/
def atParity (s : State) (uid : Nat) : State × Word :=
  let l := (leaves s uid).map (·.uid)
  (l.foldl (fun s t => setCnt s t { getCnt s t with parity := 0 }) s, word (sat ((l.map (fun t => (getCnt s t).parity)).sum)))

def unArith (s : State) (r : UnitRec) (o : Nat) : State × Word :=
  let t := topUnit s r.uid
  let u := getUni s t
  let a := u.ar
  let key := 0x01000000 + t * 0x100
  match o with
  | 0x40 => ro s (atCfg s ((unitRec s t).getD r))
  | 0x44 => ro s (opdCount s t)
  | 0x4C => (s, a.opdDA)
  | 0x50 => (s, a.opdBC)
  | 0x54 => loRead s (key + 0x54) a.xaddr
  | 0x58 => hiRead s (key + 0x54) a.xaddr
  | 0x5C => (s, a.q)
  | 0x60 => ro s (atCmdStat a)
  | 0x64 => ro s (b2n a.cmdIgnored + 2 * b2n a.apRefused)
  | 0x68 => ro s (opdCount s t - a.valid.length)
  | 0x6C => ro s a.loaded.length
  | 0x70 => loRead s (key + 0x70) a.occ
  | 0x74 => hiRead s (key + 0x70) a.occ
  | 0x78 => atParity s r.uid
  | 0x7C => (s, u.lastErr)
  | 0x80 => ro s (unKat s r)
  | _ => ro s 0

/-- A change of the AT_ registers of unit t. -/
def setAr (s : State) (t : Nat) (f : Arith → Arith) : State :=
  setUni s t { getUni s t with ar := f (getUni s t).ar }

def unArithW (s : State) (uid o : Nat) (v : Word) : State :=
  let t := topUnit s uid
  let key := 0x01000000 + t * 0x100
  match o with
  | 0x48 => atCmdW s uid v
  | 0x4C => setAr s t (fun a => { a with opdDA := v })
  | 0x50 => setAr s t (fun a => { a with opdBC := v })
  | 0x54 => loWrite s (key + 0x54) v
  | 0x58 => hiWrite s (key + 0x54) v (fun s n => setAr s t (fun a => { a with xaddr := addr52 n }))
  | 0x5C => setAr s t (fun a => { a with q := v &&& 0x7FFFFFFF })
  | 0x64 => setAr s t (fun a => { a with cmdIgnored := w1c v 0 a.cmdIgnored, apRefused := w1c v 1 a.apRefused })
  | _ => s

/-- The register block of a unit; of no unit, RSV (R17). -/
def unRead (s : State) (uid o : Nat) : State × Word :=
  match unitRec s uid with
  | none => ro s 0
  | some r => if o < 0x40 then unCommon s r o else if r.cls = 2 then unArith s r o else unTile s r o

def unWrite (s : State) (uid o : Nat) (v : Word) : State :=
  match unitRec s uid with
  | none => s
  | some r => if o = 4 then unLockW s uid v else if r.cls = 2 then unArithW s uid o v else s

/-! ## HL_ (R252, R253) -/

/-- HL_H_STATE.STATE: HALT; else RUN while a bound unit has a descriptor, from its claim on; else SCRUB while one of them is
scrubbed. The vault's own use of the key service unit's Helm shows nothing (R253; DESIGN CHOICE, log 65). -/
def helmState (s : State) (h : Nat) : Nat :=
  let l := helmUnits s h
  if (getHelm s h).st = 3 then 3
  else if l.any (fun u => (getUni s u).job.isSome) then 1
  else if l.any (fun u => (getUni s u).st == 2) then 2
  else 0

/-- A descriptor runs on the i-th unit of a Helm. -/
def helmActs (s : State) (h i : Nat) : Bool := ((helmUnits s h)[i]?).any (fun u => (getUni s u).job.isSome)

/-- The half of HL_H_BIND of the i-th unit. -/
def helmBind (s : State) (h i : Nat) : Nat :=
  match (helmUnits s h)[i]? with
  | some u => u + 2 ^ 12 + 2 ^ 13 * b2n (preemptible s u)
  | none => 0

def helmRead (s : State) (h o : Nat) : State × Word :=
  let x := getHelm s h
  match o with
  | 0x00 => ro s (helmBind s h 0 + 2 ^ 16 * helmBind s h 1)
  | 0x04 => ro s (helmState s h + 4 * b2n (helmActs s h 0) + 8 * b2n (helmActs s h 1) + 256 * x.trap)
  | 0x08 => ro s (x.op + 2 ^ 16 * b2n (helmActs s h 0 || helmActs s h 1))
  | 0x0C => (setHelm s h { x with desc := 0 }, word x.desc)
  | 0x10 => (s, x.lastErr)
  | 0x14 => ro s x.kat.toNat
  | _ => ro s 0

def hlRead (s : State) (o : Nat) : State × Word :=
  let l := s.hl
  match o with
  | 0x00 => ro s (b2n s.ch.fwValid + 2 * b2n (s.helms.any (fun e => e.2.st == 3)))
  | 0x04 => ro s (s.ch.fwSvn + 2 ^ 16 * s.ch.fwBuild)
  | 0x3C => ro s (b2n l.preBusy + 2 * l.preResult)
  | 0x40 => ({ s with hl := { l with preempted := 0 } }, word l.preempted)
  | 0x44 => ({ s with hl := { l with noResult := 0 } }, word l.noResult)
  | 0x48 => ({ s with hl := { l with special := 0 } }, word l.special)
  | 0x4C => ({ s with hl := { l with loadedRead := 0 } }, word l.loadedRead)
  | 0x50 => ({ s with hl := { l with traps := 0 } }, word l.traps)
  | o =>
    if 0x08 ≤ o ∧ o < 0x38 then (s, wordAt s.ch.fwHash ((o - 8) / 4))
    else if 0x100 ≤ o ∧ o < 0x300 then helmRead s ((o - 0x100) / 0x20) (o % 0x20)
    else ro s 0

def hlWrite (s : State) (o : Nat) (v : Word) : State := if o = 0x38 then preemptW s v else s

end Sys2Proof.Machine
end

