-- ==== Sys2Proof/Machine/RegsCore.lean ====
section
/-!
DEFINITION. Register maps, part 3: MG_ and TX_ (R286), CH_ (R273), SC_ (R117), KV_ (R210), PY_ (R183), LC_ (R336), BN_
(R352), CK_ and PW_ (R381, R382), SD_ (R367), LB_ (R368), VF_ (R304), the tenant registers (R292), AC_ (R322, R323).
Offsets are relative to the block.
-/

namespace Sys2Proof.Machine

/-! ## MG_ and TX_ (R286) -/

/-- The oldest of some epochs, cur being the present one and the answer where there is none (R285). -/
def oldest (cur : Word) (l : List Word) : Word :=
  l.foldl (fun a e => if (cur - a).toNat < (cur - e).toNat then e else a) cur

/-- TX_JOB_EPOCH (R285). -/
def jobEpoch (s : State) : Word :=
  oldest s.tx.epoch ((s.chains.filter (fun e => live e.2)).map (·.2.epoch) ++ s.units.filterMap (fun e => e.2.job.map (·.epoch)))

/-- AC_EPOCH_DRAINED (R285): an outbound access is judged when it comes to issue and an inbound one is applied at once, so no
judged access is outstanding between two commands. -/
def drainEpoch (s : State) : Word := s.tx.epoch

def mgRead (s : State) (o : Nat) : State × Word :=
  let t := s.tx
  match o with
  | 0x000 => ro s 0xBE014B37
  | 0x004 => ro s (b2n s.pw.ready + 2 * b2n (s.ch.state == 2) + 4 * b2n (t.state != 0))
  | 0x10C => ro s (t.state + 4 * t.result + 256 * t.reason)
  | 0x110 => (s, t.failLoc)
  | 0x114 => (s, t.failInfo)
  | 0x118 => (s, t.epoch)
  | 0x11C => (s, jobEpoch s)
  | 0x120 => ro s (shadowUsed s)
  | 0x124 => loRead s 0x124 t.psrc
  | 0x128 => hiRead s 0x124 t.psrc
  | 0x12C => ro s t.plen
  | 0x134 => ro s (b2n t.pbusy + 2 * t.presult)
  | 0x138 => ro s (b2n t.stray + 2 * b2n t.lost)
  | o => if 0xF000 ≤ o ∧ o < 0xF100 then nvRead s 0 ((o - 0xF000) / 16) (o % 16) else ro s 0

def mgWrite (s : State) (o : Nat) (v : Word) : State :=
  match o with
  | 0x008 => mgResetW s v
  | 0x100 => txBeginW s v
  | 0x104 => txCommitW s v
  | 0x108 => txRollbackW s v
  | 0x124 => txGate s (fun s => loWrite s 0x124 v)
  | 0x128 => txGate s (fun s => hiWrite s 0x124 v (fun s n => { s with tx := { s.tx with psrc := addr52 n / 8 * 8 } }))
  | 0x12C => txGate s (fun s => { s with tx := { s.tx with plen := wfld v 0 18 } })
  | 0x130 => txPatchW s v
  | 0x138 => txGate s (fun s => { s with tx := { s.tx with stray := w1c v 0 s.tx.stray, lost := w1c v 1 s.tx.lost } })
  | o => if 0xF000 ≤ o ∧ o < 0xF100 then nvWrite s 0 ((o - 0xF000) / 16) (o % 16) v else s

/-! ## CH_ (R273) -/

def chRead (s : State) (o : Nat) : State × Word :=
  let c := s.ch
  match o with
  | 0x000 => ro s (c.state + 4 * c.phase + 256 * c.reason)
  | 0x008 => ro s (b2n c.busy + 2 * c.result)
  | 0x00C => loRead s 0x1000C (c.src / 64 * 64)
  | 0x010 => hiRead s 0x1000C (c.src / 64 * 64)
  | 0x014 => ro s c.len
  | 0x018 => (s, c.failLoc)
  | 0x01C => (s, c.failInfo)
  | 0x020 => (s, c.id)
  | 0x024 => ro s (c.svn + 2 ^ 8 * chartMinSvn s + 2 ^ 16 * fwMinSvn s)
  | 0x028 => (s, c.flags)
  | 0x02C => ({ s with ch := { c with loads := 0 } }, word c.loads)
  | 0x030 => ({ s with ch := { c with rejects := 0 } }, word c.rejects)
  | 0x034 => ro s c.orphans
  | o => if 0x040 ≤ o ∧ o < 0x070 then (s, wordAt c.digest ((o - 0x40) / 4)) else ro s 0

def chWrite (s : State) (o : Nat) (v : Word) : State :=
  match o with
  | 0x004 => chCmdW s v
  | 0x00C => loWrite s 0x1000C v
  | 0x010 => hiWrite s 0x1000C v (fun s n => { s with ch := { s.ch with src := addr52 n } })
  | 0x014 => { s with ch := { s.ch with len := wfld v 0 22 } }
  | _ => s

/-! ## SC_ (R117) -/

/-- SC_SCRUB_LEFT: 32 granules in every three tile cycles of a crypto-erase (R115). -/
def scrubLeft (s : State) : Nat :=
  match s.sc.scrubAt with
  | some t => 0x200000 - min 0x200000 ((s.clk.meridian - t) / 6 * 32)
  | none => s.sc.scrubLeft

def scRead (s : State) (o : Nat) : State × Word :=
  let c := s.sc
  let f := funcRec s c.fnSel.toNat
  let g := fun (k : FuncRec → Nat) => (f.map k).getD 0
  match o with
  | 0x000 => ro s s.chart.stdMib
  | 0x004 => ro s (stdTotal s)
  | 0x008 => ro s (cmpTotal s)
  | 0x00C => ro s (b2n c.ready + 2 * b2n c.erasing)
  | 0x010 => ro s (scrubLeft s)
  | 0x018 => ro s (b2n c.eraseRefused + 2 * b2n c.eraseDone)
  | 0x01C => ({ s with sc := { c with parity := 0 } }, word c.parity)
  | 0x020 => ro s c.fnSel.toNat
  | 0x024 => ro s (g (·.stdBase))
  | 0x028 => ro s (g (·.stdCount))
  | 0x02C => ro s (g (·.cmpBase))
  | 0x030 => ro s (g (·.cmpCount))
  | 0x034 => ro s (g (stdUse s))
  | 0x038 => ro s (g (cmpUse s))
  | 0x044 => ro s c.idx.toNat
  | 0x048 => ro s (b2n c.busy + 2 * c.result)
  | 0x04C => (s, c.peekHdr)
  | 0x050 => (s, c.peekOp)
  | 0x054 => loRead s 0x40054 c.peekInv
  | 0x058 => hiRead s 0x40054 c.peekInv
  | _ => ro s 0

def scWrite (s : State) (o : Nat) (v : Word) : State :=
  let c := s.sc
  match o with
  | 0x014 => scEraseW s v
  | 0x018 => { s with sc := { c with eraseRefused := w1c v 0 c.eraseRefused, eraseDone := w1c v 1 c.eraseDone } }
  | 0x020 => { s with sc := { c with fnSel := BitVec.ofNat 14 v.toNat } }
  | 0x040 => scCmd s v
  | 0x044 => { s with sc := { c with idx := BitVec.ofNat 22 v.toNat } }
  | o => txWriteW s (0x40000 + o) v

/-! ## KV_ (R210) -/

/-- Slots of a function that are not EMPTY. -/
def vltUse (s : State) (f : FuncRec) : Nat :=
  (s.kv.slots.filter (fun e => e.2.kind != 0 && decide (f.vltBase ≤ e.1 ∧ e.1 < f.vltBase + f.vltCount))).length

/-- KV_KSU. -/
def kvKsu (s : State) : Nat :=
  match s.chart.ksu with
  | some u => u + 2 ^ 12
  | none => 0

def kvRegRead (s : State) (o : Nat) : State × Word :=
  let k := s.kv
  let f := funcRec s k.fnSel.toNat
  let g := fun (x : FuncRec → Nat) => (f.map x).getD 0
  match o with
  | 0x000 => ro s (b2n k.ready + 2 * b2n k.erasing + 4 * b2n (lodeUsable s) + 8 * b2n k.attValid)
  | 0x008 => ro s k.idx.toNat
  | 0x00C => (s, k.attr)
  | 0x010 => (s, k.kek)
  | 0x014 => loRead s 0x50014 k.src
  | 0x018 => hiRead s 0x50014 k.src
  | 0x01C => loRead s 0x5001C k.dst
  | 0x020 => hiRead s 0x5001C k.dst
  | 0x024 => ro s k.len.toNat
  | 0x028 => ro s k.dlen.toNat
  | 0x02C => ro s (b2n k.busy + 2 * k.result + 2 ^ 16 * k.outLen)
  | 0x030 => (s, k.peekSlot)
  | 0x034 => (s, k.peekAttr)
  | 0x038 => (s, k.peekKlen)
  | 0x03C => (s, k.peekKcv)
  | 0x040 => (s, k.peekInv)
  | 0x044 => ro s k.fnSel.toNat
  | 0x048 => ro s (g (·.vltBase))
  | 0x04C => ro s (g (·.vltCount))
  | 0x050 => ro s (g (·.domain))
  | 0x054 => ro s (g (vltUse s))
  | 0x058 => ({ s with kv := { k with parity := 0 } }, word k.parity)
  | 0x05C => ({ s with kv := { k with revoked := 0 } }, word k.revoked)
  | 0x060 => ({ s with kv := { k with stale := 0 } }, word k.stale)
  | 0x064 => (s, drbgWord s)
  | 0x068 => ({ s with kv := { k with drbgFail := 0 } }, word k.drbgFail)
  | 0x06C => ro s (kvKsu s)
  | o => if 0x100 ≤ o ∧ o < 0x160 then (s, wordAt k.attPub ((o - 0x100) / 4)) else ro s 0

def kvRegWrite (s : State) (o : Nat) (v : Word) : State :=
  match o with
  | 0x004 => kvCmdW s v false false
  | 0x008 => { s with kv := { s.kv with idx := BitVec.ofNat 16 v.toNat } }
  | 0x00C => { s with kv := { s.kv with attr := v } }
  | 0x010 => { s with kv := { s.kv with kek := v } }
  | 0x014 => loWrite s 0x50014 v
  | 0x018 => hiWrite s 0x50014 v (fun s n => { s with kv := { s.kv with src := addr52 n } })
  | 0x01C => loWrite s 0x5001C v
  | 0x020 => hiWrite s 0x5001C v (fun s n => { s with kv := { s.kv with dst := addr52 n } })
  | 0x024 => { s with kv := { s.kv with len := BitVec.ofNat 16 v.toNat } }
  | 0x028 => { s with kv := { s.kv with dlen := BitVec.ofNat 16 v.toNat } }
  | 0x044 => { s with kv := { s.kv with fnSel := BitVec.ofNat 14 v.toNat } }
  | o => txWriteW s (0x50000 + o) v

/-! ## PY_ (R183) -/

def pyRead (s : State) (o : Nat) : State × Word :=
  let p := s.py
  let f := p.fnSel.toNat
  match o with
  | 0x000 => ro s (s.chart.policy % 8)
  | 0x004 => ({ s with py := { p with xlate := 0 } }, word p.xlate)
  | 0x008 => ({ s with py := { p with pinFormat := 0 } }, word p.pinFormat)
  | 0x00C => ({ s with py := { p with verifyFail := 0 } }, word p.verifyFail)
  | 0x010 => ({ s with py := { p with imported := 0 } }, word p.imported)
  | 0x014 => ro s f
  | 0x018 => (setFn s f { getFn s f with pinFail := 0 }, word (getFn s f).pinFail)
  | 0x01C => ro s p.limit.toNat
  | 0x020 => ro s (b2n p.notLimit + 4 * p.notFunc.toNat + 2 ^ 16 * p.notCount)
  | 0x024 => ro s p.noticeCfg.toNat
  | _ => ro s 0

def pyWrite (s : State) (o : Nat) (v : Word) : State :=
  match o with
  | 0x014 => { s with py := { s.py with fnSel := BitVec.ofNat 14 v.toNat } }
  | 0x01C => { s with py := { s.py with limit := BitVec.ofNat 16 v.toNat } }
  | 0x020 => pyNoticeW s v
  | 0x024 => { s with py := { s.py with noticeCfg := BitVec.ofNat 5 v.toNat } }
  | _ => s

/-! ## LC_ (R336) -/

def lcRead (s : State) (o : Nat) : State × Word :=
  match o with
  | 0x000 => (s, lcStatus s)
  | 0x008 => (s, lcFields s)
  | 0x010 => ro s (b2n s.lc.fuseBusy + 2 * s.lc.fuseResult)
  | 0x014 => ro s s.lc.lastTime
  | o =>
    if 0x040 ≤ o ∧ o < 0x070 then (s, s.lc.data.getD ((o - 0x40) / 4) 0)
    else if 0x080 ≤ o ∧ o < 0x0A0 then (s, fuseWord s (32 + (o - 0x80) / 4))
    else if 0x0A0 ≤ o ∧ o < 0x0D0 then (s, fuseWord s (48 + (o - 0xA0) / 4))
    else ro s 0

def lcWrite (s : State) (o : Nat) (v : Word) : State :=
  match o with
  | 0x004 => lcRequest s v
  | 0x00C => lcFuseCmd s v
  | o =>
    if 0x040 ≤ o ∧ o < 0x070 then { s with lc := { s.lc with data := s.lc.data.set ((o - 0x40) / 4) v } } else s

/-! ## BN_ (R352) -/

/-- BN_ACTn: sources 12 to 15 do not exist. -/
def bnActWord (s : State) (n : Nat) : Nat :=
  if n < 12 then bnAct s n + 4 * bnFloor s n + 16 * b2n (!isLevel n) + 32 * b2n (bnFixed n) else 0

def bnStatus (s : State) : Nat :=
  let b := s.bn
  b2n b.holdOk + 2 * b2n b.vsbWarn + 4 * b2n b.vddWarn + 8 * b2n b.nostart + 16 * b2n (alarmHold s) +
    32 * b2n (eraseHold s) + 64 * b2n b.lock + 128 * b2n b.lcKnown.isSome

def bnRead (s : State) (o : Nat) : State × Word :=
  let b := s.bn
  match o with
  | 0x000 => ro s (bnStatus s)
  | 0x004 => ro s (b2n b.lock)
  | 0x008 => ro s b.notice.toNat
  | 0x00C => ro s b.noticeCfg.toNat
  | 0x010 => ro s b.vsb
  | 0x014 => ro s b.vdd
  | 0x018 => ro s (b.hot.toNat + 256 * b.cold.toNat)
  | 0x01C => (s, b.dipMin)
  | 0x020 => (s, b.dipTime)
  | 0x024 => (s, b.dipSpan)
  | 0x028 => ({ s with bn := { b with dipGroups := 0 } }, word b.dipGroups)
  | 0x02C => ro s b.active.toNat
  | 0x030 => ro s b.latch.toNat
  | 0x034 => ro s b.meshEn.toNat
  | 0x038 => ro s b.meshFail.toNat
  | 0x040 => ro s (b2n b.faultBusy + 2 * b.faultResult + 16 * b.faultUid.toNat)
  | o =>
    if 0x080 ≤ o ∧ o < 0x0C0 then ro s (bnActWord s ((o - 0x80) / 4))
    else if 0x0C0 ≤ o ∧ o < 0x100 then
      let n := (o - 0xC0) / 4
      ({ s with bn := { b with cnt := b.cnt.set n 0 } }, word (b.cnt.getD n 0))
    else ro s 0

def bnWrite (s : State) (o : Nat) (v : Word) : State :=
  let b := s.bn
  match o with
  | 0x004 => bnLockW s v
  | 0x008 => { s with bn := { b with notice := b.notice &&& ~~~(BitVec.ofNat 3 v.toNat) } }
  | 0x00C => { s with bn := { b with noticeCfg := BitVec.ofNat 5 v.toNat } }
  | 0x030 => bnLatchW s v
  | 0x034 => bnMeshW s v
  | 0x03C => faultClrW s v
  | o => if 0x080 ≤ o ∧ o < 0x0C0 then bnActW s ((o - 0x80) / 4) v else s

/-! ## CK_ and PW_ (R370, R371, R381, R382) -/

/-- A unit whose domains A1_EN gates: IDLE, UNPOOLED, or host-held with no command running (R370). -/
def unitGated (s : State) (uid : Nat) : Bool :=
  let u := getUni s uid
  (u.st == 0 || u.hostHeld) && !u.sched && !u.vault && !u.relScrub && u.ar.cmd.isNone

/-- The clock of a tile's domain is gated. -/
def tileGated (s : State) (cls tile : Nat) : Bool :=
  s.pw.a1En && (match s.chart.units.find? (fun r => r.cls == cls && !r.group && r.tile == tile) with
    | some r => unitGated s (topUnit s r.uid)
    | none => true)

def helmGated (s : State) (h : Nat) : Bool := s.pw.a1En && (helmUnits s h).all (unitGated s)

/-- The bits k of n for which p holds. -/
def bitsOf (n : Nat) (p : Nat → Bool) : Nat := ((List.range n).map (fun k => if p k then 2 ^ k else 0)).sum

/-- Every tile and Helm domain is gated. -/
def allGated (s : State) : Bool :=
  (List.range 128).all (tileGated s 0) && (List.range 32).all (tileGated s 1) && (List.range 32).all (tileGated s 2) &&
    (List.range 16).all (helmGated s)

/-- PW_STATE; A1 needs the root clock that is gated. ERROR shows an erase hold that keeps step 4 waiting (R379). -/
def pwState (s : State) : Nat :=
  let e := if s.pw.step == 4 && eraseHold s then 0x0402 else s.pw.error
  b2n (running s && allGated s) + 16 * s.pw.step + 2 ^ 16 * e

def ckRead (s : State) (o : Nat) : State × Word :=
  let c := s.clk
  let p := s.pw
  match o with
  | 0x000 => ro s (b2n c.lock + 2 * b2n c.bypass + 4 * b2n c.refOk)
  | 0x004 => ro s (b2n c.lockLost + 2 * b2n c.refLost)
  | 0x008 => ro s c.refKhz.toNat
  | 0x00C => ro s c.lockTime.toNat
  | 0x020 => ro s (bitsOf 32 (fun k => tileGated s 0 k))
  | 0x024 => ro s (bitsOf 32 (fun k => tileGated s 0 (32 + k)))
  | 0x028 => ro s (bitsOf 32 (fun k => tileGated s 0 (64 + k)))
  | 0x02C => ro s (bitsOf 32 (fun k => tileGated s 0 (96 + k)))
  | 0x030 => ro s (bitsOf 32 (tileGated s 1))
  | 0x034 => ro s (bitsOf 32 (tileGated s 2))
  | 0x038 => ro s (bitsOf 16 (helmGated s))
  | 0x100 => ro s (pwState s)
  | 0x104 => ro s (b2n p.a1En)
  | 0x10C => ro s (b2n p.reqBusy + 2 * p.reqResult)
  | 0x110 => ro s (startKind s)
  | 0x114 => ro s p.startupTime
  | 0x118 => loRead s 0xA0118 p.a2Time
  | 0x11C => hiRead s 0xA0118 p.a2Time
  | 0x120 => ({ s with pw := { p with a2Count := 0 } }, word p.a2Count)
  | _ => ro s 0

def ckWrite (s : State) (o : Nat) (v : Word) : State :=
  match o with
  | 0x004 => { s with clk := { s.clk with lockLost := w1c v 0 s.clk.lockLost, refLost := w1c v 1 s.clk.refLost } }
  | 0x104 => { s with pw := { s.pw with a1En := wbit v 0 } }
  | 0x108 => pwReqW s v
  | _ => s

/-! ## SD_ and LB_ (R367, R368) -/

def sdRegRead (s : State) (o : Nat) : State × Word :=
  let d := s.sd
  match o with
  | 0x000 => ro s (b2n d.frozen + 2 * b2n (d.clearing != 0))
  | 0x004 => ro s (b2n d.frozen)
  | 0x008 => ({ s with sd := { d with missed := 0 } }, word d.missed)
  | 0x010 => ro s (b2n d.autoReleased)
  | 0x014 => loRead s 0xB0014 d.freezeAt
  | 0x018 => hiRead s 0xB0014 d.freezeAt
  | _ => ro s 0

def sdRegWrite (s : State) (o : Nat) (v : Word) : State :=
  match o with
  | 0x004 => sdFreezeW s v
  | 0x00C => sdCmdW s v
  | 0x010 => { s with sd := { s.sd with autoReleased := w1c v 0 s.sd.autoReleased } }
  | _ => s

/-- The writer is writing a slot. -/
def lbWriting (s : State) : Bool := !s.lb.scanning && !s.lb.queue.isEmpty

/-- The slot that the writer is writing (R363, R366). -/
def lbCurrent (s : State) : Option Nat :=
  match s.lb.queue with
  | r :: _ =>
    if s.lb.scanning then none
    else some (if r.pin && !s.lb.second && decide (s.lb.pinned < 256) then s.lb.pinned else s.lb.next)
  | [] => none

/-- n bytes of the Logbook aperture from offset o: a slot in progress reads 0 (R366). -/
def logbookRead (s : State) (o n : Nat) : Bytes :=
  if lbCurrent s = some (o / 64) then zeros n else slice (s.lb.slots.get (zeros 64) (o / 64)) (o % 64) n

def lbRead (s : State) (o : Nat) : State × Word :=
  let l := s.lb
  match o with
  | 0x000 => ro s (b2n l.scanning + 2 * b2n (lbWriting s) + 4 * b2n (decide (256 ≤ l.pinned)))
  | 0x004 => ro s l.next
  | 0x008 => ro s l.seq
  | 0x00C => ro s l.pinned
  | 0x010 => ro s (l.powers % 2 ^ 16)
  | 0x014 => loRead s 0xC0014 s.bn.btime
  | 0x018 => hiRead s 0xC0014 s.bn.btime
  | 0x01C => ({ s with lb := { l with suppressed := 0 } }, word l.suppressed)
  | 0x020 => ({ s with lb := { l with lost := 0 } }, word l.lost)
  | 0x024 => ro s l.torn
  | 0x028 => (s, l.readMark)
  | 0x02C => ro s l.notice.toNat
  | 0x030 => ro s l.noticeCfg.toNat
  | _ => ro s 0

def lbWrite (s : State) (o : Nat) (v : Word) : State :=
  let l := s.lb
  match o with
  | 0x028 => { s with lb := { l with readMark := v } }
  | 0x02C => { s with lb := { l with notice := l.notice &&& ~~~(BitVec.ofNat 3 v.toNat) } }
  | 0x030 => { s with lb := { l with noticeCfg := BitVec.ofNat 5 v.toNat } }
  | _ => s

/-! ## VF_ (R304) and the tenant registers (R292); f is the function id -/

/-- VF_STATE.STATE and CTX_FILL. -/
def vfState (s : State) (f : Nat) : Nat :=
  let x := getFn s f
  (if (funcRec s f).isNone then 0 else if x.resetting then 2 else 1) + 4 * b2n x.ctxFill

def vfRead (s : State) (f o : Nat) : State × Word :=
  let x := getFn s f
  let d := x.dl
  let key := 0x300020 + (f - 1) * 0x80
  match o with
  | 0x04 => ro s (vfState s f + 16 * b2n x.causeCtl + 32 * b2n x.causeFlr)
  | 0x08 => ro s (b2n x.done + 2 * b2n x.late + 4 * b2n x.merged)
  | 0x0C => (setFn s f { x with rstCount := 0 }, word x.rstCount)
  | 0x10 => ro s x.rstTime
  | 0x14 => ro s x.discard
  | 0x18 => ro s x.aborted
  | 0x20 => loRead s key d.base
  | 0x24 => hiRead s key d.base
  | 0x28 => ro s (d.size + 128 * b2n d.enable + 256 * b2n d.active)
  | 0x2C => (s, d.written)
  | 0x30 => (s, d.consumed)
  | 0x38 => ro s (b2n d.allDirty + 2 * b2n d.fault + 4 * b2n d.enRefused + 8 * b2n d.sweepAt.isSome)
  | 0x3C => (setDl s f { d with suppressed := 0 }, word d.suppressed)
  | 0x40 => (setDl s f { d with logged := 0 }, word d.logged)
  | 0x44 => (setDl s f { d with dropped := 0 }, word d.dropped)
  | _ => ro s 0

/-- VF_RST_STAT write. -/
def vfStatW (s : State) (f : Nat) (v : Word) : State :=
  let x := getFn s f
  setFn s f { x with done := w1c v 0 x.done, late := w1c v 1 x.late, merged := w1c v 2 x.merged }

def vfWrite (s : State) (f o : Nat) (v : Word) : State :=
  let key := 0x300020 + (f - 1) * 0x80
  match o with
  | 0x00 => vfCtlW s f v
  | 0x08 => vfStatW s f v
  | 0x20 => loWrite s key v
  | 0x24 => hiWrite s key v (fun s n => setDl s f { (getFn s f).dl with base := page52 n })
  | 0x28 => dlCfgW s f v
  | 0x30 => dlConsumedW s f v
  | 0x34 => dlCmdW s f v
  | 0x38 => dlStatusW s f v
  | _ => s

def tenantRead (s : State) (f o : Nat) : State × Word :=
  let r := funcRec s f
  let g := fun (k : FuncRec → Nat) => (r.map k).getD 0
  let key := 0x10000008 + f * 0x10000
  match o with
  | 0x00 => ro s (f + 2 ^ 16 * g (·.vectors))
  | 0x04 => ro s (vfState s f)
  | 0x08 => loRead s key s.clk.meridian
  | 0x0C => hiRead s key s.clk.meridian
  | 0x10 => ro s (g (·.ringCount) + 2 ^ 16 * g (·.cqCount))
  | 0x14 => ro s (g (·.stdCount))
  | 0x18 => ro s (g (stdUse s))
  | 0x1C => ro s (g (·.cmpCount))
  | 0x20 => ro s (g (cmpUse s))
  | 0x24 => ro s (g (·.vltCount))
  | 0x28 => ro s (g (vltUse s))
  | 0x2C => ro s ((getFn s f).resets % 2 ^ 16)
  | _ => ro s 0

/-- A register of the window of VF function f (R26). -/
def vfWinRead (s : State) (f o : Nat) : State × Word :=
  if o < 0x100 then tenantRead s f o
  else if 0x1000 ≤ o ∧ o < 0x5000 then
    match ringNamed s f ((o - 0x1000) / 0x40) with
    | some g => if o % 0x40 < 0x24 then rgRead s g (o % 0x40) else ro s 0
    | none => ro s 0
  else if 0x5000 ≤ o ∧ o < 0x9000 then
    match cqNamed s f ((o - 0x5000) / 0x40) with
    | some q => if o % 0x40 < 0x34 then cqRead s q (o % 0x40) else ro s 0
    | none => ro s 0
  else if 0x9000 ≤ o ∧ o < 0x9100 then nvRead s f ((o - 0x9000) / 16) (o % 16)
  else ro s 0

def vfWinWrite (s : State) (f o : Nat) (v : Word) : State :=
  if 0x1000 ≤ o ∧ o < 0x5000 then
    match ringNamed s f ((o - 0x1000) / 0x40) with
    | some g => rgWrite s g (o % 0x40) v
    | none => s
  else if 0x5000 ≤ o ∧ o < 0x9000 then
    match cqNamed s f ((o - 0x5000) / 0x40) with
    | some q => cqWrite s q (o % 0x40) v
    | none => s
  else if 0x9000 ≤ o ∧ o < 0x9100 then nvWrite s f ((o - 0x9000) / 16) (o % 16) v
  else s

/-! ## AC_ (R322, R323) -/

/-- Word k of an inbound rule as it reads. -/
def inRuleWord (r : List Word) (k : Nat) : Word :=
  let w := ruleW r k
  match k with
  | 0 => w &&& 0x03FFFF00
  | 1 => (w &&& 0x03FFFF00) ||| 0xFF
  | 2 => w &&& 0x8003FFFF
  | 3 => w &&& 0x3FFF
  | _ => 0

/-- Word k of an outbound rule as it reads. -/
def outRuleWord (r : List Word) (k : Nat) : Word :=
  let w := ruleW r k
  match k with
  | 0 => w &&& 0xFFFFF000
  | 1 => w &&& 0x000FFFFF
  | 2 => (w &&& 0xFFFFF000) ||| 0xFFF
  | 3 => w &&& 0x000FFFFF
  | 4 => w &&& 0x8003FFFF
  | 5 => w &&& 0x3FFF
  | _ => 0

/-- A rule that no commit has written reads 0 throughout (R323). -/
def ruleRead (t : Tbl (List Word)) (f : List Word → Nat → Word) (i k : Nat) : Word :=
  match t.find i with
  | some r => f r k
  | none => 0

/-- The base and the limit of outbound rule i (R323): each is a pair (R6). -/
def outRulePair (s : State) (i k : Nat) : Nat :=
  let w := fun j => (ruleRead s.ac.outRules outRuleWord i j).toNat
  w k + 2 ^ 32 * w (k + 1)

/-- Word k of outbound rule i: AC_OR_BASE and AC_OR_LIMIT are pairs. -/
def outRuleRead (s : State) (i k : Nat) : State × Word :=
  let key := 0x410000 + 0x20 * i
  match k with
  | 0 => loRead s key (outRulePair s i 0)
  | 1 => hiRead s key (outRulePair s i 0)
  | 2 => loRead s (key + 8) (outRulePair s i 2)
  | 3 => hiRead s (key + 8) (outRulePair s i 2)
  | k => (s, ruleRead s.ac.outRules outRuleWord i k)

def acStatRead (s : State) (o : Nat) : State × Word :=
  let a := s.ac
  match o with
  | 0x000 => ro s (b2n a.outDefault)
  | 0x004 => (s, drainEpoch s)
  | 0x008 => ro s a.notice.toNat
  | 0x00C => ro s a.noticeCfg.toNat
  | 0x010 => ro s (a.iv.addr % 2 ^ 26)
  | 0x014 => (s, a.iv.info)
  | 0x018 => ro s a.iv.master.toNat
  | 0x01C => ro s a.iv.rule
  | 0x020 => ({ s with ac := { a with ivCount := 0 } }, word a.ivCount)
  | 0x024 => loRead s 0x400024 a.ov.addr
  | 0x028 => hiRead s 0x400024 a.ov.addr
  | 0x02C => (s, a.ov.info)
  | 0x030 => ro s a.ov.rule
  | 0x034 => ({ s with ac := { a with ovCount := 0 } }, word a.ovCount)
  | 0x038 => ({ s with ac := { a with lockedCount := 0 } }, word a.lockedCount)
  | 0x03C => ({ s with ac := { a with dbgLocked := 0 } }, word a.dbgLocked)
  | 0x040 => ({ s with ac := { a with dbgDenied := 0 } }, word a.dbgDenied)
  | 0x044 => ro s a.fnSel.toNat
  | 0x048 => ro s (dmaPl s a.fnSel.toNat)
  | 0x04C => ro s (b2n a.granted + 2 * b2n (nonceValid s) + 4 * b2n (debugOpen s))
  | 0x054 => ro s (b2n a.dbgBusy + 2 * a.dbgResult)
  | _ => ro s 0

def acRead (s : State) (o : Nat) : State × Word :=
  if 0x060 ≤ o ∧ o < 0x080 then (s, wordAt s.ac.nonce ((o - 0x60) / 4))
  else if 0x080 ≤ o ∧ o < 0x0E0 then (s, wordAt s.ac.key ((o - 0x80) / 4))
  else if 0x0E0 ≤ o ∧ o < 0x140 then (s, wordAt s.ac.sig ((o - 0xE0) / 4))
  else if 0x1000 ≤ o ∧ o < 0x3000 then
    (s, ruleRead s.ac.inRules inRuleWord ((o - 0x1000) / 0x20) (o % 0x20 / 4))
  else if 0x10000 ≤ o ∧ o < 0x90000 then
    outRuleRead s ((o - 0x10000) / 0x20) (o % 0x20 / 4)
  else acStatRead s o

def acWrite (s : State) (o : Nat) (v : Word) : State :=
  let a := s.ac
  match o with
  | 0x008 => acNoticeW s v
  | 0x00C => { s with ac := { a with noticeCfg := BitVec.ofNat 5 v.toNat } }
  | 0x044 => { s with ac := { a with fnSel := BitVec.ofNat 14 v.toNat } }
  | 0x050 => dbgCmd s v
  | o =>
    if 0x080 ≤ o ∧ o < 0x0E0 then { s with ac := { a with key := patchBytes a.key (o - 0x80) (toLE 4 v.toNat) } }
    else if 0x0E0 ≤ o ∧ o < 0x140 then { s with ac := { a with sig := patchBytes a.sig (o - 0xE0) (toLE 4 v.toNat) } }
    else txWriteW s (0x400000 + o) v

end Sys2Proof.Machine
end

