-- ==== Sys2Proof/Machine/Startup.lean ====
section
/-!
DEFINITION. The start-up sequencer from step 2 on (R379, R380) and the end of the no-start hold (R341).
-/

namespace Sys2Proof.Machine

/-! ## STARTUP_STEP_END -/

/-- Start-up ends FAILED: a START record, and a held CH_CMD is discarded (R267, R380). -/
def startFail (s : State) (code : Nat) : State :=
  let s := startRecord s s.pw.step code
  { s with
    pw := { s.pw with step := 15, error := code }
    ch := { s.ch with held := none, busy := false } }

/-- Step 2: the first test that does not continue fails the start-up. -/
def endSelfTest (s : State) (env : StepEnv) : State :=
  let bad := env.tileFail.map (fun t => (t.1.toNat, t.2.toNat))
  let s := { s with pw := { s.pw with
    katDone := true, tileBad := bad, error := if bad.isEmpty then s.pw.error else 0x0201 } }
  let s := if env.entropyFail then healthFail s else s
  if env.drbgFail then startFail s 0x0202
  else if env.entropyFail then startFail s 0x0203
  else if env.verifierFail then startFail s 0x0204
  else if env.deriveFail then startFail s 0x0205
  else { s with kv := { s.kv with startupDone := true }, pw := { s.pw with step := 3 } }

/-- Step 3: the fuse read may take several rounds of fuse programming (R333, R334). -/
def endFuseRead (s : State) : State :=
  let x := fuseRead s
  if x.2 then
    let s := x.1
    let code := if s.lc.state = 0x0F then 0x0301 else if s.lc.state = 6 then 0x0302 else s.pw.error
    keyScrubs { s with pw := { s.pw with error := if eraseHold s then 0x0402 else code, step := 4 } }
  else x.1

/-- Step 4 waits for the end of an erase hold, which ERROR shows (R347). Then every instance is seeded, the masking keys are drawn,
memories are scrubbed, which also ends an ERASE_ALL of the vault or of the contexts that start-up found (R115, R208); step 5
begins: FLR done is signalled and a held CH_CMD is judged (R114, R186, R216, R267, R376). -/
def endKeys (s : State) : State :=
  if eraseHold s then { s with pw := { s.pw with error := 0x0402 } }
  else if s.kv.healthFail then startFail s 0x0401
  else
    let s := (List.range 8).foldl (fun s k => drbgSeed s k) s
    let kctx := drbgDraw s 0 32
    let kopr := drbgDraw kctx.1 0 16
    let kvlt := drbgDraw kopr.1 0 32
    let s := eraseAllEnds kvlt.1 0
    chRelease { s with
      kv := { s.kv with
        kopr := some kopr.2, kvlt := some (newKvlt s kvlt.2), ready := true, erasing := false, scrubAt := none }
      sc := { s.sc with
        kctx := some kctx.2, ready := true, erasing := false, scrubAt := none, scrubLeft := 0
        eraseDone := s.sc.eraseDone || s.sc.eraseCmd, eraseCmd := false }
      pw := { s.pw with step := 5, startupTime := min s.pw.micros 0xFFFFFF }
      fdn := s.fdn ++ s.flrPend
      flrPend := [] }

/-- A Helm's known-answer tests: HALT with TRAP 4 on a failure (R234, R253). -/
def helmTested (bad : List Nat) (s : State) (h : Nat) : State :=
  let x := getHelm s h
  if bad.contains h then setHelm s h { x with kat := 1, st := 3, trap := 4 } else setHelm s h { x with kat := 3 }

/-- A unit that step 6 puts into FAULT. -/
def startsFaulty (s : State) (bad : List Nat) (r : UnitRec) : Bool :=
  r.helm.any (fun h => bad.contains h) || (leaves s r.uid).any (fun l => s.pw.tileBad.contains (l.cls, l.tile))

/-- READY (step 7): the START record once, and the vault begins R187. -/
def startReady (s : State) : State :=
  let s := { s with pw := { s.pw with step := 7, ready := true } }
  let s := if s.pw.startLogged then s
    else
      let t := startRecord s 7 s.pw.error
      { t with pw := { t.pw with startLogged := true } }
  placeAtt s

/-- Step 6: the Helms are tested; failing units enter FAULT. -/
def endActivate (s : State) (env : StepEnv) : State :=
  let bad := env.helmFail.map (·.toNat)
  let s := (List.range 16).foldl (helmTested bad) s
  let l := (s.chart.units.filter (fun r => r.parent.isNone && startsFaulty s bad r)).map (·.uid)
  let s := l.foldl (fun s u => setUni s u { getUni s u with st := 4 }) s
  startReady { s with pw := { s.pw with error := if bad.isEmpty then s.pw.error else 0x0601 } }

/-- STARTUP_STEP_END (R379): step 1 ends by PLL_LOCK, step 5 by CHART_LOAD_END. -/
def execStartupStepEnd (env : StepEnv) (s : State) : Host.Outcome State Fault Refusal :=
  .next (
    if !engineUp s || s.pw.mode != .run then s
    else
      let t := { s with pw := { s.pw with micros := s.pw.micros + env.micros.toNat } }
      match s.pw.step with
      | 2 => endSelfTest t env
      | 3 => endFuseRead t
      | 4 => endKeys t
      | 6 => endActivate t env
      | _ => s)

/-! ## NOSTART_HOLD_END -/

/-- Everything that waited for the end of a no-start hold goes on (R341, R335). -/
def holdEnded (s : State) : State :=
  chRelease (kvRelease (scRelease (fuseResume { s with bn := { s.bn with nostart := false } })))

/-- NOSTART_HOLD_END (R341): 336 Binnacle cycles after the later warning ended. -/
def execNostartHoldEnd (s : State) : Host.Outcome State Fault Refusal :=
  .next (
    if s.bn.nostart && !s.bn.vsbWarn && !s.bn.vddWarn && decide (s.bn.warnEnd + 336 ≤ s.bn.btime) then
      (if active s then holdEnded s else { s with bn := { s.bn with nostart := false } })
    else s)

end Sys2Proof.Machine
end

