-- ==== Sys2Proof/Machine/Ports.lean ====
section
/-!
DEFINITION. The windows (R23 to R27, R390, R391): every access to a register or a read-only aperture, and the debug
interface with its map of internal memories (R316 to R319, R395, R396).
-/

namespace Sys2Proof.Machine

/-! ## The management window (R25) -/

/-- A register of the management window by offset; RSV where the map has none. -/
def regRead (s : State) (off : Nat) : State × Word :=
  let o := off % 0x10000
  if 0x03800000 ≤ off then cqRead s ((off - 0x03800000) / 0x80) (off % 0x80)
  else if 0x03000000 ≤ off then rgRead s ((off - 0x03000000) / 0x80) (off % 0x80)
  else if 0x01000000 ≤ off ∧ off < 0x01100000 then unRead s ((off - 0x01000000) / 0x100) (off % 0x100)
  else if 0x00400000 ≤ off ∧ off < 0x00500000 then acRead s (off - 0x00400000)
  else if 0x00300000 ≤ off ∧ off < 0x00400000 then vfRead s ((off - 0x00300000) / 0x80 + 1) (off % 0x80)
  else match off / 0x10000 with
    | 0x0 => mgRead s o
    | 0x1 => chRead s o
    | 0x2 => adRead s o
    | 0x3 => iqRead s o
    | 0x4 => scRead s o
    | 0x5 => kvRegRead s o
    | 0x6 => pyRead s o
    | 0x7 => hlRead s o
    | 0x8 => lcRead s o
    | 0x9 => bnRead s o
    | 0xA => ckRead s o
    | 0xB => sdRegRead s o
    | 0xC => lbRead s o
    | _ => ro s 0

def regWrite (s : State) (off : Nat) (v : Word) : State :=
  let o := off % 0x10000
  if 0x03800000 ≤ off then cqWrite s ((off - 0x03800000) / 0x80) (off % 0x80) v
  else if 0x03000000 ≤ off then rgWrite s ((off - 0x03000000) / 0x80) (off % 0x80) v
  else if 0x01000000 ≤ off ∧ off < 0x01100000 then unWrite s ((off - 0x01000000) / 0x100) (off % 0x100) v
  else if 0x00400000 ≤ off ∧ off < 0x00500000 then acWrite s (off - 0x00400000) v
  else if 0x00300000 ≤ off ∧ off < 0x00400000 then vfWrite s ((off - 0x00300000) / 0x80 + 1) (off % 0x80) v
  else match off / 0x10000 with
    | 0x0 => mgWrite s o v
    | 0x1 => chWrite s o v
    | 0x2 => adWrite s o v
    | 0x3 => iqWrite s o v
    | 0x4 => scWrite s o v
    | 0x5 => kvRegWrite s o v
    | 0x6 => pyWrite s o v
    | 0x7 => hlWrite s o v
    | 0x8 => lcWrite s o v
    | 0x9 => bnWrite s o v
    | 0xA => ckWrite s o v
    | 0xB => sdRegWrite s o v
    | 0xC => lbWrite s o v
    | _ => s

/-- n bytes of a store from o, of which b is what is known to be in it from its begin on; what lies behind reads 0 where zero
says so, else the spec does not give it (free bytes, log 4). -/
def storeRead (s : State) (b : Bytes) (zero : Bool) (o n : Nat) : State × Bytes :=
  if o + n ≤ b.length ∨ zero = true then (s, slice b o n)
  else (tickFree s n, (List.range n).map (fun i => (b[o + i]?).getD (Config.freeByte (s.free + i))))

/-- Start-up step 4 has scrubbed the Chart store (R379). -/
def storesScrubbed (s : State) : Bool := decide (5 ≤ s.pw.step ∧ s.pw.step ≤ 7)

/-- The read-only apertures: Soundings, Logbook, Helm image; none in register space. -/
def romRead (s : State) (off n : Nat) : Option (State × Bytes) :=
  if 0x00100000 ≤ off ∧ off < 0x00200000 then some (s, sdRead s (off - 0x00100000) n)
  else if 0x00200000 ≤ off ∧ off < 0x00300000 then some (s, logbookRead s (off - 0x00200000) n)
  else if 0x01200000 ≤ off ∧ off < 0x01380000 then some (storeRead s s.ch.helmCode s.ch.helmZero (off - 0x01200000) n)
  else none

/-- The operand aperture (R25). -/
def inAperture (off : Nat) : Bool := decide (0x02000000 ≤ off ∧ off < 0x02800000)

/-- A naturally aligned access of 4 to 64 bytes (R391). -/
def apertureSize (a : Access) (off : Nat) : Bool :=
  decide (2 ≤ a.size.toNat ∧ a.size.toNat ≤ 6) && off % accessBytes a.size == 0

/-- A register access: 4 bytes, aligned (R5). -/
def registerSize (a : Access) (off : Nat) : Bool := decide (a.size = 2) && off % 4 == 0

/-- Step 6 of R307 for a read of the management window, and its answer. -/
def mgmtRead (s : State) (a : Access) (off : Nat) : State × Resp :=
  let n := accessBytes a.size
  if inAperture off then apertureReadAt s a (off - 0x02000000) a.env.agree a.env.parity
  else match romRead s off n with
    | some x => if apertureSize a off then (x.1, respOk x.2) else (s, respErr 1 n)
    | none =>
      if registerSize a off then
        let x := regRead s off
        (x.1, respOk (toLE 4 x.2.toNat))
      else (s, respErr 1 n)

/-- Step 6 of R307 for a write of the management window: one beat of 4 bytes, which is too few for a larger write of the
aperture (R391, log 63). -/
def mgmtWrite (s : State) (a : Access) (off : Nat) (v : Word) : State × Resp :=
  if inAperture off && decide (2 < a.size.toNat) then (s, ⟨1, []⟩)
  else if inAperture off then apertureWriteAt s a (off - 0x02000000) (toLE 4 v.toNat)
  else if (romRead s off 4).isSome || !registerSize a off then (s, ⟨1, []⟩)
  else (regWrite s off v, respOk [])

/-! ## Target ports (R307, R390, R391) -/

/-- A read of a window at TRQ_ADDR. -/
def portRead (s : State) (a : Access) (addr : Nat) : State :=
  let f := a.func.toNat
  let n := accessBytes a.size
  if !coreRstN s then s
  else match access s a false (decodeAddr f addr) with
  | (s, some c) => respond s a (respErr c n)
  | (s, none) =>
    let o := (decodeAddr f addr).getD 0
    if f = 0 then
      let x := mgmtRead s a o
      respond x.1 a x.2
    else if registerSize a o then
      let x := vfWinRead s f o
      respond x.1 a (respOk (toLE 4 x.2.toNat))
    else respond s a (respErr 1 n)

/-- A write of a window at TRQ_ADDR. -/
def portWrite (s : State) (a : Access) (addr : Nat) (v : Word) : State :=
  let f := a.func.toNat
  if !coreRstN s then s
  else match access s a true (decodeAddr f addr) with
  | (s, some c) => respond s a ⟨c, []⟩
  | (s, none) =>
    let o := (decodeAddr f addr).getD 0
    if f = 0 then
      let x := mgmtWrite s a o v
      respond x.1 a x.2
    else if registerSize a o then respond (vfWinWrite s f o v) a (respOk [])
    else respond s a ⟨1, []⟩

/-- REGISTER_WRITE (R4). -/
def execRegisterWrite (a : Access) (addr : BitVec 29) (v : Word) (s : State) : Host.Outcome State Fault Refusal :=
  .next (portWrite s a addr.toNat v)

/-- RC_READ (R4): the value, and the register is cleared. -/
def execRcRead (a : Access) (addr : BitVec 29) (s : State) : Host.Outcome State Fault Refusal :=
  .next (portRead s a addr.toNat)

/-- INBOUND_READ (R307). -/
def execInboundRead (a : Access) (addr : BitVec 29) (s : State) : Host.Outcome State Fault Refusal :=
  .next (portRead s a addr.toNat)

/-! ## The debug interface (R316 to R319, R395, R396) -/

/-- The access that a debug request makes (R316). -/
def dbgReq (r : DebugReq) (addr : Nat) (write : Bool) : Req :=
  ⟨0, r.pl.toNat, 0xFF00 ||| r.id.zeroExtend 16, false, true, false, write, addr⟩

/-- Its attributes as those of a target-port access. -/
def dbgAccess (r : DebugReq) : Access := ⟨false, 0, r.pl, 0xFF00 ||| r.id.zeroExtend 16, true, false, 2, true, r.env⟩

/-- Tiles and the computing tile whose operand memory holds their content: the second half of a DUAL group follows the
first, tile by tile in their order (R213, R227). -/
def tileMirror (units : List UnitRec) : Nat → Nat → List (Nat × Nat)
  | 0, _ => []
  | n + 1, u =>
    match units.find? (·.uid == u) with
    | some r =>
      if r.group then
        match (membersOf units u).map (fun m => tileMirror units n m.uid) with
        | [a, b] => if r.check == 1 then a ++ List.zipWith (fun x y => (y.1, x.2)) (sortOn (·.1) a) (sortOn (·.1) b) else a ++ b
        | l => l.flatten
      else [(r.tile, r.tile)]
    | none => []

/-- The tile whose stored content a tile shows. -/
def storedTile (s : State) (tile : Nat) : Nat :=
  match leafAt s tile with
  | some r => (((tileMirror s.chart.units 9 (topUnit s r.uid)).find? (fun x => x.1 == tile)).map (·.2)).getD tile
  | none => tile

/-- The content of entry n of the middle store, in the share of the pool it lies in: what was written there last, zeros
where a scrub has come since (R91); zeros since step 4 of start-up while no Chart has laid out shares (R379); none where nobody says. -/
def middleEntry (s : State) (n : Nat) : Option Bytes :=
  match s.pools.find? (fun e => decide (1024 * shareBase s e.1 ≤ n ∧ n < 1024 * (shareBase s e.1 + e.2.share))) with
  | some (p, x) =>
    let x := zeroedNow s x
    let i := n - 1024 * shareBase s p
    match x.mid.find i with
    | some b => some b
    | none => if i < x.zeroed then some (zeros 64) else none
  | none => if s.pw.step = 5 ∧ s.tx.epoch = 0 then some (zeros 64) else none

/-- A word of the middle store fails its parity check: the entry that stands there is poisoned, and the error counts as one found by
any other read (R90, R93). -/
def middleParity (s : State) (o : Nat) : State :=
  match s.pools.find? (fun e => decide (1024 * shareBase s e.1 ≤ o / 64 ∧ o / 64 < 1024 * (shareBase s e.1 + e.2.share))) with
  | some (p, x) =>
    match x.queue.find? (fun e => e.place == 2 && e.loc == o / 64 - 1024 * shareBase s p) with
    | some e => parityError s p e (o % 64 / 4)
    | none => s
  | none => s

/-- 4 bytes of the queue middle store; what nothing has written holds what nobody gives (log 4). -/
def middleBytes (s : State) (o : Nat) : State × Bytes :=
  match middleEntry s (o / 64) with
  | some b => (s, slice b (o % 64) 4)
  | none => (tickFree s 4, freeBytes s 4)

/-- A read of the middle store: its word is checked (R22, R93), and answered as it stands. -/
def middleRead (s : State) (o : Nat) (parity : Bool) : State × Bytes :=
  middleBytes (if parity then middleParity s o else s) o

/-- The transaction shadow as bytes: its entries in the form of R277 and R314. -/
def shadowBytes (s : State) : Bytes :=
  s.tx.shadow.flatMap (fun p => toLE 1 p.type ++ toLE 1 p.op ++ zeros 2 ++ toLE 4 p.key ++ padTo (patchSize p - 8) p.body)

/-- A debug address in a locked region (R317). -/
def dbgLocked (s : State) (addr : Nat) : Bool :=
  decide (0x10000000 ≤ addr ∧ addr < 0x18800000) || decide (0x19D80000 ≤ addr ∧ addr < 0x19E00000) ||
    decide (0x19FC0000 ≤ addr ∧ addr < 0x1A010000) ||
    (decide (0x19400000 ≤ addr ∧ addr < 0x19C00000) && tileSealed s ((addr - 0x19400000) / 0x40000))

/-- 4 bytes of an internal memory that is not locked, with what a parity error in them does (R93, R230); none where the map has no
memory. -/
def dbgMemory (s : State) (addr : Nat) (parity : Bool) : Option (State × Bytes) :=
  if 0x18800000 ≤ addr ∧ addr < 0x19400000 then some (middleRead s (addr - 0x18800000) parity)
  else if 0x19400000 ≤ addr ∧ addr < 0x19C00000 then
    let o := addr - 0x19400000
    some (if parity then aperturePar s o else s, Memory.readN s.opmem (storedTile s (o / tileBytes) * tileBytes + o % tileBytes) 4)
  else if 0x19C00000 ≤ addr ∧ addr < 0x19D80000 then some (storeRead s s.ch.helmCode s.ch.helmZero (addr - 0x19C00000) 4)
  else if 0x19E00000 ≤ addr ∧ addr < 0x19F00000 then some (s, sdRead s (addr - 0x19E00000) 4)
  else if 0x19F00000 ≤ addr ∧ addr < 0x19FA0000 then some (storeRead s s.ch.image (storesScrubbed s) (addr - 0x19F00000) 4)
  else if 0x19FA0000 ≤ addr ∧ addr < 0x19FC0000 then
    some (storeRead s (shadowBytes s) (storesScrubbed s && decide (s.tx.high ≤ addr - 0x19FA0000)) (addr - 0x19FA0000) 4)
  else none

/-- Steps 2 to 5 of R307 for a debug request. -/
def dbgJudge (s : State) (r : DebugReq) (addr : Nat) (write : Bool) : State × Option Nat :=
  let q := dbgReq r addr write
  if 0x04000000 ≤ addr && dbgLocked s addr then (lockedAccess s addr q.master 0 true, some 2) else judge s q

/-- A judged debug read. -/
def dbgLoad (s : State) (r : DebugReq) (addr : Nat) : State × Resp :=
  if addr < 0x04000000 then mgmtRead s (dbgAccess r) addr
  else match dbgMemory s addr r.env.parity with
    | some x => (x.1, respOk x.2)
    | none => (s, respOk (zeros 4))

/-- A judged debug write: internal memories are readable only (R316). -/
def dbgStore (s : State) (r : DebugReq) (addr : Nat) (v : Word) : State × Resp :=
  if addr < 0x04000000 then mgmtWrite s (dbgAccess r) addr v
  else (s, ⟨if (dbgMemory s addr false).isSome then 1 else 0, []⟩)

/-- A whole request: command, address, data. One with a byte that failed parity, or an address that is not aligned, answers
ERROR with no effect (R396). -/
def dbgRun (s : State) (r : DebugReq) (b : Bytes) (bad : Bool) : State × Resp :=
  let addr := leAt b 1 4
  let write := b.headD 0 == 2
  let no := fun (c : Nat) => (⟨c, if write then [] else zeros 4⟩ : Resp)
  if bad || addr % 4 != 0 then (s, no 1)
  else match dbgJudge s r addr write with
    | (s, some c) => (s, no c)
    | (s, none) => if write then dbgStore s r addr (wordAt (b.drop 5) 0) else dbgLoad s r addr

/-- The block answers, and the next byte is a command. -/
def dbgAnswer (s : State) (x : Resp) : State := { s with dbg := s.dbg ++ BitVec.ofNat 8 x.err :: x.data, dbgIn := ⟨[], false⟩ }

/-- Bytes of the request that a command byte begins. -/
def dbgLen (b : Bytes) : Nat := if b.headD 0 = 2 then 9 else 5

/-- A byte comes with its parity bit. A command byte that fails parity answers at once, and so does an unknown one (R396,
log 63). -/
def dbgByte (r : DebugReq) (s : State) (x : Byte × Bool) : State :=
  let good := x.2 == oddBit x.1.toNat 0 8
  let b := s.dbgIn.bytes ++ [x.1]
  let bad := s.dbgIn.bad || !good
  if !ported s then s
  else if s.dbgIn.bytes.isEmpty && (!good || (x.1 != 1 && x.1 != 2)) then dbgAnswer s ⟨1, []⟩
  else if b.length < dbgLen b then { s with dbgIn := ⟨b, bad⟩ }
  else
    let y := dbgRun s r b bad
    dbgAnswer y.1 y.2

/-- Bytes come on the debug link: while DBG_PRESENT is 0, or the core does not run, they are ignored (R395, R396). -/
def dbgFeed (r : DebugReq) (s : State) : State :=
  if r.present && ported s then r.bytes.foldl (dbgByte r) s else s

/-- DEBUG_READ (R396): the command byte in the bytes says what is asked. -/
def execDebugRead (r : DebugReq) (s : State) : Host.Outcome State Fault Refusal := .next (dbgFeed r s)

/-- DEBUG_WRITE (R396): the bytes of the data follow on the same link. -/
def execDebugWrite (r : DebugReq) (v : List (Byte × Bool)) (s : State) : Host.Outcome State Fault Refusal :=
  .next (dbgFeed { r with bytes := r.bytes ++ v } s)

end Sys2Proof.Machine
end

