-- ==== Sys2Proof/Machine/Dispatch.lean ====
section
/-!
DEFINITION. The dispatcher: one arm per command, each one direct call of its meaning.
-/

namespace Sys2Proof.Machine

def exec (i : Instr) (s : State) : Host.Outcome State Fault Refusal :=
  match i with
  | .doorbell a g v => Sys2Proof.Machine.execDoorbell a g v s
  | .chainFetch g => Sys2Proof.Machine.execChainFetch g s
  | .admissionOffer g => Sys2Proof.Machine.execAdmissionOffer g s
  | .reofferTimer g => Sys2Proof.Machine.execReofferTimer g s
  | .noexecRecord c => Sys2Proof.Machine.execNoexecRecord c s
  | .schedulerSelect p bad => Sys2Proof.Machine.execSchedulerSelect p bad s
  | .descriptorLoad u env => Sys2Proof.Machine.execDescriptorLoad u env s
  | .loadStageEnd u => Sys2Proof.Machine.execLoadStageEnd u s
  | .readCompletion port tag chk data => Sys2Proof.Machine.execReadCompletion port tag chk data s
  | .executeBlockDone u env => Sys2Proof.Machine.execExecuteBlockDone u env s
  | .writeResponse port tag ok => Sys2Proof.Machine.execWriteResponse port tag ok s
  | .recordIssue c => Sys2Proof.Machine.execRecordIssue c s
  | .noticeCoalTimer q => Sys2Proof.Machine.execNoticeCoalTimer q s
  | .contextWritebackDone compact idx => Sys2Proof.Machine.execContextWritebackDone compact idx s
  | .ringEnable a g v => Sys2Proof.Machine.execRingEnable a g v s
  | .ringDisable a g v => Sys2Proof.Machine.execRingDisable a g v s
  | .cqEnable a q v => Sys2Proof.Machine.execCqEnable a q v s
  | .cqDisable a q v => Sys2Proof.Machine.execCqDisable a q v s
  | .cqGrant a q v => Sys2Proof.Machine.execCqGrant a q v s
  | .waypointSet a q => Sys2Proof.Machine.execWaypointSet a q s
  | .waypointRewind a q => Sys2Proof.Machine.execWaypointRewind a q s
  | .waypointClear a q => Sys2Proof.Machine.execWaypointClear a q s
  | .noticeHoldWrite a k v => Sys2Proof.Machine.execNoticeHoldWrite a k v s
  | .creditTick g => Sys2Proof.Machine.execCreditTick g s
  | .famineNoticeClear a p v => Sys2Proof.Machine.execFamineNoticeClear a p v s
  | .famineTimeUnit g => Sys2Proof.Machine.execFamineTimeUnit g s
  | .iqEntryMove p bad => Sys2Proof.Machine.execIqEntryMove p bad s
  | .stormInterval => Sys2Proof.Machine.execStormInterval s
  | .iqReturnStart p => Sys2Proof.Machine.execIqReturnStart p s
  | .iqReturnEnd p ok => Sys2Proof.Machine.execIqReturnEnd p ok s
  | .retryScrub a p v => Sys2Proof.Machine.execRetryScrub a p v s
  | .iqHoldFallback a p v => Sys2Proof.Machine.execIqHoldFallback a p v s
  | .reshareLayout => Sys2Proof.Machine.execReshareLayout s
  | .iqNoticeClear a p v => Sys2Proof.Machine.execIqNoticeClear a p v s
  | .scEraseAll a v => Sys2Proof.Machine.execScEraseAll a v s
  | .contextScrubDone => Sys2Proof.Machine.execContextScrubDone s
  | .scPeek a kind => Sys2Proof.Machine.execScPeek a kind s
  | .scSeal a kind => Sys2Proof.Machine.execScSeal a kind s
  | .scUnseal a kind => Sys2Proof.Machine.execScUnseal a kind s
  | .scFree a kind => Sys2Proof.Machine.execScFree a kind s
  | .pinFailInterval => Sys2Proof.Machine.execPinFailInterval s
  | .pyNoticeClear a v => Sys2Proof.Machine.execPyNoticeClear a v s
  | .kvPeek a => Sys2Proof.Machine.execKvPeek a s
  | .kvErase a => Sys2Proof.Machine.execKvErase a s
  | .kvGenerate a ktype klen => Sys2Proof.Machine.execKvGenerate a ktype klen s
  | .kvUnwrap a kek => Sys2Proof.Machine.execKvUnwrap a kek s
  | .kvWrap a kek => Sys2Proof.Machine.execKvWrap a kek s
  | .kvAttest a => Sys2Proof.Machine.execKvAttest a s
  | .kvEraseFn a => Sys2Proof.Machine.execKvEraseFn a s
  | .kvEraseAll a => Sys2Proof.Machine.execKvEraseAll a s
  | .vaultScrubDone => Sys2Proof.Machine.execVaultScrubDone s
  | .attPubkeyDone => Sys2Proof.Machine.execAttPubkeyDone s
  | .drbgReseed k => Sys2Proof.Machine.execDrbgReseed k s
  | .entropyHealthFail => Sys2Proof.Machine.execEntropyHealthFail s
  | .atClear a u fl => Sys2Proof.Machine.execAtClear a u fl s
  | .atLoad a u fl => Sys2Proof.Machine.execAtLoad a u fl s
  | .atStore a u fl => Sys2Proof.Machine.execAtStore a u fl s
  | .atVload a u fl => Sys2Proof.Machine.execAtVload a u fl s
  | .atAdd a u fl => Sys2Proof.Machine.execAtAdd a u fl s
  | .atSub a u fl => Sys2Proof.Machine.execAtSub a u fl s
  | .atCsub a u fl => Sys2Proof.Machine.execAtCsub a u fl s
  | .atMul a u fl => Sys2Proof.Machine.execAtMul a u fl s
  | .atMulacc a u fl => Sys2Proof.Machine.execAtMulacc a u fl s
  | .atSqr a u fl => Sys2Proof.Machine.execAtSqr a u fl s
  | .atBfly a u fl => Sys2Proof.Machine.execAtBfly a u fl s
  | .atCmdDone u env => Sys2Proof.Machine.execAtCmdDone u env s
  | .apertureWrite a off data => Sys2Proof.Machine.execApertureWrite a off data s
  | .apertureRead a off env => Sys2Proof.Machine.execApertureRead a off env s
  | .hostClaim a u => Sys2Proof.Machine.execHostClaim a u s
  | .hostRelease a u => Sys2Proof.Machine.execHostRelease a u s
  | .hostReleaseScrubDone u => Sys2Proof.Machine.execHostReleaseScrubDone u s
  | .abortScrubDone u => Sys2Proof.Machine.execAbortScrubDone u s
  | .helmTrap h cause => Sys2Proof.Machine.execHelmTrap h cause s
  | .hlPreempt a v => Sys2Proof.Machine.execHlPreempt a v s
  | .chLoad a keep => Sys2Proof.Machine.execChLoad a keep s
  | .chartLoadEnd => Sys2Proof.Machine.execChartLoadEnd s
  | .chAdvance a => Sys2Proof.Machine.execChAdvance a s
  | .fuseBitProgrammed => Sys2Proof.Machine.execFuseBitProgrammed s
  | .txBegin a v => Sys2Proof.Machine.execTxBegin a v s
  | .txCommit a v => Sys2Proof.Machine.execTxCommit a v s
  | .txRollback a v => Sys2Proof.Machine.execTxRollback a v s
  | .txPatch a v => Sys2Proof.Machine.execTxPatch a v s
  | .txPatchReadDone => Sys2Proof.Machine.execTxPatchReadDone s
  | .transactionalWrite a off v => Sys2Proof.Machine.execTransactionalWrite a off v s
  | .commitValidationEnd => Sys2Proof.Machine.execCommitValidationEnd s
  | .mgReset a v => Sys2Proof.Machine.execMgReset a v s
  | .blockReset => Sys2Proof.Machine.execBlockReset s
  | .vfCtlReset a f v => Sys2Proof.Machine.execVfCtlReset a f v s
  | .flrRequest f parityOk => Sys2Proof.Machine.execFlrRequest f parityOk s
  | .vfResetComplete f => Sys2Proof.Machine.execVfResetComplete f s
  | .ctxFillDone f => Sys2Proof.Machine.execCtxFillDone f s
  | .dlEnable a f v => Sys2Proof.Machine.execDlEnable a f v s
  | .dlDisable a f v => Sys2Proof.Machine.execDlDisable a f v s
  | .dlConsumedWrite a f v => Sys2Proof.Machine.execDlConsumedWrite a f v s
  | .dlRound a f v => Sys2Proof.Machine.execDlRound a f v s
  | .dlSweepDone f => Sys2Proof.Machine.execDlSweepDone f s
  | .dlAllDirtyClear a f v => Sys2Proof.Machine.execDlAllDirtyClear a f v s
  | .pendingQuery f parityOk => Sys2Proof.Machine.execPendingQuery f parityOk s
  | .fpHostPerr => Sys2Proof.Machine.execFpHostPerr s
  | .acNoticeClear a v => Sys2Proof.Machine.execAcNoticeClear a v s
  | .dbgChallenge a => Sys2Proof.Machine.execDbgChallenge a s
  | .dbgAuth a => Sys2Proof.Machine.execDbgAuth a s
  | .dbgAuthComplete => Sys2Proof.Machine.execDbgAuthComplete s
  | .dbgRelease a => Sys2Proof.Machine.execDbgRelease a s
  | .dbgNonceExpire => Sys2Proof.Machine.execDbgNonceExpire s
  | .lockedLogInterval => Sys2Proof.Machine.execLockedLogInterval s
  | .debugRead r => Sys2Proof.Machine.execDebugRead r s
  | .debugWrite r v => Sys2Proof.Machine.execDebugWrite r v s
  | .lcRequest a v => Sys2Proof.Machine.execLcRequest a v s
  | .lcTransitionEnd => Sys2Proof.Machine.execLcTransitionEnd s
  | .lcFuseCmd a v => Sys2Proof.Machine.execLcFuseCmd a v s
  | .supplySample vsb vdd hot cold => Sys2Proof.Machine.execSupplySample vsb vdd hot cold s
  | .nostartHoldEnd => Sys2Proof.Machine.execNostartHoldEnd s
  | .supplyGroupClose => Sys2Proof.Machine.execSupplyGroupClose s
  | .alarmSource src mesh => Sys2Proof.Machine.execAlarmSource src mesh s
  | .alarmConditionEnd n mesh => Sys2Proof.Machine.execAlarmConditionEnd n mesh s
  | .alarmHoldEnd => Sys2Proof.Machine.execAlarmHoldEnd s
  | .eraseScrubDone => Sys2Proof.Machine.execEraseScrubDone s
  | .tamperReset => Sys2Proof.Machine.execTamperReset s
  | .bnLatchClear a v => Sys2Proof.Machine.execBnLatchClear a v s
  | .bnActionWrite a n v => Sys2Proof.Machine.execBnActionWrite a n v s
  | .bnLock a v => Sys2Proof.Machine.execBnLock a v s
  | .bnMeshEnable a v => Sys2Proof.Machine.execBnMeshEnable a v s
  | .bnFaultClr a v => Sys2Proof.Machine.execBnFaultClr a v s
  | .unitKatDone pass => Sys2Proof.Machine.execUnitKatDone pass s
  | .sdFreeze a v => Sys2Proof.Machine.execSdFreeze a v s
  | .sdUnfreeze a v => Sys2Proof.Machine.execSdUnfreeze a v s
  | .sdAutoRelease => Sys2Proof.Machine.execSdAutoRelease s
  | .sdClearPools a v => Sys2Proof.Machine.execSdClearPools a v s
  | .sdClearRings a v => Sys2Proof.Machine.execSdClearRings a v s
  | .sdClearDevice a v => Sys2Proof.Machine.execSdClearDevice a v s
  | .sdClearDone => Sys2Proof.Machine.execSdClearDone s
  | .logbookSlotWritten => Sys2Proof.Machine.execLogbookSlotWritten s
  | .logTokenTick => Sys2Proof.Machine.execLogTokenTick s
  | .logbookScanDone => Sys2Proof.Machine.execLogbookScanDone s
  | .pllLock khz time => Sys2Proof.Machine.execPllLock khz time s
  | .pllLockLost => Sys2Proof.Machine.execPllLockLost s
  | .pllLockRetry noRef => Sys2Proof.Machine.execPllLockRetry noRef s
  | .startupStepEnd env => Sys2Proof.Machine.execStartupStepEnd env s
  | .pwrCore => Sys2Proof.Machine.execPwrCore s
  | .pwrSentinel => Sys2Proof.Machine.execPwrSentinel s
  | .pwReqA2 a => Sys2Proof.Machine.execPwReqA2 a s
  | .pwReqA3 a => Sys2Proof.Machine.execPwReqA3 a s
  | .a2EntryComplete => Sys2Proof.Machine.execA2EntryComplete s
  | .pdWake => Sys2Proof.Machine.execPdWake s
  | .a2ExitComplete => Sys2Proof.Machine.execA2ExitComplete s
  | .powerSwitchLoss g => Sys2Proof.Machine.execPowerSwitchLoss g s
  | .scanModeEntry => Sys2Proof.Machine.execScanModeEntry s
  | .scanModeExit => Sys2Proof.Machine.execScanModeExit s
  | .mbistStart => Sys2Proof.Machine.execMbistStart s
  | .registerWrite a addr v => Sys2Proof.Machine.execRegisterWrite a addr v s
  | .rcRead a addr => Sys2Proof.Machine.execRcRead a addr s
  | .inboundRead a addr => Sys2Proof.Machine.execInboundRead a addr s
  | .crdPulse c => Sys2Proof.Machine.execCrdPulse c s
  | .holdOkChange up => Sys2Proof.Machine.execHoldOkChange up s

end Sys2Proof.Machine
end

