-- ==== Sys2Proof/Safety.lean ====
section
/-!
DEFINITION. What the statements speak of: when a target-port request is granted (R307), the answer that a granted
register write gets, and the properties that every step keeps.
-/

namespace Sys2Proof.Machine

/-- The request of an access to an offset of its window, as R307 judges it. -/
def reqOf (a : Access) (write : Bool) (o : Nat) : Req :=
  ⟨a.func.toNat, a.pl.toNat, a.master, a.port, a.debug, a.fetch, write, o⟩

/-- A 32-bit access to a register passes every step of R307: the ports answer, parity passes, the function identifier
and the address exist, no region is locked, the debug gate lets a debug access pass, a fetch reads microcode, the
rules grant it, and it is one aligned word. -/
def granted (s : State) (a : Access) (write : Bool) (off : Option Nat) : Bool :=
  match off with
  | none => false
  | some o =>
    ported s && a.parityOk && decide (a.func.toNat ≤ 0x2000) && !lockedOff s (reqOf a write o) &&
      (!a.debug || debugPass s (reqOf a write o)) &&
      (!a.fetch || (a.func == 0 && !write && decide (0x01200000 ≤ o ∧ o ≤ 0x0137FFFF))) &&
      (judgeIn s (reqOf a write o)).1 && decide (a.size = 2 ∧ o % 4 = 0)

/-- The state with the OKAY answer of a register write on the port of the access. -/
def acked (s : State) (a : Access) : State :=
  if a.port then { s with tp1 := s.tp1 ++ [⟨0, []⟩] } else { s with tp0 := s.tp0 ++ [⟨0, []⟩] }

/-- The state with the OKAY answer of a register read and its value. -/
def answered (s : State) (a : Access) (w : Word) : State :=
  if a.port then { s with tp1 := s.tp1 ++ [⟨0, toLE 4 w.toNat⟩] } else { s with tp0 := s.tp0 ++ [⟨0, toLE 4 w.toNat⟩] }

/-- A granted write of KV_CMD starts a vault command (R206): the vault is not BUSY and nothing makes it ignore or delay the
write. -/
def kvTakes (s : State) (a : Access) : Bool :=
  granted s a true (kvCmdAt a) && !failedStart s && !quietWrites s && !s.kv.busy && !struck s && !nostart s

/-- A granted write of AT_CMD is judged as a command (R221): the unit is a top-level arithmetic unit that the host holds
and that runs none, and nothing makes it ignore the write. -/
def atTakes (s : State) (a : Access) (u : Nat) : Bool :=
  granted s a true (unitAt a u 0x48) && (unitRec s u).any (·.cls == 2) && !quietWrites s && !struck s &&
    !(getUni s u).ar.busy && (getUni s u).hostHeld && topUnit s u == u

/-- A root cycle that ends a control cycle with nothing waiting for it: an empty queue of commands, the PLL locked, no reset
running, and nothing at a port or in a notice lane. -/
def edgeQuiet (s : State) : Bool :=
  s.pending.isEmpty && powered s && s.clk.lock && s.clk.meridian % 4 == 3 && s.pw.rstLeft == 0 &&
    s.ports.all (fun e => e.2.sendQ.isEmpty) && s.lane0.waiting.isEmpty && s.lane1.waiting.isEmpty

/-- Operand memory is in its canonical form. -/
def MemoryCanonical (s : State) : Prop := Memory.wf s.opmem = true

/-- The twelve alarm actions are at or above their floors (R346). -/
def FloorsHold (s : State) : Prop := s.bn.act.length = 12 ∧ ∀ n, n < 12 → bnFloor s n ≤ bnAct s n

/-- A fuse bit that reads 1 in s reads 1 in t (R327). -/
def FusesLast (s t : State) : Prop := ∀ b, fuseBit s b = true → fuseBit t b = true

/-- The pinned slots written in s are as they were in t (R360); a pinned slot is one of slots 0 to 255. -/
def PinnedLast (s t : State) : Prop :=
  s.lb.pinned ≤ t.lb.pinned ∧ ∀ i, i < s.lb.pinned → t.lb.slots.find i = s.lb.slots.find i

/-- The Logbook positions are where R360 puts them: at most 256 pinned slots, the next circular slot behind them. -/
def LogPlaced (s : State) : Prop := s.lb.pinned ≤ 256 ∧ 256 ≤ s.lb.next ∧ s.lb.next < 16384

/-- The life-cycle state is one of R325. -/
def LifeCycleLegal (s : State) : Prop :=
  s.lc.state = 1 ∨ s.lc.state = 2 ∨ s.lc.state = 3 ∨ s.lc.state = 4 ∨ s.lc.state = 5 ∨ s.lc.state = 6 ∨ s.lc.state = 0x0F

end Sys2Proof.Machine
end

