-- ==== Sys2Proof/Certificates/Slice0/Obligations.lean ====
section
/-!
DEFINITION. The statements for the provers: one Prop each, its docstring saying what it states and the rules it rests
on. A hypothesis granted s a w off says that the target-port access passes every step of R307 (Safety); acked and
answered put its OKAY answer on its port.
-/

open Sys2Proof Sys2Proof.Machine

/-! ## The queue of commands, and what every step keeps -/

/-- A step takes the command at the front of the queue and runs its meaning on the state with the rest of the queue. The
queue is the model's own (log entry 1). -/
def Obligations.StepRunsFrontCommand : Prop :=
  ∀ (s : State) (c : Instr) (rest : List Instr), s.pending = c :: rest → step s = exec c { s with pending := rest }

/-- On an empty queue one root cycle passes. While the PLL is locked the Meridian advances by one (R78); until it locks,
one control cycle of the reference passes, in which the Meridian stands (R369); without power or a reference the state
stays as it is. In the 64 control cycles of a BLOCK or TAMPER reset (R376) each one that ends is counted, and no ring,
queue or chain changes. Where nothing waits at a port or in a notice lane and the cycle does not end a control cycle, the
rest of it is the busy time of every BUSY unit and of the units below it (R18, R20) and the fallback time of every pool
in fallback (R98), and nothing else changes. That the empty queue stands for the clock is the model's choice of log entry
1. -/
def Obligations.EmptyQueueLetsTimePass : Prop :=
  ∀ (s : State), s.pending = [] → ∃ t, step s = .next t ∧
    (powered s = false → t = s) ∧
    (powered s = true → s.clk.lock = true → t.clk = { s.clk with meridian := s.clk.meridian + 1 }) ∧
    (powered s = true → s.clk.lock = false → onRef s = true → t.clk = { s.clk with slow := s.clk.slow + 1 }) ∧
    (powered s = true → s.clk.lock = false → onRef s = false → t = s) ∧
    (powered s = true → s.pw.rstLeft ≠ 0 →
      (s.clk.lock = true ∧ s.clk.meridian % 4 = 3) ∨ (s.clk.lock = false ∧ onRef s = true) →
      t.pw = { s.pw with rstLeft := s.pw.rstLeft - 1 } ∧ t.rings = s.rings ∧ t.cqs = s.cqs ∧ t.chains = s.chains) ∧
    (powered s = true → s.clk.lock = true → s.clk.meridian % 4 ≠ 3 → (∀ e ∈ s.ports, e.2.sendQ = []) →
      s.lane0.waiting = [] → s.lane1.waiting = [] →
      t = { s with clk := { s.clk with meridian := s.clk.meridian + 1 }, cnts := t.cnts, pools := t.pools } ∧
      (∀ u w, (getUni s u).st = 1 → (treeOf s.chart.units 9 u).Nodup → w ∈ treeOf s.chart.units 9 u →
        (∀ v, (getUni s v).st = 1 → v ≠ u → w ∉ treeOf s.chart.units 9 v) →
        getCnt t w = { getCnt s w with busy := ((getCnt s w).busy + 1) % 2 ^ 64 }) ∧
      (∀ w, (∀ v, (getUni s v).st = 1 → w ∉ treeOf s.chart.units 9 v) → getCnt t w = getCnt s w) ∧
      (∀ p, getPool t p = { getPool s p with
        fbTime := if (getPool s p).fallback then ((getPool s p).fbTime + 1) % 2 ^ 64 else (getPool s p).fbTime }))

/-- Every command completes, in every state and with every operand: no step ends in a fault or a refusal, and a step
takes exactly one command out of the queue. The queue and the step on an empty one are the model's own (log entry 1), and
that an event whose cause is absent leaves the state as it is, where it could also be ruled out, is its choice (log entry
24). -/
def Obligations.EveryStepCompletes : Prop :=
  ∀ (s : State), ∃ t, step s = .next t ∧ t.pending = s.pending.tail

/-- Operand memory keeps its canonical form (R214; log entry 2): from every canonical state a step leads to one. -/
def Obligations.StepKeepsMemoryCanonical : Prop :=
  ∀ (s t : State), MemoryCanonical s → step s = .next t → MemoryCanonical t

/-- The action table never holds an action below its floor (R346), whatever step is taken. The block is always in exactly
one of the life-cycle states of R324: from a state code of its table every step leads to one. -/
def Obligations.StepKeepsFloorsAndLifeCycle : Prop :=
  (∀ (s t : State), FloorsHold s → step s = .next t → FloorsHold t) ∧
  (∀ (s t : State), LifeCycleLegal s → step s = .next t → LifeCycleLegal t)

/-- A fuse that reads 1 reads 1 after every step: no command clears one (R327). -/
def Obligations.FusesNeverReturnToZero : Prop :=
  ∀ (s t : State), step s = .next t → FusesLast s t

/-- The pinned area of the Logbook is never overwritten, and both write positions stay in their areas (R360). -/
def Obligations.PinnedRecordsNeverOverwritten : Prop :=
  ∀ (s t : State), LogPlaced s → step s = .next t → LogPlaced t ∧ PinnedLast s t

/-- The registers that the spec gives a reset value hold it: start-up is at step 1 with A1 enabled (R382), the clock in
bypass without lock (R381), the Binnacle actions at the strict floors (R346), no Chart (R269), the transaction closed
(R280), no debug grant (R321), every ring, queue and unit at its default, every vault slot EMPTY. That LB_NEXT is 256,
which R368 calls kept, and that PW_RESET.KIND is that of PWR_CORE, which R382 leaves to the start-up, are the model's
choices (log entry 2, DESIGN CHOICE). The state after reset meets every invariant stated here. -/
def Obligations.ResetState : Prop :=
  (State.reset.pw.step = 1 ∧ State.reset.pw.a1En = true ∧ State.reset.pw.ready = false ∧ State.reset.pw.kind = 2 ∧
    State.reset.clk.bypass = true ∧ State.reset.clk.lock = false ∧ State.reset.clk.meridian = 0 ∧
    State.reset.bn.act = strictFloors ∧ State.reset.lb.next = 256 ∧ State.reset.ch.state = 0 ∧
    State.reset.tx.state = 0 ∧ State.reset.ac.granted = false ∧
    (∀ g, getRing State.reset g = Ring.init) ∧ (∀ q, getCq State.reset q = Cq.init) ∧
    (∀ u, getUni State.reset u = Uni.init) ∧ (∀ i, getSlot State.reset i = Slot.empty)) ∧
  (MemoryCanonical State.reset ∧ FloorsHold State.reset ∧ LogPlaced State.reset ∧ LifeCycleLegal State.reset ∧
    State.reset.pending = [])

/-! ## Rings, completion queues, notices, credits -/

/-- DOORBELL, R41: applied whole or not at all. A count of 0, a disabled ring and a ring in reset change nothing but the
answer; a count within the credit advances RG_POSTED; a longer one leaves RG_POSTED as it is and latches DB_REFUSED.
After either the ring's depth, posted and not accepted, is compared with the extremes of its Soundings record (R356), and
after an advance its famine clock runs exactly when it is in famine (R77). -/
def Obligations.DoorbellWholeOrNot : Prop :=
  ∀ (s : State) (a : Access) (g : BitVec 16) (v : Word) (n : Nat),
    granted s a true (ringAt a g.toNat 0xC) = true → ringNamed s a.func.toNat g.toNat = some n →
    (((getRing s n).enable = false ∨ wfld v 0 17 = 0 ∨ ringResetting s n = true) →
      exec (.doorbell a g v) s = .next (acked s a)) ∧
    ((getRing s n).enable = true → wfld v 0 17 ≠ 0 → ringResetting s n = false →
      posDiff (getRing s n).credit (getRing s n).posted < (wfld v 0 17 : Int) →
      ∃ t, exec (.doorbell a g v) s = .next t ∧
        t = acked { setRing s n { getRing s n with dbRefused := true } with sd := t.sd } a ∧
        t.sd = (depthSounding s n).sd) ∧
    ((getRing s n).enable = true → wfld v 0 17 ≠ 0 → ringResetting s n = false →
      (wfld v 0 17 : Int) ≤ posDiff (getRing s n).credit (getRing s n).posted →
      ∃ t, exec (.doorbell a g v) s = .next t ∧
        t = acked { s with rings := t.rings, sd := t.sd } a ∧
        getRing t n = { getRing s n with
          posted := (getRing s n).posted + word (wfld v 0 17)
          famineAt := if inFamine t n then some ((getRing s n).famineAt.getD s.clk.meridian) else none
          faminePart := if inFamine t n then (getRing s n).faminePart else famineTime s (getRing s n) } ∧
        t.sd = (depthSounding { s with rings := t.rings } n).sd ∧
        ∀ m, m ≠ n → getRing t m = getRing s m)

/-- RING_ENABLE (R48, R75): a ring that is enabled, or in reset, is left as it is; SIZE outside 6 to 16, a ring bound to
nothing or to a queue that is not enabled, a ring still ACTIVE, and the states of R267, R328 and R380 refuse the enable
and latch ENABLE_REFUSED; otherwise every position is 0, the credit is min(BURST, 2^SIZE), taken from the full bucket. -/
def Obligations.RingEnableRule : Prop :=
  ∀ (s : State) (a : Access) (g : BitVec 16) (v : Word) (n : Nat) (r : Ring),
    granted s a true (ringAt a g.toNat 8) = true → ringNamed s a.func.toNat g.toNat = some n →
    r = (if (getRing s n).active then getRing s n else { getRing s n with size := wfld v 0 5 }) →
    ((ringResetting s n = true ∨ r.enable = true) → exec (.ringEnable a g v) s = .next (acked s a)) ∧
    (ringResetting s n = false → r.enable = false →
      (quietWrites s = true ∨ failedStart s = true ∨ r.size < 6 ∨ 16 < r.size ∨ r.active = true ∨
        (∀ q, ringCq s n = some q → (getCq s q).enable = false)) →
      exec (.ringEnable a g v) s = .next (acked (setRing s n { r with enRefused := true }) a)) ∧
    (∀ (q burst : Nat), ringResetting s n = false → r.enable = false → quietWrites s = false → failedStart s = false →
      6 ≤ r.size → r.size ≤ 16 → r.active = false → ringCq s n = some q → (getCq s q).enable = true →
      burst = ((ringClass s n).map (·.burst)).getD 0 →
      ∃ t, exec (.ringEnable a g v) s = .next t ∧ t = acked { s with rings := t.rings } a ∧
        (getRing t n).enable = true ∧ (getRing t n).active = true ∧ (getRing t n).posted = 0 ∧
        (getRing t n).accepted = 0 ∧ (getRing t n).credit = word (min burst (2 ^ r.size)) ∧
        (getRing t n).bucket = (burst - min burst (2 ^ r.size)) * tokenUnit ∧ (getRing t n).size = r.size ∧
        (getRing t n).base = r.base ∧ (getRing t n).halted = false ∧ (getRing t n).descs = [] ∧
        ∀ m, m ≠ n → getRing t m = getRing s m)

/-- RING_DISABLE (R49): admission stops at once and what was posted and not accepted is dropped; ACTIVE falls when no
chain of the ring is outstanding. Positions and bits of the ring stay, every other ring stays, and the accepted chains
stay as they are. A ring in reset ignores the write. SIZE is stored where the ring is not ACTIVE (R48), which is all that
the disable of one that is disabled already does; one that is enabled and no longer ACTIVE is disabled as any other. -/
def Obligations.RingDisableRule : Prop :=
  ∀ (s : State) (a : Access) (g : BitVec 16) (v : Word) (n : Nat) (r : Ring),
    granted s a true (ringAt a g.toNat 8) = true → ringNamed s a.func.toNat g.toNat = some n →
    r = (if (getRing s n).active then getRing s n else { getRing s n with size := wfld v 0 5 }) →
    (ringResetting s n = true → exec (.ringDisable a g v) s = .next (acked s a)) ∧
    (ringResetting s n = false → r.enable = false → exec (.ringDisable a g v) s = .next (acked (setRing s n r) a)) ∧
    (ringResetting s n = false → r.enable = true → ∃ t, exec (.ringDisable a g v) s = .next t ∧
      t = acked { s with rings := t.rings, ports := t.ports } a ∧
      (getRing t n).enable = false ∧ (getRing t n).descs = [] ∧ (getRing t n).fetch = .idle ∧
      (getRing t n).posted = r.posted ∧ (getRing t n).accepted = r.accepted ∧ (getRing t n).credit = r.credit ∧
      (getRing t n).size = r.size ∧ (getRing t n).base = r.base ∧
      ((getRing t n).active = true ↔ r.active = true ∧ ∃ e ∈ s.chains, e.2.ring = n ∧ live e.2 = true) ∧
      ∀ m, m ≠ n → getRing t m = getRing s m)

/-- CQ_ENABLE and CQ_DISABLE (R48, R49, R291). VECTOR at or above the owner's VECTORS, or a queue in reset, ignores the
write. An enable is refused as a ring's is, and that of a queue which no function owns always; of a queue that is enabled
it changes VECTOR alone. A disable while a bound ring is ACTIVE has no effect on ENABLE; otherwise ENABLE falls, and
ACTIVE with it once no record is reserved. That VECTOR is stored by a write which has no effect on ENABLE is the model's
choice of log entry 44. A grant on a queue that has had its operation of the control cycle, or on which another waits,
waits behind it (R57), and a queue in reset ignores it. In the first control cycle with the operation free that ends with
nothing waiting at a port or in a lane it is applied as R44 states, if it is the only one that waits. -/
def Obligations.CompletionQueueRule : Prop :=
  ((∀ (s : State) (a : Access) (q : BitVec 16) (v : Word) (n : Nat) (f : FuncRec) (c : Cq),
    granted s a true (cqAt a q.toNat 8) = true → cqNamed s a.func.toNat q.toNat = some n → cqOwner s n = some f →
    c = { getCq s n with vector := wfld v 12 4, size := if (getCq s n).active then (getCq s n).size else wfld v 0 5 } →
    ((cqResetting s n = true ∨ f.vectors ≤ wfld v 12 4) →
      exec (.cqEnable a q v) s = .next (acked s a) ∧ exec (.cqDisable a q v) s = .next (acked s a)) ∧
    (cqResetting s n = false → wfld v 12 4 < f.vectors → c.enable = true →
      exec (.cqEnable a q v) s = .next (acked (setCq s n c) a)) ∧
    (cqResetting s n = false → wfld v 12 4 < f.vectors → c.enable = false →
      exec (.cqDisable a q v) s = .next (acked (setCq s n c) a) ∧
      exec (.cqEnable a q v) s = .next (acked (setCq s n
        (if quietWrites s = true ∨ failedStart s = true ∨ c.size < 6 ∨ 16 < c.size ∨ c.active = true then
          { c with enRefused := true }
         else { c with
          enable := true, active := true, granted := 0, written := 0, reserved := 0, halted := false, wpValid := false,
          noteN := 0, opAt := none, ops := [] })) a)) ∧
    (cqResetting s n = false → wfld v 12 4 < f.vectors → c.enable = true →
      (boundRings s n).any (fun g => (getRing s g).active) = true →
      exec (.cqDisable a q v) s = .next (acked (setCq s n c) a)) ∧
    (cqResetting s n = false → wfld v 12 4 < f.vectors → c.enable = true →
      (boundRings s n).any (fun g => (getRing s g).active) = false →
      ∃ t, exec (.cqDisable a q v) s = .next (acked t a) ∧ t = { s with cqs := t.cqs } ∧
        getCq t n = { c with enable := false, active := c.active && c.reserved != 0 } ∧
        ∀ m, m ≠ n → getCq t m = getCq s m)) ∧
  (∀ (s : State) (a : Access) (q : BitVec 16) (v : Word) (n : Nat) (c : Cq),
    granted s a true (cqAt a q.toNat 8) = true → cqNamed s a.func.toNat q.toNat = some n → cqOwner s n = none →
    cqResetting s n = false → (getCq s n).enable = false →
    c = { getCq s n with vector := wfld v 12 4, size := if (getCq s n).active then (getCq s n).size else wfld v 0 5 } →
    exec (.cqEnable a q v) s = .next (acked (setCq s n { c with enRefused := true }) a) ∧
    exec (.cqDisable a q v) s = .next (acked (setCq s n c) a))) ∧
  ((∀ (s : State) (a : Access) (q : BitVec 16) (v : Word) (n : Nat),
    granted s a true (cqAt a q.toNat 0x10) = true → cqNamed s a.func.toNat q.toNat = some n →
    (cqResetting s n = true → exec (.cqGrant a q v) s = .next (acked s a)) ∧
    (cqResetting s n = false → (getCq s n).active = true → (cqSlot s (getCq s n) = false ∨ (getCq s n).ops ≠ []) →
      exec (.cqGrant a q v) s = .next (acked (setCq s n { getCq s n with
        ops := (getCq s n).ops ++ [(.grant (wfld v 0 17), controlCycle s)] }) a))) ∧
  (∀ (s : State) (n k at_ : Nat), edgeQuiet s = true → cqSlot s (getCq s n) = true → (getCq s n).active = true →
    (getCq s n).ops = [(.grant k, at_)] → ∃ t, step s = .next t ∧
      getCq t n = (if posDiff ((getCq s n).granted + word k) (getCq s n).written ≤ 2 ^ (getCq s n).size then
          { getCq s n with granted := (getCq s n).granted + word k, opAt := some (controlCycle s), ops := [] }
         else { getCq s n with grantOver := true, opAt := some (controlCycle s), ops := [] })))

/-- CQ_GRANT, R44, where the queue has its operation of the control cycle still to come: applied whole if CQ_GRANTED +
COUNT - CQ_WRITTEN is at most 2^SIZE, else CQ_GRANTED stays and GRANT_OVER latches. While ACTIVE is 0 the write is
ignored and latches nothing; ENABLE plays no part, so a grant of a queue that drains is applied. -/
def Obligations.CqGrantWholeOrNot : Prop :=
  ∀ (s : State) (a : Access) (q : BitVec 16) (v : Word) (n : Nat),
    granted s a true (cqAt a q.toNat 0x10) = true → cqNamed s a.func.toNat q.toNat = some n →
    cqResetting s n = false →
    ((getCq s n).active = false → exec (.cqGrant a q v) s = .next (acked s a)) ∧
    ((getCq s n).active = true → cqSlot s (getCq s n) = true → (getCq s n).ops = [] →
      exec (.cqGrant a q v) s = .next (acked (setCq s n
        (if posDiff ((getCq s n).granted + word (wfld v 0 17)) (getCq s n).written ≤ 2 ^ (getCq s n).size then
          { getCq s n with granted := (getCq s n).granted + word (wfld v 0 17), opAt := some (controlCycle s) }
         else { getCq s n with grantOver := true, opAt := some (controlCycle s) })) a))

/-- WAYPOINT_SET, R54: the command is ignored while BUSY, else it waits with the M of its write for the end of a control
cycle in which the queue has had no other operation, so that a record write of the same cycle goes first (R57). There it
is accepted exactly when CQ_WRITTEN - M lies from 0 to below 2^SIZE; a refused SET answers RANGE and keeps the earlier
Waypoint; CQ_WP_POS shows the mark in force from then on. What CQ_WP_POS gives as M after a SET is the model's choice of
log entry 44. -/
def Obligations.WaypointSetRule : Prop :=
  (∀ (s : State) (a : Access) (q : BitVec 16) (n : Nat),
    granted s a true (cqAt a q.toNat 0x28) = true → cqNamed s a.func.toNat q.toNat = some n →
    ((cqResetting s n = true ∨ wpBusy (getCq s n) = true) → exec (.waypointSet a q) s = .next (acked s a)) ∧
    (cqResetting s n = false → wpBusy (getCq s n) = false →
      exec (.waypointSet a q) s = .next (acked (setCq s n { getCq s n with
        ops := (getCq s n).ops ++ [(.waypoint 1 (wpPosWord (getCq s n)), controlCycle s)] }) a))) ∧
  (∀ (s : State) (n at_ : Nat) (m : Word), edgeQuiet s = true → cqSlot s (getCq s n) = true →
    (getCq s n).ops = [(.waypoint 1 m, at_)] → ∃ t, step s = .next t ∧
      getCq t n = (if 0 ≤ posDiff (getCq s n).written m ∧ posDiff (getCq s n).written m < 2 ^ (getCq s n).size then
        { getCq s n with
          wpMark := m, wpValid := true, wpResult := 0, wpShown := true, opAt := some (controlCycle s), ops := [] }
       else { getCq s n with wpResult := 2, wpShown := true, opAt := some (controlCycle s), ops := [] }))

/-- WAYPOINT_REWIND (the table of R56, first row that applies) and WAYPOINT_CLEAR (R59) are taken as SET is, and have
their effect at the end of a control cycle (R57); the queue's other fields stay. RESULT codes are those of R59. -/
def Obligations.WaypointRewindAndClear : Prop :=
  (∀ (s : State) (a : Access) (q : BitVec 16) (n : Nat),
    granted s a true (cqAt a q.toNat 0x28) = true → cqNamed s a.func.toNat q.toNat = some n →
    ((cqResetting s n = true ∨ wpBusy (getCq s n) = true) →
      exec (.waypointRewind a q) s = .next (acked s a) ∧ exec (.waypointClear a q) s = .next (acked s a)) ∧
    (cqResetting s n = false → wpBusy (getCq s n) = false →
      exec (.waypointRewind a q) s = .next (acked (setCq s n { getCq s n with
        ops := (getCq s n).ops ++ [(.waypoint 2 (wpPosWord (getCq s n)), controlCycle s)] }) a) ∧
      exec (.waypointClear a q) s = .next (acked (setCq s n { getCq s n with
        ops := (getCq s n).ops ++ [(.waypoint 3 (wpPosWord (getCq s n)), controlCycle s)] }) a))) ∧
  (∀ (s : State) (n at_ : Nat) (m : Word) (c : Cq), edgeQuiet s = true → c = getCq s n → cqSlot s c = true →
    (c.ops = [(.waypoint 3 m, at_)] → ∃ t, step s = .next t ∧
      getCq t n = { c with wpValid := false, wpResult := 0, opAt := some (controlCycle s), ops := [] }) ∧
    (c.ops = [(.waypoint 2 m, at_)] → ∃ t, step s = .next t ∧
      (c.wpValid = false →
        getCq t n = { c with wpResult := if c.wpLost then 3 else 1, opAt := some (controlCycle s), ops := [] }) ∧
      (c.wpValid = true → 2 ^ c.size < posDiff (c.written + word c.reserved) c.wpMark →
        getCq t n = { c with wpResult := 4, opAt := some (controlCycle s), ops := [] }) ∧
      (c.wpValid = true → posDiff (c.written + word c.reserved) c.wpMark ≤ 2 ^ c.size →
        getCq t n = { c with
          wpResult := 0, opAt := some (controlCycle s), ops := []
          granted := if 0 < posDiff c.granted (c.wpMark + word (2 ^ c.size)) then c.wpMark + word (2 ^ c.size)
            else c.granted })))

/-- NOTICE_HOLD_WRITE (R52): HOLD 1 absorbs from now on; HOLD 0 sends exactly one notice when PEND was 1, and clears
PEND. NOTICE_COAL_TIMER (R51): once TIME microseconds have passed since the first noticeable chain, both coalescing
values restart and one notice leaves on the queue's vector, or is absorbed there. -/
def Obligations.NoticeHoldAndCoalescing : Prop :=
  (∀ (s : State) (a : Access) (k : BitVec 4) (v : Word),
    granted s a true (nvAt a k.toNat 0) = true → fnResetting s a.func.toNat = false →
    (a.func.toNat = 0 ∨ (funcRec s a.func.toNat).isSome = true) →
    exec (.noticeHoldWrite a k v) s = .next (acked
      (if wbit v 0 then setNv s a.func.toNat k.toNat { getNv s a.func.toNat k.toNat with hold := true }
       else if (getNv s a.func.toNat k.toNat).pend then
        emitNotice (setNv s a.func.toNat k.toNat { getNv s a.func.toNat k.toNat with hold := false, pend := false })
          a.func.toNat k.toNat
       else setNv s a.func.toNat k.toNat { getNv s a.func.toNat k.toNat with hold := false, pend := false }) a)) ∧
  (∀ (s : State) (q : BitVec 16) (f : FuncRec),
    engineUp s = true → (getCq s q.toNat).noteN ≠ 0 → (getCq s q.toNat).coalTime ≠ 0 →
    (getCq s q.toNat).noteAt + (getCq s q.toNat).coalTime * 3000 ≤ s.clk.meridian →
    cqOwner s q.toNat = some f → (getCq s q.toNat).halted = false → fnResetting s f.func = false →
    exec (.noticeCoalTimer q) s =
      .next (sendNotice (setCq s q.toNat { getCq s q.toNat with noteN := 0, noteAt := 0 }) f.func
        (getCq s q.toNat).vector))

/-- CREDIT_TICK (R75): an enabled ring with room whose bucket holds a token gains one credit and loses one token, once in
a control cycle; a ring without room, or that has taken its token of this control cycle, gains nothing. CREDIT_TICK
(R76): where the reserved bucket is empty, a ring with room gains one excess credit and no token is taken, if its class
has EXCESS and every pool of the class is in SPARE, and one of these pools, which has handed out none in this control
cycle, takes the ring in its round of smooth weighted round-robin on WEIGHT; the pool then has handed out its one of the
cycle. In any other case the ring gains nothing. Which of several such pools hands it out, the lowest-numbered in the
Chart's order, and the order among equals of a round are the model's choices (log entry 7). FAMINE_NOTICE_CLEAR (R77):
CROSSED and COUNT clear and the peak restarts at the present level. FAMINE_TIME_UNIT (R356): a ring whose famine, in one
stretch or in several, comes to 4,096 root cycles that no unit has counted gains one unit of its Soundings record,
saturating in 30 bits, and those 4,096 are then counted; with less of it nothing changes. -/
def Obligations.CreditAndFamine : Prop :=
  (∀ (s : State) (g : BitVec 16) (r : Ring), running s = true → r = getRing s g.toNat →
    ((r.enable = false ∨ creditRoom r = false ∨
        (r.tickAt = some (controlCycle s) ∧ tokenUnit ≤ bucketNow s g.toNat)) →
      exec (.creditTick g) s = .next s) ∧
    (r.enable = true → creditRoom r = true → r.tickAt ≠ some (controlCycle s) → tokenUnit ≤ bucketNow s g.toNat →
      ∃ t, exec (.creditTick g) s = .next t ∧ t = { s with rings := t.rings } ∧
        (getRing t g.toNat).credit = r.credit + 1 ∧ (getRing t g.toNat).bucket = bucketNow s g.toNat - tokenUnit ∧
        (getRing t g.toNat).tickAt = some (controlCycle s) ∧ (getRing t g.toNat).posted = r.posted ∧
        (getRing t g.toNat).accepted = r.accepted ∧ ∀ m, m ≠ g.toNat → getRing t m = getRing s m)) ∧
  (∀ (s : State) (g : BitVec 16) (r : Ring) (k : ClassRec), running s = true → r = getRing s g.toNat →
    r.enable = true → creditRoom r = true → bucketNow s g.toNat < tokenUnit → ringClass s g.toNat = some k →
    ((k.excess = false ∨ (∃ p ∈ classPools k, inSpare s p = false) ∨
        (∀ p ∈ classPools k, (getPool s p).excessAt = some (controlCycle s))) →
      exec (.creditTick g) s = .next s) ∧
    (k.excess = true → (∀ p ∈ classPools k, inSpare s p = true) →
      (excessPool s g.toNat = none → exec (.creditTick g) s = .next s) ∧
      (∀ p, excessPool s g.toNat = some p →
        p ∈ classPools k ∧ (getPool s p).excessAt ≠ some (controlCycle s) ∧
        (swrr (getPool s p).excess (excessCand s p)).1 = some g.toNat ∧
        ∃ t, exec (.creditTick g) s = .next t ∧ t = { s with rings := t.rings, pools := t.pools } ∧
          (getRing t g.toNat).credit = r.credit + 1 ∧ (getRing t g.toNat).bucket = bucketNow s g.toNat ∧
          (getRing t g.toNat).tickAt = r.tickAt ∧ (getRing t g.toNat).posted = r.posted ∧
          (getRing t g.toNat).accepted = r.accepted ∧
          getPool t p = { getPool s p with
            excess := (swrr (getPool s p).excess (excessCand s p)).2, excessAt := some (controlCycle s) } ∧
          (∀ m, m ≠ g.toNat → getRing t m = getRing s m) ∧ ∀ q, q ≠ p → getPool t q = getPool s q))) ∧
  ((∀ (s : State) (a : Access) (p : BitVec 6) (v : Word),
    granted s a true (mgmtAt a (0x21034 + p.toNat * 0x40)) = true →
    exec (.famineNoticeClear a p v) s = .next (acked
      (if wbit v 0 then
        setPool s p.toNat { getPool s p.toNat with famCrossed := false, famCount := 0, famPeak := famineLevel s p.toNat }
       else s) a)) ∧
  (∀ (s : State) (g : BitVec 16), running s = true → s.sd.frozen = false → s.sd.clearing.getLsbD 1 = false →
    (famineTime s (getRing s g.toNat) < 4096 → exec (.famineTimeUnit g) s = .next s) ∧
    (4096 ≤ famineTime s (getRing s g.toNat) → ∃ r : Ring,
      exec (.famineTimeUnit g) s = .next { setRing s g.toNat r with
        sd := { s.sd with rings := s.sd.rings.set g.toNat { s.sd.rings.get .init g.toNat with
          famine := min ((s.sd.rings.get .init g.toNat).famine + 1) (2 ^ 30 - 1) } } } ∧
      r = { getRing s g.toNat with famineAt := r.famineAt, faminePart := r.faminePart } ∧
      famineTime s r + 4096 = famineTime s (getRing s g.toNat))))

/-! ## Internal queues -/

/-- IQ_ENTRY_MOVE (R87, R88) with no word in error: one control cycle of moves changes the queue of that pool alone.
Every entry stays in the queue in its order of arrival, with its poison tag; an entry of the head stays there; the head
gains at most two entries, counted over all moves of the control cycle, and never passes 64, when no two entries are the
same. -/
def Obligations.IqMoveKeepsEntries : Prop :=
  ∀ (s : State) (p : BitVec 6), engineUp s = true → (poolRec s p.toNat).isSome = true →
    ((getPool s p.toNat).queue.map (fun e => (e.chain, e.idx, e.stage))).Nodup →
    ∃ t, exec (.iqEntryMove p []) s = .next t ∧ t = { s with pools := t.pools } ∧
      (∀ m, m ≠ p.toNat → getPool t m = getPool s m) ∧
      getPool t p.toNat = { getPool s p.toNat with
        queue := (getPool t p.toNat).queue, fillBank := (getPool t p.toNat).fillBank, mid := (getPool t p.toNat).mid
        moveAt := (getPool t p.toNat).moveAt, moved := (getPool t p.toNat).moved, bankRd := (getPool t p.toNat).bankRd
        bankWr := (getPool t p.toNat).bankWr } ∧
      ((getPool s p.toNat).moved ≤ 2 → (getPool t p.toNat).moved ≤ 2) ∧
      (getPool t p.toNat).queue.map (fun e => (e.chain, e.idx, e.stage, e.poison)) =
        (getPool s p.toNat).queue.map (fun e => (e.chain, e.idx, e.stage, e.poison)) ∧
      (∀ e ∈ (getPool s p.toNat).queue, e.place = 0 → e ∈ (getPool t p.toNat).queue) ∧
      placeCount (getPool t p.toNat) 0 ≤ placeCount (getPool s p.toNat) 0 + 2 ∧
      placeCount (getPool t p.toNat) 0 ≤ max 64 (placeCount (getPool s p.toNat) 0)

/-- STORM_INTERVAL (R90): once the Meridian has passed into a new interval of 2^22 root cycles the storm count of every
pool restarts at 0; within the interval nothing changes. RESHARE_LAYOUT (R92): when the middles of all pools whose share
changed are empty, each of them takes the share of the Chart in force, with CAUSE NO_SHARE for a share of 0, and
otherwise CAUSE RESHARE and, unless HOLD_FALLBACK is 1, a running return procedure; other pools stay; during a Chart load
nothing is laid out (R89). IQ_NOTICE_CLEAR (R95): CROSSED and COUNT clear and the peak restarts at the level. That this
is the last sample is the model's choice of log entry 65. -/
def Obligations.StormReshareAndNotices : Prop :=
  (∀ (s : State), active s = true →
    (s.clk.meridian / 2 ^ 22 ≤ s.iq.stormIv → exec .stormInterval s = .next s) ∧
    (s.iq.stormIv < s.clk.meridian / 2 ^ 22 → ∃ t, exec .stormInterval s = .next t ∧
      t = { s with iq := { s.iq with stormIv := s.clk.meridian / 2 ^ 22 }, pools := t.pools } ∧
      ∀ p, getPool t p = { getPool s p with stormCount := 0 })) ∧
  ((∀ (s : State), engineUp s = true → s.ch.state = 1 → exec .reshareLayout s = .next s) ∧
  (∀ (s : State), engineUp s = true → s.ch.state ≠ 1 → (∀ e ∈ s.pools, e.2.reshare = true → midEmpty e.2 = true) →
    ∃ t, exec .reshareLayout s = .next t ∧ t = { s with pools := t.pools } ∧
      (∀ p, (∀ e ∈ s.pools, e.1 = p → e.2.reshare = false) → getPool t p = getPool s p) ∧
      (∀ (p share : Nat), (∃ e ∈ s.pools, e.1 = p ∧ e.2.reshare = true) →
        share = ((poolRec s p).map (·.share)).getD 0 →
        (getPool t p).share = share ∧ (getPool t p).reshare = false ∧
        (getPool t p).cause = (if share = 0 then 1 else 3) ∧ (getPool t p).queue = (getPool s p).queue ∧
        (share ≠ 0 → (getPool s p).hold = false → (getPool t p).scrub = true ∧ (getPool t p).scrubAt = s.clk.meridian))) ∧
  (∀ (s : State) (a : Access) (p : BitVec 6) (v : Word),
    granted s a true (mgmtAt a (0x3102C + p.toNat * 0x40)) = true →
    exec (.iqNoticeClear a p v) s = .next (acked (setPool s p.toNat
      (if wbit v 0 then
        { getPool s p.toNat with
          crossed := false, crossCount := 0, peak := (getPool s p.toNat).level,
          fbEntered := (getPool s p.toNat).fbEntered && !wbit v 1 }
       else { getPool s p.toNat with fbEntered := (getPool s p.toNat).fbEntered && !wbit v 1 })) a)))

/-- The return procedure (R91). IQ_RETURN_START begins the scrub of a pool in fallback whose middle is empty and that
nothing holds. IQ_RETURN_END, 2 x 1,024 x SHARE tile cycles later, leaves fallback with CAUSE 0, or stays in it with
CAUSE SCRUB_FAIL and asks for its record; either way the whole share is zero. RETRY_SCRUB reruns the procedure in that
case only. That a failed read-back adds to no parity count is the model's choice of log entry 50. IQ_HOLD_FALLBACK (R89,
R91): the bit is stored; a 1 on a pool out of fallback, or in its scrub, enters fallback with CAUSE HELD and stops the
scrub; a 0, and any write for a pool without a record, changes the bit alone. The first entry after READY latches the
notice bit. -/
def Obligations.ReturnAndFallback : Prop :=
  ((∀ (s : State) (p : BitVec 6), engineUp s = true → (getPool s p.toNat).fallback = true →
    (∀ e ∈ (getPool s p.toNat).queue, e.place ≠ 2) →
    (getPool s p.toNat).hold = false → (getPool s p.toNat).scrub = false → (getPool s p.toNat).reshare = false →
    ((getPool s p.toNat).cause = 2 ∨ (getPool s p.toNat).cause = 3 ∨ (getPool s p.toNat).cause = 6) →
    exec (.iqReturnStart p) s =
      .next (setPool s p.toNat { getPool s p.toNat with scrub := true, scrubAt := s.clk.meridian })) ∧
  (∀ (s : State) (p : BitVec 6), engineUp s = true → (getPool s p.toNat).scrub = true →
    (getPool s p.toNat).scrubAt + 4096 * (getPool s p.toNat).share ≤ s.clk.meridian →
    exec (.iqReturnEnd p true) s =
      .next (setPool s p.toNat { getPool s p.toNat with
        scrub := false, fallback := false, cause := 0
        mid := (getPool s p.toNat).mid.filter (fun e => 1024 * (getPool s p.toNat).share ≤ e.1)
        zeroed := max (getPool s p.toNat).zeroed (1024 * (getPool s p.toNat).share) }) ∧
    exec (.iqReturnEnd p false) s =
      .next (fbLog (setPool s p.toNat { getPool s p.toNat with
        scrub := false, cause := 5
        mid := (getPool s p.toNat).mid.filter (fun e => 1024 * (getPool s p.toNat).share ≤ e.1)
        zeroed := max (getPool s p.toNat).zeroed (1024 * (getPool s p.toNat).share) }) p.toNat)) ∧
  (∀ (s : State) (a : Access) (p : BitVec 6) (v : Word),
    granted s a true (mgmtAt a (0x3100C + p.toNat * 0x40)) = true →
    exec (.retryScrub a p v) s = .next (acked
      (if wbit v 0 = true ∧ (getPool s p.toNat).fallback = true ∧ (getPool s p.toNat).cause = 5 ∧
          (getPool s p.toNat).hold = false then
        setPool s p.toNat { zeroedNow s (getPool s p.toNat) with scrub := true, scrubAt := s.clk.meridian } else s) a))) ∧
  (∀ (s : State) (a : Access) (p : BitVec 6) (v : Word),
    granted s a true (mgmtAt a (0x31008 + p.toNat * 0x40)) = true →
    ((poolRec s p.toNat).isSome = false ∨ wbit v 0 = false ∨
        ((getPool s p.toNat).fallback = true ∧ (getPool s p.toNat).scrub = false) →
      exec (.iqHoldFallback a p v) s =
        .next (acked (setPool s p.toNat { getPool s p.toNat with hold := wbit v 0 }) a)) ∧
    ((poolRec s p.toNat).isSome = true → wbit v 0 = true → ((getPool s p.toNat).fallback = false ∨ (getPool s p.toNat).scrub = true) →
      ∃ t, exec (.iqHoldFallback a p v) s = .next t ∧
        getPool t p.toNat = { zeroedNow s (getPool s p.toNat) with
          hold := true, fallback := true, cause := 6, scrub := false,
          fbEntered := (getPool s p.toNat).fbEntered || (!(getPool s p.toNat).fallback && s.pw.ready) } ∧
        (∀ m, m ≠ p.toNat → getPool t m = getPool s m) ∧
        t = acked { s with pools := t.pools, lb := t.lb, nv := t.nv, lane0 := t.lane0, lane1 := t.lane1 } a))

/-! ## Session contexts -/

/-- SC_ERASE_ALL (R115): refused, with ERASE_REFUSED latched, while a ring is ACTIVE or a unit BUSY; otherwise every
context is unreadable and K_CTX is cleared at once, READY falls, and the scrub of the whole store begins. A write of 0
does nothing. CONTEXT_SCRUB_DONE (R115): 196,608 tile cycles after the erase every context is FREE, a new K_CTX stands,
READY is 1, and an erase that a command started is DONE; before that, before start-up has drawn its own keys, in an erase
hold (R347) and while DRBG instance 0 gives no output (DEDUCED, log entry 46), nothing changes. CONTEXT_WRITEBACK_DONE
(R106): the context that a unit wrote back is in the store and its write-back is over; with no management command
waiting, nothing else changes. A context without a write-back under way stays. -/
def Obligations.ContextEraseRule : Prop :=
  (∀ (s : State) (a : Access) (v : Word), granted s a true (mgmtAt a 0x40014) = true →
    (wbit v 0 = false → exec (.scEraseAll a v) s = .next (acked s a)) ∧
    (wbit v 0 = true → ((∃ e ∈ s.rings, e.2.active = true) ∨ ∃ e ∈ s.units, e.2.st = 1) →
      exec (.scEraseAll a v) s = .next (acked { s with sc := { s.sc with eraseRefused := true } } a)) ∧
    (wbit v 0 = true → (∀ e ∈ s.rings, e.2.active = false) → (∀ e ∈ s.units, e.2.st ≠ 1) →
      exec (.scEraseAll a v) s = .next (acked { s with
        units := s.units.mapVal (fun _ u => { u with job := u.job.map (fun j => { j with ctxRef := none, dirty := false }) })
        sc := { s.sc with
        std := [], cmp := [], wb := [], kctx := none, ready := false, erasing := true, scrubAt := some s.clk.meridian,
        scrubLeft := 0x200000, eraseCmd := true } } a))) ∧
  (∀ (s : State) (since : Nat), engineUp s = true → s.sc.scrubAt = some since →
    (s.clk.meridian < since + 393216 ∨ drbgUp s 0 = false ∨ maskable s = false → exec .contextScrubDone s = .next s) ∧
    (since + 393216 ≤ s.clk.meridian → drbgUp s 0 = true → maskable s = true → ∃ t, exec .contextScrubDone s = .next t ∧
      t = { s with sc := t.sc, free := t.free, kv := { s.kv with drbg := t.kv.drbg } } ∧ (∀ r, ctxGet t r = Ctx.free) ∧ t.sc.kctx.isSome = true ∧
      t.sc.ready = true ∧ t.sc.erasing = false ∧ t.sc.scrubAt = none ∧
      t.sc.eraseDone = (s.sc.eraseDone || s.sc.eraseCmd))) ∧
  (∀ (s : State) (compact : Bool) (idx : BitVec 21), engineUp s = true → s.sc.cmd = none →
    ((∀ w ∈ s.sc.wb, ¬(w.ref.compact = compact ∧ w.ref.idx = idx.toNat)) →
      exec (.contextWritebackDone compact idx) s = .next s) ∧
    (∀ w, s.sc.wb.find? (fun w => w.ref.compact == compact && w.ref.idx == idx.toNat) = some w →
      ∃ t, exec (.contextWritebackDone compact idx) s = .next t ∧ t = { s with sc := t.sc } ∧
        t.sc.wb = s.sc.wb.erase w ∧ (w.ctx.st ≠ 0 → ctxGet t w.ref = w.ctx) ∧
        (compact = true → t.sc.std = s.sc.std) ∧ (compact = false → t.sc.cmp = s.sc.cmp)))

/-- SC_PEEK, SC_SEAL, SC_UNSEAL and SC_FREE on a context in range that nothing holds (R116). PEEK copies the header, the
opcode word and INV. SEAL of an OPEN, TAINTED or SPENT context makes it SEALED and keeps its state as prior; of a FREE or
SEALED one it answers STATE. UNSEAL restores the prior state of a SEALED one, else STATE. FREE leaves it FREE. Each ends
with its RESULT and BUSY 0. The order of the refusals of every SC_CMD (R116, R300): KIND first, then an index outside the
range, then a store that is not READY or an owner in reset, then the extension of a wide context, each with its RESULT
and no other effect; and a SEAL or FREE of a held context waits with BUSY 1. -/
def Obligations.ContextCommands : Prop :=
  (∀ (s : State) (a : Access) (kind : BitVec 2) (r : CtxRef) (c : Ctx),
    granted s a true (mgmtAt a 0x40040) = true → failedStart s = false → quietWrites s = false → s.sc.busy = false →
    nostart s = false → kind.toNat < 2 → r = scRef s (kind.toNat == 1) s.sc.idx.toNat → c = ctxGet s r →
    s.sc.idx.toNat < (if kind.toNat = 1 then cmpTotal s else stdTotal s) → s.sc.ready = true →
    ctxResetting s (kind.toNat == 1) s.sc.idx.toNat = false →
    (kind.toNat = 0 → (s.sc.std.get .free s.sc.idx.toNat).kind ≠ 3) → ctxHeld s noUnit r = false →
    exec (.scPeek a kind) s = .next (acked (scResult { s with sc := { s.sc with
      peekHdr := word (c.st + 8 * c.kind + 32 * c.prior + 256 * c.owner + 2 ^ 24 * c.cause),
      peekOp := word (c.opcode + 2 ^ 16 * c.invLim + 2 ^ 24 * (b2n c.msg + 2 * b2n c.dir)), peekInv := c.inv } } 0) a) ∧
    exec (.scSeal a kind) s = .next (acked
      (if c.st = 0 ∨ c.st = 4 then scResult s 1
       else scResult (ctxPut s r { c with st := 4, prior := c.st, cause := 0xFF }) 0) a) ∧
    exec (.scUnseal a kind) s = .next (acked
      (if c.st = 4 then scResult (ctxPut s r { c with st := c.prior, cause := 0xFF }) 0 else scResult s 1) a) ∧
    exec (.scFree a kind) s = .next (acked (scResult (ctxPut s r .free) 0) a)) ∧
  ((∀ (s : State) (a : Access) (kind : BitVec 2) (c : Instr) (n : Nat),
    (c = .scPeek a kind ∨ c = .scSeal a kind ∨ c = .scUnseal a kind ∨ c = .scFree a kind) →
    granted s a true (mgmtAt a 0x40040) = true → failedStart s = false → quietWrites s = false → s.sc.busy = false →
    nostart s = false → n = (if kind.toNat = 1 then cmpTotal s else stdTotal s) →
    (2 ≤ kind.toNat → exec c s = .next (acked (scResult s 3) a)) ∧
    (kind.toNat < 2 → n ≤ s.sc.idx.toNat → exec c s = .next (acked (scResult s 2) a)) ∧
    (kind.toNat < 2 → s.sc.idx.toNat < n →
      (s.sc.ready = false ∨ ctxResetting s (kind.toNat == 1) s.sc.idx.toNat = true) →
      exec c s = .next (acked (scResult s 4) a)) ∧
    (kind.toNat = 0 → s.sc.idx.toNat < n → s.sc.ready = true → ctxResetting s false s.sc.idx.toNat = false →
      (s.sc.std.get .free s.sc.idx.toNat).kind = 3 → exec c s = .next (acked (scResult s 3) a))) ∧
  (∀ (s : State) (a : Access) (kind : BitVec 2),
    granted s a true (mgmtAt a 0x40040) = true → failedStart s = false → quietWrites s = false → s.sc.busy = false →
    nostart s = false → kind.toNat < 2 → s.sc.idx.toNat < (if kind.toNat = 1 then cmpTotal s else stdTotal s) →
    s.sc.ready = true → ctxResetting s (kind.toNat == 1) s.sc.idx.toNat = false →
    (kind.toNat = 0 → (s.sc.std.get .free s.sc.idx.toNat).kind ≠ 3) →
    ctxHeld s noUnit (scRef s (kind.toNat == 1) s.sc.idx.toNat) = true →
    exec (.scFree a kind) s = .next (acked { s with sc := { s.sc with
      busy := true, cmd := some (4, kind.toNat, s.sc.idx.toNat), cmdWaits := true } } a) ∧
    exec (.scSeal a kind) s = .next (acked { s with sc := { s.sc with
      busy := true, cmd := some (2, kind.toNat, s.sc.idx.toNat), cmdWaits := true } } a)))

/-! ## The pipeline: fetch, admission, units, records -/

/-- CHAIN_FETCH (R33, R50): a working slice with an idle ring and descriptors posted beyond those it holds reads them in
the pieces of its ring. When the outbound rules grant every piece the ring waits for all of them; when they refuse one
that comes to issue at once, on a port with credits, tags and buffer room for all and nothing waiting (R310, R386), the
ring halts with FETCH_FAULT and the violation is counted. Positions, queues and chains stay, and so does every other
ring. That one fetch reads every posted descriptor up to 16 is the model's choice of log entry 44 (DESIGN CHOICE). -/
def Obligations.ChainFetchReads : Prop :=
  ∀ (s : State) (g : BitVec 16) (r : Ring) (f : Nat) (l : List (Nat × Nat × Nat)),
    sliceUp s g.toNat = true → r = getRing s g.toNat → r.fetch = .idle → r.descs.length < fetchable r →
    f = ((ringOwner s g.toNat).map (·.func)).getD 0 → l = fetchPieces r (fetchable r) →
    ∃ t, exec (.chainFetch g) s = .next t ∧
      t = { s with rings := t.rings, ports := t.ports, ac := t.ac, nv := t.nv, lane0 := t.lane0, lane1 := t.lane1 } ∧
      (∀ m, m ≠ g.toNat → getRing t m = getRing s m) ∧
      ((∀ p ∈ l, (judgeOut s f false p.2.1).ok = true) →
        getRing t g.toNat = { r with fetch := .reading, fgather := ⟨l.length, [], none⟩, descs := [] } ∧ t.ac = s.ac) ∧
      ((getPort s (g.toNat % 8)).sendQ = [] → l.length ≤ (getPort s (g.toNat % 8)).reqCrd →
        (getPort s (g.toNat % 8)).out.length + l.length ≤ 1024 →
        beatsOut (getPort s (g.toNat % 8)) + (l.map (fun p => beats p.2.1 p.2.2)).sum ≤ 1024 → (∃ p ∈ l, (judgeOut s f false p.2.1).ok = false) →
        getRing t g.toNat =
          { r with fetch := .idle, fgather := .none, descs := [], fetchFault := true, halted := true } ∧
        t.ac.ovCount = sat32 s.ac.ovCount)

/-- ADMISSION_OFFER (R12, R43, R68 to R70): a chain of its turn (R69, R79) meets the conditions of R68 as things stand,
with the segments and the deadline of R62 and R66. Without room in a queue, a scratch buffer or completion credit it is
refused and AD_POOL_NORES counts in the pools it visits; with a pool whose ledger test fails it is refused and
AD_POOL_REFUSED counts in those pools. A refusal leaves positions, reservations and chains as they are. Otherwise it is
accepted: positions and reservation move by its length and the chain stands with its deadline and segments; where its
entries find no place in this control cycle nothing changes, and the offer is made in a later one (log entry 12, DESIGN
CHOICE). REOFFER_TIMER (R70): a refused chain is fetched and offered again 256 control cycles after its refusal, or when
a unit of a refusing pool has released a job, but not sooner than 64 control cycles after the offer before; until then
nothing changes. -/
def Obligations.AdmissionRule : Prop :=
  (∀ (s : State) (g : BitVec 16) (k : ClassRec) (q : Nat) (r : Ring) (d : Nat) (segs : List Seg) (ps : List Nat),
    ringClass s g.toNat = some k → ringCq s g.toNat = some q → r = getRing s g.toNat → canOffer s g.toNat = true →
    direct s k r = false → poolTurn s ((headPools s g.toNat).headD 64) = true →
    (headPools s g.toNat).all (fun x => !tookOffer s x) = true →
    (swrr (getPool s ((headPools s g.toNat).headD 64)).offers (offerCand s ((headPools s g.toNat).headD 64))).1 =
      some g.toNat →
    d = (newChain s g.toNat q k (chainBytes s k r.descs)).deadline →
    segs = latestStarts (mkSegs s k r.descs (r.sgather.got != [])) d
      (16 + (if lastWaits s (((ringOwner s g.toNat).map (·.func)).getD 0) r.descs then fabricR s else 0)) →
    ps = (segs.map (·.pool)).eraseDups →
    (resourcesOk s (getCq s q) r.descs segs = false → ∃ t, exec (.admissionOffer ⟨g, []⟩) s = .next t ∧
      t = { s with rings := t.rings, pools := t.pools, ad := t.ad } ∧
      getRing t g.toNat =
        { r with fetch := .refused s.clk.meridian ps, offerAt := some s.clk.meridian, descs := [] } ∧
      (∀ m, m ≠ g.toNat → getRing t m = getRing s m) ∧
      ∀ p ∈ ps, (getPool t p).nores = sat32 (getPool s p).nores ∧ (getPool t p).refused = (getPool s p).refused) ∧
    (resourcesOk s (getCq s q) r.descs segs = true → (∃ p ∈ ps, poolTest s segs d p = false) →
      ∃ t, exec (.admissionOffer ⟨g, []⟩) s = .next t ∧
      t = { s with rings := t.rings, pools := t.pools, ad := t.ad } ∧
      (getRing t g.toNat).accepted = r.accepted ∧ (∀ m, m ≠ g.toNat → getRing t m = getRing s m) ∧
      ∀ p ∈ ps, (getPool t p).nores = (getPool s p).nores ∧ (getPool t p).refused =
        (if poolTest s segs d p then (getPool s p).refused else sat32 (getPool s p).refused)) ∧
    (∀ c0, c0 = { newChain s g.toNat q k (chainBytes s k r.descs) with
        segs := segs, tested := true, staged := if r.sgather.got != [] then some r.sgather.bytes else none } →
      resourcesOk s (getCq s q) r.descs segs = true → (∀ p ∈ ps, poolTest s segs d p = true) →
      (enqueue (accept (takeRound s ((headPools s g.toNat).headD 64) (headPools s g.toNat)) g.toNat c0) c0 segs = none →
        exec (.admissionOffer ⟨g, []⟩) s = .next s) ∧
      (enqueue (accept (takeRound s ((headPools s g.toNat).headD 64) (headPools s g.toNat)) g.toNat c0) c0 segs ≠ none →
      ∃ (t : State) (c : Chain), exec (.admissionOffer ⟨g, []⟩) s = .next t ∧ findChain t s.nextId = some c ∧
      c.deadline = d ∧ c.segs = segs ∧ c.descs = r.descs ∧ c.seq = r.accepted ∧ c.ring = g.toNat ∧ c.cq = q ∧
      t.nextId = s.nextId + 1 ∧ (getRing t g.toNat).accepted = r.accepted + word r.descs.length ∧
      (getRing t g.toNat).posted = r.posted ∧ (getCq t q).reserved = (getCq s q).reserved + r.descs.length ∧
      ∀ m, m ≠ g.toNat → getRing t m = getRing s m))) ∧
  (∀ (s : State) (g : BitVec 16) (since : Nat) (ps : List Nat),
    sliceUp s g.toNat = true → (getRing s g.toNat).fetch = .refused since ps →
    ((since = 0 ∨ since + 1024 ≤ s.clk.meridian) → (∀ k, (getRing s g.toNat).offerAt = some k → k + 256 ≤ s.clk.meridian) →
      exec (.reofferTimer g) s = .next (setRing s g.toNat { getRing s g.toNat with fetch := .idle, descs := [] })) ∧
    (since ≠ 0 → s.clk.meridian < since + 1024 → exec (.reofferTimer g) s = .next s) ∧
    (∀ k, (getRing s g.toNat).offerAt = some k → s.clk.meridian < k + 256 → exec (.reofferTimer g) s = .next s))

/-- RECORD_ISSUE and NOEXEC_RECORD (R14, R43, R45, R46, R416): the next record of a chain that owes no response, in a
queue that is not halted and whose turn it is (R57), on a port that can send, granted by the outbound rules and with no
dirty-page log, with no Waypoint command of the queue due (R57): a 32-byte write of the record at the slot of CQ_WRITTEN
leaves on the ring's port, CQ_WRITTEN rises and CQ_RESERVED falls by one. -/
def Obligations.RecordIsWritten : Prop :=
  ∀ (s : State) (id : Nat) (c : Chain) (r : DescRes) (q : Cq) (addr : Nat),
    findChain s id = some c → c.id = id → c.results[c.issued]? = some r → q = getCq s c.cq →
    addr = q.base + 32 * (q.written.toNat % 2 ^ q.size) →
    engineUp s = true → blockReq s = false → fnResetting s c.func = false → q.halted = false →
    dlActive s c.func = false → cqRecordSlot s q = true → recordWaits s c c.issued r = false → portReady s (c.ring % 8) addr 32 = true →
    (∀ p ∈ pieces addr 32, (judgeOut s c.func true p.2.1).ok = true) →
    (r.noexec = false → r.notBefore ≤ s.clk.meridian → ∃ t, exec (.recordIssue id) s = .next t ∧
      (getCq t c.cq).written = q.written + 1 ∧ (getCq t c.cq).reserved = q.reserved - 1 ∧
      (getCq t c.cq).dropped = q.dropped ∧ ∃ x ∈ (getPort t (c.ring % 8)).out,
        x.write = true ∧ x.addr = addr ∧ x.len = 32 ∧ x.func = c.func ∧
        x.data = mkRecord r.status (recordFlags c c.issued r (finishStamp s)) c.ring (c.seq + word c.issued) c.accept
          (finishStamp s) r.detail c.issued (phaseBit q.written q.size) r.result) ∧
    (r.noexec = true → c.lastRec / 4 < s.clk.meridian / 4 → ∃ t, exec (.noexecRecord id) s = .next t ∧
      (getCq t c.cq).written = q.written + 1 ∧ (getCq t c.cq).reserved = q.reserved - 1 ∧
      ∃ x ∈ (getPort t (c.ring % 8)).out, x.write = true ∧ x.addr = addr ∧ x.len = 32 ∧
        x.data = mkRecord r.status (recordFlags c c.issued r (finishStamp s)) c.ring (c.seq + word c.issued) c.accept
          (finishStamp s) r.detail c.issued (phaseBit q.written q.size) r.result)

/-- SCHEDULER_SELECT (R72, R84, R119): the waiting segment that is next takes the unit that holds its key, else the
lowest free one: the unit is BUSY for the scheduler in that pool and function until its charged occupancy has passed
(R67), its job starts at the segment's first descriptor, a key of another function is scrubbed, and the segment's entries
have left the queue. Another unit stays as it is, or scrubs the key that it kept for a segment which is not next for it
any more (R119). Nothing is claimed in a no-start hold, or with no segment waiting, or behind an offer of the same
control cycle (R68), or with no free unit, or while an entry of the segment stands in a fallback bank that this control
cycle has written (R88). -/
def Obligations.SchedulerClaims : Prop :=
  ∀ (s : State) (p : BitVec 6),
    ((nostart s = true ∨ offersBegun s = true ∨ nextSeg s p.toNat = none) → exec (.schedulerSelect p []) s = .next s) ∧
    (∀ (c : Chain) (i : Nat) (g : Seg), nextSeg s p.toNat = some (c, i) → c.segs[i]? = some g →
      (chooseUnit s p.toNat c.func (c.descs.getD g.first []) = none ∨
        bankBusy s (getPool s g.pool) (segEntries s c.id g) = true) → exec (.schedulerSelect p []) s = .next s) ∧
    (∀ (c : Chain) (i : Nat) (g : Seg) (u : Nat), engineUp s = true → nostart s = false →
      offersBegun s = false → nextSeg s p.toNat = some (c, i) → c.segs[i]? = some g →
      bankBusy s (getPool s g.pool) (segEntries s c.id g) = false →
      chooseUnit s p.toNat c.func (c.descs.getD g.first []) = some u →
      ∃ t, exec (.schedulerSelect p []) s = .next t ∧
        (getUni t u).st = 1 ∧ (getUni t u).sched = true ∧ (getUni t u).lockPool = g.pool ∧
        (getUni t u).lockFunc = c.func ∧ (getUni t u).until_ = s.clk.meridian + g.occ ∧
        (getUni t u).key = (if (getUni s u).key.any (fun k => k.own != c.func) then none else (getUni s u).key) ∧
        (∃ j, (getUni t u).job = some j ∧ j.chain = c.id ∧ j.seg = i ∧ j.idx = g.first ∧ j.from_ = s.clk.meridian) ∧
        (∀ v, v ≠ u → getUni t v = getUni s v ∨
          (((getUni s v).job = none ∧ (getUni s v).sched = false) ∧ getUni t v = scrubKey (getUni s v))) ∧
        (∀ e ∈ (getPool t g.pool).queue, e.chain = c.id → ¬(g.first ≤ e.idx ∧ e.idx < g.first + g.count)) ∧
        t.rings = s.rings ∧ t.cqs = s.cqs)

/-- DESCRIPTOR_LOAD (R10, R94, R105, R415), on a unit that keeps no context of the descriptor before. A descriptor with a
poisoned entry is not executed: it ends POISON four cycles after the claim, and the OPEN context of its own that it
names, if any, becomes TAINTED (R142; log entry 45, DEDUCED). A digest without key and context passes its load: its input
is being read in its pieces, the unit shows its operation, and vault, contexts, chains and other units stay. A descriptor
that names a context while the context store is not READY fails its load with CONTEXT 0x0F0A, and its unit holds it until
the fixed end of the load stage. LOAD_STAGE_END (R39, R415): at its due time a descriptor whose load failed ends with its
status, the descriptors after it in the chain are SKIPPED, every segment of the chain is done and the unit has no job;
before the due time nothing changes. -/
def Obligations.DescriptorLoadRule : Prop :=
  (∀ (s : State) (u : BitVec 12) (env : LoadEnv) (j : Job) (c : Chain) (d : Bytes),
    engineUp s = true → (getUni s u.toNat).job = some j → j.phase = .claimed → findChain s j.chain = some c →
    c.id = j.chain → j.ctxRef = none → j.dirty = false → d = c.descs.getD j.idx [] →
    (j.poison.contains j.idx = true → ∃ (t : State) (c' : Chain),
      exec (.descriptorLoad u env) s = .next t ∧ findChain t c.id = some c' ∧
      c'.results = c.results ++ [⟨9, 0, 0, zeros 8, j.waits, false, none, j.from_ + 4, false⟩] ++
        List.replicate (c.descs.length - (c.results.length + 1)) (skipRes 9) ∧
      (dCtx d = noCtx → t.sc = s.sc) ∧
      (∀ r, dCtx d ≠ noCtx → ctxNamed s c.func d = some r → s.sc.ready = true → ctxFilling s r = false →
        ctxHeld s u.toNat r = false → s.sc.wb = [] → (ctxGet s r).st = 1 → (ctxGet s r).kind = hKind d →
        (ctxGet s r).owner = c.func → ctxGet t r = { ctxGet s r with st := 2, cause := 9 })) ∧
    (j.poison.contains j.idx = false → dFamily d = 2 → hIsKdf d = false → dNoKey d = true → dCtx d = noCtx →
      famPre s d ctxAbsent = none → dLen d ≠ 0 → dSrcScr d = false → c.staged = none →
      (∀ p, (judgeOut s c.func false p).ok = true) →
      ∃ (t : State) (j' : Job), exec (.descriptorLoad u env) s = .next t ∧ (getUni t u.toNat).job = some j' ∧
        j'.phase = .input ∧ j'.gather = ⟨(pieces (dSrc d) (dLen d)).length, [], none⟩ ∧ j'.key = none ∧
        j'.ctxRef = none ∧ j'.idx = j.idx ∧ (getUni t u.toNat).op = dOpcode d ∧ (getUni t u.toNat).active = true ∧
        t.kv = s.kv ∧ t.sc = s.sc ∧ t.chains = s.chains ∧ ∀ v, v ≠ u.toNat → getUni t v = getUni s v) ∧
    (j.poison.contains j.idx = false → dCtx d ≠ noCtx → s.sc.ready = false →
      ∃ (t : State) (j' : Job), exec (.descriptorLoad u env) s = .next t ∧ (getUni t u.toNat).job = some j' ∧
        j'.phase = .failed 13 0x0F0A (j.from_ + loadSpan s c j d) ∧ j'.idx = j.idx ∧
        (getUni t u.toNat).op = dOpcode d ∧ t.kv = s.kv ∧ t.sc = s.sc)) ∧
  (∀ (s : State) (u : BitVec 12) (j : Job) (c : Chain) (st dt due : Nat),
    engineUp s = true → (getUni s u.toNat).job = some j → j.phase = .failed st dt due → findChain s j.chain = some c →
    c.id = j.chain → st ≠ 0 →
    (s.clk.meridian < due → exec (.loadStageEnd u) s = .next s) ∧
    (due ≤ s.clk.meridian → ∃ (t : State) (c' : Chain), exec (.loadStageEnd u) s = .next t ∧
      findChain t c.id = some c' ∧
      c'.results = c.results ++ [⟨st, dt, 0, zeros 8, j.waits, false, none, due + 16, false⟩] ++
        List.replicate (c.descs.length - (c.results.length + 1)) (skipRes st) ∧
      c'.issued = c.issued ∧ (∀ g ∈ c'.segs, g.st = .done) ∧ (getUni t u.toNat).job = none ∧
      (getUni t u.toNat).sched = false ∧ (getUni t u.toNat).lastStatus = st ∧ t.cqs = s.cqs))

/-- EXECUTE_BLOCK_DONE (R136, R138), on a unit without LOADED slots whose descriptor nothing stops. A block that agrees
or that has nothing to compare, with no output, key, tile content or Helm command of its own and no vault swap, and that
is not the last, counts in UN_BLOCKS and the next block begins. A block of a compared unit that disagrees is computed
again while RETRY_MAX allows: UN_MISMATCH and the retries count, in the unit and in the units below it (R20), and the
block counter stays. -/
def Obligations.BlockDoneOrRetried : Prop :=
  ∀ (s : State) (u : BitVec 12) (env : BlockEnv) (j : Job) (c : Chain) (b : PlanBlock) (x : Uni),
    engineUp s = true → x = getUni s u.toNat → x.job = some j → findChain s j.chain = some c →
    j.plan.blocks[j.blk]? = some b → j.phase = .exec → j.stop = none → env.parity = false → x.ar.loaded = [] →
    ((env.agree = true ∨ j.check = 0 ∨ b.count = 0) → b.out = [] → b.swap = false → b.key = none → b.tile = none → b.cmd = none →
      j.blk + 1 < j.plan.blocks.length →
      exec (.executeBlockDone u env) s = .next (count (setUni s u.toNat { x with
        job := some { j with blk := j.blk + 1, tries := 0 } }) u.toNat
        (fun k => { k with blocks := (k.blocks + b.count) % 2 ^ 64 }))) ∧
    (env.agree = false → (j.check = 1 ∨ j.check = 2) → j.action ≠ 0 → b.count ≠ 0 → j.tries < j.retryMax →
      ((unitRec s u.toNat).map (·.cls)).getD 0 ≠ 2 → (treeOf s.chart.units 9 u.toNat).Nodup →
      ∃ t, exec (.executeBlockDone u env) s = .next t ∧
        (∀ w ∈ treeOf s.chart.units 9 u.toNat, getCnt t w = { getCnt s w with
          mismatch := sat32 (getCnt s w).mismatch, retry := sat32 (getCnt s w).retry }) ∧
        (getUni t u.toNat).job = some { j with tries := j.tries + 1 } ∧
        (∀ v, v ≠ u.toNat → getUni t v = getUni s v) ∧
        t = { s with units := t.units, cnts := t.cnts, chains := t.chains, ad := t.ad })

/-- READ_COMPLETION (R384, R388): beats for a tag that no read of the port holds, or not as many as the read has, change
nothing. A read fails when one of its beats fails, by RD_ERR or by RD_PAR. The response of an originator that is gone
frees its tag, and its chain once nothing else is owed; Chart data joins what the load has gathered; a failed descriptor
fetch halts its ring with FETCH_FAULT. Stated for a port with nothing waiting to be sent and a response within the fabric
budget (R73). WRITE_RESPONSE (R50, R51, R388): a tag that no write of the port with all its beats sent holds changes
nothing; the good response of a CHAIN_END record makes its chain noticeable; a failed record write halts its queue with
WRITE_FAULT and counts in CQ_DROPPED (log entry 26, DEDUCED); a host STORE counts the responses it still waits for.
Stated as READ_COMPLETION is. -/
def Obligations.ResponsesReachOrigin : Prop :=
  (∀ (s : State) (port : BitVec 3) (tag : BitVec 10) (chk : List RdCheck) (data : Bytes) (ok : Bool), running s = true →
    (ok = true ↔ ∀ i c, chk[i]? = some c →
      c.err = false ∧ ∀ k, k < 16 → c.par.getLsbD k = oddBit (leAt data (64 * i + 4 * k) 4) 0 32) →
    ((∀ x ∈ (getPort s port.toNat).out, x.write = false → x.left = 0 → x.tag ≠ tag.toNat) →
      exec (.readCompletion port tag chk data) s = .next s) ∧
    (∀ x, (getPort s port.toNat).out.find? (fun x => x.tag == tag.toNat && x.write == false && x.left == 0) = some x →
      (chk.length ≠ beats x.addr x.len → exec (.readCompletion port tag chk data) s = .next s) ∧
      (chk.length = beats x.addr x.len → struck s = false → (getPort s port.toNat).sendQ = [] →
      s.clk.meridian ≤ x.at_ + fabricR s →
      ∃ t, exec (.readCompletion port tag chk data) s = .next t ∧
        (x.gone = true → t = { s with ports := t.ports, chains := t.chains } ∧
          getPort t port.toNat = { getPort s port.toNat with out := (getPort s port.toNat).out.filter (fun y => y.tag != tag.toNat) }) ∧
        (x.gone = false → x.who = .chart → t = { s with ports := t.ports, ch := t.ch } ∧
          t.ch.gather = s.ch.gather.arrive x.off ok (padTo x.len (data.drop (x.addr % 64)))) ∧
        (∀ g, x.gone = false → x.who = .fetch g → ok = false → (getRing s g).fetch = .reading →
          (getRing t g).fetchFault = true ∧ (getRing t g).halted = true ∧ (getRing t g).accepted = (getRing s g).accepted)))) ∧
  (∀ (s : State) (port : BitVec 3) (tag : BitVec 10) (ok : Bool), running s = true →
    ((∀ x ∈ (getPort s port.toNat).out, x.write = true → x.left = 0 → x.tag ≠ tag.toNat) →
      exec (.writeResponse port tag ok) s = .next s) ∧
    (∀ x, struck s = false → (getPort s port.toNat).sendQ = [] →
      (getPort s port.toNat).out.find? (fun x => x.tag == tag.toNat && x.write == true && x.left == 0) = some x →
      s.clk.meridian ≤ x.at_ + fabricR s →
      ∃ t, exec (.writeResponse port tag ok) s = .next t ∧
        (∀ id i c, x.gone = false → x.who = .record id i → findChain s id = some c → ok = false →
          (getCq t c.cq).writeFault = true ∧ (getCq t c.cq).halted = true ∧
          (getCq t c.cq).dropped = sat32 (getCq s c.cq).dropped) ∧
        (∀ id i c, x.gone = false → x.who = .record id i → findChain s id = some c → ok = true → i + 1 = c.descs.length →
          (getCq s c.cq).halted = false → cqResetting s c.cq = false →
          (getCq s c.cq).noteN + 1 < max 1 (getCq s c.cq).coalCount →
          (getCq t c.cq).noteN = (getCq s c.cq).noteN + 1) ∧
        (∀ v cmd, x.gone = false → x.who = .atWrite v → (getUni s v).ar.cmd = some cmd →
          (getUni t v).ar.cmd = some { cmd with out := cmd.out - 1, fault := cmd.fault || !ok })))

/-! ## Payments, the vault, the random generators -/

/-- PIN_FAIL_INTERVAL (R184): in a new interval of 2^32 root cycles the failure count of every function restarts at 0;
within the interval nothing changes. PY_NOTICE_CLEAR: a 1 clears LIMIT with FUNC and COUNT, a 0 nothing. AC_NOTICE_CLEAR
and LOCKED_LOG_INTERVAL (R313, R318): a write clears the bits it names and no other; when Meridian bits [31:0] pass 0 the
count of the interval before is kept and a new interval begins. -/
def Obligations.NoticesAndIntervals : Prop :=
  ((∀ (s : State), active s = true →
    (s.clk.meridian / 2 ^ 32 ≤ s.py.iv → exec .pinFailInterval s = .next s) ∧
    (s.py.iv < s.clk.meridian / 2 ^ 32 → ∃ t, exec .pinFailInterval s = .next t ∧
      t = { s with py := { s.py with iv := s.clk.meridian / 2 ^ 32 }, fns := t.fns } ∧
      ∀ f, getFn t f = { getFn s f with pinIv := 0 })) ∧
  (∀ (s : State) (a : Access) (v : Word), granted s a true (mgmtAt a 0x60020) = true →
    exec (.pyNoticeClear a v) s = .next (acked
      (if wbit v 0 then { s with py := { s.py with notLimit := false, notFunc := 0, notCount := 0 } } else s) a))) ∧
  ((∀ (s : State) (a : Access) (v : Word), granted s a true (mgmtAt a 0x400008) = true →
    ∃ t, exec (.acNoticeClear a v) s = .next (acked t a) ∧ t = { s with ac := { s.ac with notice := t.ac.notice } } ∧
      ∀ n, n < 5 → t.ac.notice.getLsbD n = (s.ac.notice.getLsbD n && !v.getLsbD n)) ∧
  (∀ (s : State) (n : Nat), active s = true → n = s.clk.meridian / 2 ^ 32 → s.ac.lockIv < n →
    exec .lockedLogInterval s = .next { s with ac := { s.ac with
      lockIv := n, lockPrev := if n = s.ac.lockIv + 1 then s.ac.lockCur else 0, lockCur := 0, lockSeen := false } }))

/-- KV_PEEK (R206): a slot in the range of a function that is not in reset is copied into the KV_PEEK registers, RESULT
DONE; any other slot gives RESULT RANGE. A parity error that the access finds first counts in KV_PARITY (R193). Nothing
else changes. KV_ERASE (R195): the slot, and with a PRIV head its extensions, is EMPTY with GEN, OWNER and INVCNT kept,
every other slot stays, and no unit's key register holds a copy of an erased slot. An extension answers KIND and changes
nothing. -/
def Obligations.KvPeekAndErase : Prop :=
  (∀ (s t : State) (a : Access) (bad kekBad : Bool) (x : Slot), kvTakes s a = true → x = getSlot s s.kv.idx.toNat →
    t = (if bad = true ∧ x.badSeen = false then
      setSlot { s with kv := { s.kv with parity := sat32 s.kv.parity } } s.kv.idx.toNat { x with badSeen := true } else s) →
    (kvHolder s s.kv.idx.toNat = none →
      exec (.kvPeek ⟨a, bad, kekBad⟩) s = .next (acked { s with kv := { s.kv with result := 1, cmd := none, busy := false } } a)) ∧
    ((kvHolder s s.kv.idx.toNat).isSome = true →
      exec (.kvPeek ⟨a, bad, kekBad⟩) s = .next (acked { t with kv := { t.kv with
        peekSlot := word (x.gen + 2 ^ 16 * x.own + 2 ^ 30 * x.kind), peekAttr := x.attr,
        peekKlen := word (x.klen + 2 ^ 16 * (if x.kind = 2 then x.ref else 0)), peekKcv := word (leNat x.kcv),
        peekInv := word x.invcnt, result := 0, cmd := none, busy := false } } a))) ∧
  (∀ (s : State) (a : Access), kvTakes s a = true → (kvHolder s s.kv.idx.toNat).isSome = true →
    ((getSlot s s.kv.idx.toNat).kind = 3 →
      exec (.kvErase a) s = .next (acked { s with kv := { s.kv with result := 2, cmd := none, busy := false } } a)) ∧
    ((getSlot s s.kv.idx.toNat).kind ≠ 3 → ∃ t, exec (.kvErase a) s = .next t ∧
      t.kv.result = 0 ∧ t.kv.busy = false ∧
      (∀ i ∈ eraseSet s s.kv.idx.toNat, (getSlot t i).kind = 0 ∧ (getSlot t i).key = [] ∧
        (getSlot t i).gen = (getSlot s i).gen ∧ (getSlot t i).invcnt = (getSlot s i).invcnt) ∧
      (∀ i, i ∉ eraseSet s s.kv.idx.toNat → getSlot t i = getSlot s i) ∧
      (∀ u ∈ unitIds s, ∀ k, (getUni t u).key = some k → k.slot ∉ eraseSet s s.kv.idx.toNat)))

/-- DRBG_RESEED and ENTROPY_HEALTH_FAIL (R203, R204). After start-up step 5, without a health failure, an instance at
2^20 requests or 2^32 root cycles is reseeded and counts from here; one below its limit stays. A health failure sets
HEALTH_FAIL, counts, and reports source ENTROPY to the Binnacle, once per Binnacle cycle (R348). KV_GENERATE (R192,
R199): with a writable slot, a key type below PRIV, attributes that R190 and R191 allow and DRBG output, the slot becomes
a KEY of the range's function with a new generation, a drawn key of KLEN bytes and count 0; every other slot stays. A
TDES key with equal neighbouring parts is not written: the command stays BUSY and draws again (log entry 18, DEDUCED). A
slot outside every range answers RANGE; a type or an attribute that is not allowed answers ATTR and leaves every slot. -/
def Obligations.DrbgAndGenerate : Prop :=
  ((∀ (s : State) (k : BitVec 3), engineUp s = true → s.kv.healthFail = false → 5 ≤ s.pw.step → s.pw.step < 15 →
    (((drbgOf s k.toNat).seeded = true ∧ (drbgOf s k.toNat).reqs < 2 ^ 20 ∧
        s.clk.meridian < (drbgOf s k.toNat).at_ + 2 ^ 32) → exec (.drbgReseed k) s = .next s) ∧
    ((2 ^ 20 ≤ (drbgOf s k.toNat).reqs ∨ (drbgOf s k.toNat).at_ + 2 ^ 32 ≤ s.clk.meridian) →
      exec (.drbgReseed k) s =
        .next { s with kv := { s.kv with drbg := s.kv.drbg.set k.toNat ⟨true, 0, s.clk.meridian⟩ } })) ∧
  (∀ (s : State), engineUp s = true → ∃ t, exec .entropyHealthFail s = .next t ∧ t.kv.healthFail = true ∧
    t.kv.drbgFail = sat32 s.kv.drbgFail ∧ (s.bn.vsbRst = false → (s.bn.alarmAt ≠ some s.bn.btime ∨ s.bn.alarmSrc.getLsbD 10 = false) →
      t.bn.latch.getLsbD 10 = true))) ∧
  (∀ (s : State) (a : Access) (ktype : BitVec 4) (klen : BitVec 7) (i : Nat) (attr : Word),
    kvTakes s a = true → i = s.kv.idx.toNat →
    attr = mkAttr (atEngine s.kv.attr) (atUsage s.kv.attr) ktype.toNat false (atExport s.kv.attr) →
    (slotOwner s i = none → exec (.kvGenerate a ktype klen) s =
      .next (acked { s with kv := { s.kv with result := 1, cmd := none, busy := false } } a)) ∧
    (kvWritable s i = none → (3 ≤ ktype.toNat ∨ attrOk attr klen.toNat = false) →
      exec (.kvGenerate a ktype klen) s =
        .next (acked { s with kv := { s.kv with result := 3, cmd := none, busy := false } } a)) ∧
    (∀ f, kvWritable s i = none → slotOwner s i = some f → ktype.toNat < 3 → wfld s.kv.attr 13 3 = 0 →
      wfld s.kv.attr 22 10 = 0 → attrOk attr klen.toNat = true → drbgUp s 0 = true →
      (ktype.toNat = 1 → partsDiffer ((freeBytes s klen.toNat).map oddParity) = true) →
      ∃ (t : State) (key : Bytes), exec (.kvGenerate a ktype klen) s = .next t ∧ key.length = klen.toNat ∧
        t.kv.result = 0 ∧ t.kv.busy = false ∧ (getSlot t i).key = key ∧ (getSlot t i).kind = 1 ∧
        (getSlot t i).gen = newGen (getSlot s i).gen ∧ (getSlot t i).own = f.func ∧ (getSlot t i).klen = klen.toNat ∧
        (getSlot t i).invcnt = 0 ∧ (∀ m, m ≠ i → getSlot t m = getSlot s m) ∧ t.units = s.units ∧ t.rings = s.rings) ∧
    (∀ f, kvWritable s i = none → slotOwner s i = some f → ktype.toNat = 1 → wfld s.kv.attr 13 3 = 0 →
      wfld s.kv.attr 22 10 = 0 → attrOk attr klen.toNat = true → drbgUp s 0 = true →
      partsDiffer ((freeBytes s klen.toNat).map oddParity) = false →
      ∃ t, exec (.kvGenerate a ktype klen) s = .next t ∧ t.kv.busy = true ∧ t.kv.slots = s.kv.slots ∧
        t.free = s.free + klen.toNat))

/-- KV_UNWRAP, KV_WRAP and KV_ATTEST as their command starts (R197, R201, R202, R206), with outbound rules that grant
every piece. UNWRAP into a writable slot reads LEN bytes from SRC. ATTEST refuses an imported, exportable or EMPTY key
with NOT_ATTESTABLE, then a missing signer with NO_SIGNER, then a short buffer with SHORT (this order is log entry 42,
DEDUCED), and reads its challenge of 32 bytes. WRAP of an EMPTY or extension slot answers KIND, under a KEK a key that is
not exportable NOT_EXPORTABLE, a buffer too short for the blob answers SHORT, and otherwise the blob goes to port 0 in
the pieces of its range and BUSY stays until its last response. That a WRAP is refused in the order KIND, NOT_EXPORTABLE,
KEK, SHORT, and that WRAP and ATTEST of a slot found with a parity error go on, are the model's choices (log entry 55,
DESIGN CHOICE). OUTLEN restarts at 0 with WRAP and ATTEST (R210); a parity error found in the slot counts in KV_PARITY
(R193). -/
def Obligations.KvBlobCommandsStart : Prop :=
  ∀ (s w : State) (a : Access) (kek bad kekBad : Bool) (i : Nat) (x : Slot), kvTakes s a = true → i = s.kv.idx.toNat →
    x = getSlot s i → w = kvFound s i bad →
    (∀ p, (judgeOut s 0 false p).ok = true ∧ (judgeOut s 0 true p).ok = true) →
    (kvWritable s i = none → pieces s.kv.src s.kv.len.toNat ≠ [] → ∃ (t : State) (c : KvCmd),
      exec (.kvUnwrap ⟨a, bad, kekBad⟩ kek) s = .next t ∧ t.kv.busy = true ∧ t.kv.cmd = some c ∧ c.op = 4 ∧ c.idx = i ∧
      c.wrapper = kek ∧ c.gather = ⟨(pieces s.kv.src s.kv.len.toNat).length, [], none⟩ ∧ t.kv.slots = s.kv.slots) ∧
    ((kvHolder s i).isSome = true → (x.kind = 0 ∨ x.kind = 3 ∨ atOrigin x.attr = true ∨ atExport x.attr = true) →
      exec (.kvAttest ⟨a, bad, kekBad⟩) s =
        .next (acked { w with kv := { w.kv with result := 9, cmd := none, busy := false, outLen := 0 } } a)) ∧
    ((kvHolder s i).isSome = true → (x.kind = 1 ∨ x.kind = 2) → atOrigin x.attr = false → atExport x.attr = false →
      (s.kv.attValid = false → exec (.kvAttest ⟨a, bad, kekBad⟩) s =
        .next (acked { w with kv := { w.kv with result := 10, cmd := none, busy := false, outLen := 0 } } a)) ∧
      (s.kv.attValid = true → s.kv.dlen.toNat < 224 → exec (.kvAttest ⟨a, bad, kekBad⟩) s =
        .next (acked { w with kv := { w.kv with result := 12, cmd := none, busy := false, outLen := 0 } } a)) ∧
      (s.kv.attValid = true → 224 ≤ s.kv.dlen.toNat → ∃ (t : State) (c : KvCmd), exec (.kvAttest ⟨a, bad, kekBad⟩) s = .next t ∧
        t.kv.busy = true ∧ t.kv.cmd = some c ∧ c.op = 6 ∧ c.gather = ⟨(pieces s.kv.src 32).length, [], none⟩)) ∧
    ((kvHolder s i).isSome = true → (x.kind = 0 ∨ x.kind = 3) →
      exec (.kvWrap ⟨a, bad, kekBad⟩ kek) s =
        .next (acked { w with kv := { w.kv with result := 2, cmd := none, busy := false, outLen := 0 } } a)) ∧
    ((kvHolder s i).isSome = true → (x.kind = 1 ∨ x.kind = 2) → kek = true → atExport x.attr = false →
      exec (.kvWrap ⟨a, bad, kekBad⟩ kek) s =
        .next (acked { w with kv := { w.kv with result := 8, cmd := none, busy := false, outLen := 0 } } a)) ∧
    (∀ f, kek = false → kvHolder s i = some f → (x.kind = 1 ∨ x.kind = 2) → lodeUsable s = true →
      (s.kv.dlen.toNat < blobLen (16 + x.pubh.length + (slotKey s i).length) →
        exec (.kvWrap ⟨a, bad, kekBad⟩ kek) s =
          .next (acked { w with kv := { w.kv with result := 12, cmd := none, busy := false, outLen := 0 } } a)) ∧
      (blobLen (16 + x.pubh.length + (slotKey s i).length) ≤ s.kv.dlen.toNat → ∃ (t : State) (c : KvCmd) (out : Bytes),
        exec (.kvWrap ⟨a, bad, kekBad⟩ kek) s = .next t ∧ t.kv.busy = true ∧ t.kv.cmd = some c ∧ c.op = 5 ∧
        c.out = (pieces s.kv.dst out.length).length ∧ t.kv.slots = w.kv.slots ∧
        (∀ p ∈ pieces s.kv.dst out.length, ∃ x ∈ (getPort t 0).out ++ (getPort t 0).sendQ,
          x.write = true ∧ x.addr = p.2.1 ∧ x.data = (out.drop p.1).take p.2.2 ∧ x.who = .kvWrite) ∧
        out = blobHeader false f.domain x.attr x.klen ++ kwpEnc (Config.aesEnc (domainKey s f.domain))
          (blobHeader false f.domain x.attr x.klen ++ x.pubh ++ slotKey s i)))

/-- KV_ERASE_FN and KV_ERASE_ALL (R207, R208). ERASE_FN leaves every slot that the selected function owns (R188) EMPTY
and every other slot as it is, and no key register of a unit whose owner is the function keeps a key. ERASE_ALL leaves
every slot EMPTY at once, K_VLT cleared, READY 0 and the scrub running, with BUSY 1 until it ends. VAULT_SCRUB_DONE and
ATT_PUBKEY_DONE (R187, R205, R208). The scrub ends 16,384 tile cycles after its start, once DRBG output is there (R204;
that the end waits for it is log entry 30, DEDUCED), and not before start-up has drawn its own key or in an erase hold
(log entry 46): K_VLT stands, READY is 1, an ERASE_ALL that waited is DONE, and every slot stays as it is; without DRBG
output the ERASE_ALL ends NO_ENTROPY. An ERASE_ALL that a no-start hold delays stays (R341). The key service unit ends
with ATT_VALID 1 and the public point of d_ATT shown, and is free of the vault. -/
def Obligations.VaultEraseAndScrub : Prop :=
  (∀ (s : State) (a : Access), kvTakes s a = true →
    (∃ t, exec (.kvEraseFn a) s = .next t ∧ t.kv.result = 0 ∧ t.kv.busy = false ∧
      (∀ i, ownsSlot s s.kv.fnSel.toNat i = true → (getSlot t i).kind = 0 ∧ (getSlot t i).key = [] ∧
        (getSlot t i).gen = (getSlot s i).gen) ∧
      (∀ i, ownsSlot s s.kv.fnSel.toNat i = false → getSlot t i = getSlot s i) ∧
      (∀ u k, (getUni t u).key = some k → k.own ≠ s.kv.fnSel.toNat)) ∧
    (∃ t, exec (.kvEraseAll a) s = .next t ∧ (∀ i, (getSlot t i).kind = 0) ∧ t.kv.kvlt = none ∧ t.kv.ready = false ∧
      t.kv.erasing = true ∧ t.kv.scrubAt = some s.clk.meridian ∧ t.kv.busy = true)) ∧
  ((∀ (s : State) (since : Nat), engineUp s = true → s.kv.scrubAt = some since →
    (s.clk.meridian < since + 32768 ∨ maskable s = false → exec .vaultScrubDone s = .next s) ∧
    (since + 32768 ≤ s.clk.meridian → maskable s = true → drbgUp s 0 = true → ∃ t, exec .vaultScrubDone s = .next t ∧
      t = { s with kv := t.kv, free := t.free } ∧ t.kv.kvlt.isSome = true ∧ t.kv.ready = true ∧ t.kv.erasing = false ∧
      t.kv.scrubAt = none ∧ t.kv.slots = s.kv.slots ∧
      (s.kv.cmd.any (fun c => c.op == 8 && !c.held) = true → t.kv.busy = false ∧ t.kv.result = 0)) ∧
    (since + 32768 ≤ s.clk.meridian → maskable s = true → drbgUp s 0 = false → exec .vaultScrubDone s = .next
      (if s.kv.cmd.any (fun c => c.op == 8 && !c.held) then { s with kv := { s.kv with busy := false, result := 13, cmd := none } }
       else s))) ∧
  (∀ (s : State) (d k : Nat), engineUp s = true → s.kv.dAtt = some d → s.chart.ksu = some k → s.kv.attValid = false →
    (getUni s k).vault = true → exec .attPubkeyDone s = .next
      (setUni { s with kv := { s.kv with attValid := true, attPub := toBE 48 (Config.ecPub 1 d).1 ++ toBE 48 (Config.ecPub 1 d).2 } }
        k { getUni s k with vault := false })))

/-! ## Arithmetic units and Helms -/

/-- The eleven host commands of an arithmetic unit as AT_CMD is written (R221, R223, R226), on a unit that the host holds
and that runs none. A command that fails a check of R223 ends at once with the first failure's STATUS and DETAIL and BUSY
0, and no slot changes (at once: log entry 33, DEDUCED). Written while a command runs, to a unit that the host does not
hold, or to one below the top, it does nothing but latch CMD_IGNORED of the top-level unit. Any other is BUSY with its
operands sampled and its latency counting, and its occupancy is added to AT_OCC; LOAD also issues the reads of its range
on port 0, the rest change nothing else. A host VLOAD is always turned away on an OPEN unit (R215, R223): with D in range
and no flag it ends KEY_ATTR 0x0A03. -/
def Obligations.AtCommandsRule : Prop :=
  (∀ (s : State) (a : Access) (u : BitVec 12) (fl : BitVec 3) (i : Instr) (k : Nat) (x : Uni) (c : AtCmd),
    (i, k) ∈ [(Instr.atClear a u fl, 1), (.atLoad a u fl, 2), (.atStore a u fl, 3), (.atVload a u fl, 5),
      (.atAdd a u fl, 8), (.atSub a u fl, 9), (.atCsub a u fl, 0x0A), (.atMul a u fl, 0x10), (.atMulacc a u fl, 0x11),
      (.atSqr a u fl, 0x12), (.atBfly a u fl, 0x18)] →
    (granted s a true (unitAt a u.toNat 0x48) = true → (unitRec s u.toNat).any (·.cls == 2) = true → quietWrites s = false →
      struck s = false → ((getUni s (topUnit s u.toNat)).ar.busy = true ∨ (getUni s (topUnit s u.toNat)).hostHeld = false ∨
        topUnit s u.toNat ≠ u.toNat) →
      exec i s = .next (acked (setUni s (topUnit s u.toNat) { getUni s (topUnit s u.toNat) with
        ar := { (getUni s (topUnit s u.toNat)).ar with cmdIgnored := true } }) a)) ∧
    (atTakes s a u.toNat = true → x = getUni s u.toNat →
    c = ⟨k, fl, wfld x.ar.opdDA 0 16, wfld x.ar.opdDA 16 16, wfld x.ar.opdBC 0 16, wfld x.ar.opdBC 16 16,
      wfld x.ar.q 0 31, x.ar.xaddr, 0, 0, .none, 0, false, false⟩ →
    (∀ st dt, atCheck s u.toNat c = some (st, dt) →
      ∃ t, exec i s = .next (acked t a) ∧ t = { s with units := t.units } ∧ (getUni t u.toNat).ar.busy = false ∧
        (getUni t u.toNat).ar.cmd = none ∧ (getUni t u.toNat).ar.status = st ∧ (getUni t u.toNat).ar.detail = dt ∧
        (getUni t u.toNat).ar.valid = x.ar.valid ∧ ∀ v, v ≠ u.toNat → getUni t v = getUni s v) ∧
    (atCheck s u.toNat c = none → k ≠ 2 →
      exec i s = .next (acked (setUni s u.toNat { x with ar := { x.ar with
        busy := true
        cmd := some { c with due := s.clk.meridian + (unitCycles s u.toNat k fl).2 }
        occ := (x.ar.occ + (unitCycles s u.toNat k fl).1) % 2 ^ 64 } }) a)) ∧
    (atCheck s u.toNat c = none → k = 2 → (∀ p, (judgeOut s 0 false p).ok = true) →
      ∃ (t : State) (c' : AtCmd), exec i s = .next (acked t a) ∧ t = { s with units := t.units, ports := t.ports } ∧
        (getUni t u.toNat).ar.busy = true ∧ (getUni t u.toNat).ar.cmd = some c' ∧
        c'.due = s.clk.meridian + (unitCycles s u.toNat k fl).2 ∧
        (getUni t u.toNat).ar.occ = (x.ar.occ + (unitCycles s u.toNat k fl).1) % 2 ^ 64 ∧
        c'.gather = ⟨(pieces x.ar.xaddr (opdBytes s u.toNat)).length, [], none⟩))) ∧
  (∀ (s : State) (a : Access) (u : BitVec 12) (r : UnitRec), atTakes s a u.toNat = true →
    unitRec s u.toNat = some r → r.sealed = false → wfld (getUni s u.toNat).ar.opdDA 0 16 < opdCount s u.toNat →
    ∃ t, exec (.atVload a u 0) s = .next t ∧ (getUni t u.toNat).ar.status = 5 ∧
      (getUni t u.toNat).ar.detail = 0x0A03 ∧ (getUni t u.toNat).ar.busy = false ∧ t.opmem = s.opmem)

/-- AT_CMD_DONE of CLEAR, ADD, SUB, CSUB, MUL, SQR and MULACC without a failure (R221, R222): with L the length of a slot
in bits, the destination holds the exact result modulo 2^L, a pair its high half in D + 1, CARRY is the carry, the borrow
or the overflow of the pair, the command ends OK, and no byte of operand memory outside the destinations changes. CSUB is
stated where its difference fits L bits (log entry 4). AT_CMD_DONE of a BFLY (R223, R225). With every lane of A, B and C
below an odd q from 3 to below 2^31, each lane of D and D + 1 holds, modulo q, A + C·B and A - C·B, or with GS A + B and
(A - B)·C. A lane at or above q ends the command RANGE 0x0A05 and leaves both destinations zero. -/
def Obligations.AtResultsRule : Prop :=
  (∀ (s : State) (u : BitVec 12) (env : BlockEnv) (c : AtCmd) (m a b d k : Nat),
    engineUp s = true → MemoryCanonical s → (getUni s u.toNat).ar.cmd = some c → c.due ≤ s.clk.meridian →
    c.gather.need = 0 → c.out = 0 → c.sent = false → env.agree = true → env.parity = false → atFault c = false →
    m = 2 ^ (8 * opdBytes s u.toNat) → a = opdRead s u.toNat c.a → b = opdRead s u.toNat c.b →
    d = opdRead s u.toNat c.d + m * opdRead s u.toNat (c.d + 1) →
    k = (if flCin c.fl then b2n (getUni s u.toNat).ar.carry else 0) →
    c.op ∈ [1, 8, 9, 0x0A, 0x10, 0x11, 0x12] → (c.op = 0x0A → csubOver 0x0A c.fl a b (getUni s u.toNat).ar.carry = false) →
    ∃ t, exec (.atCmdDone u env) s = .next t ∧ t = { s with units := t.units, opmem := t.opmem } ∧
      (getUni t u.toNat).ar.busy = false ∧ (getUni t u.toNat).ar.cmd = none ∧ (getUni t u.toNat).ar.status = 0 ∧
      (c.op = 1 → opdRead t u.toNat c.d = 0) ∧
      (c.op = 8 → opdRead t u.toNat c.d = (a + b + k) % m ∧ (getUni t u.toNat).ar.carry = decide (m ≤ a + b + k)) ∧
      (c.op = 9 → (opdRead t u.toNat c.d + b + k) % m = a % m ∧ (getUni t u.toNat).ar.carry = decide (a < b + k)) ∧
      (c.op = 0x0A → opdRead t u.toNat c.d = (if b ≤ k * m + a then k * m + a - b else a) ∧
        (getUni t u.toNat).ar.carry = false) ∧
      (c.op = 0x10 → opdRead t u.toNat c.d = a * b % m ∧
        (flLo c.fl = false → opdRead t u.toNat (c.d + 1) = a * b / m)) ∧
      (c.op = 0x12 → opdRead t u.toNat c.d = a * a % m ∧
        (flLo c.fl = false → opdRead t u.toNat (c.d + 1) = a * a / m)) ∧
      (c.op = 0x11 → opdRead t u.toNat c.d = (d + a * b) % m ∧ (flLo c.fl = false →
        opdRead t u.toNat (c.d + 1) = (d + a * b) / m % m ∧ (getUni t u.toNat).ar.carry = decide (m * m ≤ d + a * b))) ∧
      (∀ p, (p < opdAddr s u.toNat c.d ∨
          opdAddr s u.toNat c.d + (if pairOp c.op c.fl then 2 else 1) * opdBytes s u.toNat ≤ p) →
        Memory.read t.opmem p = Memory.read s.opmem p)) ∧
  (∀ (s : State) (u : BitVec 12) (env : BlockEnv) (c : AtCmd),
    engineUp s = true → MemoryCanonical s → (getUni s u.toNat).ar.cmd = some c → c.due ≤ s.clk.meridian →
    c.gather.need = 0 → c.out = 0 → c.sent = false → env.agree = true → env.parity = false → atFault c = false → c.op = 0x18 →
    3 ≤ c.q → c.q < 2 ^ 31 →
    (lanesOk s u.toNat c = true → ∃ t, exec (.atCmdDone u env) s = .next t ∧ (getUni t u.toNat).ar.status = 0 ∧
      ∀ (n a b w : Nat), n < opdBytes s u.toNat / 4 → a = lane (opdRead s u.toNat c.a) n →
        b = lane (opdRead s u.toNat c.b) n → w = lane (opdRead s u.toNat c.c) n →
        (flGs c.fl = false → lane (opdRead t u.toNat c.d) n = (a + w * b) % c.q ∧
          (lane (opdRead t u.toNat (c.d + 1)) n + w * b) % c.q = a % c.q) ∧
        (flGs c.fl = true → lane (opdRead t u.toNat c.d) n = (a + b) % c.q ∧
          (lane (opdRead t u.toNat (c.d + 1)) n + b * w) % c.q = a * w % c.q)) ∧
    (lanesOk s u.toNat c = false → ∃ t, exec (.atCmdDone u env) s = .next t ∧ (getUni t u.toNat).ar.status = 6 ∧
      (getUni t u.toNat).ar.detail = 0x0A05 ∧ opdRead t u.toNat c.d = 0 ∧ opdRead t u.toNat (c.d + 1) = 0 ∧
      (getUni t u.toNat).ar.carry = false))

/-- APERTURE_WRITE (R219), once R307 has let the access through: on a unit that the host holds, OPEN and not BUSY, an
aligned access of 4 to 64 bytes to its computing tiles writes exactly its bytes, sets VALID of the slots it touches and
clears their LOADED; where these slots were VALID every other byte of operand memory stays. Any other access of the tile
of a unit is refused with ERROR and latches APERTURE_REFUSED alone. APERTURE_READ (R219, R220): under the same conditions
the answer holds the bytes, zero in a slot that is not VALID; in a DUAL pair whose halves differ the read fails and
UN_MISMATCH counts. A parity error met in it counts in AT_PARITY of the tile (R230), and the read is answered as without
(log entry 63, DESIGN CHOICE). Nothing else changes. -/
def Obligations.ApertureRule : Prop :=
  (∀ (s : State) (a : Access) (off : BitVec 23) (data : Bytes) (u : Nat),
    access s a true (mgmtAt a (0x02000000 + off.toNat)) = (s, none) → apertureUnit s off.toNat = some u →
    data.length = accessBytes a.size →
    (apertureOk s u a off.toNat = false → exec (.apertureWrite a off data) s =
      .next (respond (setUni s u { getUni s u with ar := { (getUni s u).ar with apRefused := true } }) a ⟨1, []⟩)) ∧
    (apertureOk s u a off.toNat = true → MemoryCanonical s → ∃ t, exec (.apertureWrite a off data) s = .next t ∧
      t = acked { s with units := t.units, opmem := t.opmem } a ∧
      (∀ i, i < data.length → Memory.read t.opmem (off.toNat + i) = data.getD i 0) ∧
      (∀ n ∈ slotsTouched s u off.toNat data.length,
        n ∈ (getUni t u).ar.valid ∧ n ∉ (getUni t u).ar.loaded) ∧
      ((∀ n ∈ slotsTouched s u off.toNat data.length, n ∈ (getUni s u).ar.valid) →
        ∀ p, (p < off.toNat ∨ off.toNat + data.length ≤ p) → Memory.read t.opmem p = Memory.read s.opmem p))) ∧
  (∀ (s w : State) (a : Access) (off : BitVec 23) (agree parity : Bool) (u : Nat),
    access s a false (mgmtAt a (0x02000000 + off.toNat)) = (s, none) → apertureUnit s off.toNat = some u →
    w = (if parity = true then aperturePar s off.toNat else s) →
    (apertureOk s u a off.toNat = false → exec (.apertureRead a off ⟨agree, parity⟩) s =
      .next (respond (setUni s u { getUni s u with ar := { (getUni s u).ar with apRefused := true } }) a
        ⟨1, List.replicate (2 ^ a.size.toNat) 0⟩)) ∧
    (apertureOk s u a off.toNat = true → apertureDiffers s u agree = false → exec (.apertureRead a off ⟨agree, parity⟩) s =
      .next (respond w a ⟨0, apertureBytes s u off.toNat (2 ^ a.size.toNat)⟩)) ∧
    (apertureOk s u a off.toNat = true → apertureDiffers s u agree = true → exec (.apertureRead a off ⟨agree, parity⟩) s =
      .next (respond (count w u (fun c => { c with mismatch := sat32 c.mismatch })) a
        ⟨1, List.replicate (2 ^ a.size.toNat) 0⟩)) ∧
    (∀ (r : UnitRec) (v : Nat), parity = true → leafAt s (off.toNat / tileBytes) = some r →
      getCnt w v = if v = r.uid then { getCnt s v with parity := sat32 (getCnt s v).parity } else getCnt s v))

/-- HOST_CLAIM, HOST_RELEASE and HOST_RELEASE_SCRUB_DONE (R19, R229). A free host-claimable top-level unit becomes
HOST_HELD, any other stays, as does one claimed in a no-start hold (R341; that this claim is ignored is log entry 27,
DEDUCED); a held cipher or hash unit is free at once; a held arithmetic unit starts its scrub, and a command that runs on
it is aborted with ABORTED_RESET 0x0A09, CARRY 0 and its destinations INVALID (R228); after 4,096 root cycles every slot
is INVALID, its computing tiles are zero and the unit is FREE. -/
def Obligations.HostClaimAndRelease : Prop :=
  (∀ (s : State) (a : Access) (u : BitVec 12) (r : UnitRec), granted s a true (unitAt a u.toNat 4) = true →
    quietWrites s = false → unitRec s u.toNat = some r →
    exec (.hostClaim a u) s = .next (acked
      (if r.hostClaim = true ∧ r.parent = none ∧ ownerFree s u.toNat = true ∧ nostart s = false ∧ struck s = false ∧
          claimFenced s u.toNat = false then setUni s u.toNat { getUni s u.toNat with hostHeld := true } else s) a) ∧
    ((getUni s u.toNat).hostHeld = false → exec (.hostRelease a u) s = .next (acked s a)) ∧
    ((getUni s u.toNat).hostHeld = true → r.cls ≠ 2 →
      exec (.hostRelease a u) s = .next (acked (setUni s u.toNat { getUni s u.toNat with hostHeld := false }) a)) ∧
    ((getUni s u.toNat).hostHeld = true → r.cls = 2 → (getUni s u.toNat).ar.cmd = none →
      exec (.hostRelease a u) s = .next (acked (setUni s u.toNat { getUni s u.toNat with
        hostHeld := false, relScrub := true, scrubAt := s.clk.meridian }) a)) ∧
    (∀ c, (getUni s u.toNat).hostHeld = true → r.cls = 2 → (getUni s u.toNat).ar.cmd = some c →
      ∃ t, exec (.hostRelease a u) s = .next (acked t a) ∧ t = { s with units := t.units, opmem := t.opmem, ports := t.ports } ∧
        (getUni t u.toNat).hostHeld = false ∧ (getUni t u.toNat).relScrub = true ∧
        (getUni t u.toNat).scrubAt = s.clk.meridian ∧ (getUni t u.toNat).ar.busy = false ∧
        (getUni t u.toNat).ar.cmd = none ∧ (getUni t u.toNat).ar.status = 10 ∧ (getUni t u.toNat).ar.detail = 0x0A09 ∧
        (getUni t u.toNat).ar.carry = false ∧ (∀ n ∈ destSlots c.op c.fl c.d, n ∉ (getUni t u.toNat).ar.valid) ∧
        ∀ v, v ≠ u.toNat → getUni t v = getUni s v)) ∧
  (∀ (s : State) (u : BitVec 12), running s = true → (getUni s u.toNat).relScrub = true →
    (getUni s u.toNat).scrubAt + 4096 ≤ s.clk.meridian → ∃ t, exec (.hostReleaseScrubDone u) s = .next t ∧
      t = { s with units := t.units, opmem := t.opmem } ∧ (getUni t u.toNat).relScrub = false ∧
      (getUni t u.toNat).ar.valid = [] ∧ (getUni t u.toNat).ar.loaded = [] ∧
      (∀ r ∈ compTiles s u.toNat, ∀ i, i < tileBytes → Memory.read t.opmem (r.tile * tileBytes + i) = 0) ∧
      ∀ p, (∀ r ∈ compTiles s u.toNat, p < r.tile * tileBytes ∨ (r.tile + 1) * tileBytes ≤ p) →
        Memory.read t.opmem p = Memory.read s.opmem p)

/-- ABORT_SCRUB_DONE (R228, R250): a unit in SCRUB leaves it, its scheduler releases it, and a preemption of it reports
DONE; a unit that a trap of its Helm has put into FAULT meanwhile stays there, and its preemption reports DONE; any other
unit stays. HELM_TRAP and HL_PREEMPT (R234, R250). A trap halts the Helm with its cause, counts, and leaves every unit
bound to it without a job and in FAULT. A preemption of a preemptible unit with a job aborts the job into SCRUB and is
BUSY; of a unit without a job it answers NONE, and of any other unit REFUSED, with no other effect. -/
def Obligations.ScrubTrapAndPreempt : Prop :=
  (∀ (s : State) (u : BitVec 12), running s = true →
    ((getUni s u.toNat).st ≠ 2 → (getUni s u.toNat).st ≠ 4 → exec (.abortScrubDone u) s = .next s) ∧
    ((getUni s u.toNat).st = 4 → exec (.abortScrubDone u) s = .next
      (if s.hl.preBusy = true ∧ s.hl.preUid = u.toNat then { s with hl := { s.hl with preBusy := false, preResult := 0 } }
       else s)) ∧
    ((getUni s u.toNat).st = 2 → ∃ t, exec (.abortScrubDone u) s = .next t ∧ (getUni t u.toNat).st = 0 ∧
      ((getUni s u.toNat).sched = true → (getUni t u.toNat).sched = false ∧ (getUni t u.toNat).job = none) ∧
      (s.hl.preBusy = true → s.hl.preUid = u.toNat → t.hl.preBusy = false ∧ t.hl.preResult = 0) ∧
      t.opmem = s.opmem ∧ t.chains = s.chains ∧ ∀ v, v ≠ u.toNat → getUni t v = getUni s v)) ∧
  ((∀ (s : State) (h : BitVec 4) (cause : BitVec 8), engineUp s = true → s.ch.state = 2 → (getHelm s h.toNat).st ≠ 3 →
    1 ≤ cause.toNat → cause.toNat ≤ 3 → ∃ t, exec (.helmTrap h cause) s = .next t ∧ (getHelm t h.toNat).st = 3 ∧
      (getHelm t h.toNat).trap = cause.toNat ∧ t.hl.traps = sat32 s.hl.traps ∧
      (∀ u ∈ helmUnits s h.toNat, (getUni t u).st = 4 ∧ (getUni t u).job = none) ∧ t.cqs = s.cqs) ∧
  (∀ (s : State) (a : Access) (v : Word) (u : Nat), granted s a true (mgmtAt a 0x70038) = true →
    quietWrites s = false → s.hl.preBusy = false → u = wfld v 0 12 →
    (preemptible s u = false → exec (.hlPreempt a v) s = .next (acked { s with hl := { s.hl with preResult := 2 } } a)) ∧
    (preemptible s u = true → (getUni s u).job = none →
      exec (.hlPreempt a v) s = .next (acked { s with hl := { s.hl with preResult := 1 } } a)) ∧
    (preemptible s u = true → (getUni s u).job ≠ none → ∃ t, exec (.hlPreempt a v) s = .next t ∧
      t.hl.preBusy = true ∧ t.hl.preUid = u ∧ t.hl.preempted = sat32 s.hl.preempted ∧ (getUni t u).st = 2 ∧
      (getUni t u).job = none ∧ ∀ w, w ≠ u → getUni t w = getUni s w)))

/-! ## Chart, fuses and transactions -/

/-- CH_LOAD (R267, R269, R328): with start-up at step 5 or later and no command waiting, in a life-cycle transition the
answer is NOT_QUIESCED, also where an ADVANCE still programs, else the first condition of R267 that applies is the RESULT
and nothing else changes; without one READ begins: the state is LOADING, ATT_VALID and READY fall, start-up is at step 5,
CH_LEN is taken for the LENGTH check, every pool of the Chart in force is in fallback, and the reads of the image are
issued. CH_ADVANCE and FUSE_BIT_PROGRAMMED (R272, R327, R328, R397). ADVANCE needs no transition (RESULT 2), an ACTIVE
Chart (RESULT 6), PROVISIONED or SECURE (RESULT 2); it programs the zero bits that raise both minima to the versions of
the Chart, one after another, or ends at once where there is none. Which zero bits it programs, and in what order, is log
entry 21 (DESIGN CHOICE). A pulse lasts 12 µs; then that bit is 1 and every other fuse stays as it is; a Lodestone that
is drawn next changes the DRBG alone. -/
def Obligations.ChartRule : Prop :=
  (∀ (s : State) (a : Access) (keep : Bool), granted s a true (mgmtAt a 0x10004) = true → failedStart s = false →
    struck s = false → s.ch.held = none → 5 ≤ s.pw.step → nostart s = false →
    (s.ch.busy = true → s.ch.state = 1 ∨ s.lc.busy = true) →
    (s.lc.busy = true → exec (.chLoad a keep) s = .next (acked { s with ch := { s.ch with result := 4 } } a)) ∧
    (s.lc.busy = false → s.ch.state = 1 →
      exec (.chLoad a keep) s = .next (acked { s with ch := { s.ch with result := 1 } } a)) ∧
    (s.lc.busy = false → s.ch.state ≠ 1 → s.lc.state = 6 ∨ s.lc.state = 0x0F →
      exec (.chLoad a keep) s = .next (acked { s with ch := { s.ch with result := 2 } } a)) ∧
    (s.lc.busy = false → s.ch.state ≠ 1 → s.lc.state ≠ 6 → s.lc.state ≠ 0x0F → s.ch.src % 64 ≠ 0 ∨ s.ch.len = 0 →
      exec (.chLoad a keep) s = .next (acked { s with ch := { s.ch with result := 3 } } a)) ∧
    (s.ch.state ≠ 1 → s.lc.state ≠ 6 → s.lc.state ≠ 0x0F → s.ch.src % 64 = 0 → s.ch.len ≠ 0 →
      s.lc.busy = false → s.ch.state = 2 → busyDevice s = true ∨ anyCtx s = true →
      exec (.chLoad a keep) s = .next (acked { s with ch := { s.ch with result := 4 } } a)) ∧
    (s.ch.state ≠ 1 → s.lc.state ≠ 6 → s.lc.state ≠ 0x0F → s.ch.src % 64 = 0 → s.ch.len ≠ 0 → s.lc.busy = false →
      (s.ch.state = 2 → busyDevice s = false ∧ anyCtx s = false) →
      ∃ t, exec (.chLoad a keep) s = .next (acked t a) ∧ t.ch.state = 1 ∧ t.ch.phase = 1 ∧ t.ch.busy = true ∧
        t.ch.keep = keep ∧ t.ch.loadLen = s.ch.len ∧ t.chart = s.chart ∧ t.kv.attValid = false ∧ t.pw.step = 5 ∧ t.pw.ready = false ∧
        t.fuses = s.fuses ∧ (∀ p ∈ s.chart.pools, (getPool t p.pool).fallback = true) ∧
        ((∀ p, (judgeOut s 0 false p).ok = true) →
          t.ch.gather = ⟨(pieces s.ch.src s.ch.len).length, [], none⟩))) ∧
  ((∀ (s : State) (a : Access) (oldC newC oldF newF : Nat) (bits : List Nat),
    granted s a true (mgmtAt a 0x10004) = true → failedStart s = false → struck s = false → s.ch.held = none →
    5 ≤ s.pw.step → nostart s = false → (s.ch.busy = true → s.lc.busy = true) → oldC = chartMinSvn s → newC = max oldC s.ch.svn →
    oldF = fwMinSvn s → newF = max oldF s.ch.fwSvn →
    bits = thermoBits s 66 oldC newC ++ thermoBits s 64 oldF newF →
    (s.lc.busy = false → s.ch.state ≠ 2 → exec (.chAdvance a) s = .next (acked { s with ch := { s.ch with result := 6 } } a)) ∧
    (s.lc.busy = true ∨ (s.ch.state = 2 ∧ s.lc.state ≠ 3 ∧ s.lc.state ≠ 4) →
      exec (.chAdvance a) s = .next (acked { s with ch := { s.ch with result := 2 } } a)) ∧
    (s.ch.state = 2 → s.lc.busy = false → s.lc.state = 3 ∨ s.lc.state = 4 → s.lc.ops = [] → fuseGo s = true →
      bits ≠ [] → exec (.chAdvance a) s = .next (acked { s with
        ch := { s.ch with busy := true }
        lc := { s.lc with ops := [⟨.advance oldC newC oldF newF, [.bits 1 bits], 0, true, s.clk.meridian,
          (s.clk.meridian, s.bn.btime)⟩] } } a)) ∧
    (s.ch.state = 2 → s.lc.busy = false → s.lc.state = 3 ∨ s.lc.state = 4 → s.lc.ops = [] → bits = [] →
      ∃ t, exec (.chAdvance a) s = .next (acked t a) ∧ t = { s with
          ch := { s.ch with result := 0 }, lb := t.lb, nv := t.nv, lane0 := t.lane0, lane1 := t.lane1
          bn := { s.bn with erase := t.bn.erase } } ∧
        (s.lb.queue.length < 32 → t.lb.queue.length = s.lb.queue.length + 1))) ∧
  (∀ (s : State) (w : FuseWhat) (n b d at_ : Nat) (l : List Nat) (r : List FuseStep) (rest : List FuseOp) (p : Nat × Nat),
    active s = true → s.lc.ops = ⟨w, .bits n (b :: l) :: r, d, true, at_, p⟩ :: rest →
    (s.clk.meridian < p.1 + 36000 → s.bn.btime < p.2 + 384 → exec .fuseBitProgrammed s = .next s) ∧
    ((p.1 + 36000 ≤ s.clk.meridian ∨ p.2 + 384 ≤ s.bn.btime) → ∃ t, exec .fuseBitProgrammed s = .next t ∧
      t = { s with fuses := t.fuses, lc := t.lc, ch := t.ch, lb := t.lb, free := t.free,
                   nv := t.nv, lane0 := t.lane0, lane1 := t.lane1, bn := { s.bn with erase := t.bn.erase },
                   kv := { s.kv with drbg := t.kv.drbg } } ∧ fuseBit t b = true ∧
      ∀ c, c ≠ b → fuseBit t c = fuseBit s c)))

/-- CHART_LOAD_END (R268 to R271) once every read has its response. A failed read or a failed check empties the Chart and
its memories and shows RESULT 5 with REASON, location and info; a Chart that passes is installed: the state is ACTIVE,
the configuration is that of the bytes, start-up goes to step 6, the epoch advances, operand memory and every context are
gone, and each of its pools is empty and in fallback. The CHART_ID, the digest and the codes that a rejected load shows
are log entry 22 (DEDUCED). -/
def Obligations.ChartLoadEnds : Prop :=
  ∀ (s : State) (b : Bytes), engineUp s = true → s.ch.state = 1 → s.ch.gather.need = 0 → b = s.ch.gather.bytes →
    (∀ o, s.ch.gather.err = some o → ∃ t, exec .chartLoadEnd s = .next t ∧ t.ch.state = 0 ∧ t.ch.result = 5 ∧
      t.ch.reason = 1 ∧ t.ch.phase = 1 ∧ t.ch.failInfo = word o ∧ t.chart = .empty) ∧
    (∀ (phase : Nat) (f : CheckFail), s.ch.gather.err = none → loadFailure s b = some (phase, f) →
      ∃ t, exec .chartLoadEnd s = .next t ∧ t = { s with
          ch := t.ch, chart := .empty, lb := t.lb, nv := t.nv, lane0 := t.lane0, lane1 := t.lane1
          tx := { s.tx with high := 0 }, bn := { s.bn with erase := t.bn.erase } } ∧ t.ch.state = 0 ∧
        t.ch.busy = false ∧ t.ch.result = 5 ∧ t.ch.phase = phase ∧ t.ch.reason = f.code ∧
        t.ch.failLoc = word (f.type + 256 * f.idx) ∧ t.ch.failInfo = word f.info ∧ t.ch.rejects = sat32 s.ch.rejects ∧
        t.ch.image = [] ∧ t.ch.helmCode = [] ∧ t.ch.digest = zeros 48 ∧ t.ch.id = 0) ∧
    (s.ch.gather.err = none → loadFailure s b = none →
      ∃ t, exec .chartLoadEnd s = .next t ∧ t.chart = parseChart b ∧ t.ch.state = 2 ∧ t.ch.busy = false ∧
        t.ch.result = 0 ∧ t.ch.reason = 0 ∧ t.ch.loads = sat32 s.ch.loads ∧ t.ch.digest = chartDigest b ∧
        t.ch.helmCode.take (helmCodeOf b).length = helmCodeOf b ∧
        t.ch.image.take (dirOff b 7) = b.take (dirOff b 7) ∧ t.ch.svn = leAt b 0x10 2 ∧
        t.ch.orphans = ((orphans s (parseChart b)).flatMap (fun e => eraseSet s e.1)).eraseDups.length ∧ t.pw.step = 6 ∧ t.tx.epoch = s.tx.epoch + 1 ∧
        t.opmem = [] ∧ t.sc.std = [] ∧ t.sc.cmp = [] ∧ t.fuses = s.fuses ∧
        ∀ p ∈ t.chart.pools, (getPool t p.pool).fallback = true ∧ (getPool t p.pool).queue = [] ∧
          (getPool t p.pool).level = 0)

/-- TX_BEGIN, TX_COMMIT and TX_ROLLBACK (R280): the state and RESULT of the transaction follow the table; a write while
the state is COMMITTING answers BUSY; a BEGIN starts with an empty shadow and a ROLLBACK drops it. COMMIT_VALIDATION_END
(R281, R283). A proposal that fails a check leaves the transaction open with the REASON, key and info of the first
failure, and nothing of the configuration changes. One that passes is in force at once: the Chart with every change of
the shadow, the access tables with theirs, the epoch one further, the shadow empty; a free unit whose key, or whose
tile's state, no next segment of its pool will use scrubs it (R19, R119, R145). -/
def Obligations.TransactionRule : Prop :=
  (∀ (s : State) (a : Access) (v : Word), wbit v 0 = true →
    (granted s a true (mgmtAt a 0x100) = true → failedStart s = false → quietWrites s = false →
      exec (.txBegin a v) s = .next (acked { s with tx :=
        if s.tx.state = 2 then { s.tx with result := 4 } else if s.tx.state = 1 then { s.tx with result := 3 }
        else if s.ch.state ≠ 2 then { s.tx with result := 5 }
        else { s.tx with state := 1, result := 0, reason := 0, shadow := [], spoiled := false } } a)) ∧
    (granted s a true (mgmtAt a 0x104) = true →
      exec (.txCommit a v) s = .next (acked { s with tx :=
        if s.tx.state = 2 then { s.tx with result := 4 } else if s.tx.state = 0 then { s.tx with result := 2 }
        else { s.tx with state := 2 } } a)) ∧
    (granted s a true (mgmtAt a 0x108) = true →
      exec (.txRollback a v) s = .next (acked { s with tx :=
        if s.tx.state = 2 then { s.tx with result := 4 } else if s.tx.state = 0 then { s.tx with result := 2 }
        else { s.tx with state := 0, result := 0, reason := 0, shadow := [], spoiled := false } } a))) ∧
  (∀ (s : State), engineUp s = true → s.tx.state = 2 →
    (∀ f, txCheck s = some f → exec .commitValidationEnd s = .next { s with tx := { s.tx with
      state := 1, result := 1, reason := f.reason, failLoc := word (f.type + 256 * f.key), failInfo := word f.info } }) ∧
    (txCheck s = none → ∃ t, exec .commitValidationEnd s = .next t ∧ t.chart = proposed s.chart s.tx.shadow ∧
      t.ac = applyRules s.ac s.tx.shadow ∧
      t.tx = { s.tx with state := 0, result := 0, reason := 0, shadow := [], epoch := s.tx.epoch + 1 } ∧
      t.kv = s.kv ∧ t.sc = s.sc ∧ (∀ u, getUni t u = getUni s u ∨
        (((getUni s u).job = none ∧ (getUni s u).sched = false) ∧ getUni t u = scrubKey (getUni s u))) ∧ t.opmem = s.opmem ∧ t.cqs = s.cqs ∧ t.fuses = s.fuses))

/-- TX_PATCH and TX_PATCH_READ_DONE (R277, R279). Without an open transaction, or with a length that is no multiple of 8
B from 8 B to 128 KiB, the patch answers at once (NOT_OPEN, FORMAT), and while a commit is validated also RESULT BUSY;
else its reads are issued. Once they have their responses the list enters the shadow whole, or not at all: a failed read,
a broken entry, or too little room shows its RESULT and leaves the shadow. FORMAT for a bad length or a cut list is log
entry 32 (DEDUCED). -/
def Obligations.PatchWholeOrNot : Prop :=
  (∀ (s : State) (a : Access) (v : Word), granted s a true (mgmtAt a 0x130) = true → wbit v 0 = true →
    s.tx.pbusy = false →
    (s.tx.state = 0 → exec (.txPatch a v) s =
      .next (acked { s with tx := { s.tx with presult := 1, gather := .none } } a)) ∧
    (s.tx.state = 2 → exec (.txPatch a v) s =
      .next (acked { s with tx := { s.tx with presult := 1, gather := .none, result := 4 } } a)) ∧
    (s.tx.state = 1 → s.tx.plen % 8 ≠ 0 ∨ s.tx.plen = 0 ∨ 131072 < s.tx.plen → exec (.txPatch a v) s =
      .next (acked { s with tx := { s.tx with presult := 3, gather := .none } } a)) ∧
    (s.tx.state = 1 → s.tx.plen % 8 = 0 → s.tx.plen ≠ 0 → s.tx.plen ≤ 131072 →
      (∀ p, (judgeOut s 0 false p).ok = true) → ∃ t, exec (.txPatch a v) s = .next (acked t a) ∧
      t = { s with
        ports := t.ports
        tx := { s.tx with pbusy := true, gather := ⟨(pieces s.tx.psrc s.tx.plen).length, [], none⟩ } })) ∧
  (∀ (s : State) (b : Bytes), engineUp s = true → s.tx.pbusy = true → s.tx.gather.need = 0 → s.tx.state = 1 →
    b = s.tx.gather.bytes →
    (s.tx.gather.err.isSome = true → exec .txPatchReadDone s =
      .next { s with tx := { s.tx with pbusy := false, presult := 2, gather := .none } }) ∧
    (s.tx.gather.err = none → parsePatches (b.length / 8) b = none → exec .txPatchReadDone s =
      .next { s with tx := { s.tx with pbusy := false, presult := 3, gather := .none } }) ∧
    (∀ l, s.tx.gather.err = none → parsePatches (b.length / 8) b = some l → 131072 < shadowUsed s + b.length →
      exec .txPatchReadDone s = .next { s with tx := { s.tx with pbusy := false, presult := 4, gather := .none } }) ∧
    (∀ l, s.tx.gather.err = none → parsePatches (b.length / 8) b = some l → shadowUsed s + b.length ≤ 131072 →
      exec .txPatchReadDone s = .next { s with tx := { s.tx with
        pbusy := false, presult := 0, gather := .none, shadow := s.tx.shadow ++ l
        high := max s.tx.high ((s.tx.shadow ++ l).map patchSize).sum } }))

/-- TRANSACTIONAL_WRITE (R275, R279, R280, R314). With no transaction open the write changes nothing but STRAY. With one
open and room in the shadow, the first write of AC_CFG, of a word of an inbound rule, or of SC_FN_STD_BASE changes only
the transaction, and the configuration that a commit would put in force has the written value there (for AC_CFG: of a
value whose reserved bits are 0, since R314 refuses any other) and the value in force everywhere else. -/
def Obligations.TransactionalWriteReachesShadow : Prop :=
  ∀ (s : State) (a : Access) (v : Word),
    (∀ off : BitVec 26, granted s a true (mgmtAt a off.toNat) = true → off.toNat % 4 = 0 →
      (txTarget s off.toNat v).isSome = true → s.tx.state ≠ 1 →
      exec (.transactionalWrite a off v) s = .next (acked { s with tx := { s.tx with stray := true } } a)) ∧
    (granted s a true (mgmtAt a 0x400000) = true → s.tx.state = 1 → patchesOf s.tx.shadow 0x13 = [] →
      shadowUsed s + 16 ≤ 131072 → ∃ t, exec (.transactionalWrite a 0x400000 v) s = .next (acked t a) ∧
        t = { s with tx := { s.tx with shadow := t.tx.shadow, high := t.tx.high } } ∧
        (v.toNat < 2 → (applyRules t.ac t.tx.shadow).outDefault = wbit v 0)) ∧
    (∀ (off : BitVec 26) (i k : Nat), i < 256 → k < 4 → off.toNat = 0x401000 + 0x20 * i + 4 * k →
      granted s a true (mgmtAt a off.toNat) = true → s.tx.state = 1 → patchesOf s.tx.shadow 0x10 = [] →
      shadowUsed s + 40 ≤ 131072 → ∃ t, exec (.transactionalWrite a off v) s = .next (acked t a) ∧
        t = { s with tx := { s.tx with shadow := t.tx.shadow, high := t.tx.high } } ∧
        (∀ j, j < 8 → ruleW ((applyRules t.ac t.tx.shadow).inRules.get [] i) j =
          if j = k then v else ruleW (s.ac.inRules.get [] i) j) ∧
        ∀ m, m ≠ i → (applyRules t.ac t.tx.shadow).inRules.get [] m = s.ac.inRules.get [] m) ∧
    (∀ r : FuncRec, granted s a true (mgmtAt a 0x40024) = true → s.tx.state = 1 → patchesOf s.tx.shadow 6 = [] →
      shadowUsed s + 48 ≤ 131072 → funcRec s s.sc.fnSel.toNat = some r → parseFunc (funcBytes r) = r →
      ∃ t, exec (.transactionalWrite a 0x40024 v) s = .next (acked t a) ∧
        t = { s with tx := { s.tx with shadow := t.tx.shadow, high := t.tx.high } } ∧
        nextFunc t s.sc.fnSel.toNat = some { r with stdBase := wfld v 0 21 })

/-! ## Resets, functions, dirty logs -/

/-- MG_RESET, FLR_REQUEST, VF_CTL_RESET (R286, R289, R295, R371, R394). The guarded value of MG_RESET, and an FLR of the
PF, request a BLOCK reset from now, or leave the earlier request; that any other value does nothing is log entry 40
(DESIGN CHOICE). In A2, and while the block enters or leaves it, FLR_READY is 0: the request is held, with its parity,
and is a wake in A2; before start-up step 5 it is not taken either; elsewhere one with bad parity pulses FP_PERR alone. A
reset of a VF whose function has a record begins: none of its chains is left, every slot it owns is EMPTY, and its
contexts are being filled. Of a function without a record every slot that names it as OWNER is erased and no context or
queue changes. A request while a reset of the function runs is merged into it. VF_RESET_COMPLETE and CTX_FILL_DONE (R296,
R298). Once no response is owed and no unit of the function is scrubbed, or at once where the function has no record, its
rings and queues are at their reset values, its FLR requests are answered, DONE is 1, the count of resets goes up and
VF_RST_TIME holds the control cycles since t0, saturating; every other ring, queue and function stays. Until then nothing
changes. A zero-fill that has taken the time of its granules ends: no context is left that answers ERASING. -/
def Obligations.FunctionResets : Prop :=
  ((∀ (s : State) (a : Access) (v : Word), granted s a true (mgmtAt a 8) = true →
    exec (.mgReset a v) s = .next (acked
      (if v = 0xB10C0001 then { s with pw := { s.pw with block := some (s.pw.block.getD (s.clk.meridian, s.bn.btime)) } } else s)
      a)) ∧
  (∀ (s : State), flrReady s = true → ported s = true → s.pw.mode = .run → exec (.flrRequest 0 true) s = .next { s with
    flrPend := s.flrPend ++ [0]
    pw := { s.pw with block := some (s.pw.block.getD (s.clk.meridian, s.bn.btime)) } }) ∧
  (∀ (s : State) (f : BitVec 14), ported s = true → s.pw.mode = .run →
    exec (.flrRequest f false) s = .next { s with fpPerr := some (controlCycle s) } ∧
    (flrReady s = false → exec (.flrRequest f true) s = .next s)) ∧
  (∀ (s : State) (f : BitVec 14) (ok : Bool), s.pw.coreHeld = false →
    s.pw.mode = .a2Entry ∨ s.pw.mode = .a2 ∨ s.pw.mode = .a2Exit →
    exec (.flrRequest f ok) s = .next { s with pw := { s.pw with
      mode := if s.pw.mode = .a2 then .a2Exit else s.pw.mode
      flrWake := if s.pw.flrWake = [] then [(f.toNat, ok)] else s.pw.flrWake } }) ∧
  (∀ (s : State) (f : BitVec 14), flrReady s = true → ported s = true → s.pw.mode = .run → 0 < f.toNat → f.toNat ≤ 0x2000 →
    (∀ r, (getFn s f.toNat).resetting = false → funcRec s f.toNat = some r →
      ∃ t, exec (.flrRequest f true) s = .next t ∧ t.flrPend = s.flrPend ++ [f.toNat] ∧
        (getFn t f.toNat).resetting = true ∧ (getFn t f.toNat).causeFlr = true ∧ (getFn t f.toNat).causeCtl = false ∧
        (getFn t f.toNat).t0 = controlCycle s ∧ (getFn t f.toNat).ctxFill = true ∧
        (∀ e ∈ t.chains, e.2.func ≠ f.toNat) ∧ ∀ i, (getSlot t i).own = f.toNat → (getSlot t i).kind = 0) ∧
    ((getFn s f.toNat).resetting = true → exec (.flrRequest f true) s = .next (setFn { s with flrPend := s.flrPend ++ [f.toNat] }
      f.toNat { getFn s f.toNat with merged := true, causeFlr := true }))) ∧
  (∀ (s : State) (a : Access) (f : BitVec 13) (v : Word), granted s a true (vfAt a f.toNat 0) = true → wbit v 0 = true →
    (∀ r, (getFn s (f.toNat + 1)).resetting = false → funcRec s (f.toNat + 1) = some r →
      ∃ t, exec (.vfCtlReset a f v) s = .next (acked t a) ∧ t.flrPend = s.flrPend ∧
        (getFn t (f.toNat + 1)).resetting = true ∧ (getFn t (f.toNat + 1)).causeCtl = true ∧
        (getFn t (f.toNat + 1)).causeFlr = false ∧ (getFn t (f.toNat + 1)).ctxFill = true ∧
        (∀ e ∈ t.chains, e.2.func ≠ f.toNat + 1) ∧ ∀ i, (getSlot t i).own = f.toNat + 1 → (getSlot t i).kind = 0) ∧
    ((getFn s (f.toNat + 1)).resetting = false → funcRec s (f.toNat + 1) = none →
      ∃ t, exec (.vfCtlReset a f v) s = .next (acked t a) ∧ (getFn t (f.toNat + 1)).resetting = true ∧
        (getFn t (f.toNat + 1)).causeCtl = true ∧ (getFn t (f.toNat + 1)).ctxFill = (getFn s (f.toNat + 1)).ctxFill ∧
        (∀ i, (getSlot t i).own = f.toNat + 1 → (getSlot t i).kind = 0) ∧
        (∀ i, (getSlot s i).own ≠ f.toNat + 1 → getSlot t i = getSlot s i) ∧ t.cqs = s.cqs ∧ t.sc.std = s.sc.std) ∧
    ((getFn s (f.toNat + 1)).resetting = true → exec (.vfCtlReset a f v) s = .next (acked (setFn s (f.toNat + 1)
      { getFn s (f.toNat + 1) with merged := true, causeCtl := true }) a)))) ∧
  ((∀ (s : State) (f : BitVec 14), engineUp s = true → (getFn s f.toNat).resetting = true →
    (funcRec s f.toNat ≠ none → vfQuiet s f.toNat = false → exec (.vfResetComplete f) s = .next s) ∧
    (funcRec s f.toNat = none ∨ vfQuiet s f.toNat = true → ∃ t, exec (.vfResetComplete f) s = .next t ∧ (getFn t f.toNat).resetting = false ∧
      (getFn t f.toNat).done = true ∧ (getFn t f.toNat).rstCount = sat32 (getFn s f.toNat).rstCount ∧
      (getFn t f.toNat).rstTime = min (controlCycle s - (getFn s f.toNat).t0) 0xFFFFFF ∧
      (∀ g, getRing t g = if ownsRing s f.toNat g then Ring.init else getRing s g) ∧
      (∀ q, getCq t q = if ownsCq s f.toNat q then Cq.init else getCq s q) ∧
      f.toNat ∉ t.flrPend ∧ t.fdn = s.fdn ++ List.replicate (s.flrPend.filter (· == f.toNat)).length f.toNat ∧
      (∀ m, m ≠ f.toNat → getFn t m = getFn s m) ∧ t.kv = s.kv ∧ t.sc = s.sc ∧ t.chains = s.chains)) ∧
  (∀ (s : State) (f : BitVec 14), engineUp s = true → (getFn s f.toNat).ctxFill = true →
    (getFn s f.toNat).fillAt + fillTime (getFn s f.toNat) ≤ s.clk.meridian →
    exec (.ctxFillDone f) s =
      .next (setFn s f.toNat { getFn s f.toNat with ctxFill := false, fillStd := [], fillCmp := [] })))

/-- BLOCK_RESET, TAMPER_RESET, PWR_CORE and PWR_SENTINEL complete (R375 to R378, R347, R340): from every state in which
the reset is due, exec of each answers the next state written here, everything that it does not name being as after
reset. A BLOCK reset is due once it is requested and every response is in or 2 µs and the fabric budget have passed
(R376), and goes on at start-up step 2 (log entry 29, DEDUCED); a TAMPER reset once the scrubs, the fuse bit in progress
and the record are done (R347); PWR_CORE may be released once VSB and VDD_CORE are up and the Logbook scan has ended
(R375); PWR_SENTINEL once VSB, after its reset, has reached its release level (R339, R340). Fuses survive all four; a
Logbook record survives all but a torn last one; the Binnacle survives all but PWR_SENTINEL; the Meridian and the
intervals counted in it survive BLOCK and TAMPER (that of the locked log: log entry 52, DEDUCED), and so does every FLR
done that the host has not taken (R376). A source keeps its place in the erase hold (R347), and an ERASE still owed makes
PWR_CORE a TAMPER start-up (R377). Both hold CORE_RST_N for 64 control cycles (log entry 61), with no credit at any port
(R389). -/
def Obligations.ResetSurvival : Prop :=
  (∀ (s : State) (t0 : Nat × Nat), s.pw.block = some t0 → active s = true → struck s = false → s.lc.busy = false →
    blockQuiet s = true ∨ t0.1 + 6000 + fabricR s ≤ s.clk.meridian ∨
      t0.2 + cdiv ((6000 + fabricR s) * 32) 3000 ≤ s.bn.btime → exec .blockReset s = .next { State.reset with
      clk := s.clk
      pw := { Pw.reset with kind := 3, step := 2, rstLeft := 64, sentinel := s.pw.sentinel }
      bn := { s.bn with noticeCfg := 0, faultBusy := false, faultResult := 0, faultUid := 0 }
      lb := { s.lb with noticeCfg := 0 }
      sd := s.sd
      fuses := s.fuses
      ac := { Ac.reset with lodeOff := s.ac.lodeOff, lockIv := s.ac.lockIv, lockSeen := s.ac.lockSeen,
                            lockCur := s.ac.lockCur, lockPrev := s.ac.lockPrev }
      iq := { State.reset.iq with stormIv := s.clk.meridian / 2 ^ 22 }
      py := { Py.reset with iv := s.clk.meridian / 2 ^ 32 }
      ports := (List.range 8).map (fun n => (n, Port.down))
      flrPend := s.flrPend ++ s.fdn
      ready := s.ready
      scanMode := s.scanMode
      free := s.free
      nextId := s.nextId
      pending := s.pending }) ∧
  (∀ (s : State) (e : Erase), s.bn.erase = some e → active s = true → e.tamper = true → e.scrubbed = true →
    e.logged = true → fuseInBit s = false → ∃ t, exec .tamperReset s = .next t ∧
      t = { State.reset with
        clk := { Clk.reset with meridian := s.clk.meridian, slow := s.clk.slow, refGone := s.clk.refGone }
        pw := { Pw.reset with kind := 4, rstLeft := 64, sentinel := s.pw.sentinel }
        bn := t.bn
        lb := { s.lb with noticeCfg := 0 }
        sd := s.sd
        fuses := s.fuses
        ac := { Ac.reset with lodeOff := s.ac.lodeOff, lockIv := s.ac.lockIv, lockSeen := s.ac.lockSeen,
                              lockCur := s.ac.lockCur, lockPrev := s.ac.lockPrev }
        iq := { State.reset.iq with stormIv := s.clk.meridian / 2 ^ 22 }
        py := { Py.reset with iv := s.clk.meridian / 2 ^ 32 }
        ports := (List.range 8).map (fun n => (n, Port.down))
        flrPend := s.flrPend ++ s.fdn
        ready := s.ready
        scanMode := s.scanMode
        free := s.free
        nextId := s.nextId
        pending := s.pending } ∧
      t.bn.erase = none ∧ t.bn.latch = s.bn.latch ∧ t.bn.act = s.bn.act ∧
      ∀ n, n < 12 → (t.bn.eraseHold.getLsbD n = true ↔
        s.bn.eraseHold.getLsbD n = true ∨ (s.bn.active.getLsbD n = true ∧ bnAct s n = 2))) ∧
  (∀ (s : State), (s.bn.vsbRst = true ∨ s.lb.scanning = true ∨ vddUp s = false → exec .pwrCore s = .next s) ∧
    (s.bn.vsbRst = false → s.lb.scanning = false → vddUp s = true →
    exec .pwrCore s = .next { State.reset with
      clk := { Clk.reset with refGone := s.clk.refGone }
      pw := { Pw.reset with
        kind := if s.pw.sentinel = true ∧ s.bn.erase = none then 1 else 2
        tamperPending := s.bn.erase.isSome }
      bn := { s.bn with
        noticeCfg := 0, faultBusy := false, faultResult := 0, faultUid := 0, vddRst := false, vddUp := false
        vddLow := 0, erase := none
        eraseHold := if s.bn.erase.isSome = true then s.bn.eraseHold ||| eraseHolders s else s.bn.eraseHold }
      lb := { s.lb with noticeCfg := 0 }
      fuses := s.fuses
      ready := s.ready
      scanMode := false
      free := s.free
      nextId := s.nextId
      pending := s.pending })) ∧
  (∀ (s : State), (s.bn.vsbRst = false ∨ s.bn.vsbUp = false → exec .pwrSentinel s = .next s) ∧
    (s.bn.vsbRst = true → s.bn.vsbUp = true → ∃ t, exec .pwrSentinel s = .next t ∧
    t = { State.reset with
      clk := { Clk.reset with refGone := s.clk.refGone }
      pw := { Pw.reset with kind := 1, coreHeld := true, sentinel := true }
      lb := t.lb
      fuses := s.fuses
      ports := (List.range 8).map (fun n => (n, Port.down))
      ready := s.ready
      scanMode := false
      free := t.free
      nextId := s.nextId
      pending := s.pending } ∧
    t.lb.powers = sat16 s.lb.powers ∧ t.lb.scanning = true ∧ t.lb.queue = [] ∧
    (s.lb.queue = [] → t.lb.slots = s.lb.slots ∧ t.lb.next = s.lb.next ∧ t.lb.pinned = s.lb.pinned)))

/-- The dirty log of a VF: DL_ENABLE, DL_DISABLE, DL_CONSUMED_WRITE, DL_ROUND, DL_SWEEP_DONE, DL_ALL_DIRTY_CLEAR (R301 to
R303). A SIZE outside 9 to 20 refuses the enable; an enable restarts both positions and sweeps the filter of its function
alone, so that what waits of it is logged anew; enabling a log voids the chains whose E does not cover one (R73); a
consumed position is taken only where WRITTEN minus it lies from 0 to 2^SIZE; a round and the clearing of ALL_DIRTY
sweep; a sweep ends after 1,024 control cycles. -/
def Obligations.DirtyLogCommands : Prop :=
  ∀ (s : State) (a : Access) (f : BitVec 13) (v : Word) (n : Nat) (x : Fn), n = f.toNat + 1 → x = getFn s n →
    (granted s a true (vfAt a f.toNat 0x28) = true →
      exec (.dlDisable a f v) s = .next (acked
        (setFn s n { x with dl := { x.dl with size := wfld v 0 5, enable := false, active := false } }) a)) ∧
    (granted s a true (vfAt a f.toNat 0x28) = true → wfld v 0 5 < 9 ∨ 20 < wfld v 0 5 →
      exec (.dlEnable a f v) s = .next (acked (setFn s n { x with dl := { x.dl with enRefused := true } }) a)) ∧
    (granted s a true (vfAt a f.toNat 0x28) = true → 9 ≤ wfld v 0 5 → wfld v 0 5 ≤ 20 →
      ∃ t, exec (.dlEnable a f v) s = .next (acked t a) ∧
        t = { s with fns := t.fns, chains := t.chains, ad := t.ad, dlFilter := t.dlFilter, ports := t.ports } ∧
        getFn t n = { x with dl := { x.dl with
          size := wfld v 0 5, enable := true, active := true, written := 0, consumed := 0, allDirty := false
          fault := false, sweepAt := some s.clk.meridian } } ∧
        (∀ m, m ≠ n → getFn t m = getFn s m) ∧
        (∀ e, e ∈ t.dlFilter ↔ e ∈ s.dlFilter ∧ e.2.1 ≠ n) ∧
        (∀ e ∈ t.chains, e.2.func = n → x.dl.active = false → live e.2 = true → e.2.covered = false → e.2.voidFabric = true) ∧
        (∀ i c d, findChain s i = some c → findChain t i = some d → c.covered = true → d.voidFabric = c.voidFabric) ∧
        (∀ e ∈ t.chains, e.2.func = n → ∀ y ∈ e.2.results, y.paged = none) ∧
        (∀ m, (getPort t m).out = (getPort s m).out ∧ ∀ y ∈ (getPort t m).sendQ, y.func = n → y.paged = false)) ∧
    (granted s a true (vfAt a f.toNat 0x30) = true →
      exec (.dlConsumedWrite a f v) s = .next (acked
        (if 0 ≤ posDiff x.dl.written v ∧ posDiff x.dl.written v ≤ 2 ^ x.dl.size then
          setFn s n { x with dl := { x.dl with consumed := v } } else s) a)) ∧
    (granted s a true (vfAt a f.toNat 0x34) = true → wbit v 0 = true →
      ∃ t, exec (.dlRound a f v) s = .next (acked t a) ∧
        t = { setFn s n { x with dl := { x.dl with sweepAt := some s.clk.meridian } } with
          dlFilter := t.dlFilter, ports := t.ports, chains := t.chains } ∧
        (∀ e, e ∈ t.dlFilter ↔ e ∈ s.dlFilter ∧ e.2.1 ≠ n) ∧
        (∀ e ∈ t.chains, e.2.func = n → ∀ y ∈ e.2.results, y.paged = none) ∧
        (∀ m, (getPort t m).out = (getPort s m).out ∧ ∀ y ∈ (getPort t m).sendQ, y.func = n → y.paged = false)) ∧
    (granted s a true (vfAt a f.toNat 0x38) = true →
      ∃ t, exec (.dlAllDirtyClear a f v) s = .next (acked t a) ∧
        t = { s with fns := t.fns, dlFilter := t.dlFilter, ports := t.ports, chains := t.chains } ∧
        getFn t n = { x with dl := { x.dl with
          allDirty := false, fault := x.dl.fault && !wbit v 1, enRefused := x.dl.enRefused && !wbit v 2
          sweepAt := some s.clk.meridian } } ∧
        ∀ e, e ∈ t.dlFilter ↔ e ∈ s.dlFilter ∧ e.2.1 ≠ n) ∧
    (∀ t0, active s = true → x.dl.sweepAt = some t0 → t0 + 4096 ≤ s.clk.meridian →
      exec (.dlSweepDone (BitVec.ofNat 14 n)) s = .next (setFn s n { x with dl := { x.dl with sweepAt := none } }))

/-- PENDING_QUERY, FP_HOST_PERR and CRD_PULSE (R369, R385, R386, R389, R390, R393 to R395). A query with good parity
answers whether a read of the function awaits data; one with bad parity pulses FP_PERR. FP_HOST_PERR sends the beat of
the flagged cycle of each lane again, with a credit of its own and ahead of those that wait; it is no new notice. A
credit counts up to 1,024, or at once carries what waits first: a notice, a write-data beat, a read, which is judged as
it leaves (R310). That a notice lane too stops at 1,024 credits, which R386 says of the initiator ports alone, is log
entry 35 (DEDUCED). A port whose clock stands samples none (R383). A ready input stands at its level; at the end of a
control cycle one answer to a query leaves, and one response of a target port, one FLR done and one debug byte where its
ready input is 1, in their order. That the ready inputs come with CRD_PULSE is log entry 56 (DESIGN CHOICE). -/
def Obligations.FunctionPortAndCredits : Prop :=
  (∀ (s : State) (f : BitVec 14), ported s = true →
    exec (.pendingQuery f false) s = .next { s with fpPerr := some (controlCycle s) } ∧
    ∃ b, exec (.pendingQuery f true) s = .next { s with tpq := s.tpq ++ [b] } ∧
      (b = true ↔ ∃ e ∈ s.ports, ∃ x ∈ e.2.out, x.write = false ∧ x.func = f.toNat)) ∧
  (∀ (s : State), ported s = true → struck s = false → ∃ t, exec .fpHostPerr s = .next t ∧
    t = { s with lane0 := t.lane0, lane1 := t.lane1 } ∧ ∀ odd y, y = getLane s odd →
      (y.sent.find? (fun x => x.2 + 1 == controlCycle s) = none → getLane t odd = y) ∧
      (∀ x, y.sent.find? (fun x => x.2 + 1 == controlCycle s) = some x →
        (y.crd = 0 ∨ y.sent.head?.map (·.2) = some (controlCycle s) →
          getLane t odd = { y with waiting := { x.1 with again := true } :: y.waiting }) ∧
        (y.crd ≠ 0 → y.sent.head?.map (·.2) ≠ some (controlCycle s) →
          getLane t odd = { y with crd := y.crd - 1, sent := ({ x.1 with again := true }, controlCycle s) :: y.sent.take 1 }))) ∧
  (∀ (s : State) (odd : Bool) (y : Lane), y = getLane s odd →
    (ported s = false → exec (.crdPulse (.notice odd)) s = .next s) ∧
    (ported s = true → y.waiting = [] → exec (.crdPulse (.notice odd)) s =
      .next (setLane s odd { y with crd := min (y.crd + 1) 1024 })) ∧
    (∀ x r, ported s = true → struck s = false → y.crd = 0 → y.waiting = x :: r →
      y.sent.head?.map (·.2) ≠ some (controlCycle s) → x.again = false →
      exec (.crdPulse (.notice odd)) s = .next (setNv (setLane s odd
        { y with crd := 0, waiting := r, sent := (x, controlCycle s) :: y.sent.take 1 }) x.func x.vec
        { getNv s x.func x.vec with count := sat32 (getNv s x.func x.vec).count }))) ∧
  (∀ (s : State) (level : Bool),
    exec (.crdPulse (.trsReady false level)) s = .next { s with ready := { s.ready with trs0 := level } } ∧
    exec (.crdPulse (.trsReady true level)) s = .next { s with ready := { s.ready with trs1 := level } } ∧
    exec (.crdPulse (.fdnReady level)) s = .next { s with ready := { s.ready with fdn := level } } ∧
    exec (.crdPulse (.dbgReady level)) s = .next { s with ready := { s.ready with dbg := level } }) ∧
  (∀ (s : State), edgeQuiet s = true → ∃ t, step s = .next t ∧ t.ready = s.ready ∧ t.tpq = s.tpq.drop 1 ∧
    t.tp0 = (if s.ready.trs0 then s.tp0.drop 1 else s.tp0) ∧ t.tp1 = (if s.ready.trs1 then s.tp1.drop 1 else s.tp1) ∧
    t.fdn = (if s.ready.fdn then s.fdn.drop 1 else s.fdn) ∧ t.dbg = (if s.ready.dbg then s.dbg.drop 1 else s.dbg)) ∧
  (∀ (s : State) (n : BitVec 3) (p : Port), p = getPort s n.toNat →
    (running s = false → exec (.crdPulse (.req n)) s = .next s ∧ exec (.crdPulse (.wd n)) s = .next s) ∧
    (running s = true → p.sendQ = [] → ∃ t, exec (.crdPulse (.req n)) s = .next t ∧ t = { s with ports := t.ports } ∧
      getPort t n.toNat = sendBeats { p with reqCrd := min (p.reqCrd + 1) 1024 } ∧
      ∀ m, m ≠ n.toNat → getPort t m = getPort s m) ∧
    (running s = true → p.sendQ = [] → ∃ t, exec (.crdPulse (.wd n)) s = .next t ∧ t = { s with ports := t.ports } ∧
      ((∀ x ∈ p.out, x.left = 0) → getPort t n.toNat = { p with wdCrd := min (p.wdCrd + 1) 1024 }) ∧
      (∀ x r, p.wdCrd = 0 → p.out = x :: r → x.left ≠ 0 →
        getPort t n.toNat = { p with out := { x with left := x.left - 1 } :: r }) ∧
      ∀ m, m ≠ n.toNat → getPort t m = getPort s m) ∧
    (∀ x q g w, engineUp s = true → blockReq s = false → p.reqCrd = 0 → p.sendQ = x :: q → freeTag p = some g →
      x.write = false → (∀ c i, x.who ≠ .output c i) → (∀ y ∈ q, outputLost s y = none) → (∀ y ∈ p.out, y.left = 0) →
      beatsOut p + beats x.addr x.len ≤ 1024 → w = judgeOut s x.func false x.addr →
      (∀ y ∈ pieces x.addr (x.len + x.rest), (judgeOut s x.func false y.2.1).ok = true) →
      ∃ t, exec (.crdPulse (.req n)) s = .next t ∧ t = { s with ports := t.ports, chains := t.chains, fns := t.fns } ∧
      (getPort t n.toNat).reqCrd = 0 ∧ (getPort t n.toNat).out = p.out ++
        [{ x with tag := g, pl := dmaPl s x.func, ca := w.ca, ord := w.ord, at_ := s.clk.meridian, left := 0, paged := true }] ∧
      (getPort t n.toNat).sendQ.map (fun y => { y with paged := true }) = q.map (fun y => { y with paged := true }) ∧
      ∀ m, m ≠ n.toNat → getPort t m = getPort s m))

/-! ## Access control, debug, the register windows, the life cycle -/

/-- AC_DBG_CMD and its events (R320, R321). CHALLENGE makes a nonce of 32 bytes valid; AUTH consumes it and its checks
succeed exactly under the conditions of R320; while an AUTH runs every command answers BUSY; a granting AUTH leaves no
key in a slot or a key register, no context, no vault key and the Lodestone unusable; RELEASE ends the grant; a nonce is
gone after 2^32 root cycles. CHALLENGE is stated where DRBG instance 0 gives output (log entry 11). That AUTH takes its
checks from the state at the write of AC_DBG_CMD, and its completion only reports them, is log entry 30 (DEDUCED): R320
gives their order and not their moment. -/
def Obligations.DebugAuthorisation : Prop :=
  (∀ (s : State) (a : Access), granted s a true (mgmtAt a 0x400050) = true →
    (s.ac.dbgBusy = true →
      exec (.dbgChallenge a) s = .next (acked { s with ac := { s.ac with dbgResult := 6 } } a) ∧
      exec (.dbgAuth a) s = .next (acked { s with ac := { s.ac with dbgResult := 6 } } a) ∧
      exec (.dbgRelease a) s = .next (acked { s with ac := { s.ac with dbgResult := 6 } } a)) ∧
    (s.ac.dbgBusy = false →
      (exec (.dbgRelease a) s = .next (acked { s with ac := { s.ac with granted := false, dbgResult := 0 } } a)) ∧
      (drbgUp s 0 = true → ∃ t, exec (.dbgChallenge a) s = .next (acked t a) ∧
        t = { s with
          kv := t.kv
          free := t.free
          ac := { s.ac with nonceAt := some s.clk.meridian, nonce := t.ac.nonce, dbgResult := 0 } } ∧
        t.ac.nonce.length = 32) ∧
      (∃ code, exec (.dbgAuth a) s = .next (acked { s with ac := { s.ac with
          dbgBusy := true, dbgCode := code, dbgHash := dbgKeyHash s, nonceAt := none } } a) ∧
        (code = 0 ↔ (s.lc.state = 3 ∨ s.lc.state = 4) ∧ s.ac.nonceAt.isSome = true ∧
          (∀ e ∈ s.rings, e.2.active = false) ∧ (∀ e ∈ s.units, e.2.st ≠ 1) ∧
          (sha384 ([0x04] ++ s.ac.key)).take 32 = ownerHash s ∧
          verify384 s.ac.key (sha384 (dbgStatement s)) s.ac.sig = true)))) ∧
  (∀ (s : State), engineUp s = true → s.ac.dbgBusy = true →
    (s.ac.dbgCode ≠ 0 → exec .dbgAuthComplete s =
      .next { s with ac := { s.ac with dbgBusy := false, dbgResult := s.ac.dbgCode } }) ∧
    (s.ac.dbgCode = 0 → ∃ t, exec .dbgAuthComplete s = .next t ∧ t.ac.granted = true ∧ t.ac.dbgBusy = false ∧
      t.ac.dbgResult = 0 ∧ t.ac.lodeOff = true ∧ t.ac.notice.getLsbD 4 = true ∧ (∀ i, (getSlot t i).kind = 0) ∧
      (∀ u, (getUni t u).key = none) ∧ t.sc.std = [] ∧ t.sc.cmp = [] ∧ t.kv.kvlt = none ∧ t.kv.attValid = false ∧
      t.fuses = s.fuses ∧ t.chart = s.chart)) ∧
  (∀ (s : State) (n : Nat), active s = true → s.ac.nonceAt = some n → n + 2 ^ 32 ≤ s.clk.meridian →
    exec .dbgNonceExpire s = .next { s with ac := { s.ac with nonceAt := none } })

/-- DEBUG_READ and DEBUG_WRITE (R316 to R319, R395, R396): the bytes of the link with their odd parity. Without a
debugger, or while the ports do not answer, nothing happens; a command byte that fails parity, or an unknown one (log
entry 63), answers ERROR at once; one that is good waits for its request. An answer joins those that the debugger has not
taken. A later byte that fails parity, or an address that is not aligned, gets ERROR at the end; a locked region answers
LOCKED with zeros and counts; the debug gate refuses with ERROR and counts. A granted read answers the register or the
operand memory and changes nothing, but for the count of a parity error that the read found (R22, R230; log entry 63); a
granted write of CH_LEN changes that register alone; an internal memory cannot be written. -/
def Obligations.DebugInterface : Prop :=
  ∀ (s : State) (r q : DebugReq) (d : List (Byte × Bool)) (w v : Word) (addr : Nat), addr = w.toNat →
    ((r.present = false ∨ ported s = false) → exec (.debugRead r) s = .next s ∧ ∀ d, exec (.debugWrite r d) s = .next s) ∧
    (∀ x b, r.present = true → ported s = true → s.dbgIn.bytes = [] → r.bytes = [(x, b)] →
      (b ≠ oddBit x.toNat 0 8 ∨ (x ≠ 1 ∧ x ≠ 2) →
        exec (.debugRead r) s = .next { s with dbg := s.dbg ++ [1], dbgIn := ⟨[], false⟩ }) ∧
      (b = oddBit x.toNat 0 8 → x = 1 ∨ x = 2 →
        exec (.debugRead r) s = .next { s with dbgIn := ⟨[x], s.dbgIn.bad⟩ })) ∧
    (r.present = true → ported s = true → s.dbgIn = ⟨[], false⟩ → r.bytes.map (·.1) = [1] ++ toLE 4 addr →
      r.bytes.head? = some (1, oddBit 1 0 8) → (∃ e ∈ r.bytes, e.2 ≠ oddBit e.1.toNat 0 8) →
      exec (.debugRead r) s = .next { s with dbg := s.dbg ++ 1 :: zeros 4 }) ∧
    (r.present = true → ported s = true → s.dbgIn = ⟨[], false⟩ →
      r.bytes = ([1] ++ toLE 4 addr).map (fun x => (x, oddBit x.toNat 0 8)) →
      q = { r with bytes := ([2] ++ toLE 4 addr).map (fun x => (x, oddBit x.toNat 0 8)) } →
      d = (toLE 4 v.toNat).map (fun x => (x, oddBit x.toNat 0 8)) →
      (addr % 4 ≠ 0 → exec (.debugRead r) s = .next { s with dbg := s.dbg ++ 1 :: zeros 4 } ∧
        exec (.debugWrite q d) s = .next { s with dbg := s.dbg ++ [1] }) ∧
      (addr % 4 = 0 → 0x04000000 ≤ addr → dbgLocked s addr = true →
        ∃ t : State, exec (.debugRead r) s = .next { t with dbg := s.dbg ++ 2 :: zeros 4 } ∧
          exec (.debugWrite q d) s = .next { t with dbg := s.dbg ++ [2] } ∧
          t = { s with ac := t.ac, lb := t.lb, nv := t.nv, lane0 := t.lane0, lane1 := t.lane1 } ∧
          t.ac.lockedCount = sat32 s.ac.lockedCount ∧ t.ac.dbgLocked = sat32 s.ac.dbgLocked) ∧
      (addr % 4 = 0 → addr < 0x04000000 → lockedOff s (dbgReq r addr false) = false →
        debugPass s (dbgReq r addr false) = false →
        ∃ t : State, exec (.debugRead r) s = .next { t with dbg := s.dbg ++ 1 :: zeros 4 } ∧
          t = { s with ac := t.ac, nv := t.nv, lane0 := t.lane0, lane1 := t.lane1 } ∧
          t.ac.dbgDenied = sat32 s.ac.dbgDenied) ∧
      (judge s (dbgReq r addr false) = (s, none) → addr = 0x118 →
        exec (.debugRead r) s = .next { s with dbg := s.dbg ++ 0 :: toLE 4 s.tx.epoch.toNat }) ∧
      (∀ o, judge s (dbgReq r addr false) = (s, none) → addr = 0x19400000 + o → o < 0x800000 → o % 4 = 0 →
        tileSealed s (o / 0x40000) = false → storedTile s (o / 0x40000) = o / 0x40000 →
        (r.env.parity = false →
          exec (.debugRead r) s = .next { s with dbg := s.dbg ++ 0 :: Memory.readN s.opmem o 4 }) ∧
        (∀ x, r.env.parity = true → leafAt s (o / 0x40000) = some x →
          exec (.debugRead r) s = .next { s with
            cnts := s.cnts.set x.uid { getCnt s x.uid with parity := sat32 (getCnt s x.uid).parity }
            dbg := s.dbg ++ 0 :: Memory.readN s.opmem o 4 }) ∧
        (judge s (dbgReq r addr true) = (s, none) →
          exec (.debugWrite q d) s = .next { s with dbg := s.dbg ++ [1] })) ∧
      (judge s (dbgReq r addr true) = (s, none) → addr = 0x10014 → exec (.debugWrite q d) s =
        .next { s with ch := { s.ch with len := wfld v 0 22 }, dbg := s.dbg ++ [0] }))

/-- What refuses a register access (R23, R307, R313, R318), for REGISTER_WRITE, RC_READ and INBOUND_READ alike: a port
that does not answer, bad parity, a wrong function id, or an address outside the windows gives ERROR and changes nothing
else; a locked region gives LOCKED and counts; a violation gives ERROR and counts. None reaches the register. While
CORE_RST_N is 0 a request is ignored and has no answer (R389). -/
def Obligations.RefusedAccessHasNoEffect : Prop :=
  ∀ (s : State) (a : Access) (addr : BitVec 29) (v : Word) (f : Nat) (off : Option Nat), f = a.func.toNat →
    off = decodeAddr f addr.toNat →
    (coreRstN s = false → exec (.registerWrite a addr v) s = .next s ∧ exec (.rcRead a addr) s = .next s ∧
      exec (.inboundRead a addr) s = .next s) ∧
    (coreRstN s = true → ported s = false ∨ a.parityOk = false ∨ 0x2000 < f ∨ off = none →
      exec (.registerWrite a addr v) s = .next (respond s a ⟨1, []⟩) ∧
      exec (.rcRead a addr) s = .next (respond s a ⟨1, zeros (accessBytes a.size)⟩) ∧
      exec (.inboundRead a addr) s = .next (respond s a ⟨1, zeros (accessBytes a.size)⟩)) ∧
    (∀ o, ported s = true → a.parityOk = true → f ≤ 0x2000 → off = some o → lockedOff s (reqOf a true o) = true →
      ∃ t : State, exec (.registerWrite a addr v) s = .next (respond t a ⟨2, []⟩) ∧
        exec (.rcRead a addr) s = .next (respond t a ⟨2, zeros (accessBytes a.size)⟩) ∧
        exec (.inboundRead a addr) s = .next (respond t a ⟨2, zeros (accessBytes a.size)⟩) ∧
        t = { s with ac := t.ac, lb := t.lb, nv := t.nv, lane0 := t.lane0, lane1 := t.lane1 } ∧
        t.ac.lockedCount = sat32 s.ac.lockedCount) ∧
    (∀ o w, ported s = true → a.parityOk = true → f ≤ 0x2000 → off = some o → lockedOff s (reqOf a w o) = false →
      a.debug = false → a.fetch = false → (judgeIn s (reqOf a w o)).1 = false →
      ∃ t : State, (if w = true then exec (.registerWrite a addr v) s = .next (respond t a ⟨1, []⟩)
          else exec (.rcRead a addr) s = .next (respond t a ⟨1, zeros (accessBytes a.size)⟩) ∧
            exec (.inboundRead a addr) s = .next (respond t a ⟨1, zeros (accessBytes a.size)⟩)) ∧
        t = { s with ac := t.ac, nv := t.nv, lane0 := t.lane0, lane1 := t.lane1 } ∧
        t.ac.ivCount = sat32 s.ac.ivCount ∧ t.ac.inRules = s.ac.inRules)

/-- REGISTER_WRITE, RC_READ and INBOUND_READ of registers (R4, R6, R292, R307), granted: CH_LEN, AC_FN_SEL and LC_DATA
take the written bits; the lower half of CH_SRC waits in its holding register and the upper half writes all bits; a
reserved offset ignores a write. RC counters answer their value and are 0 after. TX_EPOCH, and the VF_T_STD of a VF in
its window, are read and nothing changes. -/
def Obligations.RegisterAccesses : Prop :=
  (∀ (s : State) (a : Access) (addr : BitVec 29) (v : Word), a.func = 0 →
    granted s a true (decodeAddr 0 addr.toNat) = true →
    (addr = 0x10014 → exec (.registerWrite a addr v) s =
      .next (acked { s with ch := { s.ch with len := wfld v 0 22 } } a)) ∧
    (addr = 0x400044 → exec (.registerWrite a addr v) s =
      .next (acked { s with ac := { s.ac with fnSel := BitVec.ofNat 14 v.toNat } } a)) ∧
    (∀ n, n < 12 → addr.toNat = 0x80040 + 4 * n → exec (.registerWrite a addr v) s =
      .next (acked { s with lc := { s.lc with data := s.lc.data.set n v } } a)) ∧
    (addr = 0x1000C → exec (.registerWrite a addr v) s =
      .next (acked { s with hold := s.hold.set 0x1000C v } a)) ∧
    (addr = 0x10010 → exec (.registerWrite a addr v) s = .next (acked { s with ch := { s.ch with
      src := ((s.hold.get 0 0x1000C).toNat + 2 ^ 32 * v.toNat) % 2 ^ 52 } } a)) ∧
    (addr = 0x10038 → exec (.registerWrite a addr v) s = .next (acked s a))) ∧
  (∀ (s : State) (a : Access) (addr : BitVec 29), a.func = 0 → granted s a false (decodeAddr 0 addr.toNat) = true →
    (addr = 0x400020 → exec (.rcRead a addr) s =
      .next (answered { s with ac := { s.ac with ivCount := 0 } } a (word s.ac.ivCount))) ∧
    (addr = 0xA0120 → exec (.rcRead a addr) s =
      .next (answered { s with pw := { s.pw with a2Count := 0 } } a (word s.pw.a2Count))) ∧
    (addr = 0xB0008 → exec (.rcRead a addr) s =
      .next (answered { s with sd := { s.sd with missed := 0 } } a (word s.sd.missed))) ∧
    (addr = 0x118 → exec (.inboundRead a addr) s = .next (answered s a s.tx.epoch))) ∧
  (∀ (s : State) (a : Access) (addr : BitVec 29) (r : FuncRec), a.func ≠ 0 →
    addr.toNat = (a.func.toNat - 1) * 65536 + 0x14 → granted s a false (some 0x14) = true →
    funcRec s a.func.toNat = some r → exec (.inboundRead a addr) s = .next (answered s a (word r.stdCount)))

/-- LC_REQUEST and LC_TRANSITION_END (R325, R328, R330, R331): the first REASON that applies is shown and nothing else
changes; a permitted request makes the transition BUSY with its target and leaves the state and the fuses; one to
RETURNED or SCRAPPED first leaves no slot, no vault key and no context, and a Lodestone that is no more usable. When its
last bit is programmed the transition is no longer BUSY, one record is queued and a BLOCK reset is requested. LC_FUSE_CMD
(R332): BUSY, STATE, FIELD, SUPPLY and CONFLICT refuse in the order of log entry 10 and change only the result; an
accepted command programs exactly the one bits of the field image that still read 0, and ends at once where there is
none. -/
def Obligations.LifeCycleRule : Prop :=
  ((∀ (s : State) (a : Access) (v : Word) (n : Nat), granted s a true (mgmtAt a 0x80004) = true → failedStart s = false →
    n = wfld v 0 8 →
    (wfld v 16 16 ≠ 0x4C43 ∨ wfld v 8 8 ≠ 0 →
      exec (.lcRequest a v) s = .next (acked { s with lc := { s.lc with reason := 1 } } a)) ∧
    (wfld v 16 16 = 0x4C43 → wfld v 8 8 = 0 →
      (s.lc.busy = true → exec (.lcRequest a v) s = .next (acked { s with lc := { s.lc with reason := 5 } } a)) ∧
      (s.lc.busy = false → permitted s.lc.state n = false →
        exec (.lcRequest a v) s = .next (acked { s with lc := { s.lc with reason := 2 } } a)) ∧
      (s.lc.busy = false → permitted s.lc.state n = true → s.ch.state = 1 ∨ busyDevice s = true →
        exec (.lcRequest a v) s = .next (acked { s with lc := { s.lc with reason := 3 } } a)) ∧
      (s.lc.busy = false → permitted s.lc.state n = true → s.ch.state ≠ 1 → busyDevice s = false →
        (supplyBad s = true → exec (.lcRequest a v) s = .next (acked { s with lc := { s.lc with reason := 4 } } a)) ∧
        (supplyBad s = false → n = 3 → ownOk s = false ∨ ckeyOk s = false →
          exec (.lcRequest a v) s = .next (acked { s with lc := { s.lc with reason := 6 } } a)) ∧
        (supplyBad s = false → (n = 3 → ownOk s = true ∧ ckeyOk s = true) →
          ∃ t, exec (.lcRequest a v) s = .next (acked t a) ∧ t.lc.busy = true ∧ t.lc.target = n ∧ t.lc.reason = 0 ∧
            t.lc.state = s.lc.state ∧ t.fuses = s.fuses ∧ t.chart = s.chart ∧
            (n = 5 ∨ n = 6 → lodeUsable t = false ∧ t.kv.attValid = false ∧ (∀ i, (getSlot t i).kind = 0) ∧ t.kv.kvlt = none ∧ t.sc.std = [] ∧ t.sc.cmp = []))))) ∧
  (∀ (s : State) (n d at_ : Nat) (b : Bool) (p : Nat × Nat) (r : List FuseOp), active s = true → struck s = false →
    s.lc.ops = ⟨.transition n, [], d, b, at_, p⟩ :: r → ∃ t, exec .lcTransitionEnd s = .next t ∧
      t = { s with lc := t.lc, lb := t.lb, pw := { s.pw with block := some (s.clk.meridian, s.bn.btime) }, free := t.free,
                   nv := t.nv, lane0 := t.lane0, lane1 := t.lane1, bn := { s.bn with erase := t.bn.erase },
                   kv := { s.kv with drbg := t.kv.drbg } } ∧ t.lc.busy = false ∧
      t.lc.lastTime = min (max (12 * d) ((s.clk.meridian - at_) / 3000)) 0xFFFFFF ∧
      (s.lb.queue.length < 32 → t.lb.queue.length = s.lb.queue.length + 1))) ∧
  (∀ (s : State) (a : Access) (v : Word) (w n : Nat) (img : Bytes), granted s a true (mgmtAt a 0x8000C) = true →
    w = (if wfld v 0 2 = 1 then 32 else 48) → n = (if wfld v 0 2 = 1 then 8 else 12) →
    img = lcDataBytes s n ++ (sha384 (lcDataBytes s n)).take 4 →
    (s.lc.busy = true ∨ s.lc.fuseBusy = true →
      exec (.lcFuseCmd a v) s = .next (acked { s with lc := { s.lc with fuseResult := 4 } } a)) ∧
    (s.lc.busy = false → s.lc.fuseBusy = false →
      (s.lc.state ≠ 2 → exec (.lcFuseCmd a v) s = .next (acked { s with lc := { s.lc with fuseResult := 1 } } a)) ∧
      (s.lc.state = 2 → wfld v 0 2 = 0 ∨ wfld v 0 2 = 3 →
        exec (.lcFuseCmd a v) s = .next (acked { s with lc := { s.lc with fuseResult := 5 } } a)) ∧
      (s.lc.state = 2 → wfld v 0 2 = 1 ∨ wfld v 0 2 = 2 →
        (supplyBad s = true →
          exec (.lcFuseCmd a v) s = .next (acked { s with lc := { s.lc with fuseResult := 3 } } a)) ∧
        (supplyBad s = false → (List.zipWith (fun x y => x &&& ~~~y) (fuseBytes s w (n + 1)) img).any (· != 0) = true →
          exec (.lcFuseCmd a v) s = .next (acked { s with lc := { s.lc with fuseResult := 2 } } a)) ∧
        (supplyBad s = false → (List.zipWith (fun x y => x &&& ~~~y) (fuseBytes s w (n + 1)) img).any (· != 0) = false →
          s.lc.ops = [] → struck s = false →
          ∃ (t : State) (bits : List Nat), exec (.lcFuseCmd a v) s = .next (acked t a) ∧ t = { s with lc := t.lc } ∧
            (∀ b, b ∈ bits ↔ b ∈ oneBits w img ∧ fuseBit s b = false) ∧
            (bits ≠ [] → t.lc.fuseBusy = true ∧ t.lc.ops = [⟨.field, [.bits 0 bits], 0, true, s.clk.meridian,
              (s.clk.meridian, s.bn.btime)⟩]) ∧
            (bits = [] → t.lc.fuseBusy = false ∧ t.lc.fuseResult = 0 ∧ t.lc.ops = [])))))

/-! ## Alarms, supplies, Soundings, Logbook, clocks, power -/

/-- ALARM_SOURCE, ALARM_CONDITION_END and ALARM_HOLD_END (R343 to R348). TEMP and OVERVOLT follow from the samples, and
the report ignores their bits (log entry 58, DESIGN CHOICE). A report that starts something latches exactly its new
sources, counts each, makes its level sources active, and latches BN_NOTICE.ALARM; one that starts nothing notes that its
conditions hold. The sources of one Binnacle cycle are judged together and share one record. A mesh pair fails when a
line of it disagrees in a bit of 1 µs and disagreed in the bit before; the lines are reported as log entry 58 says
(DESIGN CHOICE). Where the strongest action is ERASE and no erase runs, one starts: no slot, no context, no vault key is
left. Where it is weaker, keys and contexts stay. A condition that has been absent long enough ends and leaves the latch;
a mesh pair is good again 2,048 Binnacle cycles after it failed last; a HOLD runs 336 cycles on. CLK_ROOT ends two
windows of 32 Binnacle cycles after it reported last or the PLL locked, whichever came later. -/
def Obligations.AlarmCommands : Prop :=
  (∀ (s : State) (src hit start all : BitVec 12) (mesh : BitVec 32) (fail : BitVec 16), s.bn.vsbRst = false →
    (∀ i, i < 16 → fail.getLsbD i = (s.bn.meshFail.getLsbD i || (src.getLsbD 0 && s.bn.meshEn.getLsbD i &&
      ((mesh.getLsbD i && s.bn.meshBad.get 0 i == s.bn.btime / 32 + 1) ||
        (mesh.getLsbD (16 + i) && s.bn.meshBad.get 0 (16 + i) == s.bn.btime / 32 + 1))))) →
    hit = src &&& 0xF7B &&& (if fail = 0 then 0xFFE else 0xFFF) → start = newSources s hit →
    all = start ||| (if s.bn.alarmAt = some s.bn.btime then s.bn.alarmSrc else 0) →
    ∃ t, exec (.alarmSource src mesh) s = .next t ∧ t.bn.meshFail = fail ∧
      (∀ i, i < 32 → t.bn.meshBad.get 0 i =
        if (src.getLsbD 0 && mesh.getLsbD i && s.bn.meshEn.getLsbD (i % 16)) = true then s.bn.btime / 32 + 2
        else s.bn.meshBad.get 0 i) ∧
      (start = 0 → t = { s with bn := { s.bn with
        since := t.bn.since, meshFail := fail, meshAt := t.bn.meshAt, meshBad := t.bn.meshBad } }) ∧
      (start ≠ 0 → t.bn.latch = s.bn.latch ||| start ∧
        t.bn.active = s.bn.active ||| (start &&& 0x09F) ∧ t.bn.act = s.bn.act ∧ t.bn.notice.getLsbD 1 = true ∧
        (∀ n, n < s.bn.cnt.length → t.bn.cnt.getD n 0 =
          if start.getLsbD n = true then sat32 (s.bn.cnt.getD n 0) else s.bn.cnt.getD n 0) ∧
        t.bn.alarmAt = some s.bn.btime ∧ t.bn.alarmSrc = all ∧ t.fuses = s.fuses ∧ t.chart = s.chart ∧
        (s.bn.alarmAt = some s.bn.btime → s.lb.queue.any (alarmQueued s) = true →
          t.lb.queue.length = s.lb.queue.length) ∧
        (strongest s all ≠ 2 → t.bn.erase = s.bn.erase ∧ t.kv = s.kv ∧ t.sc = s.sc ∧ t.units = s.units) ∧
        (strongest s all = 2 → s.bn.erase = none → s.lb.queue.length < 32 →
          t.bn.erase = some ⟨all, s.clk.meridian, false, false, true⟩ ∧ (∀ i, (getSlot t i).kind = 0) ∧
          (∀ u, (getUni t u).job = none ∧ (getUni t u).key = none) ∧ t.kv.kvlt = none ∧ t.sc.std = [] ∧
          t.sc.cmp = [] ∧ (s.bn.alarmAt ≠ some s.bn.btime → t.lb.queue.length = s.lb.queue.length + 1)))) ∧
  (∀ (s : State) (src : BitVec 12) (mesh : BitVec 32), s.bn.vsbRst = true →
    exec (.alarmSource src mesh) s = .next s) ∧
  (∀ (s : State) (n : BitVec 4) (mesh : BitVec 16) (m : BitVec 12) (span : Nat), s.bn.vsbRst = false → n ≠ 0 →
    m = BitVec.ofNat 12 (2 ^ n.toNat) → span = (if n = 1 then 33600 else if n = 3 then 64 else 32) →
    (n ≠ 1 → n ≠ 3 → n ≠ 4 → exec (.alarmConditionEnd n mesh) s = .next s) ∧
    (s.bn.active.getLsbD n.toNat = false ∨ s.bn.btime < s.bn.since.get 0 n.toNat + span ∨ (n = 3 ∧ s.clk.lock = false) →
      exec (.alarmConditionEnd n mesh) s = .next s) ∧
    (n = 1 ∨ n = 4 ∨ (n = 3 ∧ s.clk.lock = true) → s.bn.active.getLsbD n.toNat = true →
      s.bn.since.get 0 n.toNat + span ≤ s.bn.btime →
      exec (.alarmConditionEnd n mesh) s = .next { s with
        clk := { s.clk with refOk := s.clk.refOk || (n == 4 && active s), refGone := s.clk.refGone && n != 4 }
        bn := { s.bn with
          active := s.bn.active &&& ~~~m
          holdSrc := s.bn.holdSrc &&& ~~~m
          holdFrom := if s.bn.holdSrc.getLsbD n.toNat then some s.bn.btime else s.bn.holdFrom } })) ∧
  (∀ (s : State) (mesh : BitVec 16), s.bn.vsbRst = false → s.bn.since.get 0 0 ≤ s.bn.btime →
    ∃ t, exec (.alarmConditionEnd 0 mesh) s = .next t ∧
      t = { s with bn := { s.bn with
        meshFail := t.bn.meshFail, active := t.bn.active, holdSrc := t.bn.holdSrc, holdFrom := t.bn.holdFrom } } ∧
      (∀ i, i < 16 → t.bn.meshFail.getLsbD i =
        (s.bn.meshFail.getLsbD i && !(mesh.getLsbD i && decide (s.bn.meshAt.get 0 i + 2048 ≤ s.bn.btime)))) ∧
      (∀ n, n < 12 → t.bn.active.getLsbD n = (s.bn.active.getLsbD n && (n != 0 || t.bn.meshFail != 0)))) ∧
  (∀ (s : State) (t0 : Nat), s.bn.holdFrom = some t0 → s.bn.holdSrc = 0 →
    (t0 + 336 ≤ s.bn.btime → exec .alarmHoldEnd s = .next { s with bn := { s.bn with holdFrom := none } }) ∧
    (s.bn.btime < t0 + 336 → exec .alarmHoldEnd s = .next s))

/-- BN_ACTION_WRITE, BN_LOCK, BN_LATCH_CLEAR, BN_MESH_ENABLE, HOLD_OK_CHANGE and ERASE_SCRUB_DONE (R205, R338, R344,
R346, R347). A write below the floor stores the floor, action 3 and the fixed sources 8 and 11 ignore it, and the lock
ignores one that lowers; a source leaves the erase hold by a clear only when its condition has ended; mesh enables fall
only in RAW, TEST and RETURNED. BN_FAULT_CLR and UNIT_KAT_DONE (R351). Only a top-level unit in FAULT whose Helm is not
in HALT is tested, any other answers REFUSED; the unit is IDLE after a pass and stays in FAULT after a failure. -/
def Obligations.BinnacleRule : Prop :=
  ((∀ (s : State) (a : Access) (n : BitVec 4) (v : Word), granted s a true (mgmtAt a (0x90080 + 4 * n.toNat)) = true →
    (12 ≤ n.toNat ∨ wfld v 0 2 = 3 ∨ n = 8 ∨ n = 11 → exec (.bnActionWrite a n v) s = .next (acked s a)) ∧
    (n.toNat < 12 → wfld v 0 2 ≠ 3 → n ≠ 8 → n ≠ 11 →
      exec (.bnActionWrite a n v) s = .next (acked
        (if s.bn.lock = true ∧ max (wfld v 0 2) (bnFloor s n.toNat) < bnAct s n.toNat then s
         else { s with bn := { s.bn with act := s.bn.act.set n.toNat (max (wfld v 0 2) (bnFloor s n.toNat)) } }) a))) ∧
  (∀ (s : State) (a : Access) (v : Word),
    (granted s a true (mgmtAt a 0x90004) = true → exec (.bnLock a v) s =
      .next (acked (if wbit v 0 then { s with bn := { s.bn with lock := true } } else s) a)) ∧
    (granted s a true (mgmtAt a 0x90030) = true → ∃ t, exec (.bnLatchClear a v) s = .next (acked t a) ∧
      t = { s with bn := { s.bn with latch := t.bn.latch, eraseHold := t.bn.eraseHold } } ∧
      ∀ n, n < 12 → t.bn.latch.getLsbD n = (s.bn.latch.getLsbD n && !v.getLsbD n) ∧
        t.bn.eraseHold.getLsbD n = (s.bn.eraseHold.getLsbD n && !(v.getLsbD n && !s.bn.active.getLsbD n))) ∧
    (granted s a true (mgmtAt a 0x90034) = true → ∃ t, exec (.bnMeshEnable a v) s = .next (acked t a) ∧
      t = { s with bn := { s.bn with meshEn := t.bn.meshEn, meshFail := t.bn.meshFail } } ∧
      ∀ n, n < 16 → t.bn.meshFail.getLsbD n = (s.bn.meshFail.getLsbD n && t.bn.meshEn.getLsbD n) ∧
        (s.bn.lcKnown = some 1 ∨ s.bn.lcKnown = some 2 ∨ s.bn.lcKnown = some 5 →
          t.bn.meshEn.getLsbD n = v.getLsbD n) ∧
        (s.bn.lcKnown ≠ some 1 → s.bn.lcKnown ≠ some 2 → s.bn.lcKnown ≠ some 5 →
          t.bn.meshEn.getLsbD n = (s.bn.meshEn.getLsbD n || v.getLsbD n)))) ∧
  (∀ (s : State) (up : Bool), exec (.holdOkChange up) s = .next { s with bn := { s.bn with holdOk := up } }) ∧
  (∀ (s : State) (e : Erase), s.bn.erase = some e → active s = true → e.at_ + 393336 ≤ s.clk.meridian →
    exec .eraseScrubDone s = .next { s with bn := { s.bn with erase := some { e with scrubbed := true } } })) ∧
  ((∀ (s : State) (a : Access) (v : Word) (u : Nat) (r : UnitRec), granted s a true (mgmtAt a 0x9003C) = true →
    u = wfld v 0 12 → unitRec s u = some r →
    (s.bn.faultBusy = true → exec (.bnFaultClr a v) s = .next (acked s a)) ∧
    (s.bn.faultBusy = false → r.parent = none → (getUni s u).st = 4 → (∀ h, r.helm = some h → (getHelm s h).st ≠ 3) →
      exec (.bnFaultClr a v) s = .next (acked { s with bn := { s.bn with
        faultUid := BitVec.ofNat 12 u, faultBusy := true } } a)) ∧
    (s.bn.faultBusy = false → r.parent ≠ none ∨ (getUni s u).st ≠ 4 ∨ (∃ h, r.helm = some h ∧ (getHelm s h).st = 3) →
      exec (.bnFaultClr a v) s = .next (acked { s with bn := { s.bn with
        faultUid := BitVec.ofNat 12 u, faultResult := 2 } } a))) ∧
  (∀ (s : State), running s = true → s.bn.faultBusy = true →
    (∃ t, exec (.unitKatDone true) s = .next t ∧
      t = { s with units := t.units, bn := { s.bn with faultBusy := false, faultResult := 0 } } ∧
      getUni t s.bn.faultUid.toNat = { getUni s s.bn.faultUid.toNat with st := 0 } ∧
      ∀ w, w ≠ s.bn.faultUid.toNat → getUni t w = getUni s w) ∧
    (∃ t, exec (.unitKatDone false) s = .next t ∧ t.bn.faultBusy = false ∧ t.bn.faultResult = 1 ∧
      t.units = s.units ∧ t.pools = s.pools)))

/-- SUPPLY_SAMPLE, NOSTART_HOLD_END and SUPPLY_GROUP_CLOSE (R339 to R343), with the levels in millivolts (log entry 8). A
sample advances the Binnacle's time by one cycle, shows both codes, and sets each warning with its hysteresis; two
samples below a reset level hold the core, whose ports then have no credit; after a VDD_CORE reset a sample at its
release level is remembered, and from then on the level is watched again; during a VSB reset only the release level is
watched for. TEMP and OVERVOLT start and end at their levels (log entry 58). The no-start hold ends 336 cycles after the
later warning, and a group closes 33,600 cycles after its last excursion. -/
def Obligations.SupplyMonitor : Prop :=
  (∀ (s : State) (vsb vdd : BitVec 16) (hot cold : BitVec 8), s.bn.vsbRst = true →
    exec (.supplySample vsb vdd hot cold) s =
      .next { s with bn := { s.bn with vsbUp := s.bn.vsbUp || decide (4100 ≤ vsb.toNat) } }) ∧
  (∀ (s : State) (vsb vdd : BitVec 16) (hot cold : BitVec 8), s.bn.vsbRst = false →
    ∃ t, exec (.supplySample vsb vdd hot cold) s = .next t ∧ t.bn.btime = s.bn.btime + 1 ∧
      t.bn.vsb = vsb.toNat / 24 ∧ t.bn.vdd = vdd.toNat ∧ t.bn.hot = hot ∧ t.bn.cold = cold ∧
      t.bn.vsbWarn = decide (vsb.toNat < if s.bn.vsbWarn = true then 4400 else 4300) ∧
      t.bn.vddWarn = decide (vdd.toNat < if s.bn.vddWarn = true then 700 else 690) ∧
      t.bn.nostart = (s.bn.nostart || t.bn.vsbWarn || t.bn.vddWarn) ∧
      t.bn.vsbLow = (if vsb.toNat < 3800 then s.bn.vsbLow + 1 else 0) ∧
      t.bn.vddLow = (if vdd.toNat < 650 then s.bn.vddLow + 1 else 0) ∧
      (2 ≤ t.bn.vsbLow → t.bn.vsbRst = true ∧ t.bn.vsbUp = false ∧ t.pw.coreHeld = true ∧
        ∀ n, n < 8 → getPort t n = .down) ∧
      (t.bn.vsbLow < 2 → t.bn.vddLow < 2 →
        t.bn.vddUp = (s.bn.vddUp || (s.bn.vddRst && decide (670 ≤ vdd.toNat))) ∧ t.bn.vddRst = s.bn.vddRst) ∧
      (t.bn.vsbLow < 2 → 2 ≤ t.bn.vddLow → s.bn.vddRst = false ∨ s.bn.vddUp = true → t.bn.vddUp = false ∧ t.bn.vddRst = true ∧ t.pw.coreHeld = true ∧
        ∀ n, n < 8 → getPort t n = .down) ∧
      (t.bn.vsbLow < 2 → t.bn.vddLow < 2 → t.pw = s.pw ∧ t.bn.vsbRst = false) ∧
      (t.bn.erase = s.bn.erase → t.kv = s.kv ∧ t.sc = s.sc ∧ t.units = s.units) ∧ t.fuses = s.fuses ∧
      (t.bn.btime % 32 = 0 → 120 < hot.toInt ∨ cold.toInt < -50 → s.bn.active.getLsbD 2 = false →
        s.bn.alarmAt ≠ some t.bn.btime → t.bn.latch.getLsbD 2 = true ∧ t.bn.active.getLsbD 2 = true) ∧
      (t.bn.btime % 32 = 0 → hot.toInt ≤ 115 → -45 ≤ cold.toInt → t.bn.active.getLsbD 2 = false) ∧
      ((20000 < vsb.toNat ∧ 31 ≤ s.bn.overVsb) ∨ (850 < vdd.toNat ∧ 3 ≤ s.bn.overVdd) →
        s.bn.active.getLsbD 7 = false → s.bn.alarmAt ≠ some t.bn.btime →
        t.bn.latch.getLsbD 7 = true ∧ t.bn.active.getLsbD 7 = true) ∧
      (vsb.toNat < 20000 → vdd.toNat < 850 → 31 ≤ s.bn.overEnd → t.bn.active.getLsbD 7 = false)) ∧
  (∀ (s : State), s.bn.nostart = true → s.bn.vsbWarn = false → s.bn.vddWarn = false →
    (s.bn.warnEnd + 336 ≤ s.bn.btime → ∃ t, exec .nostartHoldEnd s = .next t ∧ t.bn.nostart = false ∧
      t.fuses = s.fuses ∧ (active s = false → t = { s with bn := { s.bn with nostart := false } })) ∧
    (s.bn.btime < s.bn.warnEnd + 336 → exec .nostartHoldEnd s = .next s)) ∧
  (∀ (s : State) (g : Group), s.bn.group = some g → s.bn.vsbWarn = false → s.bn.vddWarn = false →
    g.last + 33600 ≤ s.bn.btime → ∃ t, exec .supplyGroupClose s = .next t ∧ t.bn.group = none ∧
      t.bn.dipGroups = sat32 s.bn.dipGroups ∧ t.bn.dipSpan = word (min (g.last - g.first) 0xFFFFFFFF) ∧
      t.bn.dipTime = word (min g.below 0xFFFFFF + 2 ^ 24 * min g.count 255) ∧
      t.bn.act = s.bn.act ∧ t.kv = s.kv ∧ t.units = s.units)

/-- SD_FREEZE, SD_UNFREEZE, SD_AUTO_RELEASE and the clears of the Soundings (R358, R359). A freeze keeps its first time
and ends by hand or after 30,000,000 root cycles; a clear empties exactly the areas of the bits set, and is ignored while
one runs. The clears are stated for the bits of the written value with their own. -/
def Obligations.SoundingsCommands : Prop :=
  (∀ (s : State) (a : Access) (v : Word), granted s a true (mgmtAt a 0xB0004) = true →
    exec (.sdFreeze a v) s = .next (acked
      (if s.sd.frozen then s else { s with sd := { s.sd with frozen := true, freezeAt := s.clk.meridian } }) a) ∧
    exec (.sdUnfreeze a v) s = .next (acked { s with sd := { s.sd with frozen := false } } a)) ∧
  (∀ (s : State), active s = true → s.sd.frozen = true →
    (s.sd.freezeAt + 30000000 ≤ s.clk.meridian →
      exec .sdAutoRelease s = .next { s with sd := { s.sd with frozen := false, autoReleased := true } }) ∧
    (s.clk.meridian < s.sd.freezeAt + 30000000 → exec .sdAutoRelease s = .next s)) ∧
  (∀ (s : State) (a : Access) (v w : Word) (i : Instr), granted s a true (mgmtAt a 0xB000C) = true →
    (i, w) ∈ [(Instr.sdClearPools a v, v ||| 1), (.sdClearRings a v, v ||| 2), (.sdClearDevice a v, v ||| 4)] →
    (s.sd.clearing ≠ 0 → exec i s = .next (acked s a)) ∧
    (s.sd.clearing = 0 → ∃ t, exec i s = .next (acked t a) ∧
      t = { s with sd := { s.sd with
        clearing := t.sd.clearing, clearEnd := s.clk.meridian + clearTime w, hist := t.sd.hist, sums := t.sd.sums
        rings := t.sd.rings, ext := t.sd.ext } } ∧
      (∀ n, n < 3 → t.sd.clearing.getLsbD n = w.getLsbD n) ∧
      (wbit w 0 = true → t.sd.hist = [] ∧ t.sd.sums = []) ∧
      (wbit w 0 = false → t.sd.hist = s.sd.hist ∧ t.sd.sums = s.sd.sums) ∧
      t.sd.rings = (if wbit w 1 then [] else s.sd.rings) ∧
      t.sd.ext = (if wbit w 2 then Extremes.init else s.sd.ext))) ∧
  (∀ (s : State), running s = true → s.sd.clearEnd ≤ s.clk.meridian →
    exec .sdClearDone s = .next { s with sd := { s.sd with clearing := 0 } })

/-- LOGBOOK_SLOT_WRITTEN, LOG_TOKEN_TICK and LOGBOOK_SCAN_DONE (R360, R361, R363, R364). The writer waits for the scan; a
pinned record goes first into the next pinned slot, then every record into the next circular slot with the next SEQ; no
other slot changes; the last pinned slot latches PINNED_FULL. A tick gives every bucket one token, at most 8. After the
scan the next SEQ follows the highest of the records whose CRC holds (SEQ wraps: R29), which is that of the newest
circular record unless a pinned one is ahead of it; and writing goes on behind the newest such record of the circular
slots. -/
def Obligations.LogbookWriter : Prop :=
  (∀ (s : State), s.lb.scanning = true ∨ s.lb.queue = [] → exec .logbookSlotWritten s = .next s) ∧
  (∀ (s : State) (r : LogRec) (rest : List LogRec), s.lb.scanning = false → s.lb.queue = r :: rest →
    (r.pin = true → s.lb.second = false → s.lb.pinned < 256 → ∃ t, exec .logbookSlotWritten s = .next t ∧
      t = { s with
        lb := { s.lb with slots := t.lb.slots, pinned := s.lb.pinned + 1, second := true, notice := t.lb.notice }
        nv := t.nv
        lane0 := t.lane0
        lane1 := t.lane1 } ∧
      (s.lb.pinned ≠ 255 → t.lb.notice = s.lb.notice ∧ t.nv = s.nv ∧ t.lane0 = s.lane0 ∧ t.lane1 = s.lane1) ∧
      (s.lb.pinned = 255 → t.lb.notice.getLsbD 2 = true) ∧
      t.lb.slots.find s.lb.pinned = some (logBytes s r) ∧
      ∀ i, i ≠ s.lb.pinned → t.lb.slots.find i = s.lb.slots.find i) ∧
    (r.pin = false ∨ s.lb.second = true ∨ 256 ≤ s.lb.pinned → ∃ t, exec .logbookSlotWritten s = .next t ∧
      t.lb.slots.find s.lb.next = some (logBytes s r) ∧ t.lb.next = (if s.lb.next < 16383 then s.lb.next + 1 else 256) ∧
      t.lb.seq = (s.lb.seq + 1) % 2 ^ 32 ∧ t.lb.queue = rest ∧ t.lb.second = false ∧ t.lb.pinned = s.lb.pinned ∧
      (∀ i, i ≠ s.lb.next → t.lb.slots.find i = s.lb.slots.find i) ∧ t.kv = s.kv ∧ t.units = s.units)) ∧
  (∀ (s : State), s.lb.tokenAt + 2 ^ 25 ≤ s.bn.btime → ∃ t, exec .logTokenTick s = .next t ∧
    t = { s with lb := { s.lb with tokens := t.lb.tokens, tokenAt := s.lb.tokenAt + 2 ^ 25 } } ∧
    ∀ k, t.lb.tokens.get 8 k = min 8 (s.lb.tokens.get 8 k + 1)) ∧
  (∀ (s : State), s.lb.scanning = true → ∃ t, exec .logbookScanDone s = .next t ∧ t.lb.scanning = false ∧
    t.lb.slots = s.lb.slots ∧ t.lb.pinned = s.lb.pinned ∧ t.pw.coreHeld = (s.pw.coreHeld && s.bn.vddRst) ∧
    (lastSeq s.lb.slots = none → t.lb.seq = s.lb.seq) ∧
    (∀ q, lastSeq s.lb.slots = some q → t.lb.seq = q.toNat) ∧
    (∀ i q, newest 256 s.lb.slots = some (i, q) → (∀ e ∈ s.lb.slots, e.1 < 256 → recordOk e.2 = true →
      ¬ (0 < posDiff (wordAt e.2 0) q ∧ posDiff (wordAt e.2 0) q ≤ 16128)) → t.lb.seq = q.toNat) ∧
    (newest 256 s.lb.slots = none → t.lb.next = s.lb.next) ∧
    (∀ i q, newest 256 s.lb.slots = some (i, q) → t.lb.next = if i < 16383 then i + 1 else 256))

/-- PLL_LOCK, PLL_LOCK_LOST and PLL_LOCK_RETRY (R369, R379 to R381). A lock (every PSW_ACK has risen then, log entry 59)
ends step 1 of start-up, leaves the bypass, shows the measured frequency and time and begins the windows of CLK_ROOT
(R343); a loss goes back to the bypass and reports CLK_ROOT; a missed bound shows 0x0101 or 0x0102 and start-up stays at
step 1. STARTUP_STEP_END (R379, R380). Step 2 goes to 3, or ends FAILED with 0x0202 to 0x0205 for the first test that
failed (of several, in this order: log entry 36, DEDUCED; R379 lists them without one); step 3 goes to 4 with the decoded
state, which the Binnacle then knows; step 4 waits for an erase hold, else goes to 5 with the context store and the vault
READY and every waiting FLR answered; step 6 goes to 7 with READY. -/
def Obligations.ClockAndStartup : Prop :=
  ((∀ (s : State) (khz : BitVec 18) (time : BitVec 16), s.clk.lock = false → s.pw.coreHeld = false →
    s.scanMode = false → s.pw.mode ≠ .a2 → s.pw.mode ≠ .a3 →
    ∃ t, exec (.pllLock khz time) s = .next t ∧
      t = { s with clk := t.clk, pw := t.pw, bn := { s.bn with since := s.bn.since.set 3 s.bn.btime } } ∧ t.clk = { s.clk with
        lock := true, bypass := false, refOk := true, refGone := false, refKhz := khz, lockTime := time } ∧
      t.pw.pswAck = .allOnes 23 ∧
      t.pw.step = (if s.pw.step = 1 ∧ s.pw.mode = .run then 2 else s.pw.step) ∧ t.pw.mode = s.pw.mode) ∧
  (∀ (s : State), s.clk.lock = true → active s = true → ∃ t, exec .pllLockLost s = .next t ∧
    t.clk.lock = false ∧ t.clk.bypass = true ∧ t.clk.lockLost = true ∧ t.clk.meridian = s.clk.meridian ∧
    (s.bn.vsbRst = false → s.bn.active.getLsbD 3 = false →
      s.bn.alarmAt ≠ some s.bn.btime ∨ s.bn.alarmSrc.getLsbD 3 = false → t.bn.latch.getLsbD 3 = true)) ∧
  (∀ (s : State) (noRef : Bool), s.pw.step = 1 → s.clk.lock = false → active s = true →
    ∃ t, exec (.pllLockRetry noRef) s = .next t ∧
      t = { s with
        clk := t.clk
        pw := t.pw
        lb := t.lb
        nv := t.nv
        lane0 := t.lane0
        lane1 := t.lane1
        bn := { s.bn with erase := t.bn.erase } } ∧
      t.clk = { s.clk with refOk := !noRef, refGone := noRef } ∧ t.pw.error = (if noRef then 0x101 else 0x102) ∧ t.pw.step = 1 ∧
      (s.lb.queue.length < 32 → t.lb.queue.length = s.lb.queue.length + if s.pw.error = 0x101 ∨ s.pw.error = 0x102 then 0 else 1))) ∧
  (∀ (s : State) (env : StepEnv), engineUp s = true → s.pw.mode = .run →
    (s.pw.step = 2 → env.drbgFail = false → env.entropyFail = false → env.verifierFail = false → env.deriveFail = false →
      ∃ t, exec (.startupStepEnd env) s = .next t ∧ t.pw.step = 3 ∧ t.kv.startupDone = true ∧ t.pw.katDone = true) ∧
    (s.pw.step = 2 → env.drbgFail = true ∨ env.entropyFail = true ∨ env.verifierFail = true ∨ env.deriveFail = true →
      ∃ t, exec (.startupStepEnd env) s = .next t ∧ t.pw.step = 15 ∧ t.ch.held = none ∧
        t.pw.error = (if env.drbgFail then 0x0202 else if env.entropyFail then 0x0203
          else if env.verifierFail then 0x0204 else 0x0205)) ∧
    (∀ n, s.pw.step = 3 → s.lc.ops = [] → decodeFuses s = .state n → n ≠ 5 → n ≠ 6 →
      ∃ t, exec (.startupStepEnd env) s = .next t ∧ t.pw.step = 4 ∧ t.lc.state = n ∧ t.bn.lcKnown = some n ∧
        t.fuses = s.fuses) ∧
    (s.pw.step = 4 → eraseHold s = true → ∃ t, exec (.startupStepEnd env) s = .next t ∧ t.pw.step = 4 ∧
      t.pw.error = 0x0402 ∧ t.kv = s.kv ∧ t.sc = s.sc) ∧
    (s.pw.step = 4 → eraseHold s = false → s.kv.healthFail = true →
      ∃ t, exec (.startupStepEnd env) s = .next t ∧ t.pw.step = 15 ∧ t.pw.error = 0x0401) ∧
    (s.pw.step = 4 → eraseHold s = false → s.kv.healthFail = false → s.ch.held = none →
      ∃ t, exec (.startupStepEnd env) s = .next t ∧ t.pw.step = 5 ∧ t.kv.ready = true ∧ t.sc.ready = true ∧
        t.kv.kvlt.isSome = true ∧ t.kv.kopr.isSome = true ∧ t.sc.kctx.isSome = true ∧ t.fdn = s.fdn ++ s.flrPend ∧
        t.kv.erasing = false ∧ t.sc.erasing = false ∧ t.sc.scrubLeft = 0 ∧
        t.flrPend = [] ∧ t.chart = s.chart) ∧
    (s.pw.step = 6 → ∃ t, exec (.startupStepEnd env) s = .next t ∧ t.pw.step = 7 ∧ t.pw.ready = true ∧
      t.pw.startLogged = true ∧ (∀ h ∈ env.helmFail, (getHelm t h.toNat).st = 3 ∧ (getHelm t h.toNat).trap = 4)))

/-- PW_REQ_A2, PW_REQ_A3, A2_ENTRY_COMPLETE, PD_WAKE, A2_EXIT_COMPLETE and POWER_SWITCH_LOSS (R371 to R374, R403). A
refused request shows the first reason of R372 and does nothing else; an accepted A2 leaves no key in an idle unit,
isolates the core and keeps its state; A3 leaves no slot and no context; a wake acts in A2, or at the end of the entry;
the exit counts it, reseeds every DRBG instance or, in HEALTH_FAIL, leaves none with output, and then takes the FLR
request that waited or discards one whose parity failed; losing a switch outside A2 holds the core, and nothing waits at
its ports any more (R389). SCAN_MODE_ENTRY, SCAN_MODE_EXIT and MBIST_START (R325, R399). The test group works in RAW,
TEST and RETURNED alone; what it starts first leaves no slot, no context and no key in a unit; after scan mode the core
is held until the next PWR_CORE, with nothing at its ports (R389). -/
def Obligations.PowerRule : Prop :=
  ((∀ (s : State) (a : Access), granted s a true (mgmtAt a 0xA0108) = true → failedStart s = false →
    s.pw.reqBusy = false →
    (pwJudge s true ≠ 0 → exec (.pwReqA2 a) s =
      .next (acked { s with pw := { s.pw with reqResult := pwJudge s true } } a)) ∧
    (pwJudge s true = 0 → ∃ t, exec (.pwReqA2 a) s = .next (acked t a) ∧
      t = { s with
        pw := { s.pw with reqResult := 0, reqBusy := true, mode := .a2Entry }
        units := t.units
        cnts := t.cnts } ∧
      (∀ u, getUni t u = getUni s u ∨
        (((getUni s u).job = none ∧ (getUni s u).sched = false) ∧ getUni t u = scrubKey (getUni s u))) ∧
      ∀ u, (getUni s u).job = none → (getUni s u).sched = false → (getUni s u).vault = false → (getUni t u).key = none) ∧
    (pwJudge s false ≠ 0 → exec (.pwReqA3 a) s =
      .next (acked { s with pw := { s.pw with reqResult := pwJudge s false } } a)) ∧
    (pwJudge s false = 0 → ∃ t, exec (.pwReqA3 a) s = .next (acked t a) ∧
      t.pw = { s.pw with reqResult := 0, mode := .a3, pdA3Ready := true } ∧ (∀ i, (getSlot t i).kind = 0) ∧
      t.kv.kvlt = none ∧ t.sc.std = [] ∧ t.sc.cmp = [] ∧ t.fuses = s.fuses)) ∧
  (∀ (s : State), s.pw.mode = .a2Entry → portsQuiet s = true → active s = true → exec .a2EntryComplete s = .next { s with
    clk := { Clk.reset with meridian := s.clk.meridian, slow := s.clk.slow, refGone := s.clk.refGone }
    pw := { s.pw with
      mode := (if s.pw.pdWake = true ∨ s.pw.flrWake ≠ [] then .a2Exit else .a2)
      reqBusy := false, pdA2Ready := true, pdWakeAck := false, a2At := s.bn.btime, pswAck := 0 } }) ∧
  (∀ (s : State), (s.pw.mode = .a2 → exec .pdWake s = .next { s with pw := { s.pw with mode := .a2Exit, pdWake := true } }) ∧
    (s.pw.mode = .a2Entry → exec .pdWake s = .next { s with pw := { s.pw with pdWake := true } }) ∧
    (s.pw.mode ≠ .a2 → s.pw.mode ≠ .a2Entry → exec .pdWake s = .next s)) ∧
  (∀ (s : State), s.pw.mode = .a2Exit → s.clk.lock = true → s.pw.coreHeld = false → ∃ t u,
    exec .a2ExitComplete s = .next t ∧ t = s.pw.flrWake.foldl flrBeat u ∧ u = { s with
      kv := { s.kv with drbg := u.kv.drbg }
      pw := { s.pw with
        mode := .run, pdA2Ready := false, pdWakeAck := true, a2Time := s.bn.btime - s.pw.a2At
        a2Count := sat32 s.pw.a2Count, pdWake := false, flrWake := [] } } ∧
    (s.kv.healthFail = true → ∀ d ∈ u.kv.drbg, d.seeded = false) ∧
    (s.kv.healthFail = false → ∀ d ∈ u.kv.drbg, d = ⟨true, 0, s.clk.meridian⟩)) ∧
  (∀ (s : State) (g : BitVec 5), (g.toNat < 23 → s.pw.mode ≠ .a2 → s.pw.pswAck.getLsbD g.toNat = true →
      ∃ t, exec (.powerSwitchLoss g) s = .next t ∧ t = { s with
        pw := { s.pw with coreHeld := true, pswAck := t.pw.pswAck }
        ports := t.ports
        lane0 := .init, lane1 := .init, fdn := [], tpq := [], fpPerr := none, tp0 := [], tp1 := [], dbg := []
        dbgIn := ⟨[], false⟩ } ∧ (∀ n, n < 8 → getPort t n = .down) ∧
      ∀ n, n < 23 → t.pw.pswAck.getLsbD n = (s.pw.pswAck.getLsbD n && n != g.toNat)) ∧
    (23 ≤ g.toNat ∨ s.pw.mode = .a2 ∨ s.pw.pswAck.getLsbD g.toNat = false → exec (.powerSwitchLoss g) s = .next s))) ∧
  ((∀ (s : State), testEnabled s = true → s.scanMode = false →
    (∃ t, exec .scanModeEntry s = .next t ∧ t.scanMode = true ∧ (∀ i, (getSlot t i).kind = 0) ∧
      (∀ u, (getUni t u).key = none ∧ (getUni t u).job = none) ∧ t.sc.std = [] ∧ t.sc.cmp = [] ∧ t.kv.kvlt = none ∧
      t.kv.ready = false ∧ t.sc.ready = false ∧ t.fuses = s.fuses) ∧
    (∃ t, exec .mbistStart s = .next t ∧ t.scanMode = false ∧ (∀ i, (getSlot t i).kind = 0) ∧
      (∀ u, (getUni t u).key = none ∧ (getUni t u).job = none) ∧ t.sc.std = [] ∧ t.sc.cmp = [] ∧ t.kv.kvlt = none ∧
      t.kv.ready = false ∧ t.sc.ready = false ∧ t.fuses = s.fuses)) ∧
  (∀ (s : State), s.lc.state = 3 ∨ s.lc.state = 4 → exec .scanModeEntry s = .next s ∧ exec .mbistStart s = .next s) ∧
  (∀ (s : State), s.scanMode = true → ∃ t, exec .scanModeExit s = .next t ∧
    t = { s with
        scanMode := false
        pw := { s.pw with coreHeld := true }
        ports := t.ports
        lane0 := .init, lane1 := .init, fdn := [], tpq := [], fpPerr := none, tp0 := [], tp1 := [], dbg := []
        dbgIn := ⟨[], false⟩ } ∧
    ∀ n, n < 8 → getPort t n = .down))
end

