-- ==== Sys2Proof/Machine/Masks.lean ====
section
/-!
DEFINITION. What the stores physically hold: contexts, slots and the operand granules of SEALED tiles as bytes, each 16-byte word
XORed with a block under K_CTX, K_VLT or K_OPR at its address (R111, R112, R114, R189, R216). State holds the content; a
store whose key is cleared is unreadable, which is none here.
-/

namespace Sys2Proof.Machine

/-- b, which lies at address a, with the mask block of each 16-byte word XORed in. -/
def maskWords (block : Nat → Bytes) (a : Nat) (b : Bytes) : Bytes :=
  b.mapIdx (fun i x => x ^^^ (block (a + i / 16 * 16)).getD (i % 16) 0)

/-- The mask block of an address under a 256-bit masking key: the address as a 128-bit big-endian block (log 48). -/
def storeMask (key : Bytes) (a : Nat) : Bytes := Config.aesEnc key (toBE 16 a)

/-- HDR of the extension of a wide context: KIND 0b11 and the owner (R112). -/
def extHdr (c : Ctx) : Word := ctxHdr { Ctx.free with st := c.st, kind := 3, owner := c.owner }

/-- The fields of a context outside its engine area. -/
def ctxFields (c : Ctx) : Bytes :=
  let head := toLE 4 (ctxHdr c).toNat ++ toLE 2 c.opcode ++ toLE 1 (ctxFlags c) ++ toLE 1 c.invLim ++
    toLE 4 c.key.toNat ++ toLE 4 c.key2.toNat
  if c.kind = 1 then head ++ toLE 8 c.inv ++ toLE 8 c.dataBytes ++ zeros 32
  else
    let body := head ++ padTo 16 c.nonce ++ toLE 8 c.inv ++ toLE 4 c.blk ++ toLE 1 c.partLen ++ zeros 3 ++
      toLE 8 c.dataBytes ++ toLE 8 c.aadBytes ++ zeros 64
    if c.kind = 2 then body ++ toLE 4 (extHdr c).toNat ++ zeros 124 else body

/-- The bytes of a context: 64 of a compact one, 128 of a standard one, 256 of a wide one. -/
def ctxBytes (c : Ctx) : Bytes := c.engine.zipIdx.foldl (fun b e => b.set (engineOff c e.2) e.1) (ctxFields c)

/-- Where a context lies in the store: the compact region follows the standard one. -/
def ctxAddr (s : State) (r : CtxRef) : Nat := if r.compact then s.chart.stdMib * 2 ^ 20 + 64 * r.idx else 128 * r.idx

/-- The content of one cell of the context store: 64 bytes of a compact context, or 128 of a standard one, of either half of a
wide one, or of a place that is FREE. -/
def ctxCell (s : State) (compact : Bool) (i : Nat) : Bytes :=
  let c := ctxGet s ⟨compact, false, i⟩
  if c.st = 0 then zeros (if compact then 64 else 128)
  else if compact then padTo 64 (ctxBytes c)
  else if c.kind = 3 then padTo 128 ((ctxBytes (ctxGet s ⟨false, true, i - 1⟩)).drop 128)
  else padTo 128 (ctxBytes c)

/-- A context as the store holds it, one cell or the two of a wide reference (R114). -/
def storedCtx (s : State) (r : CtxRef) : Option Bytes :=
  s.sc.kctx.map (fun k => maskWords (storeMask k) (ctxAddr s r)
    (ctxCell s r.compact r.idx ++ if r.wide then ctxCell s r.compact (r.idx + 1) else []))

/-- A slot as the vault holds it (R189). -/
def storedSlot (s : State) (i : Nat) : Option Bytes :=
  s.kv.kvlt.map (fun k => maskWords (storeMask k) (128 * i) (slotBytes (getSlot s i)))

/-- The mask block of a granule of an operand memory (R216): the rule gives 12 of the block's 16 bytes, the rest are zero here
(log 48). -/
def granuleMask (key : Bytes) (tile a : Nat) : Bytes := Config.aesEnc key (padTo 16 (toBE 4 0x4B574F50 ++ toBE 4 tile ++ toBE 4 a))

/-- n bytes of a tile's operand memory from address a as the tile holds them: masked in a SEALED unit. The second half of a DUAL
pair holds a copy of the first (R213). -/
def storedOperand (s : State) (tile a n : Nat) : Option Bytes :=
  let b := Memory.readN s.opmem (storedTile s tile * tileBytes + a) n
  if tileSealed s tile then s.kv.kopr.map (fun k => maskWords (granuleMask k tile) a b) else some b

end Sys2Proof.Machine
end

