-- ==== Sys2Proof/Laws/Masks.lean ====
section
/-!
SUPPORT. Masking: the same block XORed in twice gives the content back (R114, R189, R216).
-/

namespace Sys2Proof.Machine

@[simp] theorem maskWords_length (block : Nat → Bytes) (a : Nat) (b : Bytes) : (maskWords block a b).length = b.length := by
  simp [maskWords]

/-- Reading takes off what writing put on. -/
theorem maskWords_twice (block : Nat → Bytes) (a : Nat) (b : Bytes) :
    maskWords block a (maskWords block a b) = b := by
  apply List.ext_getElem
  · simp
  · intro i h1 h2
    simp [maskWords]

end Sys2Proof.Machine
end

