-- ==== Sys2Proof/Laws/Ops.lean ====
section
/-!
SUPPORT. What the shared operations do: tables, operand memory, target-port accesses.
-/

namespace Sys2Proof.Machine

/-! ## Tables -/

@[simp] theorem Tbl.get_set_same {α : Type} (t : Tbl α) (d x : α) (k : Nat) : (t.set k x).get d k = x := by
  induction t with
  | nil => simp [Tbl.set, Tbl.get]
  | cons e r ih =>
    obtain ⟨i, y⟩ := e
    unfold Tbl.set
    split
    · simp [Tbl.get]
    · split <;> simp_all [Tbl.get]

theorem Tbl.get_set_ne {α : Type} (t : Tbl α) (d x : α) (k m : Nat) (h : m ≠ k) : (t.set k x).get d m = t.get d m := by
  induction t with
  | nil => simp [Tbl.set, Tbl.get, h.symm]
  | cons e r ih =>
    obtain ⟨i, y⟩ := e
    unfold Tbl.set
    split
    · simp [Tbl.get, h.symm]
    · split
      · rename_i c; simp [Tbl.get, c, h.symm]
      · simp [Tbl.get, ih]

theorem Tbl.find_set_same {α : Type} (t : Tbl α) (x : α) (k : Nat) : (t.set k x).find k = some x := by
  induction t with
  | nil => simp [Tbl.set, Tbl.find]
  | cons e r ih =>
    obtain ⟨i, y⟩ := e
    unfold Tbl.set
    split
    · simp [Tbl.find]
    · split <;> simp_all [Tbl.find]

theorem Tbl.find_set_ne {α : Type} (t : Tbl α) (x : α) (k m : Nat) (h : m ≠ k) : (t.set k x).find m = t.find m := by
  induction t with
  | nil => simp [Tbl.set, Tbl.find, h.symm]
  | cons e r ih =>
    obtain ⟨i, y⟩ := e
    unfold Tbl.set
    split
    · simp [Tbl.find, h.symm]
    · split
      · rename_i c; simp [Tbl.find, c, h.symm]
      · simp [Tbl.find, ih]

@[simp] theorem getRing_setRing (s : State) (g : Nat) (r : Ring) : getRing (setRing s g r) g = r := by
  simp [getRing, setRing]

@[simp] theorem getCq_setCq (s : State) (q : Nat) (c : Cq) : getCq (setCq s q c) q = c := by
  simp [getCq, setCq]

@[simp] theorem getPool_setPool (s : State) (p : Nat) (x : Pool) : getPool (setPool s p x) p = x := by
  simp [getPool, setPool]

@[simp] theorem getUni_setUni (s : State) (u : Nat) (x : Uni) : getUni (setUni s u x) u = x := by
  simp [getUni, setUni]

@[simp] theorem getFn_setFn (s : State) (f : Nat) (x : Fn) : getFn (setFn s f x) f = x := by
  simp [getFn, setFn]

@[simp] theorem getNv_setNv (s : State) (f k : Nat) (x : Nv) : getNv (setNv s f k x) f k = x := by
  simp [getNv, setNv]

theorem getRing_setRing_ne (s : State) (g m : Nat) (r : Ring) (h : m ≠ g) : getRing (setRing s g r) m = getRing s m := by
  simp [getRing, setRing, Tbl.get_set_ne _ _ _ _ _ h]

theorem getCq_setCq_ne (s : State) (q m : Nat) (c : Cq) (h : m ≠ q) : getCq (setCq s q c) m = getCq s m := by
  simp [getCq, setCq, Tbl.get_set_ne _ _ _ _ _ h]

theorem getPool_setPool_ne (s : State) (p m : Nat) (x : Pool) (h : m ≠ p) : getPool (setPool s p x) m = getPool s m := by
  simp [getPool, setPool, Tbl.get_set_ne _ _ _ _ _ h]

theorem getUni_setUni_ne (s : State) (u m : Nat) (x : Uni) (h : m ≠ u) : getUni (setUni s u x) m = getUni s m := by
  simp [getUni, setUni, Tbl.get_set_ne _ _ _ _ _ h]

theorem getFn_setFn_ne (s : State) (f m : Nat) (x : Fn) (h : m ≠ f) : getFn (setFn s f x) m = getFn s m := by
  simp [getFn, setFn, Tbl.get_set_ne _ _ _ _ _ h]

/-! ## Operand memory -/

namespace Memory

theorem wfFrom_le {lo hi : Nat} (m : List Host.Cell) (h : lo ≤ hi) (w : wfFrom hi m = true) : wfFrom lo m = true := by
  cases m with
  | nil => rfl
  | cons e r => obtain ⟨a, b⟩ := e; simp_all [wfFrom]; omega

theorem wfFrom_write (m : List Host.Cell) (lo a : Nat) (v : Byte) (w : wfFrom lo m = true) (h : lo ≤ a) :
    wfFrom lo (write m a v) = true := by
  induction m generalizing lo with
  | nil => unfold write; split <;> simp_all [wfFrom]
  | cons e r ih =>
    obtain ⟨i, b⟩ := e
    simp only [wfFrom, Bool.and_eq_true, decide_eq_true_eq] at w
    unfold write
    split
    · split <;> simp_all [wfFrom]
    · split
      · split
        · exact wfFrom_le r (by omega) w.2
        · rename_i e' _; subst e'; simp_all [wfFrom]
      · simp only [wfFrom, Bool.and_eq_true, decide_eq_true_eq]
        exact ⟨w.1, ih (i + 1) w.2 (by omega)⟩

/-- A byte write keeps the canonical form. -/
theorem wf_write (m : List Host.Cell) (a : Nat) (v : Byte) (w : wf m = true) : wf (write m a v) = true :=
  wfFrom_write m 0 a v w (Nat.zero_le a)

/-- A write of bytes keeps the canonical form. -/
theorem wf_writeN (b : Bytes) (m : List Host.Cell) (a : Nat) (w : wf m = true) : wf (writeN m a b) = true := by
  induction b generalizing m a with
  | nil => exact w
  | cons x r ih => exact ih _ _ (wf_write m a x w)

theorem wfFrom_filter (p : Host.Cell → Bool) (m : List Host.Cell) (lo : Nat) (w : wfFrom lo m = true) :
    wfFrom lo (m.filter p) = true := by
  induction m generalizing lo with
  | nil => rfl
  | cons e r ih =>
    obtain ⟨i, b⟩ := e
    simp only [wfFrom, Bool.and_eq_true, decide_eq_true_eq] at w
    have h := ih (i + 1) w.2
    by_cases c : p (i, b)
    · simp only [List.filter_cons_of_pos c, wfFrom, w.1, h, decide_true, ne_eq, not_false_eq_true, Bool.and_self]
    · simp only [List.filter_cons_of_neg (by simpa using c)]
      exact wfFrom_le _ (by omega) h

/-- A zero-fill keeps the canonical form. -/
theorem wf_zero (m : List Host.Cell) (a n : Nat) (w : wf m = true) : wf (zero m a n) = true :=
  wfFrom_filter _ m 0 w

theorem read_below (m : List Host.Cell) (lo a : Nat) (w : wfFrom lo m = true) (h : a < lo) : read m a = 0 := by
  induction m generalizing lo with
  | nil => rfl
  | cons e r ih =>
    obtain ⟨i, b⟩ := e
    simp only [wfFrom, Bool.and_eq_true, decide_eq_true_eq] at w
    have : i ≠ a := by omega
    simp [read, this, ih (i + 1) w.2 (by omega)]

/-- A byte read after its write gives the value written. -/
theorem read_write_same (m : List Host.Cell) (a : Nat) (v : Byte) (w : wf m = true) : read (write m a v) a = v := by
  suffices h : ∀ lo, wfFrom lo m = true → read (write m a v) a = v from h 0 w
  clear w
  intro lo w
  induction m generalizing lo with
  | nil => unfold write; split <;> simp_all [read]
  | cons e r ih =>
    obtain ⟨i, b⟩ := e
    simp only [wfFrom, Bool.and_eq_true, decide_eq_true_eq] at w
    unfold write
    split
    · split
      · rename_i c d; subst d
        have : i ≠ a := by omega
        simp [read, this, read_below r (i + 1) a w.2 (by omega)]
      · simp [read]
    · split
      · rename_i c d; subst d
        split
        · rename_i z; subst z; exact read_below r (i + 1) i w.2 (by omega)
        · simp [read]
      · rename_i c d
        simp [read, d, ih _ w.2]

/-- A byte write leaves every other byte. -/
theorem read_write_ne (m : List Host.Cell) (a x : Nat) (v : Byte) (h : x ≠ a) : read (write m a v) x = read m x := by
  induction m with
  | nil => unfold write; split <;> simp [read, h.symm]
  | cons e r ih =>
    obtain ⟨i, b⟩ := e
    unfold write
    split
    · split <;> simp [read, h.symm]
    · split
      · rename_i c d; subst d
        split <;> simp [read, h.symm]
      · simp [read, ih]

end Memory

/-! ## Target-port accesses -/

/-- A granted access passes the judgement and changes nothing. -/
theorem access_granted (s : State) (a : Access) (w : Bool) (off : Option Nat) (h : granted s a w off = true) :
    access s a w off = (s, none) := by
  unfold granted at h
  split at h
  · cases h
  · simp only [Bool.and_eq_true, decide_eq_true_eq, Bool.or_eq_true, Bool.not_eq_true'] at h
    obtain ⟨⟨⟨⟨⟨⟨⟨h1, h2⟩, h3⟩, h4⟩, h5⟩, h6⟩, h7⟩, h8⟩ := h
    simp only [access, h1, h2, h3, decide_true, Bool.and_self, if_true]
    show judge s (reqOf a w _) = _
    unfold judge
    rw [h4]
    simp only [Bool.false_eq_true, if_false, h7, if_true]
    rw [if_neg, if_neg]
    · rcases h6 with h6 | h6
      · simp [reqOf, h6]
      · have f : a.func = 0 := by simpa using h6.1.1
        simp [reqOf, f, h6.1.2, h6.2]
    · rcases h5 with h5 | h5
      · simp [h5, reqOf]
      · rw [h5]; simp

theorem granted_size (s : State) (a : Access) (w : Bool) (off : Option Nat) (h : granted s a w off = true) :
    a.size = 2 ∧ off.getD 0 % 4 = 0 := by
  unfold granted at h
  split at h
  · cases h
  · simp only [Bool.and_eq_true, decide_eq_true_eq] at h
    exact h.2

/-- While the control domains run, CORE_RST_N is 1 (R389). -/
theorem coreRstN_of_ported (s : State) (h : ported s = true) : coreRstN s = true := by
  simp only [ported, active, powered, Bool.and_eq_true, Bool.or_eq_true, Bool.not_eq_true', beq_iff_eq] at h
  simp only [coreRstN, Bool.and_eq_true, Bool.not_eq_true', beq_iff_eq, bne_iff_ne]
  obtain ⟨⟨⟨⟨h1, h2⟩, _⟩, h3⟩, _⟩ := h
  exact ⟨⟨h2, h3⟩, by rcases h1 with h1 | h1 <;> simp [h1]⟩

/-- A granted access finds CORE_RST_N at 1. -/
theorem granted_coreRstN (s : State) (a : Access) (w : Bool) (off : Option Nat) (h : granted s a w off = true) :
    coreRstN s = true := by
  unfold granted at h
  split at h
  · cases h
  · simp only [Bool.and_eq_true] at h
    exact coreRstN_of_ported s h.1.1.1.1.1.1.1

/-- A granted register write has its effect and is acknowledged. -/
theorem hostWrite_granted (s : State) (a : Access) (off : Option Nat) (eff : State → State)
    (h : granted s a true off = true) : hostWrite s a off eff = acked (eff s) a := by
  unfold hostWrite
  rw [access_granted s a true off h, granted_coreRstN s a true off h]
  simp only [granted_size s a true off h, and_self, if_true]
  rfl

/-- A granted register read has its side effect and answers its value. -/
theorem hostRead_granted (s : State) (a : Access) (off : Option Nat) (eff : State → State × Word)
    (h : granted s a false off = true) : hostRead s a off eff = answered (eff s).1 a (eff s).2 := by
  unfold hostRead
  rw [access_granted s a false off h, granted_coreRstN s a false off h]
  simp only [granted_size s a false off h, and_self, if_true]
  rfl

end Sys2Proof.Machine
end

