-- ==== Sys2Proof/Laws/State.lean ====
section
/-!
SUPPORT. Which fields of the state a named update leaves: one lemma per field per update.
-/

namespace Sys2Proof.Machine

/-! ## setRing changes rings -/

@[simp] theorem setRing_clk (s : State) (g : Nat) (r : Ring) : (setRing s g r).clk = s.clk := rfl
@[simp] theorem setRing_pw (s : State) (g : Nat) (r : Ring) : (setRing s g r).pw = s.pw := rfl
@[simp] theorem setRing_bn (s : State) (g : Nat) (r : Ring) : (setRing s g r).bn = s.bn := rfl
@[simp] theorem setRing_lb (s : State) (g : Nat) (r : Ring) : (setRing s g r).lb = s.lb := rfl
@[simp] theorem setRing_sd (s : State) (g : Nat) (r : Ring) : (setRing s g r).sd = s.sd := rfl
@[simp] theorem setRing_fuses (s : State) (g : Nat) (r : Ring) : (setRing s g r).fuses = s.fuses := rfl
@[simp] theorem setRing_lc (s : State) (g : Nat) (r : Ring) : (setRing s g r).lc = s.lc := rfl
@[simp] theorem setRing_ac (s : State) (g : Nat) (r : Ring) : (setRing s g r).ac = s.ac := rfl
@[simp] theorem setRing_ch (s : State) (g : Nat) (r : Ring) : (setRing s g r).ch = s.ch := rfl
@[simp] theorem setRing_chart (s : State) (g : Nat) (r : Ring) : (setRing s g r).chart = s.chart := rfl
@[simp] theorem setRing_tx (s : State) (g : Nat) (r : Ring) : (setRing s g r).tx = s.tx := rfl
@[simp] theorem setRing_cqs (s : State) (g : Nat) (r : Ring) : (setRing s g r).cqs = s.cqs := rfl
@[simp] theorem setRing_nv (s : State) (g : Nat) (r : Ring) : (setRing s g r).nv = s.nv := rfl
@[simp] theorem setRing_chains (s : State) (g : Nat) (r : Ring) : (setRing s g r).chains = s.chains := rfl
@[simp] theorem setRing_pools (s : State) (g : Nat) (r : Ring) : (setRing s g r).pools = s.pools := rfl
@[simp] theorem setRing_ad (s : State) (g : Nat) (r : Ring) : (setRing s g r).ad = s.ad := rfl
@[simp] theorem setRing_iq (s : State) (g : Nat) (r : Ring) : (setRing s g r).iq = s.iq := rfl
@[simp] theorem setRing_sc (s : State) (g : Nat) (r : Ring) : (setRing s g r).sc = s.sc := rfl
@[simp] theorem setRing_kv (s : State) (g : Nat) (r : Ring) : (setRing s g r).kv = s.kv := rfl
@[simp] theorem setRing_units (s : State) (g : Nat) (r : Ring) : (setRing s g r).units = s.units := rfl
@[simp] theorem setRing_cnts (s : State) (g : Nat) (r : Ring) : (setRing s g r).cnts = s.cnts := rfl
@[simp] theorem setRing_opmem (s : State) (g : Nat) (r : Ring) : (setRing s g r).opmem = s.opmem := rfl
@[simp] theorem setRing_helms (s : State) (g : Nat) (r : Ring) : (setRing s g r).helms = s.helms := rfl
@[simp] theorem setRing_hl (s : State) (g : Nat) (r : Ring) : (setRing s g r).hl = s.hl := rfl
@[simp] theorem setRing_fns (s : State) (g : Nat) (r : Ring) : (setRing s g r).fns = s.fns := rfl
@[simp] theorem setRing_dlFilter (s : State) (g : Nat) (r : Ring) : (setRing s g r).dlFilter = s.dlFilter := rfl
@[simp] theorem setRing_py (s : State) (g : Nat) (r : Ring) : (setRing s g r).py = s.py := rfl
@[simp] theorem setRing_ports (s : State) (g : Nat) (r : Ring) : (setRing s g r).ports = s.ports := rfl
@[simp] theorem setRing_lane0 (s : State) (g : Nat) (r : Ring) : (setRing s g r).lane0 = s.lane0 := rfl
@[simp] theorem setRing_lane1 (s : State) (g : Nat) (r : Ring) : (setRing s g r).lane1 = s.lane1 := rfl
@[simp] theorem setRing_flrPend (s : State) (g : Nat) (r : Ring) : (setRing s g r).flrPend = s.flrPend := rfl
@[simp] theorem setRing_fdn (s : State) (g : Nat) (r : Ring) : (setRing s g r).fdn = s.fdn := rfl
@[simp] theorem setRing_tpq (s : State) (g : Nat) (r : Ring) : (setRing s g r).tpq = s.tpq := rfl
@[simp] theorem setRing_fpPerr (s : State) (g : Nat) (r : Ring) : (setRing s g r).fpPerr = s.fpPerr := rfl
@[simp] theorem setRing_tp0 (s : State) (g : Nat) (r : Ring) : (setRing s g r).tp0 = s.tp0 := rfl
@[simp] theorem setRing_tp1 (s : State) (g : Nat) (r : Ring) : (setRing s g r).tp1 = s.tp1 := rfl
@[simp] theorem setRing_dbg (s : State) (g : Nat) (r : Ring) : (setRing s g r).dbg = s.dbg := rfl
@[simp] theorem setRing_dbgIn (s : State) (g : Nat) (r : Ring) : (setRing s g r).dbgIn = s.dbgIn := rfl
@[simp] theorem setRing_ready (s : State) (g : Nat) (r : Ring) : (setRing s g r).ready = s.ready := rfl
@[simp] theorem setRing_cap (s : State) (g : Nat) (r : Ring) : (setRing s g r).cap = s.cap := rfl
@[simp] theorem setRing_hold (s : State) (g : Nat) (r : Ring) : (setRing s g r).hold = s.hold := rfl
@[simp] theorem setRing_scanMode (s : State) (g : Nat) (r : Ring) : (setRing s g r).scanMode = s.scanMode := rfl
@[simp] theorem setRing_free (s : State) (g : Nat) (r : Ring) : (setRing s g r).free = s.free := rfl
@[simp] theorem setRing_nextId (s : State) (g : Nat) (r : Ring) : (setRing s g r).nextId = s.nextId := rfl
@[simp] theorem setRing_pending (s : State) (g : Nat) (r : Ring) : (setRing s g r).pending = s.pending := rfl

/-! ## setCq changes cqs -/

@[simp] theorem setCq_clk (s : State) (q : Nat) (c : Cq) : (setCq s q c).clk = s.clk := rfl
@[simp] theorem setCq_pw (s : State) (q : Nat) (c : Cq) : (setCq s q c).pw = s.pw := rfl
@[simp] theorem setCq_bn (s : State) (q : Nat) (c : Cq) : (setCq s q c).bn = s.bn := rfl
@[simp] theorem setCq_lb (s : State) (q : Nat) (c : Cq) : (setCq s q c).lb = s.lb := rfl
@[simp] theorem setCq_sd (s : State) (q : Nat) (c : Cq) : (setCq s q c).sd = s.sd := rfl
@[simp] theorem setCq_fuses (s : State) (q : Nat) (c : Cq) : (setCq s q c).fuses = s.fuses := rfl
@[simp] theorem setCq_lc (s : State) (q : Nat) (c : Cq) : (setCq s q c).lc = s.lc := rfl
@[simp] theorem setCq_ac (s : State) (q : Nat) (c : Cq) : (setCq s q c).ac = s.ac := rfl
@[simp] theorem setCq_ch (s : State) (q : Nat) (c : Cq) : (setCq s q c).ch = s.ch := rfl
@[simp] theorem setCq_chart (s : State) (q : Nat) (c : Cq) : (setCq s q c).chart = s.chart := rfl
@[simp] theorem setCq_tx (s : State) (q : Nat) (c : Cq) : (setCq s q c).tx = s.tx := rfl
@[simp] theorem setCq_rings (s : State) (q : Nat) (c : Cq) : (setCq s q c).rings = s.rings := rfl
@[simp] theorem setCq_nv (s : State) (q : Nat) (c : Cq) : (setCq s q c).nv = s.nv := rfl
@[simp] theorem setCq_chains (s : State) (q : Nat) (c : Cq) : (setCq s q c).chains = s.chains := rfl
@[simp] theorem setCq_pools (s : State) (q : Nat) (c : Cq) : (setCq s q c).pools = s.pools := rfl
@[simp] theorem setCq_ad (s : State) (q : Nat) (c : Cq) : (setCq s q c).ad = s.ad := rfl
@[simp] theorem setCq_iq (s : State) (q : Nat) (c : Cq) : (setCq s q c).iq = s.iq := rfl
@[simp] theorem setCq_sc (s : State) (q : Nat) (c : Cq) : (setCq s q c).sc = s.sc := rfl
@[simp] theorem setCq_kv (s : State) (q : Nat) (c : Cq) : (setCq s q c).kv = s.kv := rfl
@[simp] theorem setCq_units (s : State) (q : Nat) (c : Cq) : (setCq s q c).units = s.units := rfl
@[simp] theorem setCq_cnts (s : State) (q : Nat) (c : Cq) : (setCq s q c).cnts = s.cnts := rfl
@[simp] theorem setCq_opmem (s : State) (q : Nat) (c : Cq) : (setCq s q c).opmem = s.opmem := rfl
@[simp] theorem setCq_helms (s : State) (q : Nat) (c : Cq) : (setCq s q c).helms = s.helms := rfl
@[simp] theorem setCq_hl (s : State) (q : Nat) (c : Cq) : (setCq s q c).hl = s.hl := rfl
@[simp] theorem setCq_fns (s : State) (q : Nat) (c : Cq) : (setCq s q c).fns = s.fns := rfl
@[simp] theorem setCq_dlFilter (s : State) (q : Nat) (c : Cq) : (setCq s q c).dlFilter = s.dlFilter := rfl
@[simp] theorem setCq_py (s : State) (q : Nat) (c : Cq) : (setCq s q c).py = s.py := rfl
@[simp] theorem setCq_ports (s : State) (q : Nat) (c : Cq) : (setCq s q c).ports = s.ports := rfl
@[simp] theorem setCq_lane0 (s : State) (q : Nat) (c : Cq) : (setCq s q c).lane0 = s.lane0 := rfl
@[simp] theorem setCq_lane1 (s : State) (q : Nat) (c : Cq) : (setCq s q c).lane1 = s.lane1 := rfl
@[simp] theorem setCq_flrPend (s : State) (q : Nat) (c : Cq) : (setCq s q c).flrPend = s.flrPend := rfl
@[simp] theorem setCq_fdn (s : State) (q : Nat) (c : Cq) : (setCq s q c).fdn = s.fdn := rfl
@[simp] theorem setCq_tpq (s : State) (q : Nat) (c : Cq) : (setCq s q c).tpq = s.tpq := rfl
@[simp] theorem setCq_fpPerr (s : State) (q : Nat) (c : Cq) : (setCq s q c).fpPerr = s.fpPerr := rfl
@[simp] theorem setCq_tp0 (s : State) (q : Nat) (c : Cq) : (setCq s q c).tp0 = s.tp0 := rfl
@[simp] theorem setCq_tp1 (s : State) (q : Nat) (c : Cq) : (setCq s q c).tp1 = s.tp1 := rfl
@[simp] theorem setCq_dbg (s : State) (q : Nat) (c : Cq) : (setCq s q c).dbg = s.dbg := rfl
@[simp] theorem setCq_dbgIn (s : State) (q : Nat) (c : Cq) : (setCq s q c).dbgIn = s.dbgIn := rfl
@[simp] theorem setCq_ready (s : State) (q : Nat) (c : Cq) : (setCq s q c).ready = s.ready := rfl
@[simp] theorem setCq_cap (s : State) (q : Nat) (c : Cq) : (setCq s q c).cap = s.cap := rfl
@[simp] theorem setCq_hold (s : State) (q : Nat) (c : Cq) : (setCq s q c).hold = s.hold := rfl
@[simp] theorem setCq_scanMode (s : State) (q : Nat) (c : Cq) : (setCq s q c).scanMode = s.scanMode := rfl
@[simp] theorem setCq_free (s : State) (q : Nat) (c : Cq) : (setCq s q c).free = s.free := rfl
@[simp] theorem setCq_nextId (s : State) (q : Nat) (c : Cq) : (setCq s q c).nextId = s.nextId := rfl
@[simp] theorem setCq_pending (s : State) (q : Nat) (c : Cq) : (setCq s q c).pending = s.pending := rfl

/-! ## setNv changes nv -/

@[simp] theorem setNv_clk (s : State) (f k : Nat) (n : Nv) : (setNv s f k n).clk = s.clk := rfl
@[simp] theorem setNv_pw (s : State) (f k : Nat) (n : Nv) : (setNv s f k n).pw = s.pw := rfl
@[simp] theorem setNv_bn (s : State) (f k : Nat) (n : Nv) : (setNv s f k n).bn = s.bn := rfl
@[simp] theorem setNv_lb (s : State) (f k : Nat) (n : Nv) : (setNv s f k n).lb = s.lb := rfl
@[simp] theorem setNv_sd (s : State) (f k : Nat) (n : Nv) : (setNv s f k n).sd = s.sd := rfl
@[simp] theorem setNv_fuses (s : State) (f k : Nat) (n : Nv) : (setNv s f k n).fuses = s.fuses := rfl
@[simp] theorem setNv_lc (s : State) (f k : Nat) (n : Nv) : (setNv s f k n).lc = s.lc := rfl
@[simp] theorem setNv_ac (s : State) (f k : Nat) (n : Nv) : (setNv s f k n).ac = s.ac := rfl
@[simp] theorem setNv_ch (s : State) (f k : Nat) (n : Nv) : (setNv s f k n).ch = s.ch := rfl
@[simp] theorem setNv_chart (s : State) (f k : Nat) (n : Nv) : (setNv s f k n).chart = s.chart := rfl
@[simp] theorem setNv_tx (s : State) (f k : Nat) (n : Nv) : (setNv s f k n).tx = s.tx := rfl
@[simp] theorem setNv_rings (s : State) (f k : Nat) (n : Nv) : (setNv s f k n).rings = s.rings := rfl
@[simp] theorem setNv_cqs (s : State) (f k : Nat) (n : Nv) : (setNv s f k n).cqs = s.cqs := rfl
@[simp] theorem setNv_chains (s : State) (f k : Nat) (n : Nv) : (setNv s f k n).chains = s.chains := rfl
@[simp] theorem setNv_pools (s : State) (f k : Nat) (n : Nv) : (setNv s f k n).pools = s.pools := rfl
@[simp] theorem setNv_ad (s : State) (f k : Nat) (n : Nv) : (setNv s f k n).ad = s.ad := rfl
@[simp] theorem setNv_iq (s : State) (f k : Nat) (n : Nv) : (setNv s f k n).iq = s.iq := rfl
@[simp] theorem setNv_sc (s : State) (f k : Nat) (n : Nv) : (setNv s f k n).sc = s.sc := rfl
@[simp] theorem setNv_kv (s : State) (f k : Nat) (n : Nv) : (setNv s f k n).kv = s.kv := rfl
@[simp] theorem setNv_units (s : State) (f k : Nat) (n : Nv) : (setNv s f k n).units = s.units := rfl
@[simp] theorem setNv_cnts (s : State) (f k : Nat) (n : Nv) : (setNv s f k n).cnts = s.cnts := rfl
@[simp] theorem setNv_opmem (s : State) (f k : Nat) (n : Nv) : (setNv s f k n).opmem = s.opmem := rfl
@[simp] theorem setNv_helms (s : State) (f k : Nat) (n : Nv) : (setNv s f k n).helms = s.helms := rfl
@[simp] theorem setNv_hl (s : State) (f k : Nat) (n : Nv) : (setNv s f k n).hl = s.hl := rfl
@[simp] theorem setNv_fns (s : State) (f k : Nat) (n : Nv) : (setNv s f k n).fns = s.fns := rfl
@[simp] theorem setNv_dlFilter (s : State) (f k : Nat) (n : Nv) : (setNv s f k n).dlFilter = s.dlFilter := rfl
@[simp] theorem setNv_py (s : State) (f k : Nat) (n : Nv) : (setNv s f k n).py = s.py := rfl
@[simp] theorem setNv_ports (s : State) (f k : Nat) (n : Nv) : (setNv s f k n).ports = s.ports := rfl
@[simp] theorem setNv_lane0 (s : State) (f k : Nat) (n : Nv) : (setNv s f k n).lane0 = s.lane0 := rfl
@[simp] theorem setNv_lane1 (s : State) (f k : Nat) (n : Nv) : (setNv s f k n).lane1 = s.lane1 := rfl
@[simp] theorem setNv_flrPend (s : State) (f k : Nat) (n : Nv) : (setNv s f k n).flrPend = s.flrPend := rfl
@[simp] theorem setNv_fdn (s : State) (f k : Nat) (n : Nv) : (setNv s f k n).fdn = s.fdn := rfl
@[simp] theorem setNv_tpq (s : State) (f k : Nat) (n : Nv) : (setNv s f k n).tpq = s.tpq := rfl
@[simp] theorem setNv_fpPerr (s : State) (f k : Nat) (n : Nv) : (setNv s f k n).fpPerr = s.fpPerr := rfl
@[simp] theorem setNv_tp0 (s : State) (f k : Nat) (n : Nv) : (setNv s f k n).tp0 = s.tp0 := rfl
@[simp] theorem setNv_tp1 (s : State) (f k : Nat) (n : Nv) : (setNv s f k n).tp1 = s.tp1 := rfl
@[simp] theorem setNv_dbg (s : State) (f k : Nat) (n : Nv) : (setNv s f k n).dbg = s.dbg := rfl
@[simp] theorem setNv_dbgIn (s : State) (f k : Nat) (n : Nv) : (setNv s f k n).dbgIn = s.dbgIn := rfl
@[simp] theorem setNv_ready (s : State) (f k : Nat) (n : Nv) : (setNv s f k n).ready = s.ready := rfl
@[simp] theorem setNv_cap (s : State) (f k : Nat) (n : Nv) : (setNv s f k n).cap = s.cap := rfl
@[simp] theorem setNv_hold (s : State) (f k : Nat) (n : Nv) : (setNv s f k n).hold = s.hold := rfl
@[simp] theorem setNv_scanMode (s : State) (f k : Nat) (n : Nv) : (setNv s f k n).scanMode = s.scanMode := rfl
@[simp] theorem setNv_free (s : State) (f k : Nat) (n : Nv) : (setNv s f k n).free = s.free := rfl
@[simp] theorem setNv_nextId (s : State) (f k : Nat) (n : Nv) : (setNv s f k n).nextId = s.nextId := rfl
@[simp] theorem setNv_pending (s : State) (f k : Nat) (n : Nv) : (setNv s f k n).pending = s.pending := rfl

/-! ## setPool changes pools -/

@[simp] theorem setPool_clk (s : State) (p : Nat) (x : Pool) : (setPool s p x).clk = s.clk := rfl
@[simp] theorem setPool_pw (s : State) (p : Nat) (x : Pool) : (setPool s p x).pw = s.pw := rfl
@[simp] theorem setPool_bn (s : State) (p : Nat) (x : Pool) : (setPool s p x).bn = s.bn := rfl
@[simp] theorem setPool_lb (s : State) (p : Nat) (x : Pool) : (setPool s p x).lb = s.lb := rfl
@[simp] theorem setPool_sd (s : State) (p : Nat) (x : Pool) : (setPool s p x).sd = s.sd := rfl
@[simp] theorem setPool_fuses (s : State) (p : Nat) (x : Pool) : (setPool s p x).fuses = s.fuses := rfl
@[simp] theorem setPool_lc (s : State) (p : Nat) (x : Pool) : (setPool s p x).lc = s.lc := rfl
@[simp] theorem setPool_ac (s : State) (p : Nat) (x : Pool) : (setPool s p x).ac = s.ac := rfl
@[simp] theorem setPool_ch (s : State) (p : Nat) (x : Pool) : (setPool s p x).ch = s.ch := rfl
@[simp] theorem setPool_chart (s : State) (p : Nat) (x : Pool) : (setPool s p x).chart = s.chart := rfl
@[simp] theorem setPool_tx (s : State) (p : Nat) (x : Pool) : (setPool s p x).tx = s.tx := rfl
@[simp] theorem setPool_rings (s : State) (p : Nat) (x : Pool) : (setPool s p x).rings = s.rings := rfl
@[simp] theorem setPool_cqs (s : State) (p : Nat) (x : Pool) : (setPool s p x).cqs = s.cqs := rfl
@[simp] theorem setPool_nv (s : State) (p : Nat) (x : Pool) : (setPool s p x).nv = s.nv := rfl
@[simp] theorem setPool_chains (s : State) (p : Nat) (x : Pool) : (setPool s p x).chains = s.chains := rfl
@[simp] theorem setPool_ad (s : State) (p : Nat) (x : Pool) : (setPool s p x).ad = s.ad := rfl
@[simp] theorem setPool_iq (s : State) (p : Nat) (x : Pool) : (setPool s p x).iq = s.iq := rfl
@[simp] theorem setPool_sc (s : State) (p : Nat) (x : Pool) : (setPool s p x).sc = s.sc := rfl
@[simp] theorem setPool_kv (s : State) (p : Nat) (x : Pool) : (setPool s p x).kv = s.kv := rfl
@[simp] theorem setPool_units (s : State) (p : Nat) (x : Pool) : (setPool s p x).units = s.units := rfl
@[simp] theorem setPool_cnts (s : State) (p : Nat) (x : Pool) : (setPool s p x).cnts = s.cnts := rfl
@[simp] theorem setPool_opmem (s : State) (p : Nat) (x : Pool) : (setPool s p x).opmem = s.opmem := rfl
@[simp] theorem setPool_helms (s : State) (p : Nat) (x : Pool) : (setPool s p x).helms = s.helms := rfl
@[simp] theorem setPool_hl (s : State) (p : Nat) (x : Pool) : (setPool s p x).hl = s.hl := rfl
@[simp] theorem setPool_fns (s : State) (p : Nat) (x : Pool) : (setPool s p x).fns = s.fns := rfl
@[simp] theorem setPool_dlFilter (s : State) (p : Nat) (x : Pool) : (setPool s p x).dlFilter = s.dlFilter := rfl
@[simp] theorem setPool_py (s : State) (p : Nat) (x : Pool) : (setPool s p x).py = s.py := rfl
@[simp] theorem setPool_ports (s : State) (p : Nat) (x : Pool) : (setPool s p x).ports = s.ports := rfl
@[simp] theorem setPool_lane0 (s : State) (p : Nat) (x : Pool) : (setPool s p x).lane0 = s.lane0 := rfl
@[simp] theorem setPool_lane1 (s : State) (p : Nat) (x : Pool) : (setPool s p x).lane1 = s.lane1 := rfl
@[simp] theorem setPool_flrPend (s : State) (p : Nat) (x : Pool) : (setPool s p x).flrPend = s.flrPend := rfl
@[simp] theorem setPool_fdn (s : State) (p : Nat) (x : Pool) : (setPool s p x).fdn = s.fdn := rfl
@[simp] theorem setPool_tpq (s : State) (p : Nat) (x : Pool) : (setPool s p x).tpq = s.tpq := rfl
@[simp] theorem setPool_fpPerr (s : State) (p : Nat) (x : Pool) : (setPool s p x).fpPerr = s.fpPerr := rfl
@[simp] theorem setPool_tp0 (s : State) (p : Nat) (x : Pool) : (setPool s p x).tp0 = s.tp0 := rfl
@[simp] theorem setPool_tp1 (s : State) (p : Nat) (x : Pool) : (setPool s p x).tp1 = s.tp1 := rfl
@[simp] theorem setPool_dbg (s : State) (p : Nat) (x : Pool) : (setPool s p x).dbg = s.dbg := rfl
@[simp] theorem setPool_dbgIn (s : State) (p : Nat) (x : Pool) : (setPool s p x).dbgIn = s.dbgIn := rfl
@[simp] theorem setPool_ready (s : State) (p : Nat) (x : Pool) : (setPool s p x).ready = s.ready := rfl
@[simp] theorem setPool_cap (s : State) (p : Nat) (x : Pool) : (setPool s p x).cap = s.cap := rfl
@[simp] theorem setPool_hold (s : State) (p : Nat) (x : Pool) : (setPool s p x).hold = s.hold := rfl
@[simp] theorem setPool_scanMode (s : State) (p : Nat) (x : Pool) : (setPool s p x).scanMode = s.scanMode := rfl
@[simp] theorem setPool_free (s : State) (p : Nat) (x : Pool) : (setPool s p x).free = s.free := rfl
@[simp] theorem setPool_nextId (s : State) (p : Nat) (x : Pool) : (setPool s p x).nextId = s.nextId := rfl
@[simp] theorem setPool_pending (s : State) (p : Nat) (x : Pool) : (setPool s p x).pending = s.pending := rfl

/-! ## setUni changes units -/

@[simp] theorem setUni_clk (s : State) (u : Nat) (x : Uni) : (setUni s u x).clk = s.clk := rfl
@[simp] theorem setUni_pw (s : State) (u : Nat) (x : Uni) : (setUni s u x).pw = s.pw := rfl
@[simp] theorem setUni_bn (s : State) (u : Nat) (x : Uni) : (setUni s u x).bn = s.bn := rfl
@[simp] theorem setUni_lb (s : State) (u : Nat) (x : Uni) : (setUni s u x).lb = s.lb := rfl
@[simp] theorem setUni_sd (s : State) (u : Nat) (x : Uni) : (setUni s u x).sd = s.sd := rfl
@[simp] theorem setUni_fuses (s : State) (u : Nat) (x : Uni) : (setUni s u x).fuses = s.fuses := rfl
@[simp] theorem setUni_lc (s : State) (u : Nat) (x : Uni) : (setUni s u x).lc = s.lc := rfl
@[simp] theorem setUni_ac (s : State) (u : Nat) (x : Uni) : (setUni s u x).ac = s.ac := rfl
@[simp] theorem setUni_ch (s : State) (u : Nat) (x : Uni) : (setUni s u x).ch = s.ch := rfl
@[simp] theorem setUni_chart (s : State) (u : Nat) (x : Uni) : (setUni s u x).chart = s.chart := rfl
@[simp] theorem setUni_tx (s : State) (u : Nat) (x : Uni) : (setUni s u x).tx = s.tx := rfl
@[simp] theorem setUni_rings (s : State) (u : Nat) (x : Uni) : (setUni s u x).rings = s.rings := rfl
@[simp] theorem setUni_cqs (s : State) (u : Nat) (x : Uni) : (setUni s u x).cqs = s.cqs := rfl
@[simp] theorem setUni_nv (s : State) (u : Nat) (x : Uni) : (setUni s u x).nv = s.nv := rfl
@[simp] theorem setUni_chains (s : State) (u : Nat) (x : Uni) : (setUni s u x).chains = s.chains := rfl
@[simp] theorem setUni_pools (s : State) (u : Nat) (x : Uni) : (setUni s u x).pools = s.pools := rfl
@[simp] theorem setUni_ad (s : State) (u : Nat) (x : Uni) : (setUni s u x).ad = s.ad := rfl
@[simp] theorem setUni_iq (s : State) (u : Nat) (x : Uni) : (setUni s u x).iq = s.iq := rfl
@[simp] theorem setUni_sc (s : State) (u : Nat) (x : Uni) : (setUni s u x).sc = s.sc := rfl
@[simp] theorem setUni_kv (s : State) (u : Nat) (x : Uni) : (setUni s u x).kv = s.kv := rfl
@[simp] theorem setUni_cnts (s : State) (u : Nat) (x : Uni) : (setUni s u x).cnts = s.cnts := rfl
@[simp] theorem setUni_opmem (s : State) (u : Nat) (x : Uni) : (setUni s u x).opmem = s.opmem := rfl
@[simp] theorem setUni_helms (s : State) (u : Nat) (x : Uni) : (setUni s u x).helms = s.helms := rfl
@[simp] theorem setUni_hl (s : State) (u : Nat) (x : Uni) : (setUni s u x).hl = s.hl := rfl
@[simp] theorem setUni_fns (s : State) (u : Nat) (x : Uni) : (setUni s u x).fns = s.fns := rfl
@[simp] theorem setUni_dlFilter (s : State) (u : Nat) (x : Uni) : (setUni s u x).dlFilter = s.dlFilter := rfl
@[simp] theorem setUni_py (s : State) (u : Nat) (x : Uni) : (setUni s u x).py = s.py := rfl
@[simp] theorem setUni_ports (s : State) (u : Nat) (x : Uni) : (setUni s u x).ports = s.ports := rfl
@[simp] theorem setUni_lane0 (s : State) (u : Nat) (x : Uni) : (setUni s u x).lane0 = s.lane0 := rfl
@[simp] theorem setUni_lane1 (s : State) (u : Nat) (x : Uni) : (setUni s u x).lane1 = s.lane1 := rfl
@[simp] theorem setUni_flrPend (s : State) (u : Nat) (x : Uni) : (setUni s u x).flrPend = s.flrPend := rfl
@[simp] theorem setUni_fdn (s : State) (u : Nat) (x : Uni) : (setUni s u x).fdn = s.fdn := rfl
@[simp] theorem setUni_tpq (s : State) (u : Nat) (x : Uni) : (setUni s u x).tpq = s.tpq := rfl
@[simp] theorem setUni_fpPerr (s : State) (u : Nat) (x : Uni) : (setUni s u x).fpPerr = s.fpPerr := rfl
@[simp] theorem setUni_tp0 (s : State) (u : Nat) (x : Uni) : (setUni s u x).tp0 = s.tp0 := rfl
@[simp] theorem setUni_tp1 (s : State) (u : Nat) (x : Uni) : (setUni s u x).tp1 = s.tp1 := rfl
@[simp] theorem setUni_dbg (s : State) (u : Nat) (x : Uni) : (setUni s u x).dbg = s.dbg := rfl
@[simp] theorem setUni_dbgIn (s : State) (u : Nat) (x : Uni) : (setUni s u x).dbgIn = s.dbgIn := rfl
@[simp] theorem setUni_ready (s : State) (u : Nat) (x : Uni) : (setUni s u x).ready = s.ready := rfl
@[simp] theorem setUni_cap (s : State) (u : Nat) (x : Uni) : (setUni s u x).cap = s.cap := rfl
@[simp] theorem setUni_hold (s : State) (u : Nat) (x : Uni) : (setUni s u x).hold = s.hold := rfl
@[simp] theorem setUni_scanMode (s : State) (u : Nat) (x : Uni) : (setUni s u x).scanMode = s.scanMode := rfl
@[simp] theorem setUni_free (s : State) (u : Nat) (x : Uni) : (setUni s u x).free = s.free := rfl
@[simp] theorem setUni_nextId (s : State) (u : Nat) (x : Uni) : (setUni s u x).nextId = s.nextId := rfl
@[simp] theorem setUni_pending (s : State) (u : Nat) (x : Uni) : (setUni s u x).pending = s.pending := rfl

/-! ## setHelm changes helms -/

@[simp] theorem setHelm_clk (s : State) (h : Nat) (x : Helm) : (setHelm s h x).clk = s.clk := rfl
@[simp] theorem setHelm_pw (s : State) (h : Nat) (x : Helm) : (setHelm s h x).pw = s.pw := rfl
@[simp] theorem setHelm_bn (s : State) (h : Nat) (x : Helm) : (setHelm s h x).bn = s.bn := rfl
@[simp] theorem setHelm_lb (s : State) (h : Nat) (x : Helm) : (setHelm s h x).lb = s.lb := rfl
@[simp] theorem setHelm_sd (s : State) (h : Nat) (x : Helm) : (setHelm s h x).sd = s.sd := rfl
@[simp] theorem setHelm_fuses (s : State) (h : Nat) (x : Helm) : (setHelm s h x).fuses = s.fuses := rfl
@[simp] theorem setHelm_lc (s : State) (h : Nat) (x : Helm) : (setHelm s h x).lc = s.lc := rfl
@[simp] theorem setHelm_ac (s : State) (h : Nat) (x : Helm) : (setHelm s h x).ac = s.ac := rfl
@[simp] theorem setHelm_ch (s : State) (h : Nat) (x : Helm) : (setHelm s h x).ch = s.ch := rfl
@[simp] theorem setHelm_chart (s : State) (h : Nat) (x : Helm) : (setHelm s h x).chart = s.chart := rfl
@[simp] theorem setHelm_tx (s : State) (h : Nat) (x : Helm) : (setHelm s h x).tx = s.tx := rfl
@[simp] theorem setHelm_rings (s : State) (h : Nat) (x : Helm) : (setHelm s h x).rings = s.rings := rfl
@[simp] theorem setHelm_cqs (s : State) (h : Nat) (x : Helm) : (setHelm s h x).cqs = s.cqs := rfl
@[simp] theorem setHelm_nv (s : State) (h : Nat) (x : Helm) : (setHelm s h x).nv = s.nv := rfl
@[simp] theorem setHelm_chains (s : State) (h : Nat) (x : Helm) : (setHelm s h x).chains = s.chains := rfl
@[simp] theorem setHelm_pools (s : State) (h : Nat) (x : Helm) : (setHelm s h x).pools = s.pools := rfl
@[simp] theorem setHelm_ad (s : State) (h : Nat) (x : Helm) : (setHelm s h x).ad = s.ad := rfl
@[simp] theorem setHelm_iq (s : State) (h : Nat) (x : Helm) : (setHelm s h x).iq = s.iq := rfl
@[simp] theorem setHelm_sc (s : State) (h : Nat) (x : Helm) : (setHelm s h x).sc = s.sc := rfl
@[simp] theorem setHelm_kv (s : State) (h : Nat) (x : Helm) : (setHelm s h x).kv = s.kv := rfl
@[simp] theorem setHelm_units (s : State) (h : Nat) (x : Helm) : (setHelm s h x).units = s.units := rfl
@[simp] theorem setHelm_cnts (s : State) (h : Nat) (x : Helm) : (setHelm s h x).cnts = s.cnts := rfl
@[simp] theorem setHelm_opmem (s : State) (h : Nat) (x : Helm) : (setHelm s h x).opmem = s.opmem := rfl
@[simp] theorem setHelm_hl (s : State) (h : Nat) (x : Helm) : (setHelm s h x).hl = s.hl := rfl
@[simp] theorem setHelm_fns (s : State) (h : Nat) (x : Helm) : (setHelm s h x).fns = s.fns := rfl
@[simp] theorem setHelm_dlFilter (s : State) (h : Nat) (x : Helm) : (setHelm s h x).dlFilter = s.dlFilter := rfl
@[simp] theorem setHelm_py (s : State) (h : Nat) (x : Helm) : (setHelm s h x).py = s.py := rfl
@[simp] theorem setHelm_ports (s : State) (h : Nat) (x : Helm) : (setHelm s h x).ports = s.ports := rfl
@[simp] theorem setHelm_lane0 (s : State) (h : Nat) (x : Helm) : (setHelm s h x).lane0 = s.lane0 := rfl
@[simp] theorem setHelm_lane1 (s : State) (h : Nat) (x : Helm) : (setHelm s h x).lane1 = s.lane1 := rfl
@[simp] theorem setHelm_flrPend (s : State) (h : Nat) (x : Helm) : (setHelm s h x).flrPend = s.flrPend := rfl
@[simp] theorem setHelm_fdn (s : State) (h : Nat) (x : Helm) : (setHelm s h x).fdn = s.fdn := rfl
@[simp] theorem setHelm_tpq (s : State) (h : Nat) (x : Helm) : (setHelm s h x).tpq = s.tpq := rfl
@[simp] theorem setHelm_fpPerr (s : State) (h : Nat) (x : Helm) : (setHelm s h x).fpPerr = s.fpPerr := rfl
@[simp] theorem setHelm_tp0 (s : State) (h : Nat) (x : Helm) : (setHelm s h x).tp0 = s.tp0 := rfl
@[simp] theorem setHelm_tp1 (s : State) (h : Nat) (x : Helm) : (setHelm s h x).tp1 = s.tp1 := rfl
@[simp] theorem setHelm_dbg (s : State) (h : Nat) (x : Helm) : (setHelm s h x).dbg = s.dbg := rfl
@[simp] theorem setHelm_dbgIn (s : State) (h : Nat) (x : Helm) : (setHelm s h x).dbgIn = s.dbgIn := rfl
@[simp] theorem setHelm_ready (s : State) (h : Nat) (x : Helm) : (setHelm s h x).ready = s.ready := rfl
@[simp] theorem setHelm_cap (s : State) (h : Nat) (x : Helm) : (setHelm s h x).cap = s.cap := rfl
@[simp] theorem setHelm_hold (s : State) (h : Nat) (x : Helm) : (setHelm s h x).hold = s.hold := rfl
@[simp] theorem setHelm_scanMode (s : State) (h : Nat) (x : Helm) : (setHelm s h x).scanMode = s.scanMode := rfl
@[simp] theorem setHelm_free (s : State) (h : Nat) (x : Helm) : (setHelm s h x).free = s.free := rfl
@[simp] theorem setHelm_nextId (s : State) (h : Nat) (x : Helm) : (setHelm s h x).nextId = s.nextId := rfl
@[simp] theorem setHelm_pending (s : State) (h : Nat) (x : Helm) : (setHelm s h x).pending = s.pending := rfl

/-! ## count changes cnts -/

@[simp] theorem count_clk (s : State) (u : Nat) (f : Counts → Counts) : (count s u f).clk = s.clk := rfl
@[simp] theorem count_pw (s : State) (u : Nat) (f : Counts → Counts) : (count s u f).pw = s.pw := rfl
@[simp] theorem count_bn (s : State) (u : Nat) (f : Counts → Counts) : (count s u f).bn = s.bn := rfl
@[simp] theorem count_lb (s : State) (u : Nat) (f : Counts → Counts) : (count s u f).lb = s.lb := rfl
@[simp] theorem count_sd (s : State) (u : Nat) (f : Counts → Counts) : (count s u f).sd = s.sd := rfl
@[simp] theorem count_fuses (s : State) (u : Nat) (f : Counts → Counts) : (count s u f).fuses = s.fuses := rfl
@[simp] theorem count_lc (s : State) (u : Nat) (f : Counts → Counts) : (count s u f).lc = s.lc := rfl
@[simp] theorem count_ac (s : State) (u : Nat) (f : Counts → Counts) : (count s u f).ac = s.ac := rfl
@[simp] theorem count_ch (s : State) (u : Nat) (f : Counts → Counts) : (count s u f).ch = s.ch := rfl
@[simp] theorem count_chart (s : State) (u : Nat) (f : Counts → Counts) : (count s u f).chart = s.chart := rfl
@[simp] theorem count_tx (s : State) (u : Nat) (f : Counts → Counts) : (count s u f).tx = s.tx := rfl
@[simp] theorem count_rings (s : State) (u : Nat) (f : Counts → Counts) : (count s u f).rings = s.rings := rfl
@[simp] theorem count_cqs (s : State) (u : Nat) (f : Counts → Counts) : (count s u f).cqs = s.cqs := rfl
@[simp] theorem count_nv (s : State) (u : Nat) (f : Counts → Counts) : (count s u f).nv = s.nv := rfl
@[simp] theorem count_chains (s : State) (u : Nat) (f : Counts → Counts) : (count s u f).chains = s.chains := rfl
@[simp] theorem count_pools (s : State) (u : Nat) (f : Counts → Counts) : (count s u f).pools = s.pools := rfl
@[simp] theorem count_ad (s : State) (u : Nat) (f : Counts → Counts) : (count s u f).ad = s.ad := rfl
@[simp] theorem count_iq (s : State) (u : Nat) (f : Counts → Counts) : (count s u f).iq = s.iq := rfl
@[simp] theorem count_sc (s : State) (u : Nat) (f : Counts → Counts) : (count s u f).sc = s.sc := rfl
@[simp] theorem count_kv (s : State) (u : Nat) (f : Counts → Counts) : (count s u f).kv = s.kv := rfl
@[simp] theorem count_units (s : State) (u : Nat) (f : Counts → Counts) : (count s u f).units = s.units := rfl
@[simp] theorem count_opmem (s : State) (u : Nat) (f : Counts → Counts) : (count s u f).opmem = s.opmem := rfl
@[simp] theorem count_helms (s : State) (u : Nat) (f : Counts → Counts) : (count s u f).helms = s.helms := rfl
@[simp] theorem count_hl (s : State) (u : Nat) (f : Counts → Counts) : (count s u f).hl = s.hl := rfl
@[simp] theorem count_fns (s : State) (u : Nat) (f : Counts → Counts) : (count s u f).fns = s.fns := rfl
@[simp] theorem count_dlFilter (s : State) (u : Nat) (f : Counts → Counts) : (count s u f).dlFilter = s.dlFilter := rfl
@[simp] theorem count_py (s : State) (u : Nat) (f : Counts → Counts) : (count s u f).py = s.py := rfl
@[simp] theorem count_ports (s : State) (u : Nat) (f : Counts → Counts) : (count s u f).ports = s.ports := rfl
@[simp] theorem count_lane0 (s : State) (u : Nat) (f : Counts → Counts) : (count s u f).lane0 = s.lane0 := rfl
@[simp] theorem count_lane1 (s : State) (u : Nat) (f : Counts → Counts) : (count s u f).lane1 = s.lane1 := rfl
@[simp] theorem count_flrPend (s : State) (u : Nat) (f : Counts → Counts) : (count s u f).flrPend = s.flrPend := rfl
@[simp] theorem count_fdn (s : State) (u : Nat) (f : Counts → Counts) : (count s u f).fdn = s.fdn := rfl
@[simp] theorem count_tpq (s : State) (u : Nat) (f : Counts → Counts) : (count s u f).tpq = s.tpq := rfl
@[simp] theorem count_fpPerr (s : State) (u : Nat) (f : Counts → Counts) : (count s u f).fpPerr = s.fpPerr := rfl
@[simp] theorem count_tp0 (s : State) (u : Nat) (f : Counts → Counts) : (count s u f).tp0 = s.tp0 := rfl
@[simp] theorem count_tp1 (s : State) (u : Nat) (f : Counts → Counts) : (count s u f).tp1 = s.tp1 := rfl
@[simp] theorem count_dbg (s : State) (u : Nat) (f : Counts → Counts) : (count s u f).dbg = s.dbg := rfl
@[simp] theorem count_dbgIn (s : State) (u : Nat) (f : Counts → Counts) : (count s u f).dbgIn = s.dbgIn := rfl
@[simp] theorem count_ready (s : State) (u : Nat) (f : Counts → Counts) : (count s u f).ready = s.ready := rfl
@[simp] theorem count_cap (s : State) (u : Nat) (f : Counts → Counts) : (count s u f).cap = s.cap := rfl
@[simp] theorem count_hold (s : State) (u : Nat) (f : Counts → Counts) : (count s u f).hold = s.hold := rfl
@[simp] theorem count_scanMode (s : State) (u : Nat) (f : Counts → Counts) : (count s u f).scanMode = s.scanMode := rfl
@[simp] theorem count_free (s : State) (u : Nat) (f : Counts → Counts) : (count s u f).free = s.free := rfl
@[simp] theorem count_nextId (s : State) (u : Nat) (f : Counts → Counts) : (count s u f).nextId = s.nextId := rfl
@[simp] theorem count_pending (s : State) (u : Nat) (f : Counts → Counts) : (count s u f).pending = s.pending := rfl

/-! ## setFn changes fns -/

@[simp] theorem setFn_clk (s : State) (f : Nat) (x : Fn) : (setFn s f x).clk = s.clk := rfl
@[simp] theorem setFn_pw (s : State) (f : Nat) (x : Fn) : (setFn s f x).pw = s.pw := rfl
@[simp] theorem setFn_bn (s : State) (f : Nat) (x : Fn) : (setFn s f x).bn = s.bn := rfl
@[simp] theorem setFn_lb (s : State) (f : Nat) (x : Fn) : (setFn s f x).lb = s.lb := rfl
@[simp] theorem setFn_sd (s : State) (f : Nat) (x : Fn) : (setFn s f x).sd = s.sd := rfl
@[simp] theorem setFn_fuses (s : State) (f : Nat) (x : Fn) : (setFn s f x).fuses = s.fuses := rfl
@[simp] theorem setFn_lc (s : State) (f : Nat) (x : Fn) : (setFn s f x).lc = s.lc := rfl
@[simp] theorem setFn_ac (s : State) (f : Nat) (x : Fn) : (setFn s f x).ac = s.ac := rfl
@[simp] theorem setFn_ch (s : State) (f : Nat) (x : Fn) : (setFn s f x).ch = s.ch := rfl
@[simp] theorem setFn_chart (s : State) (f : Nat) (x : Fn) : (setFn s f x).chart = s.chart := rfl
@[simp] theorem setFn_tx (s : State) (f : Nat) (x : Fn) : (setFn s f x).tx = s.tx := rfl
@[simp] theorem setFn_rings (s : State) (f : Nat) (x : Fn) : (setFn s f x).rings = s.rings := rfl
@[simp] theorem setFn_cqs (s : State) (f : Nat) (x : Fn) : (setFn s f x).cqs = s.cqs := rfl
@[simp] theorem setFn_nv (s : State) (f : Nat) (x : Fn) : (setFn s f x).nv = s.nv := rfl
@[simp] theorem setFn_chains (s : State) (f : Nat) (x : Fn) : (setFn s f x).chains = s.chains := rfl
@[simp] theorem setFn_pools (s : State) (f : Nat) (x : Fn) : (setFn s f x).pools = s.pools := rfl
@[simp] theorem setFn_ad (s : State) (f : Nat) (x : Fn) : (setFn s f x).ad = s.ad := rfl
@[simp] theorem setFn_iq (s : State) (f : Nat) (x : Fn) : (setFn s f x).iq = s.iq := rfl
@[simp] theorem setFn_sc (s : State) (f : Nat) (x : Fn) : (setFn s f x).sc = s.sc := rfl
@[simp] theorem setFn_kv (s : State) (f : Nat) (x : Fn) : (setFn s f x).kv = s.kv := rfl
@[simp] theorem setFn_units (s : State) (f : Nat) (x : Fn) : (setFn s f x).units = s.units := rfl
@[simp] theorem setFn_cnts (s : State) (f : Nat) (x : Fn) : (setFn s f x).cnts = s.cnts := rfl
@[simp] theorem setFn_opmem (s : State) (f : Nat) (x : Fn) : (setFn s f x).opmem = s.opmem := rfl
@[simp] theorem setFn_helms (s : State) (f : Nat) (x : Fn) : (setFn s f x).helms = s.helms := rfl
@[simp] theorem setFn_hl (s : State) (f : Nat) (x : Fn) : (setFn s f x).hl = s.hl := rfl
@[simp] theorem setFn_dlFilter (s : State) (f : Nat) (x : Fn) : (setFn s f x).dlFilter = s.dlFilter := rfl
@[simp] theorem setFn_py (s : State) (f : Nat) (x : Fn) : (setFn s f x).py = s.py := rfl
@[simp] theorem setFn_ports (s : State) (f : Nat) (x : Fn) : (setFn s f x).ports = s.ports := rfl
@[simp] theorem setFn_lane0 (s : State) (f : Nat) (x : Fn) : (setFn s f x).lane0 = s.lane0 := rfl
@[simp] theorem setFn_lane1 (s : State) (f : Nat) (x : Fn) : (setFn s f x).lane1 = s.lane1 := rfl
@[simp] theorem setFn_flrPend (s : State) (f : Nat) (x : Fn) : (setFn s f x).flrPend = s.flrPend := rfl
@[simp] theorem setFn_fdn (s : State) (f : Nat) (x : Fn) : (setFn s f x).fdn = s.fdn := rfl
@[simp] theorem setFn_tpq (s : State) (f : Nat) (x : Fn) : (setFn s f x).tpq = s.tpq := rfl
@[simp] theorem setFn_fpPerr (s : State) (f : Nat) (x : Fn) : (setFn s f x).fpPerr = s.fpPerr := rfl
@[simp] theorem setFn_tp0 (s : State) (f : Nat) (x : Fn) : (setFn s f x).tp0 = s.tp0 := rfl
@[simp] theorem setFn_tp1 (s : State) (f : Nat) (x : Fn) : (setFn s f x).tp1 = s.tp1 := rfl
@[simp] theorem setFn_dbg (s : State) (f : Nat) (x : Fn) : (setFn s f x).dbg = s.dbg := rfl
@[simp] theorem setFn_dbgIn (s : State) (f : Nat) (x : Fn) : (setFn s f x).dbgIn = s.dbgIn := rfl
@[simp] theorem setFn_ready (s : State) (f : Nat) (x : Fn) : (setFn s f x).ready = s.ready := rfl
@[simp] theorem setFn_cap (s : State) (f : Nat) (x : Fn) : (setFn s f x).cap = s.cap := rfl
@[simp] theorem setFn_hold (s : State) (f : Nat) (x : Fn) : (setFn s f x).hold = s.hold := rfl
@[simp] theorem setFn_scanMode (s : State) (f : Nat) (x : Fn) : (setFn s f x).scanMode = s.scanMode := rfl
@[simp] theorem setFn_free (s : State) (f : Nat) (x : Fn) : (setFn s f x).free = s.free := rfl
@[simp] theorem setFn_nextId (s : State) (f : Nat) (x : Fn) : (setFn s f x).nextId = s.nextId := rfl
@[simp] theorem setFn_pending (s : State) (f : Nat) (x : Fn) : (setFn s f x).pending = s.pending := rfl

/-! ## setChain changes chains -/

@[simp] theorem setChain_clk (s : State) (c : Chain) : (setChain s c).clk = s.clk := rfl
@[simp] theorem setChain_pw (s : State) (c : Chain) : (setChain s c).pw = s.pw := rfl
@[simp] theorem setChain_bn (s : State) (c : Chain) : (setChain s c).bn = s.bn := rfl
@[simp] theorem setChain_lb (s : State) (c : Chain) : (setChain s c).lb = s.lb := rfl
@[simp] theorem setChain_sd (s : State) (c : Chain) : (setChain s c).sd = s.sd := rfl
@[simp] theorem setChain_fuses (s : State) (c : Chain) : (setChain s c).fuses = s.fuses := rfl
@[simp] theorem setChain_lc (s : State) (c : Chain) : (setChain s c).lc = s.lc := rfl
@[simp] theorem setChain_ac (s : State) (c : Chain) : (setChain s c).ac = s.ac := rfl
@[simp] theorem setChain_ch (s : State) (c : Chain) : (setChain s c).ch = s.ch := rfl
@[simp] theorem setChain_chart (s : State) (c : Chain) : (setChain s c).chart = s.chart := rfl
@[simp] theorem setChain_tx (s : State) (c : Chain) : (setChain s c).tx = s.tx := rfl
@[simp] theorem setChain_rings (s : State) (c : Chain) : (setChain s c).rings = s.rings := rfl
@[simp] theorem setChain_cqs (s : State) (c : Chain) : (setChain s c).cqs = s.cqs := rfl
@[simp] theorem setChain_nv (s : State) (c : Chain) : (setChain s c).nv = s.nv := rfl
@[simp] theorem setChain_pools (s : State) (c : Chain) : (setChain s c).pools = s.pools := rfl
@[simp] theorem setChain_ad (s : State) (c : Chain) : (setChain s c).ad = s.ad := rfl
@[simp] theorem setChain_iq (s : State) (c : Chain) : (setChain s c).iq = s.iq := rfl
@[simp] theorem setChain_sc (s : State) (c : Chain) : (setChain s c).sc = s.sc := rfl
@[simp] theorem setChain_kv (s : State) (c : Chain) : (setChain s c).kv = s.kv := rfl
@[simp] theorem setChain_units (s : State) (c : Chain) : (setChain s c).units = s.units := rfl
@[simp] theorem setChain_cnts (s : State) (c : Chain) : (setChain s c).cnts = s.cnts := rfl
@[simp] theorem setChain_opmem (s : State) (c : Chain) : (setChain s c).opmem = s.opmem := rfl
@[simp] theorem setChain_helms (s : State) (c : Chain) : (setChain s c).helms = s.helms := rfl
@[simp] theorem setChain_hl (s : State) (c : Chain) : (setChain s c).hl = s.hl := rfl
@[simp] theorem setChain_fns (s : State) (c : Chain) : (setChain s c).fns = s.fns := rfl
@[simp] theorem setChain_dlFilter (s : State) (c : Chain) : (setChain s c).dlFilter = s.dlFilter := rfl
@[simp] theorem setChain_py (s : State) (c : Chain) : (setChain s c).py = s.py := rfl
@[simp] theorem setChain_ports (s : State) (c : Chain) : (setChain s c).ports = s.ports := rfl
@[simp] theorem setChain_lane0 (s : State) (c : Chain) : (setChain s c).lane0 = s.lane0 := rfl
@[simp] theorem setChain_lane1 (s : State) (c : Chain) : (setChain s c).lane1 = s.lane1 := rfl
@[simp] theorem setChain_flrPend (s : State) (c : Chain) : (setChain s c).flrPend = s.flrPend := rfl
@[simp] theorem setChain_fdn (s : State) (c : Chain) : (setChain s c).fdn = s.fdn := rfl
@[simp] theorem setChain_tpq (s : State) (c : Chain) : (setChain s c).tpq = s.tpq := rfl
@[simp] theorem setChain_fpPerr (s : State) (c : Chain) : (setChain s c).fpPerr = s.fpPerr := rfl
@[simp] theorem setChain_tp0 (s : State) (c : Chain) : (setChain s c).tp0 = s.tp0 := rfl
@[simp] theorem setChain_tp1 (s : State) (c : Chain) : (setChain s c).tp1 = s.tp1 := rfl
@[simp] theorem setChain_dbg (s : State) (c : Chain) : (setChain s c).dbg = s.dbg := rfl
@[simp] theorem setChain_dbgIn (s : State) (c : Chain) : (setChain s c).dbgIn = s.dbgIn := rfl
@[simp] theorem setChain_ready (s : State) (c : Chain) : (setChain s c).ready = s.ready := rfl
@[simp] theorem setChain_cap (s : State) (c : Chain) : (setChain s c).cap = s.cap := rfl
@[simp] theorem setChain_hold (s : State) (c : Chain) : (setChain s c).hold = s.hold := rfl
@[simp] theorem setChain_scanMode (s : State) (c : Chain) : (setChain s c).scanMode = s.scanMode := rfl
@[simp] theorem setChain_free (s : State) (c : Chain) : (setChain s c).free = s.free := rfl
@[simp] theorem setChain_nextId (s : State) (c : Chain) : (setChain s c).nextId = s.nextId := rfl
@[simp] theorem setChain_pending (s : State) (c : Chain) : (setChain s c).pending = s.pending := rfl

/-! ## setPort changes ports -/

@[simp] theorem setPort_clk (s : State) (n : Nat) (p : Port) : (setPort s n p).clk = s.clk := rfl
@[simp] theorem setPort_pw (s : State) (n : Nat) (p : Port) : (setPort s n p).pw = s.pw := rfl
@[simp] theorem setPort_bn (s : State) (n : Nat) (p : Port) : (setPort s n p).bn = s.bn := rfl
@[simp] theorem setPort_lb (s : State) (n : Nat) (p : Port) : (setPort s n p).lb = s.lb := rfl
@[simp] theorem setPort_sd (s : State) (n : Nat) (p : Port) : (setPort s n p).sd = s.sd := rfl
@[simp] theorem setPort_fuses (s : State) (n : Nat) (p : Port) : (setPort s n p).fuses = s.fuses := rfl
@[simp] theorem setPort_lc (s : State) (n : Nat) (p : Port) : (setPort s n p).lc = s.lc := rfl
@[simp] theorem setPort_ac (s : State) (n : Nat) (p : Port) : (setPort s n p).ac = s.ac := rfl
@[simp] theorem setPort_ch (s : State) (n : Nat) (p : Port) : (setPort s n p).ch = s.ch := rfl
@[simp] theorem setPort_chart (s : State) (n : Nat) (p : Port) : (setPort s n p).chart = s.chart := rfl
@[simp] theorem setPort_tx (s : State) (n : Nat) (p : Port) : (setPort s n p).tx = s.tx := rfl
@[simp] theorem setPort_rings (s : State) (n : Nat) (p : Port) : (setPort s n p).rings = s.rings := rfl
@[simp] theorem setPort_cqs (s : State) (n : Nat) (p : Port) : (setPort s n p).cqs = s.cqs := rfl
@[simp] theorem setPort_nv (s : State) (n : Nat) (p : Port) : (setPort s n p).nv = s.nv := rfl
@[simp] theorem setPort_chains (s : State) (n : Nat) (p : Port) : (setPort s n p).chains = s.chains := rfl
@[simp] theorem setPort_pools (s : State) (n : Nat) (p : Port) : (setPort s n p).pools = s.pools := rfl
@[simp] theorem setPort_ad (s : State) (n : Nat) (p : Port) : (setPort s n p).ad = s.ad := rfl
@[simp] theorem setPort_iq (s : State) (n : Nat) (p : Port) : (setPort s n p).iq = s.iq := rfl
@[simp] theorem setPort_sc (s : State) (n : Nat) (p : Port) : (setPort s n p).sc = s.sc := rfl
@[simp] theorem setPort_kv (s : State) (n : Nat) (p : Port) : (setPort s n p).kv = s.kv := rfl
@[simp] theorem setPort_units (s : State) (n : Nat) (p : Port) : (setPort s n p).units = s.units := rfl
@[simp] theorem setPort_cnts (s : State) (n : Nat) (p : Port) : (setPort s n p).cnts = s.cnts := rfl
@[simp] theorem setPort_opmem (s : State) (n : Nat) (p : Port) : (setPort s n p).opmem = s.opmem := rfl
@[simp] theorem setPort_helms (s : State) (n : Nat) (p : Port) : (setPort s n p).helms = s.helms := rfl
@[simp] theorem setPort_hl (s : State) (n : Nat) (p : Port) : (setPort s n p).hl = s.hl := rfl
@[simp] theorem setPort_fns (s : State) (n : Nat) (p : Port) : (setPort s n p).fns = s.fns := rfl
@[simp] theorem setPort_dlFilter (s : State) (n : Nat) (p : Port) : (setPort s n p).dlFilter = s.dlFilter := rfl
@[simp] theorem setPort_py (s : State) (n : Nat) (p : Port) : (setPort s n p).py = s.py := rfl
@[simp] theorem setPort_lane0 (s : State) (n : Nat) (p : Port) : (setPort s n p).lane0 = s.lane0 := rfl
@[simp] theorem setPort_lane1 (s : State) (n : Nat) (p : Port) : (setPort s n p).lane1 = s.lane1 := rfl
@[simp] theorem setPort_flrPend (s : State) (n : Nat) (p : Port) : (setPort s n p).flrPend = s.flrPend := rfl
@[simp] theorem setPort_fdn (s : State) (n : Nat) (p : Port) : (setPort s n p).fdn = s.fdn := rfl
@[simp] theorem setPort_tpq (s : State) (n : Nat) (p : Port) : (setPort s n p).tpq = s.tpq := rfl
@[simp] theorem setPort_fpPerr (s : State) (n : Nat) (p : Port) : (setPort s n p).fpPerr = s.fpPerr := rfl
@[simp] theorem setPort_tp0 (s : State) (n : Nat) (p : Port) : (setPort s n p).tp0 = s.tp0 := rfl
@[simp] theorem setPort_tp1 (s : State) (n : Nat) (p : Port) : (setPort s n p).tp1 = s.tp1 := rfl
@[simp] theorem setPort_dbg (s : State) (n : Nat) (p : Port) : (setPort s n p).dbg = s.dbg := rfl
@[simp] theorem setPort_dbgIn (s : State) (n : Nat) (p : Port) : (setPort s n p).dbgIn = s.dbgIn := rfl
@[simp] theorem setPort_ready (s : State) (n : Nat) (p : Port) : (setPort s n p).ready = s.ready := rfl
@[simp] theorem setPort_cap (s : State) (n : Nat) (p : Port) : (setPort s n p).cap = s.cap := rfl
@[simp] theorem setPort_hold (s : State) (n : Nat) (p : Port) : (setPort s n p).hold = s.hold := rfl
@[simp] theorem setPort_scanMode (s : State) (n : Nat) (p : Port) : (setPort s n p).scanMode = s.scanMode := rfl
@[simp] theorem setPort_free (s : State) (n : Nat) (p : Port) : (setPort s n p).free = s.free := rfl
@[simp] theorem setPort_nextId (s : State) (n : Nat) (p : Port) : (setPort s n p).nextId = s.nextId := rfl
@[simp] theorem setPort_pending (s : State) (n : Nat) (p : Port) : (setPort s n p).pending = s.pending := rfl

/-! ## setSlot changes kv -/

@[simp] theorem setSlot_clk (s : State) (i : Nat) (x : Slot) : (setSlot s i x).clk = s.clk := rfl
@[simp] theorem setSlot_pw (s : State) (i : Nat) (x : Slot) : (setSlot s i x).pw = s.pw := rfl
@[simp] theorem setSlot_bn (s : State) (i : Nat) (x : Slot) : (setSlot s i x).bn = s.bn := rfl
@[simp] theorem setSlot_lb (s : State) (i : Nat) (x : Slot) : (setSlot s i x).lb = s.lb := rfl
@[simp] theorem setSlot_sd (s : State) (i : Nat) (x : Slot) : (setSlot s i x).sd = s.sd := rfl
@[simp] theorem setSlot_fuses (s : State) (i : Nat) (x : Slot) : (setSlot s i x).fuses = s.fuses := rfl
@[simp] theorem setSlot_lc (s : State) (i : Nat) (x : Slot) : (setSlot s i x).lc = s.lc := rfl
@[simp] theorem setSlot_ac (s : State) (i : Nat) (x : Slot) : (setSlot s i x).ac = s.ac := rfl
@[simp] theorem setSlot_ch (s : State) (i : Nat) (x : Slot) : (setSlot s i x).ch = s.ch := rfl
@[simp] theorem setSlot_chart (s : State) (i : Nat) (x : Slot) : (setSlot s i x).chart = s.chart := rfl
@[simp] theorem setSlot_tx (s : State) (i : Nat) (x : Slot) : (setSlot s i x).tx = s.tx := rfl
@[simp] theorem setSlot_rings (s : State) (i : Nat) (x : Slot) : (setSlot s i x).rings = s.rings := rfl
@[simp] theorem setSlot_cqs (s : State) (i : Nat) (x : Slot) : (setSlot s i x).cqs = s.cqs := rfl
@[simp] theorem setSlot_nv (s : State) (i : Nat) (x : Slot) : (setSlot s i x).nv = s.nv := rfl
@[simp] theorem setSlot_chains (s : State) (i : Nat) (x : Slot) : (setSlot s i x).chains = s.chains := rfl
@[simp] theorem setSlot_pools (s : State) (i : Nat) (x : Slot) : (setSlot s i x).pools = s.pools := rfl
@[simp] theorem setSlot_ad (s : State) (i : Nat) (x : Slot) : (setSlot s i x).ad = s.ad := rfl
@[simp] theorem setSlot_iq (s : State) (i : Nat) (x : Slot) : (setSlot s i x).iq = s.iq := rfl
@[simp] theorem setSlot_sc (s : State) (i : Nat) (x : Slot) : (setSlot s i x).sc = s.sc := rfl
@[simp] theorem setSlot_units (s : State) (i : Nat) (x : Slot) : (setSlot s i x).units = s.units := rfl
@[simp] theorem setSlot_cnts (s : State) (i : Nat) (x : Slot) : (setSlot s i x).cnts = s.cnts := rfl
@[simp] theorem setSlot_opmem (s : State) (i : Nat) (x : Slot) : (setSlot s i x).opmem = s.opmem := rfl
@[simp] theorem setSlot_helms (s : State) (i : Nat) (x : Slot) : (setSlot s i x).helms = s.helms := rfl
@[simp] theorem setSlot_hl (s : State) (i : Nat) (x : Slot) : (setSlot s i x).hl = s.hl := rfl
@[simp] theorem setSlot_fns (s : State) (i : Nat) (x : Slot) : (setSlot s i x).fns = s.fns := rfl
@[simp] theorem setSlot_dlFilter (s : State) (i : Nat) (x : Slot) : (setSlot s i x).dlFilter = s.dlFilter := rfl
@[simp] theorem setSlot_py (s : State) (i : Nat) (x : Slot) : (setSlot s i x).py = s.py := rfl
@[simp] theorem setSlot_ports (s : State) (i : Nat) (x : Slot) : (setSlot s i x).ports = s.ports := rfl
@[simp] theorem setSlot_lane0 (s : State) (i : Nat) (x : Slot) : (setSlot s i x).lane0 = s.lane0 := rfl
@[simp] theorem setSlot_lane1 (s : State) (i : Nat) (x : Slot) : (setSlot s i x).lane1 = s.lane1 := rfl
@[simp] theorem setSlot_flrPend (s : State) (i : Nat) (x : Slot) : (setSlot s i x).flrPend = s.flrPend := rfl
@[simp] theorem setSlot_fdn (s : State) (i : Nat) (x : Slot) : (setSlot s i x).fdn = s.fdn := rfl
@[simp] theorem setSlot_tpq (s : State) (i : Nat) (x : Slot) : (setSlot s i x).tpq = s.tpq := rfl
@[simp] theorem setSlot_fpPerr (s : State) (i : Nat) (x : Slot) : (setSlot s i x).fpPerr = s.fpPerr := rfl
@[simp] theorem setSlot_tp0 (s : State) (i : Nat) (x : Slot) : (setSlot s i x).tp0 = s.tp0 := rfl
@[simp] theorem setSlot_tp1 (s : State) (i : Nat) (x : Slot) : (setSlot s i x).tp1 = s.tp1 := rfl
@[simp] theorem setSlot_dbg (s : State) (i : Nat) (x : Slot) : (setSlot s i x).dbg = s.dbg := rfl
@[simp] theorem setSlot_dbgIn (s : State) (i : Nat) (x : Slot) : (setSlot s i x).dbgIn = s.dbgIn := rfl
@[simp] theorem setSlot_ready (s : State) (i : Nat) (x : Slot) : (setSlot s i x).ready = s.ready := rfl
@[simp] theorem setSlot_cap (s : State) (i : Nat) (x : Slot) : (setSlot s i x).cap = s.cap := rfl
@[simp] theorem setSlot_hold (s : State) (i : Nat) (x : Slot) : (setSlot s i x).hold = s.hold := rfl
@[simp] theorem setSlot_scanMode (s : State) (i : Nat) (x : Slot) : (setSlot s i x).scanMode = s.scanMode := rfl
@[simp] theorem setSlot_free (s : State) (i : Nat) (x : Slot) : (setSlot s i x).free = s.free := rfl
@[simp] theorem setSlot_nextId (s : State) (i : Nat) (x : Slot) : (setSlot s i x).nextId = s.nextId := rfl
@[simp] theorem setSlot_pending (s : State) (i : Nat) (x : Slot) : (setSlot s i x).pending = s.pending := rfl

/-! ## tickFree changes free -/

@[simp] theorem tickFree_clk (s : State) (n : Nat) : (tickFree s n).clk = s.clk := rfl
@[simp] theorem tickFree_pw (s : State) (n : Nat) : (tickFree s n).pw = s.pw := rfl
@[simp] theorem tickFree_bn (s : State) (n : Nat) : (tickFree s n).bn = s.bn := rfl
@[simp] theorem tickFree_lb (s : State) (n : Nat) : (tickFree s n).lb = s.lb := rfl
@[simp] theorem tickFree_sd (s : State) (n : Nat) : (tickFree s n).sd = s.sd := rfl
@[simp] theorem tickFree_fuses (s : State) (n : Nat) : (tickFree s n).fuses = s.fuses := rfl
@[simp] theorem tickFree_lc (s : State) (n : Nat) : (tickFree s n).lc = s.lc := rfl
@[simp] theorem tickFree_ac (s : State) (n : Nat) : (tickFree s n).ac = s.ac := rfl
@[simp] theorem tickFree_ch (s : State) (n : Nat) : (tickFree s n).ch = s.ch := rfl
@[simp] theorem tickFree_chart (s : State) (n : Nat) : (tickFree s n).chart = s.chart := rfl
@[simp] theorem tickFree_tx (s : State) (n : Nat) : (tickFree s n).tx = s.tx := rfl
@[simp] theorem tickFree_rings (s : State) (n : Nat) : (tickFree s n).rings = s.rings := rfl
@[simp] theorem tickFree_cqs (s : State) (n : Nat) : (tickFree s n).cqs = s.cqs := rfl
@[simp] theorem tickFree_nv (s : State) (n : Nat) : (tickFree s n).nv = s.nv := rfl
@[simp] theorem tickFree_chains (s : State) (n : Nat) : (tickFree s n).chains = s.chains := rfl
@[simp] theorem tickFree_pools (s : State) (n : Nat) : (tickFree s n).pools = s.pools := rfl
@[simp] theorem tickFree_ad (s : State) (n : Nat) : (tickFree s n).ad = s.ad := rfl
@[simp] theorem tickFree_iq (s : State) (n : Nat) : (tickFree s n).iq = s.iq := rfl
@[simp] theorem tickFree_sc (s : State) (n : Nat) : (tickFree s n).sc = s.sc := rfl
@[simp] theorem tickFree_kv (s : State) (n : Nat) : (tickFree s n).kv = s.kv := rfl
@[simp] theorem tickFree_units (s : State) (n : Nat) : (tickFree s n).units = s.units := rfl
@[simp] theorem tickFree_cnts (s : State) (n : Nat) : (tickFree s n).cnts = s.cnts := rfl
@[simp] theorem tickFree_opmem (s : State) (n : Nat) : (tickFree s n).opmem = s.opmem := rfl
@[simp] theorem tickFree_helms (s : State) (n : Nat) : (tickFree s n).helms = s.helms := rfl
@[simp] theorem tickFree_hl (s : State) (n : Nat) : (tickFree s n).hl = s.hl := rfl
@[simp] theorem tickFree_fns (s : State) (n : Nat) : (tickFree s n).fns = s.fns := rfl
@[simp] theorem tickFree_dlFilter (s : State) (n : Nat) : (tickFree s n).dlFilter = s.dlFilter := rfl
@[simp] theorem tickFree_py (s : State) (n : Nat) : (tickFree s n).py = s.py := rfl
@[simp] theorem tickFree_ports (s : State) (n : Nat) : (tickFree s n).ports = s.ports := rfl
@[simp] theorem tickFree_lane0 (s : State) (n : Nat) : (tickFree s n).lane0 = s.lane0 := rfl
@[simp] theorem tickFree_lane1 (s : State) (n : Nat) : (tickFree s n).lane1 = s.lane1 := rfl
@[simp] theorem tickFree_flrPend (s : State) (n : Nat) : (tickFree s n).flrPend = s.flrPend := rfl
@[simp] theorem tickFree_fdn (s : State) (n : Nat) : (tickFree s n).fdn = s.fdn := rfl
@[simp] theorem tickFree_tpq (s : State) (n : Nat) : (tickFree s n).tpq = s.tpq := rfl
@[simp] theorem tickFree_fpPerr (s : State) (n : Nat) : (tickFree s n).fpPerr = s.fpPerr := rfl
@[simp] theorem tickFree_tp0 (s : State) (n : Nat) : (tickFree s n).tp0 = s.tp0 := rfl
@[simp] theorem tickFree_tp1 (s : State) (n : Nat) : (tickFree s n).tp1 = s.tp1 := rfl
@[simp] theorem tickFree_dbg (s : State) (n : Nat) : (tickFree s n).dbg = s.dbg := rfl
@[simp] theorem tickFree_dbgIn (s : State) (n : Nat) : (tickFree s n).dbgIn = s.dbgIn := rfl
@[simp] theorem tickFree_ready (s : State) (n : Nat) : (tickFree s n).ready = s.ready := rfl
@[simp] theorem tickFree_cap (s : State) (n : Nat) : (tickFree s n).cap = s.cap := rfl
@[simp] theorem tickFree_hold (s : State) (n : Nat) : (tickFree s n).hold = s.hold := rfl
@[simp] theorem tickFree_scanMode (s : State) (n : Nat) : (tickFree s n).scanMode = s.scanMode := rfl
@[simp] theorem tickFree_nextId (s : State) (n : Nat) : (tickFree s n).nextId = s.nextId := rfl
@[simp] theorem tickFree_pending (s : State) (n : Nat) : (tickFree s n).pending = s.pending := rfl

/-! ## The answers of a target port -/

@[simp] theorem acked_clk (s : State) (a : Access) : (acked s a).clk = s.clk := by unfold acked; split <;> rfl
@[simp] theorem acked_pw (s : State) (a : Access) : (acked s a).pw = s.pw := by unfold acked; split <;> rfl
@[simp] theorem acked_bn (s : State) (a : Access) : (acked s a).bn = s.bn := by unfold acked; split <;> rfl
@[simp] theorem acked_lb (s : State) (a : Access) : (acked s a).lb = s.lb := by unfold acked; split <;> rfl
@[simp] theorem acked_sd (s : State) (a : Access) : (acked s a).sd = s.sd := by unfold acked; split <;> rfl
@[simp] theorem acked_fuses (s : State) (a : Access) : (acked s a).fuses = s.fuses := by unfold acked; split <;> rfl
@[simp] theorem acked_lc (s : State) (a : Access) : (acked s a).lc = s.lc := by unfold acked; split <;> rfl
@[simp] theorem acked_ac (s : State) (a : Access) : (acked s a).ac = s.ac := by unfold acked; split <;> rfl
@[simp] theorem acked_ch (s : State) (a : Access) : (acked s a).ch = s.ch := by unfold acked; split <;> rfl
@[simp] theorem acked_chart (s : State) (a : Access) : (acked s a).chart = s.chart := by unfold acked; split <;> rfl
@[simp] theorem acked_tx (s : State) (a : Access) : (acked s a).tx = s.tx := by unfold acked; split <;> rfl
@[simp] theorem acked_rings (s : State) (a : Access) : (acked s a).rings = s.rings := by unfold acked; split <;> rfl
@[simp] theorem acked_cqs (s : State) (a : Access) : (acked s a).cqs = s.cqs := by unfold acked; split <;> rfl
@[simp] theorem acked_nv (s : State) (a : Access) : (acked s a).nv = s.nv := by unfold acked; split <;> rfl
@[simp] theorem acked_chains (s : State) (a : Access) : (acked s a).chains = s.chains := by unfold acked; split <;> rfl
@[simp] theorem acked_pools (s : State) (a : Access) : (acked s a).pools = s.pools := by unfold acked; split <;> rfl
@[simp] theorem acked_ad (s : State) (a : Access) : (acked s a).ad = s.ad := by unfold acked; split <;> rfl
@[simp] theorem acked_iq (s : State) (a : Access) : (acked s a).iq = s.iq := by unfold acked; split <;> rfl
@[simp] theorem acked_sc (s : State) (a : Access) : (acked s a).sc = s.sc := by unfold acked; split <;> rfl
@[simp] theorem acked_kv (s : State) (a : Access) : (acked s a).kv = s.kv := by unfold acked; split <;> rfl
@[simp] theorem acked_units (s : State) (a : Access) : (acked s a).units = s.units := by unfold acked; split <;> rfl
@[simp] theorem acked_cnts (s : State) (a : Access) : (acked s a).cnts = s.cnts := by unfold acked; split <;> rfl
@[simp] theorem acked_opmem (s : State) (a : Access) : (acked s a).opmem = s.opmem := by unfold acked; split <;> rfl
@[simp] theorem acked_helms (s : State) (a : Access) : (acked s a).helms = s.helms := by unfold acked; split <;> rfl
@[simp] theorem acked_hl (s : State) (a : Access) : (acked s a).hl = s.hl := by unfold acked; split <;> rfl
@[simp] theorem acked_fns (s : State) (a : Access) : (acked s a).fns = s.fns := by unfold acked; split <;> rfl
@[simp] theorem acked_dlFilter (s : State) (a : Access) : (acked s a).dlFilter = s.dlFilter := by unfold acked; split <;> rfl
@[simp] theorem acked_py (s : State) (a : Access) : (acked s a).py = s.py := by unfold acked; split <;> rfl
@[simp] theorem acked_ports (s : State) (a : Access) : (acked s a).ports = s.ports := by unfold acked; split <;> rfl
@[simp] theorem acked_lane0 (s : State) (a : Access) : (acked s a).lane0 = s.lane0 := by unfold acked; split <;> rfl
@[simp] theorem acked_lane1 (s : State) (a : Access) : (acked s a).lane1 = s.lane1 := by unfold acked; split <;> rfl
@[simp] theorem acked_flrPend (s : State) (a : Access) : (acked s a).flrPend = s.flrPend := by unfold acked; split <;> rfl
@[simp] theorem acked_fdn (s : State) (a : Access) : (acked s a).fdn = s.fdn := by unfold acked; split <;> rfl
@[simp] theorem acked_tpq (s : State) (a : Access) : (acked s a).tpq = s.tpq := by unfold acked; split <;> rfl
@[simp] theorem acked_fpPerr (s : State) (a : Access) : (acked s a).fpPerr = s.fpPerr := by unfold acked; split <;> rfl
@[simp] theorem acked_dbg (s : State) (a : Access) : (acked s a).dbg = s.dbg := by unfold acked; split <;> rfl
@[simp] theorem acked_dbgIn (s : State) (a : Access) : (acked s a).dbgIn = s.dbgIn := by unfold acked; split <;> rfl
@[simp] theorem acked_ready (s : State) (a : Access) : (acked s a).ready = s.ready := by unfold acked; split <;> rfl
@[simp] theorem acked_cap (s : State) (a : Access) : (acked s a).cap = s.cap := by unfold acked; split <;> rfl
@[simp] theorem acked_hold (s : State) (a : Access) : (acked s a).hold = s.hold := by unfold acked; split <;> rfl
@[simp] theorem acked_scanMode (s : State) (a : Access) : (acked s a).scanMode = s.scanMode := by unfold acked; split <;> rfl
@[simp] theorem acked_free (s : State) (a : Access) : (acked s a).free = s.free := by unfold acked; split <;> rfl
@[simp] theorem acked_nextId (s : State) (a : Access) : (acked s a).nextId = s.nextId := by unfold acked; split <;> rfl
@[simp] theorem acked_pending (s : State) (a : Access) : (acked s a).pending = s.pending := by unfold acked; split <;> rfl
@[simp] theorem answered_clk (s : State) (a : Access) (w : Word) : (answered s a w).clk = s.clk := by
  unfold answered; split <;> rfl
@[simp] theorem answered_pw (s : State) (a : Access) (w : Word) : (answered s a w).pw = s.pw := by
  unfold answered; split <;> rfl
@[simp] theorem answered_bn (s : State) (a : Access) (w : Word) : (answered s a w).bn = s.bn := by
  unfold answered; split <;> rfl
@[simp] theorem answered_lb (s : State) (a : Access) (w : Word) : (answered s a w).lb = s.lb := by
  unfold answered; split <;> rfl
@[simp] theorem answered_sd (s : State) (a : Access) (w : Word) : (answered s a w).sd = s.sd := by
  unfold answered; split <;> rfl
@[simp] theorem answered_fuses (s : State) (a : Access) (w : Word) : (answered s a w).fuses = s.fuses := by
  unfold answered; split <;> rfl
@[simp] theorem answered_lc (s : State) (a : Access) (w : Word) : (answered s a w).lc = s.lc := by
  unfold answered; split <;> rfl
@[simp] theorem answered_ac (s : State) (a : Access) (w : Word) : (answered s a w).ac = s.ac := by
  unfold answered; split <;> rfl
@[simp] theorem answered_ch (s : State) (a : Access) (w : Word) : (answered s a w).ch = s.ch := by
  unfold answered; split <;> rfl
@[simp] theorem answered_chart (s : State) (a : Access) (w : Word) : (answered s a w).chart = s.chart := by
  unfold answered; split <;> rfl
@[simp] theorem answered_tx (s : State) (a : Access) (w : Word) : (answered s a w).tx = s.tx := by
  unfold answered; split <;> rfl
@[simp] theorem answered_rings (s : State) (a : Access) (w : Word) : (answered s a w).rings = s.rings := by
  unfold answered; split <;> rfl
@[simp] theorem answered_cqs (s : State) (a : Access) (w : Word) : (answered s a w).cqs = s.cqs := by
  unfold answered; split <;> rfl
@[simp] theorem answered_nv (s : State) (a : Access) (w : Word) : (answered s a w).nv = s.nv := by
  unfold answered; split <;> rfl
@[simp] theorem answered_chains (s : State) (a : Access) (w : Word) : (answered s a w).chains = s.chains := by
  unfold answered; split <;> rfl
@[simp] theorem answered_pools (s : State) (a : Access) (w : Word) : (answered s a w).pools = s.pools := by
  unfold answered; split <;> rfl
@[simp] theorem answered_ad (s : State) (a : Access) (w : Word) : (answered s a w).ad = s.ad := by
  unfold answered; split <;> rfl
@[simp] theorem answered_iq (s : State) (a : Access) (w : Word) : (answered s a w).iq = s.iq := by
  unfold answered; split <;> rfl
@[simp] theorem answered_sc (s : State) (a : Access) (w : Word) : (answered s a w).sc = s.sc := by
  unfold answered; split <;> rfl
@[simp] theorem answered_kv (s : State) (a : Access) (w : Word) : (answered s a w).kv = s.kv := by
  unfold answered; split <;> rfl
@[simp] theorem answered_units (s : State) (a : Access) (w : Word) : (answered s a w).units = s.units := by
  unfold answered; split <;> rfl
@[simp] theorem answered_cnts (s : State) (a : Access) (w : Word) : (answered s a w).cnts = s.cnts := by
  unfold answered; split <;> rfl
@[simp] theorem answered_opmem (s : State) (a : Access) (w : Word) : (answered s a w).opmem = s.opmem := by
  unfold answered; split <;> rfl
@[simp] theorem answered_helms (s : State) (a : Access) (w : Word) : (answered s a w).helms = s.helms := by
  unfold answered; split <;> rfl
@[simp] theorem answered_hl (s : State) (a : Access) (w : Word) : (answered s a w).hl = s.hl := by
  unfold answered; split <;> rfl
@[simp] theorem answered_fns (s : State) (a : Access) (w : Word) : (answered s a w).fns = s.fns := by
  unfold answered; split <;> rfl
@[simp] theorem answered_dlFilter (s : State) (a : Access) (w : Word) : (answered s a w).dlFilter = s.dlFilter := by
  unfold answered; split <;> rfl
@[simp] theorem answered_py (s : State) (a : Access) (w : Word) : (answered s a w).py = s.py := by
  unfold answered; split <;> rfl
@[simp] theorem answered_ports (s : State) (a : Access) (w : Word) : (answered s a w).ports = s.ports := by
  unfold answered; split <;> rfl
@[simp] theorem answered_lane0 (s : State) (a : Access) (w : Word) : (answered s a w).lane0 = s.lane0 := by
  unfold answered; split <;> rfl
@[simp] theorem answered_lane1 (s : State) (a : Access) (w : Word) : (answered s a w).lane1 = s.lane1 := by
  unfold answered; split <;> rfl
@[simp] theorem answered_flrPend (s : State) (a : Access) (w : Word) : (answered s a w).flrPend = s.flrPend := by
  unfold answered; split <;> rfl
@[simp] theorem answered_fdn (s : State) (a : Access) (w : Word) : (answered s a w).fdn = s.fdn := by
  unfold answered; split <;> rfl
@[simp] theorem answered_tpq (s : State) (a : Access) (w : Word) : (answered s a w).tpq = s.tpq := by
  unfold answered; split <;> rfl
@[simp] theorem answered_fpPerr (s : State) (a : Access) (w : Word) : (answered s a w).fpPerr = s.fpPerr := by
  unfold answered; split <;> rfl
@[simp] theorem answered_dbg (s : State) (a : Access) (w : Word) : (answered s a w).dbg = s.dbg := by
  unfold answered; split <;> rfl
@[simp] theorem answered_dbgIn (s : State) (a : Access) (w : Word) : (answered s a w).dbgIn = s.dbgIn := by
  unfold answered; split <;> rfl
@[simp] theorem answered_ready (s : State) (a : Access) (w : Word) : (answered s a w).ready = s.ready := by
  unfold answered; split <;> rfl
@[simp] theorem answered_cap (s : State) (a : Access) (w : Word) : (answered s a w).cap = s.cap := by
  unfold answered; split <;> rfl
@[simp] theorem answered_hold (s : State) (a : Access) (w : Word) : (answered s a w).hold = s.hold := by
  unfold answered; split <;> rfl
@[simp] theorem answered_scanMode (s : State) (a : Access) (w : Word) : (answered s a w).scanMode = s.scanMode := by
  unfold answered; split <;> rfl
@[simp] theorem answered_free (s : State) (a : Access) (w : Word) : (answered s a w).free = s.free := by
  unfold answered; split <;> rfl
@[simp] theorem answered_nextId (s : State) (a : Access) (w : Word) : (answered s a w).nextId = s.nextId := by
  unfold answered; split <;> rfl
@[simp] theorem answered_pending (s : State) (a : Access) (w : Word) : (answered s a w).pending = s.pending := by
  unfold answered; split <;> rfl

end Sys2Proof.Machine
end

