-- ==== Sys2Proof/Machine/Certified.lean ====
section
/-!
DEFINITION. The certified configuration (R406) and the approved services (R409), as the firmware reads them off the device.
-/

namespace Sys2Proof.Machine

/-- A unit whose every tile passed its known-answer test of step 2, and whose Helm passed step 6. -/
def testsPassed (s : State) (r : UnitRec) : Bool :=
  (leaves s r.uid).all (fun l => !s.pw.tileBad.contains (l.cls, l.tile)) &&
    r.helm.all (fun h => (s.helms.get .init h).kat == 3)

/-- Every tile that failed step 2 belongs to a unit, whose own state then decides (R406). -/
def failedHeld (s : State) : Bool :=
  s.pw.tileBad.all (fun t => s.chart.units.any (fun r => r.cls == t.1 && !r.group && r.tile == t.2))

/-- Every condition of R406; routed are the mesh pairs that the HSM routes. -/
def certifiedNow (s : State) (routed : BitVec 16) : Bool :=
  s.lc.state == 4 && s.chart.certified && s.pw.step == 7 && s.pw.error == 0 && !s.ac.granted && !s.ac.lodeOff &&
    (s.chart.units.filter (·.parent.isNone)).all (fun r => testsPassed s r || (getUni s r.uid).st == 4) && failedHeld s &&
    s.ac.outDefault && decide (8 ≤ ((List.range 16).filter (s.bn.meshEn.getLsbD ·)).length) &&
    routed &&& ~~~s.bn.meshEn == 0 && s.bn.lock && (List.range 12).all (fun n => decide (bnFloor s n ≤ bnAct s n)) &&
    decide (1 ≤ s.py.limit.toNat ∧ s.py.limit.toNat ≤ 64)

/-- An AES code of the cipher family whose use is approved: GCM encryption only with a nonce of the device. -/
def cipherApproved (d : Bytes) : Bool :=
  decide (cAlg d ≤ 2) && (cMode d != 7 || cDir d == 1 || cIvDev d)

/-- Payment codes whose every key is AES; kbpkAes: the KBPK of a KB_IMPORT is AES, so its version is D (R166). PIN_VERIFY is not in
the list of R409 (log 53). -/
def payApproved (d : Bytes) (kbpkAes : Bool) : Bool :=
  match pOp d with
  | 0 => pDfmt d == 4 && (pVar d == 1 || pSfmt d == 4)
  | 2 => kbpkAes
  | 3 => !pAlg3 d
  | 4 => pEmvAes d
  | _ => false

/-- Public-key codes: all but X25519 and the generation of its keys. -/
def serviceApproved (d : Bytes) : Bool := sSvc d != 5 && !(sKeygen d && sPset d == 8)

/-- A descriptor of a code that the table of R409 lists as approved. -/
def approved (d : Bytes) (kbpkAes : Bool) : Bool :=
  match dFamily d with
  | 1 => cipherKnown d && cipherApproved d
  | 2 => hashKnown d
  | 3 => payKnown 0 d && payApproved d kbpkAes
  | 4 => serviceKnown d && serviceApproved d
  | _ => false

end Sys2Proof.Machine
end

