-- ==== Sys2Proof/Machine/Signals.lean ====
section
/-!
DEFINITION. What the state drives at the boundary, and the parity its signals carry (R383): the beats of an initiator-port
transaction (R384, R385, R388), target-port responses (R390, R391), the function port (R393, R394), the debug link (R395), the
fuse and test groups (R397, R399), clocks and status (R400), power-domain control (R402, R403) and the mesh pads (R404).
-/

namespace Sys2Proof.Machine

/-! ## Initiator ports -/

/-- REQ_ADDR: bits 5 to 0 are always 0. -/
def reqAddr (t : Txn) : Nat := t.addr / 64 * 64

/-- REQ_BEATS: beats of 64 bytes, minus 1. -/
def reqBeats (t : Txn) : Nat := (t.addr % 64 + t.len - 1) / 64

/-- REQ_PAR: bit 0 over address bits 25 to 0, bit 1 over bits 51 to 26, bit 2 over BEATS, FUNC and TAG, bit 3 over WRITE, PL, CA
and ORD (FETCH and DEBUG are 0). -/
def reqPar (t : Txn) : List Bool :=
  [oddBit (reqAddr t) 0 26, oddBit (reqAddr t) 26 26,
    oddBit (reqBeats t % 64 + 2 ^ 6 * (t.func % 2 ^ 14) + 2 ^ 20 * (t.tag % 2 ^ 10)) 0 30,
    oddBit (b2n t.write + 2 * (t.pl % 4) + 2 ^ 3 * (t.ca % 4) + 2 ^ 5 * (t.ord % 4)) 0 7]

/-- WD_BOFF and WD_BCNT of beat k of a write: the bytes of that beat which the write covers. -/
def wdSpan (t : Txn) (k : Nat) : Nat × Nat :=
  let lo := max t.addr (reqAddr t + 64 * k)
  let hi := min (t.addr + t.len) (reqAddr t + 64 * (k + 1))
  (lo % 64, hi - lo)

/-- The 64 bytes of WD_DATA of beat k; the bytes outside the span update nothing and are shown as 0 (log 48). -/
def wdData (t : Txn) (k : Nat) : Bytes :=
  let o := (wdSpan t k).1
  padTo 64 (zeros o ++ slice t.data (reqAddr t + 64 * k + o - t.addr) (wdSpan t k).2)

/-- WD_PAR bit i: odd parity over the 32 bits i. -/
def wdPar (t : Txn) (k : Nat) : List Bool := (List.range 16).map (fun i => oddBit (leAt (wdData t k) (4 * i) 4) 0 32)

/-- WD_LAST of beat k. -/
def wdLast (t : Txn) (k : Nat) : Bool := k == reqBeats t

/-- REQ_FETCH and REQ_DEBUG. -/
def reqFetchDebug : Bool × Bool := (false, false)

/-! ## Target ports -/

/-- The request bits outside TRQ_ADDR, in the order of R390: WRITE, SIZE, FUNC, PL, FETCH, DEBUG, MASTER. -/
def trqRest (a : Access) (write : Bool) : Nat :=
  b2n write + 2 * a.size.toNat + 2 ^ 4 * a.func.toNat + 2 ^ 18 * a.pl.toNat + 2 ^ 20 * b2n a.fetch + 2 ^ 21 * b2n a.debug +
    2 ^ 22 * a.master.toNat

/-- TRQ_PAR: bit 0 over TRQ_ADDR, bit 1 over the rest. -/
def trqPar (a : Access) (write : Bool) (addr : Nat) : List Bool := [oddBit addr 0 29, oddBit (trqRest a write) 0 38]

/-- TWD_PAR of a beat. -/
def twdPar (v : Word) : Bool := oddBit v.toNat 0 32

/-- A response beat: TRS_WRITE, TRS_LAST, TRS_DATA, TRS_PAR, TRS_ERR. -/
structure TrsBeat where
  write : Bool
  last : Bool
  data : Bytes
  par : List Bool
  err : Nat
  deriving DecidableEq, Repr

def trsBeat (write last : Bool) (b : Bytes) (err : Nat) : TrsBeat :=
  ⟨write, last, padTo 8 b, [oddBit (leAt b 0 4) 0 32, oddBit (leAt b 4 4) 0 32], err⟩

/-- The beats of a response: one with DATA 0 for a write, ceil(size / 8) for a read, the last padded with zero (R391). -/
def trsBeats (write : Bool) (r : Resp) : List TrsBeat :=
  if write then [trsBeat true true [] r.err]
  else
    let l := chunks 8 r.data
    l.mapIdx (fun i b => trsBeat false (i + 1 == l.length) b r.err)

/-- The responses of a target port that the host chip has not taken. -/
def trsWaiting (s : State) (port : Bool) : List Resp := if port then s.tp1 else s.tp0

/-- TRS_VALID: a response waits; its beats stand until TRS_READY takes them. While CORE_RST_N is 0 every VALID is 0 (R389). -/
def trsValid (s : State) (port : Bool) : Bool := coreRstN s && !(trsWaiting s port).isEmpty

/-- TRQ_READY and TWD_READY: a port takes a request and its beats in every cycle in which it works; the rules give it no depth
(log 56). -/
def trqReady (s : State) : Bool := ported s
def twdReady (s : State) : Bool := ported s

/-- TP_BUSY: a taken request is not yet answered. -/
def tpBusy (s : State) (port : Bool) : Bool := trsValid s port

/-! ## Function port -/

/-- NTCk_FUNC, NTCk_VEC, NTCk_PAR of the beat that a lane sends in this CCLK cycle. -/
def ntcBeat (s : State) (odd : Bool) : Option (Nat × Nat × Bool) :=
  match (getLane s odd).sent with
  | (n, t) :: _ => if t = controlCycle s ∧ coreRstN s = true then some (n.func, n.vec, oddBit (n.func + 2 ^ 14 * n.vec) 0 18) else none
  | [] => none

/-- FDN_FUNC and FDN_PAR while FDN_VALID is 1. -/
def fdnBeat (s : State) : Option (Nat × Bool) := if coreRstN s then s.fdn.head?.map (fun f => (f, oddBit f 0 14)) else none

/-- The parity that FLR_PAR and TPQ_PAR must carry. -/
def funcPar (f : BitVec 14) : Bool := oddBit f.toNat 0 14

def flrReadyPin (s : State) : Bool := flrReady s

/-- TPQ_PEND while TPQ_ANS_VALID is 1: one beat for each query, in order. -/
def tpqAns (s : State) : Option Bool := if coreRstN s then s.tpq.head? else none

/-- FP_PERR: one cycle, the next after the beat that failed parity (R394). -/
def fpPerrPin (s : State) : Bool := s.fpPerr.any (fun c => c + 1 == controlCycle s)

/-! ## Debug interface -/

/-- DBG_IN_READY: the port takes a byte in every cycle in which it works. -/
def dbgInReady (s : State) : Bool := ported s

/-- DBG_OUT with DBG_OUT_PAR while DBG_OUT_VALID is 1: it stands until DBG_OUT_READY takes it. -/
def dbgOut (s : State) : Option (Byte × Bool) :=
  if coreRstN s then s.dbg.head?.map (fun b => (b, oddBit b.toNat 0 8)) else none

/-- DBG_GRANTED, DBG_OPEN, DBG_LC, DBG_READY. -/
def debugPins (s : State) : Bool × Bool × Nat × Bool := (s.ac.granted, debugOpen s, s.lc.state % 16, s.pw.ready)

/-! ## Fuse interface (R397) -/

/-- FUSE_PGM: a bit is being programmed. -/
def fusePgm (s : State) : Bool := fuseInBit s

/-- FUSE_ADDR of the bit being programmed. -/
def fuseAddr (s : State) : Option Nat :=
  match s.lc.ops with
  | ⟨_, .bits _ (b :: _) :: _, _, true, _, _⟩ :: _ => some b
  | _ => none

/-- FUSE_ADDR and FUSE_RD of the reads of start-up step 3: the words of the array in turn, bit address 32 w. -/
def fuseReads (s : State) : List Nat := if s.pw.step = 3 ∧ active s = true then (List.range 512).map (· * 32) else []

/-- FUSE_RDATA for an address: the word. -/
def fuseRdata (s : State) (addr : Nat) : Word := fuseWord s (addr / 32)

/-! ## Test (R399) -/

/-- TEST_ENABLED. -/
def testEnabledPin (s : State) : Bool := testEnabled s

/-- The outputs of the group in the order of R399: SCAN_OUT 0 to 63, TDO 64, MBIST_DONE 65, MBIST_FAIL 66, MBIST_DIAG 67 to 74,
PLL_TEST_OUT 75: at 0 unless the group is live. -/
def testOut (s : State) (n : Nat) : Bool := testEnabled s && Config.testOut n s.free

/-- The inputs MBIST_SEL, TMS, TDI, PLL_BYPASS, IDDQ_EN, TEST_MODE and the scan inputs reach the block only while it is live. -/
def testIn (s : State) (v : Bool) : Bool := testEnabled s && v

/-! ## Clocks and status signals (R369, R400) -/

def pllLock (s : State) : Bool := s.clk.lock

/-- FCLK_VALID: 0 only while no reference reaches the block or the ports are isolated. -/
def fclkValid (s : State) : Bool := !s.clk.refGone && (s.pw.mode == .run || s.pw.mode == .a2Entry)

/-- FCLK[n] runs: ports 0 to 7 with the PLL, the target ports 8 and 9 from the reference too. -/
def fclkRuns (s : State) (n : Nat) : Bool := fclkValid s && (s.clk.lock || (decide (8 ≤ n) && s.clk.bypass))

/-- CCLK runs. -/
def cclkRuns (s : State) : Bool := fclkValid s && (s.clk.lock || s.clk.bypass)

/-- CORE_RST_N: 0 while the core is held, through the 64 control cycles of a BLOCK or TAMPER reset, and in A3. -/
def coreRstNPin (s : State) : Bool := coreRstN s

def readyPin (s : State) : Bool := s.pw.ready
def rstKind (s : State) : Nat := s.pw.kind

/-- ERASE_ACTIVE: from an ERASE decision until the end of its erase hold (R347). -/
def eraseActive (s : State) : Bool := s.bn.erase.isSome || eraseHold s

/-- ALARM: bit 1 of BN_NOTICE. -/
def alarmPin (s : State) : Bool := s.bn.notice.getLsbD 1

/-- VSB_WARN, VDD_WARN, NOSTART. -/
def supplyPins (s : State) : Bool × Bool × Bool := (s.bn.vsbWarn, s.bn.vddWarn, s.bn.nostart)

/-! ## Power-domain control (R402, R403) -/

/-- What a switchable group holds; the groups are numbered in the order of R402 (log 64). -/
inductive SwitchGroup where
  /-- cipher tiles 16 n to 16 n + 15 -/
  | cipher (n : Nat)
  | hash (n : Nat)
  /-- arithmetic tiles 4 n to 4 n + 3 -/
  | arith (n : Nat)
  | helm (n : Nat)
  /-- dispatcher slices and fabric ports -/
  | fabric
  /-- memory-macro periphery: the arrays are retained -/
  | memory
  /-- the retention flip-flops and the Meridian -/
  | control
  deriving DecidableEq, Repr

def switchGroup (g : Nat) : Option SwitchGroup :=
  if g < 8 then some (.cipher g)
  else if g < 10 then some (.hash (g - 8))
  else if g < 18 then some (.arith (g - 10))
  else if g < 20 then some (.helm (g - 18))
  else [SwitchGroup.fabric, .memory, .control][g - 20]?

/-- The group of a tile of class cls: 0 cipher, 1 hash, 2 arithmetic. -/
def tileGroup (cls tile : Nat) : Nat := if cls = 0 then tile / 16 else if cls = 1 then 8 + tile / 16 else 10 + tile / 4

/-- The group of a Helm. -/
def helmGroup (h : Nat) : Nat := 18 + h / 8

/-- PSW_ACK of a group. -/
def pswAckPin (s : State) (g : Nat) : Bool := s.pw.pswAck.getLsbD g

/-- PSW_EN: power is requested in every state but A2. -/
def pswEn (s : State) : Bool := s.pw.mode != .a2

/-- ISO: outputs are clamped from the end of the entry to the end of the exit, and in A3. -/
def isoPin (s : State) : Bool := s.pw.mode == .a2 || s.pw.mode == .a2Exit || s.pw.mode == .a3

/-- RET: retained until every PSW_ACK is back. -/
def retPin (s : State) : Bool := (s.pw.mode == .a2 || s.pw.mode == .a2Exit) && s.pw.pswAck != .allOnes 23

/-- PD_A2_READY, PD_A3_READY, PD_WAKE_ACK. -/
def pdPins (s : State) : Bool × Bool × Bool := (s.pw.pdA2Ready, s.pw.pdA3Ready, s.pw.pdWakeAck)

/-- PD_WAKE, as held. -/
def pdWakePin (s : State) : Bool := s.pw.pdWake

/-! ## Mesh pads (R344, R404) -/

/-- What a pair drives now, and on which pad: line A at MESHn_A in the first half of a bit, line B at MESHn_B in the second; nothing
on a pair that is not enabled. -/
def meshDrive (s : State) (n : Nat) : Option (Bool × Bool) :=
  let lineB := decide (16 ≤ s.bn.btime % 32)
  if s.bn.meshEn.getLsbD n then some (lineB, Config.meshBit n lineB (meshBitNo s)) else none

/-- The sample at the other end of the pair agrees with what was driven. -/
def meshAgrees (s : State) (n : Nat) (sample : Bool) : Bool := (meshDrive s n).all (·.2 == sample)

end Sys2Proof.Machine
end

