-- ==== Sys2Proof/Tests/Slice0.lean ====
section
/-!
SUPPORT. Tests: the checks of WellFormed, single steps on small states, and a witness for the hypotheses of each
statement.
-/

namespace Sys2Proof.Machine

/-! ## WellFormed refuses an ill-formed command -/

/-- A privileged 32-bit access of the physical function on port 0. -/
def testAccess : Access := ⟨false, 0, 0, 1, false, false, 2, true, ⟨true, false⟩⟩

theorem test_wf_read_too_long : Instr.wellFormed (.readCompletion 0 0 (List.replicate 65 ⟨0, false⟩) []) = false := by decide
theorem test_wf_short_beat : Instr.wellFormed (.readCompletion 0 0 [⟨0, false⟩] [1]) = false := by decide
theorem test_wf_aperture_size : Instr.wellFormed (.apertureWrite testAccess 0 [1, 2, 3]) = false := by decide
theorem test_wf_trap_cause : Instr.wellFormed (.helmTrap 0 4) = false := by decide
theorem test_wf_sample_range : Instr.wellFormed (.supplySample 30000 800 20 20) = false := by decide
theorem test_wf_no_source : Instr.wellFormed (.alarmSource 0 0) = false := by decide
theorem test_wf_mesh_without_source : Instr.wellFormed (.alarmSource 2 1) = false := by decide
theorem test_wf_source_number : Instr.wellFormed (.alarmConditionEnd 12 0) = false := by decide
theorem test_wf_switch_group : Instr.wellFormed (.powerSwitchLoss 23) = false := by decide
theorem test_wf_switch_group_ok : Instr.wellFormed (.powerSwitchLoss 22) = true := by decide

/-! ## States for the witnesses -/

/-- A running core in step 7 of start-up, long after its reset. -/
def testRun : State := { State.reset with
  clk := { Clk.reset with lock := true, bypass := false, refOk := true, meridian := 2 ^ 40 }
  pw := { Pw.reset with step := 7, ready := true }
  bn := { Bn.reset with btime := 2 ^ 40 } }

/-- A small Chart: function 1 with two rings, a class over three pools, four units. -/
def testChart : Chart :=
  ⟨512, 1, 0, some 3,
    [⟨0, 0, false, 0, false, 0, some 0, 0, 0, 0, false, none, none⟩,
     ⟨1, 1, false, 0, true, 0, some 1, 1, 3, 0, false, none, none⟩,
     ⟨2, 2, false, 0, true, 0, none, 0, 0, 0, false, none, none⟩,
     ⟨3, 2, false, 0, false, 1, some 2, 0, 0, 0, false, some 0, none⟩],
    [⟨0, 0, false, 1, 1⟩, ⟨1, 1, false, 1, 1⟩, ⟨2, 2, true, 0, 1⟩],
    [⟨1, 0x2010, 6, false, false, 100, 100⟩],
    [⟨0, 1, true, 0, 1, 2, 3000000, 100, 100, 1000, 16, 0⟩],
    [⟨1, 2, 0, 0, 4, 0, 4, 4, 0, 0, 2, 0, 2⟩],
    [⟨0, 0, 0⟩, ⟨1, 0, 1⟩], false⟩

/-- The running core under that Chart. -/
def testDev : State := { testRun with chart := testChart, ch := { Ch.reset with state := 2 } }

/-- A ring in service: 64 entries, four posted. -/
def testRing : Ring := { Ring.init with
  base := 0x10000, size := 6, enable := true, active := true, posted := 4, credit := 16 }

/-- A queue in service: 64 records granted. -/
def testCq : Cq := { Cq.init with base := 0x20000, size := 6, enable := true, active := true, granted := 64 }

/-- The device with ring 0 and queue 0 of function 1 in service. -/
def testLive : State := setCq (setRing testDev 0 testRing) 0 testCq

/-- A digest of 64 bytes without key and context. -/
def testDigest : Bytes :=
  toLE 2 0x2010 ++ [0, 1] ++ toLE 4 0xFFFFFFFF ++ toLE 4 0 ++ toLE 4 64 ++ toLE 8 0x30000 ++ toLE 8 0x40000 ++
    toLE 4 64 ++ zeros 28

/-- Its job on a unit, as it is claimed. -/
def testJob : Job := ⟨0, 0, 0, .claimed, 2 ^ 30, [], none, none, none, 0, none, 0, .free, 0, none, [], none,
  .none, .none, 0, 0, 0, none, false, false, [], 0, 0, 0, 0⟩

/-- Its chain, from ring 0. -/
def testChain : Chain :=
  ⟨0, 0, 1, 0, 0, 0, [testDigest], none, 2 ^ 30, 2 ^ 41, 0, 0, [⟨1, 1, 0, 1, 200, 0, 1, 1, .running⟩], [], 0, 2 ^ 30,
    none, false, false, false, false, false, false, false⟩

/-- The record of its end. -/
def testRes : DescRes := ⟨0, 0, 0, zeros 8, false, false, none, 0, false⟩

/-- A read of 64 bytes for a Chart load. -/
def testTxn : Txn := ⟨3, false, 0x30000, 64, 0, 0, 0, 0, [], 0, .chart, [], 2 ^ 40, false, 0, false, 0⟩

/-- The chain runs on unit 1. -/
def testBusy : State := setUni (setChain testLive testChain) 1 { Uni.init with
  st := 1, sched := true, lockPool := 1, lockFunc := 1, job := some testJob }

/-- The device in the last root cycle of a control cycle, with queue 0 of function 1 as given. -/
def testEdge (q : Cq) : State := setCq { testLive with clk := { testLive.clk with meridian := 2 ^ 40 + 3 } } 0 q

/-! ## Witnesses: states and operands that meet the hypotheses of each statement -/

theorem test_hyps_StepRunsFrontCommand :
    { testRun with pending := [.stormInterval, .pdWake] }.pending = .stormInterval :: [.pdWake] := by decide
theorem test_hyps_EmptyQueueLetsTimePass :
    testRun.pending = [] ∧ powered testRun = true ∧ testRun.clk.lock = true ∧ testRun.clk.meridian % 4 ≠ 3 ∧
      powered { testRun with scanMode := true } = false ∧
      (let s := { State.reset with pw := { Pw.reset with rstLeft := 64 } }
       powered s = true ∧ s.clk.lock = false ∧ onRef s = true ∧ s.pw.rstLeft ≠ 0) ∧
      (let s := { State.reset with clk := { Clk.reset with refGone := true } }
       powered s = true ∧ s.clk.lock = false ∧ onRef s = false) ∧
      (let s := { testRun with clk := { testRun.clk with meridian := 2 ^ 40 + 3 }, pw := { testRun.pw with rstLeft := 1 } }
       powered s = true ∧ s.pw.rstLeft ≠ 0 ∧ s.clk.lock = true ∧ s.clk.meridian % 4 = 3) ∧
      testRun.ports = [] ∧ testRun.lane0.waiting = [] ∧ testRun.lane1.waiting = [] ∧ (getUni testBusy 1).st = 1 ∧
      treeOf testBusy.chart.units 9 1 = [1] ∧ testBusy.units.map (·.1) = [1] := by decide
theorem test_hyps_StepKeepsMemoryCanonical :
    MemoryCanonical testRun ∧ step testRun = .next (rootCycle testRun) := ⟨rfl, rfl⟩
theorem test_hyps_StepKeepsFloorsAndLifeCycle :
    FloorsHold testRun ∧ LifeCycleLegal testRun ∧ step testRun = .next (rootCycle testRun) :=
  ⟨by unfold FloorsHold; decide, by unfold LifeCycleLegal; decide, rfl⟩
theorem test_hyps_FusesNeverReturnToZero : step testRun = .next (rootCycle testRun) := rfl
theorem test_hyps_PinnedRecordsNeverOverwritten : LogPlaced testRun ∧ step testRun = .next (rootCycle testRun) :=
  ⟨by unfold LogPlaced; decide, rfl⟩

theorem test_hyps_DoorbellWholeOrNot :
    granted testLive testAccess true (ringAt testAccess 0 0xC) = true ∧ ringNamed testLive 0 0 = some 0 ∧
      (getRing testLive 0).enable = true ∧ ringResetting testLive 0 = false ∧ wfld (0 : Word) 0 17 = 0 ∧
      posDiff (getRing testLive 0).credit (getRing testLive 0).posted < (wfld (13 : Word) 0 17 : Int) ∧
      (wfld (12 : Word) 0 17 : Int) ≤ posDiff (getRing testLive 0).credit (getRing testLive 0).posted := by decide
theorem test_hyps_RingEnableRule :
    granted testLive testAccess true (ringAt testAccess 1 8) = true ∧ ringNamed testLive 0 1 = some 1 ∧
      ringResetting testLive 1 = false ∧ (getRing testLive 1).enable = false ∧ quietWrites testLive = false ∧
      failedStart testLive = false ∧ (getRing testLive 1).active = false ∧ ringCq testLive 1 = some 1 ∧
      ringCq testLive 0 = some 0 ∧ (getCq testLive 0).enable = true ∧ (getCq testLive 1).enable = false ∧
      wfld (16 : Word) 0 5 = 16 ∧ wfld (5 : Word) 0 5 < 6 ∧ 16 < wfld (17 : Word) 0 5 := by decide
theorem test_hyps_RingDisableRule :
    granted testLive testAccess true (ringAt testAccess 0 8) = true ∧ ringNamed testLive 0 0 = some 0 ∧
      ringResetting testLive 0 = false ∧ (getRing testLive 0).enable = true ∧ (getRing testLive 0).active = true ∧
      (getRing testDev 0).enable = false ∧ ringResetting testDev 0 = false ∧
      granted testDev testAccess true (ringAt testAccess 0 8) = true ∧
      (getRing (setRing testDev 0 { testRing with active := false }) 0).enable = true ∧
      ringResetting (setFn testLive 1 { Fn.init with resetting := true }) 0 = true := by decide
theorem test_hyps_CompletionQueueRule :
    granted testDev testAccess true (cqAt testAccess 0 8) = true ∧ granted testLive testAccess true (cqAt testAccess 0 0x10) = true ∧
      cqNamed testDev 0 0 = some 0 ∧ (cqOwner testDev 0).map (·.vectors) = some 2 ∧ cqResetting testDev 0 = false ∧
      wfld (0x2000 : Word) 12 4 = 2 ∧ wfld (0x1006 : Word) 12 4 < 2 ∧ (getCq testDev 0).enable = false ∧
      (getCq testLive 0).enable = true ∧ (boundRings testLive 0).any (fun g => (getRing testLive g).active) = true ∧
      (boundRings (setCq testDev 0 testCq) 0).any (fun g => (getRing (setCq testDev 0 testCq) g).active) = false ∧
      cqNamed testDev 0 9 = some 9 ∧ cqOwner testDev 9 = none ∧ cqResetting testDev 9 = false ∧ (getCq testDev 9).enable = false ∧
      granted testDev testAccess true (cqAt testAccess 9 8) = true ∧
      cqResetting (setFn testLive 1 { Fn.init with resetting := true }) 0 = true ∧
      (getCq testLive 0).active = true ∧ cqSlot testLive { testCq with opAt := some (2 ^ 38) } = false ∧
      (let q := { testCq with ops := [(.grant 65, 0)] }
       edgeQuiet (testEdge q) = true ∧ cqSlot (testEdge q) q = true ∧ getCq (testEdge q) 0 = q ∧ q.active = true ∧
         ¬posDiff (q.granted + word 65) q.written ≤ 2 ^ q.size) := by decide
theorem test_hyps_CqGrantWholeOrNot :
    granted testLive testAccess true (cqAt testAccess 0 0x10) = true ∧ cqNamed testLive 0 0 = some 0 ∧
      cqResetting testLive 0 = false ∧ (getCq testDev 0).active = false ∧ (getCq testLive 0).active = true ∧
      cqSlot testLive (getCq testLive 0) = true ∧ (getCq testLive 0).ops = [] ∧
      posDiff ((getCq testLive 0).granted + word (wfld (0 : Word) 0 17)) (getCq testLive 0).written ≤ 2 ^ 6 ∧
      ¬posDiff ((getCq testLive 0).granted + word (wfld (1 : Word) 0 17)) (getCq testLive 0).written ≤ 2 ^ 6 := by decide
theorem test_hyps_WaypointSetRule :
    granted testLive testAccess true (cqAt testAccess 0 0x28) = true ∧ cqNamed testLive 0 0 = some 0 ∧
      cqResetting testLive 0 = false ∧ wpBusy (getCq testLive 0) = false ∧
      wpBusy { testCq with ops := [(.waypoint 1 0, 0)] } = true ∧ wpBusy { testCq with ops := [(.grant 1, 0)] } = false ∧
      (let q := { testCq with written := 64, ops := [(.waypoint 1 0, 0)] }
       edgeQuiet (testEdge q) = true ∧ cqSlot (testEdge q) q = true ∧ getCq (testEdge q) 0 = q ∧
         ¬posDiff q.written 0 < 2 ^ q.size ∧ posDiff q.written 1 < 2 ^ q.size ∧ posDiff q.written 64 = 0 ∧
         ¬0 ≤ posDiff q.written 65) := by decide
theorem test_hyps_WaypointRewindAndClear :
    granted testLive testAccess true (cqAt testAccess 0 0x28) = true ∧ cqNamed testLive 0 0 = some 0 ∧
      cqResetting testLive 0 = false ∧ wpBusy (getCq testLive 0) = false ∧ (2 : Int) ^ 6 < posDiff (65 : Word) 0 ∧
      posDiff (64 : Word) 0 ≤ (2 : Int) ^ 6 ∧
      (let q := { testCq with ops := [(.waypoint 3 0, 0)] }
       edgeQuiet (testEdge q) = true ∧ cqSlot (testEdge q) q = true ∧ getCq (testEdge q) 0 = q) ∧
      (let q := { testCq with wpValid := true, written := 64, ops := [(.waypoint 2 0, 0)] }
       edgeQuiet (testEdge q) = true ∧ cqSlot (testEdge q) q = true ∧ getCq (testEdge q) 0 = q ∧
         posDiff (q.written + word q.reserved) q.wpMark ≤ 2 ^ q.size) := by decide
theorem test_hyps_NoticeHoldAndCoalescing :
    granted testLive testAccess true (nvAt testAccess 1 0) = true ∧ fnResetting testLive 0 = false ∧
      testAccess.func.toNat = 0 ∧ (funcRec testLive 1).isSome = true ∧ fnResetting testLive 1 = false ∧
      (let s := setCq testLive 0 { testCq with noteN := 1, coalTime := 1, noteAt := 2 ^ 40 - 3000 }
       engineUp s = true ∧ (getCq s 0).noteN ≠ 0 ∧ (getCq s 0).coalTime ≠ 0 ∧
         (getCq s 0).noteAt + (getCq s 0).coalTime * 3000 ≤ s.clk.meridian ∧ (cqOwner s 0).isSome = true ∧
         (getCq s 0).halted = false) := by decide
theorem test_hyps_CreditAndFamine :
    running testLive = true ∧ (getRing testDev 0).enable = false ∧ creditRoom (getRing testLive 0) = true ∧
      (getRing testLive 0).tickAt ≠ some (controlCycle testLive) ∧
      tokenUnit ≤ bucketNow (setRing testLive 0 { testRing with tickAt := some (2 ^ 38) }) 0 ∧ tokenUnit ≤ bucketNow testLive 0 ∧
      granted testLive testAccess true (mgmtAt testAccess 0x21034) = true ∧ (poolRec testLive 0).isSome = true ∧
      (let s := setRing testDev 0 { testRing with famineAt := some (2 ^ 40 - 4000), faminePart := 96 }
       running s = true ∧ 4096 ≤ famineTime s (getRing s 0) ∧ s.sd.frozen = false ∧ s.sd.clearing.getLsbD 1 = false) ∧
      famineTime testLive (getRing testLive 0) < 4096 := by decide
theorem test_hyps_CreditAndFamine_excess :
    let s := setRing testDev 0 { testRing with bucketAt := 2 ^ 40 }
    let u := setPool s 0 { Pool.init with excessAt := some (controlCycle s) }
    running s = true ∧ (getRing s 0).enable = true ∧ creditRoom (getRing s 0) = true ∧ bucketNow s 0 < tokenUnit ∧
      (ringClass s 0).any (fun k => k.excess && (classPools k).all (fun p => inSpare s p)) = true ∧ excessPool s 0 = some 0 ∧
      excessPool u 0 = some 1 ∧ (getPool u 0).excessAt = some (controlCycle u) ∧
      excessPool (setPool (setPool u 1 (getPool u 0)) 2 (getPool u 0)) 0 = none ∧
      (ringClass { s with chart := { testChart with
        classes := [⟨0, 1, false, 0, 1, 2, 3000000, 100, 100, 1000, 16, 0⟩] } } 0).any (fun k => !k.excess) = true := by decide +kernel

theorem test_hyps_IqMoveKeepsEntries : engineUp testDev = true ∧ (poolRec testDev 0).isSome = true ∧
    ((getPool testDev 0).queue.map (fun e => (e.chain, e.idx, e.stage))).Nodup := by decide
theorem test_hyps_StormReshareAndNotices :
    active testDev = true ∧ testDev.iq.stormIv < testDev.clk.meridian / 2 ^ 22 ∧ active State.reset = true ∧
      State.reset.clk.meridian / 2 ^ 22 ≤ State.reset.iq.stormIv ∧
      (let s := setPool testDev 0 { Pool.init with reshare := true, fallback := true, cause := 3 }
       engineUp s = true ∧ (∀ e ∈ s.pools, e.2.reshare = true → midEmpty e.2 = true) ∧
         ∃ e ∈ s.pools, e.1 = 0 ∧ e.2.reshare = true) ∧
      engineUp testDev = true ∧ testDev.ch.state ≠ 1 ∧ engineUp { testDev with ch := { testDev.ch with state := 1 } } = true ∧
      granted testDev testAccess true (mgmtAt testAccess 0x3102C) = true := by decide
theorem test_hyps_ReturnAndFallback :
    (let s := setPool testDev 0 { Pool.init with fallback := true, cause := 3, share := 1 }
     engineUp s = true ∧ (getPool s 0).fallback = true ∧ (∀ e ∈ (getPool s 0).queue, e.place ≠ 2) ∧
       (getPool s 0).hold = false ∧ (getPool s 0).scrub = false ∧ (getPool s 0).reshare = false ∧ (getPool s 0).cause = 3) ∧
      (let s := setPool testDev 0 { Pool.init with fallback := true, cause := 3, share := 1, scrub := true }
       engineUp s = true ∧ (getPool s 0).scrub = true ∧
         (getPool s 0).scrubAt + 4096 * (getPool s 0).share ≤ s.clk.meridian) ∧
      granted testDev testAccess true (mgmtAt testAccess 0x3100C) = true ∧
      granted testDev testAccess true (mgmtAt testAccess 0x31008) = true ∧ wbit (1 : Word) 0 = true ∧
      (getPool testDev 0).fallback = false := by decide

theorem test_hyps_ContextEraseRule :
    granted testDev testAccess true (mgmtAt testAccess 0x40014) = true ∧ (∀ e ∈ testDev.rings, e.2.active = false) ∧
      (∀ e ∈ testDev.units, e.2.st ≠ 1) ∧ (∃ e ∈ testLive.rings, e.2.active = true) ∧
      (let s := { testDev with
         sc := { testDev.sc with scrubAt := some (2 ^ 40 - 393216) }
         kv := { testDev.kv with drbg := List.replicate 8 ⟨true, 0, 2 ^ 40⟩ } }
       engineUp s = true ∧ 2 ^ 40 - 393216 + 393216 ≤ s.clk.meridian ∧ drbgUp s 0 = true ∧ drbgUp testDev 0 = false ∧ maskable s = true ∧
         maskable { s with bn := { s.bn with eraseHold := 1 } } = false) ∧
      (let w : WriteBack := ⟨1, ⟨true, false, 3⟩, .free⟩
       let s := { testDev with sc := { testDev.sc with wb := [w] } }
       s.sc.cmd = none ∧ s.sc.wb.find? (fun w => w.ref.compact == true && w.ref.idx == 3) = some w) := by decide
theorem test_hyps_ContextCommands :
    (let s := { testDev with sc := { testDev.sc with ready := true } }
     granted s testAccess true (mgmtAt testAccess 0x40040) = true ∧ failedStart s = false ∧ quietWrites s = false ∧
       s.sc.busy = false ∧ nostart s = false ∧ s.sc.idx.toNat < stdTotal s ∧ s.sc.idx.toNat < cmpTotal s ∧
       ctxResetting s false s.sc.idx.toNat = false ∧ (s.sc.std.get .free s.sc.idx.toNat).kind ≠ 3 ∧
       ctxHeld s noUnit (scRef s false s.sc.idx.toNat) = false ∧
       ctxHeld (setUni s 0 { Uni.init with job := some { testJob with ctxRef := some ⟨false, false, 0⟩ } }) noUnit
         (scRef s false 0) = true) ∧
      testDev.sc.ready = false ∧ stdTotal testRun ≤ testRun.sc.idx.toNat := by decide

theorem test_hyps_ChainFetchReads :
    sliceUp testLive 0 = true ∧ (getRing testLive 0).fetch = .idle ∧
      (getRing testLive 0).descs.length < fetchable (getRing testLive 0) ∧
      (∀ p ∈ fetchPieces testRing (fetchable testRing), (judgeOut testLive 1 false p.2.1).ok = true) ∧
      (let s := setPort { testLive with ac := { testLive.ac with outDefault := true } } 0 ⟨16, 16, 1024, 1024, [], []⟩
       let l := fetchPieces testRing (fetchable testRing)
       sliceUp s 0 = true ∧ (getPort s 0).sendQ = [] ∧ l.length ≤ (getPort s 0).reqCrd ∧
         (getPort s 0).out.length + l.length ≤ 1024 ∧
         beatsOut (getPort s 0) + (l.map (fun p => beats p.2.1 p.2.2)).sum ≤ 1024 ∧
         ∃ p ∈ l, (judgeOut s 1 false p.2.1).ok = false) := by
  decide

/-- Ring 0 has a chain of one digest to offer, in a pool and a queue as given. -/
def testOffer (x : Pool) (q : Cq) : State :=
  setPool (setCq (setRing testLive 0 { testRing with fetch := .ready, descs := [testDigest] }) 0 q) 1 x

/-- The segments of the offer, its deadline and the conditions it meets. -/
def testSegs (s : State) (k : ClassRec) : List Seg × Nat :=
  let d := (newChain s 0 0 k (chainBytes s k [testDigest])).deadline
  (latestStarts (mkSegs s k [testDigest] false) d (16 + (if lastWaits s 1 [testDigest] then fabricR s else 0)), d)

/-- A pool in fallback with head, tail and draining bank full, whose filling bank was read in this control
cycle. -/
def testFullPool : Pool :=
  let x : Pool := { Pool.init with fallback := true, cause := 3 }
  let e := fun (place n first : Nat) => (List.range n).map (fun i => (⟨9, first + i, false, place, i, false, []⟩ : IqEntry))
  { x with
    moveAt := some (2 ^ 38), moved := 2, bankRd := [fillPlace x]
    queue := e 0 64 0 ++ e 1 64 64 ++ e (drainPlace x) 256 128 ++ e (fillPlace x) 1 384 }

theorem test_hyps_AdmissionRule :
    let s := testOffer Pool.init testCq
    (ringClass s 0).isSome = true ∧ ringCq s 0 = some 0 ∧ canOffer s 0 = true ∧
      (ringClass s 0).any (fun k => direct s k (getRing s 0)) = false ∧
      poolTurn s ((headPools s 0).headD 64) = true ∧ (headPools s 0).all (fun x => !tookOffer s x) = true ∧
      (swrr (getPool s ((headPools s 0).headD 64)).offers (offerCand s ((headPools s 0).headD 64))).1 = some 0 := by decide
theorem test_hyps_AdmissionRule_accepted : ∀ k ∈ ringClass (testOffer Pool.init testCq) 0,
    let s := testOffer Pool.init testCq
    let x := testSegs s k
    let c := { newChain s 0 0 k (chainBytes s k [testDigest]) with segs := x.1, tested := true }
    resourcesOk s testCq [testDigest] x.1 = true ∧ (∀ p ∈ (x.1.map (·.pool)).eraseDups, poolTest s x.1 x.2 p = true) ∧
      (enqueue (accept (takeRound s ((headPools s 0).headD 64) (headPools s 0)) 0 c) c x.1).isSome = true := by
  decide +kernel
theorem test_hyps_AdmissionRule_refused : ∀ k ∈ ringClass (testOffer Pool.init { testCq with granted := 0 }) 0,
    (let s := testOffer Pool.init { testCq with granted := 0 }
     resourcesOk s (getCq s 0) [testDigest] (testSegs s k).1 = false) ∧
      (let s := setChain (testOffer Pool.init testCq) { testChain with
         deadline := 2 ^ 40, segs := [⟨1, 1, 0, 1, 2 ^ 36, 2 ^ 40, 1, 1, .waiting⟩] }
       resourcesOk s testCq [testDigest] (testSegs s k).1 = true ∧
         ∃ p ∈ ((testSegs s k).1.map (·.pool)).eraseDups, poolTest s (testSegs s k).1 (testSegs s k).2 p = false) := by
  decide +kernel
theorem test_hyps_AdmissionRule_noPlace : ∀ k ∈ ringClass (testOffer testFullPool testCq) 0,
    let s := testOffer testFullPool testCq
    let x := testSegs s k
    let c := { newChain s 0 0 k (chainBytes s k [testDigest]) with segs := x.1, tested := true }
    resourcesOk s testCq [testDigest] x.1 = true ∧
      (enqueue (accept (takeRound s ((headPools s 0).headD 64) (headPools s 0)) 0 c) c x.1).isNone = true := by
  decide +kernel
theorem test_hyps_AdmissionRule_reoffer :
    (let s := setRing testLive 0 { testRing with fetch := .refused (2 ^ 40 - 1024) [1], offerAt := some (2 ^ 40 - 1024) }
     sliceUp s 0 = true ∧ (getRing s 0).fetch = .refused (2 ^ 40 - 1024) [1] ∧ 2 ^ 40 - 1024 + 1024 ≤ s.clk.meridian ∧
       (getRing s 0).offerAt = some (2 ^ 40 - 1024) ∧ 2 ^ 40 - 1024 + 256 ≤ s.clk.meridian) ∧
      sliceUp (setRing testLive 0 { testRing with fetch := .refused 0 [1], offerAt := some (2 ^ 40 - 255) }) 0 = true ∧
      testLive.clk.meridian < 2 ^ 40 - 255 + 256 ∧ testLive.clk.meridian < 2 ^ 40 - 1023 + 1024 := by decide
theorem test_hyps_RecordIsWritten :
    let c := { testChain with results := [testRes] }
    let s := setPort (setChain testLive c) 0 ⟨4, 4, 1024, 1024, [], []⟩
    findChain s 0 = some c ∧ c.id = 0 ∧ c.results[c.issued]? = some testRes ∧
      engineUp s = true ∧ blockReq s = false ∧ fnResetting s c.func = false ∧ (getCq s 0).halted = false ∧
      dlActive s c.func = false ∧ cqRecordSlot s (getCq s 0) = true ∧ recordWaits s c 0 testRes = false ∧
      portReady s 0 0x20000 32 = true ∧ (judgeOut s 1 true 0x20000).ok = true ∧
      c.lastRec / 4 < s.clk.meridian / 4 := by decide +kernel
theorem test_hyps_SchedulerClaims :
    let c := { testChain with segs := [⟨1, 1, 0, 1, 200, 0, 1, 1, .waiting⟩] }
    let s := setChain testLive c
    engineUp s = true ∧ nostart s = false ∧ offersBegun s = false ∧ nextSeg s 1 = some (c, 0) ∧
      c.segs[0]? = some ⟨1, 1, 0, 1, 200, 0, 1, 1, .waiting⟩ ∧ chooseUnit s 1 1 testDigest = some 1 ∧
      nextSeg testLive 1 = none ∧ bankBusy s (getPool s 1) (segEntries s 0 ⟨1, 1, 0, 1, 200, 0, 1, 1, .waiting⟩) = false := by decide
theorem test_hyps_SchedulerClaims_bankWritten :
    let g : Seg := ⟨1, 1, 0, 1, 200, 0, 1, 1, .waiting⟩
    let s := setPool testLive 1 { Pool.init with
      fallback := true, moveAt := some (controlCycle testLive), bankWr := [fillPlace Pool.init]
      queue := [⟨0, 0, false, fillPlace Pool.init, 0, false, []⟩] }
    bankBusy s (getPool s 1) (segEntries s 0 g) = true := by decide
theorem test_hyps_DescriptorLoadRule :
    engineUp testBusy = true ∧ (getUni testBusy 1).job = some testJob ∧ testJob.phase = .claimed ∧
      findChain testBusy 0 = some testChain ∧ testChain.descs.getD 0 [] = testDigest ∧ dFamily testDigest = 2 ∧
      hIsKdf testDigest = false ∧ dNoKey testDigest = true ∧ dCtx testDigest = noCtx ∧
      famPre testBusy testDigest ctxAbsent = none ∧ dLen testDigest ≠ 0 ∧ dSrcScr testDigest = false ∧
      dCtx (toLE 2 0x2010 ++ [0, 1] ++ zeros 60) ≠ noCtx ∧ testBusy.sc.ready = false ∧
      [0].contains testJob.idx = true ∧ testJob.poison.contains testJob.idx = false ∧ testJob.ctxRef = none ∧
      testJob.dirty = false ∧ testChain.id = testJob.chain ∧ testChain.staged = none ∧
      (let j := { testJob with phase := .failed 13 0x0F0A (2 ^ 40) }
       let s := setUni testBusy 1 { Uni.init with job := some j }
       engineUp s = true ∧ (getUni s 1).job = some j ∧ findChain s j.chain = some testChain) := by decide
/-- A hash over the context 0 of function 1, whose OPEN context it is. -/
theorem test_hyps_DescriptorLoadRule_tainted :
    let d := toLE 2 0x2010 ++ [0, 1] ++ toLE 4 0 ++ zeros 56
    let x : Ctx := { Ctx.free with st := 1, kind := hKind d, owner := 1 }
    let s := { testBusy with sc := { testBusy.sc with ready := true, std := [(0, x)] } }
    dCtx d ≠ noCtx ∧ ctxNamed s 1 d = some ⟨false, false, 0⟩ ∧ s.sc.ready = true ∧ ctxFilling s ⟨false, false, 0⟩ = false ∧
      ctxHeld s 1 ⟨false, false, 0⟩ = false ∧ s.sc.wb = [] ∧ (ctxGet s ⟨false, false, 0⟩).st = 1 ∧
      (ctxGet s ⟨false, false, 0⟩).kind = hKind d ∧ (ctxGet s ⟨false, false, 0⟩).owner = 1 := by decide +kernel
theorem test_hyps_DescriptorLoadRule_granted : ∀ p, (judgeOut testBusy 1 false p).ok = true := fun _ => rfl
theorem test_hyps_BlockDoneOrRetried :
    let j := { testJob with
      phase := .exec, plan := { Plan.none with blocks := [⟨[], false, none, none, 1, false, none⟩, ⟨[], false, none, none, 1, false, none⟩] }, check := 1, action := 1, retryMax := 3 }
    let s := setUni testBusy 1 { Uni.init with job := some j }
    engineUp s = true ∧ (getUni s 1).job = some j ∧ findChain s 0 = some testChain ∧
      j.plan.blocks[j.blk]? = some ⟨[], false, none, none, 1, false, none⟩ ∧ j.blk + 1 < j.plan.blocks.length ∧ j.tries < j.retryMax ∧
      j.stop = none ∧ (getUni s 1).ar.loaded = [] ∧ ((unitRec s 1).map (·.cls)).getD 0 ≠ 2 ∧
      (treeOf s.chart.units 9 1).Nodup := by decide +kernel
theorem test_hyps_ResponsesReachOrigin :
    let y := { testTxn with tag := 4, write := true, len := 32, who := .record 0 0 }
    let s := setPort (setChain testLive testChain) 0 ⟨4, 4, 4, 4, [], [testTxn, y]⟩
    running s = true ∧ struck s = false ∧ (getPort s 0).sendQ = [] ∧
      (getPort s 0).out.find? (fun x => x.tag == 3 && x.write == false && x.left == 0) = some testTxn ∧
      (getPort s 0).out.find? (fun x => x.tag == 4 && x.write == true && x.left == 0) = some y ∧
      beats testTxn.addr testTxn.len = 1 ∧ s.clk.meridian ≤ testTxn.at_ + fabricR s ∧
      (∀ x ∈ (getPort s 0).out, x.write = false → x.left = 0 → x.tag ≠ 5) ∧ findChain s 0 = some testChain ∧
      (getCq s 0).noteN + 1 < max 1 { testCq with coalCount := 2 }.coalCount ∧ cqResetting s 0 = false := by decide
/-- A beat of zeros with its odd parity, and one whose parity is wrong. -/
theorem test_hyps_ResponsesReachOrigin_parity :
    (∀ c ∈ [(⟨0xFFFF, false⟩ : RdCheck)],
      c.err = false ∧ ∀ i, i < 16 → c.par.getLsbD i = oddBit (leAt (zeros 64) (4 * i) 4) 0 32) ∧
      ¬∀ i, i < 16 → (0xFFFE : BitVec 16).getLsbD i = oddBit (leAt (zeros 64) (4 * i) 4) 0 32 := by decide +kernel

theorem test_hyps_NoticesAndIntervals :
    active testDev = true ∧ testDev.py.iv < testDev.clk.meridian / 2 ^ 32 ∧
      granted testDev testAccess true (mgmtAt testAccess 0x60020) = true ∧
      granted testDev testAccess true (mgmtAt testAccess 0x400008) = true ∧
      testDev.ac.lockIv < testDev.clk.meridian / 2 ^ 32 ∧ State.reset.clk.meridian / 2 ^ 32 ≤ State.reset.py.iv := by decide
theorem test_hyps_KvPeekAndErase :
    let s := setSlot testDev 0 { Slot.empty with kind := 1, own := 1, gen := 1, klen := 16, key := zeros 16 }
    kvTakes s testAccess = true ∧ (kvHolder s s.kv.idx.toNat).isSome = true ∧ kvHolder testRun 0 = none ∧
      (getSlot s s.kv.idx.toNat).kind ≠ 3 ∧ (getSlot s s.kv.idx.toNat).badSeen = false ∧
      (getSlot (setSlot testDev 0 { Slot.empty with kind := 3 }) 0).kind = 3 := by decide
/-- Whether the parts of a drawn TDES key differ hangs on free bytes, which no proof can evaluate; the other hypotheses of both TDES
clauses are met here. -/
theorem test_hyps_DrbgAndGenerate :
    let s := { testDev with kv := { testDev.kv with attr := 0x101, drbg := List.replicate 8 ⟨true, 0, 2 ^ 40⟩ } }
    engineUp s = true ∧ s.kv.healthFail = false ∧ 5 ≤ s.pw.step ∧ s.pw.step < 15 ∧ (drbgOf s 0).seeded = true ∧
      (drbgOf s 0).reqs < 2 ^ 20 ∧ s.clk.meridian < (drbgOf s 0).at_ + 2 ^ 32 ∧
      (drbgOf testDev 0).at_ + 2 ^ 32 ≤ testDev.clk.meridian ∧ kvTakes s testAccess = true ∧
      kvWritable s s.kv.idx.toNat = none ∧ (slotOwner s 0).isSome = true ∧ wfld s.kv.attr 13 3 = 0 ∧
      wfld s.kv.attr 22 10 = 0 ∧ drbgUp s 0 = true ∧
      attrOk (mkAttr (atEngine s.kv.attr) (atUsage s.kv.attr) 0 false (atExport s.kv.attr)) 16 = true := by decide
theorem test_hyps_KvBlobCommandsStart :
    let s := setSlot { testDev with
      lc := { testDev.lc with state := 3 }
      kv := { testDev.kv with len := 48, dlen := 224, attValid := true } } 0
      { Slot.empty with kind := 1, own := 1, gen := 1, klen := 16, key := zeros 16 }
    kvTakes s testAccess = true ∧ kvWritable s 0 = none ∧ pieces s.kv.src s.kv.len.toNat ≠ [] ∧
      (kvHolder s 0).isSome = true ∧ atOrigin (getSlot s 0).attr = false ∧ atExport (getSlot s 0).attr = false ∧
      s.kv.attValid = true ∧ 224 ≤ s.kv.dlen.toNat ∧ lodeUsable s = true ∧
      blobLen (16 + (getSlot s 0).pubh.length + (getSlot s 0).key.length) ≤ s.kv.dlen.toNat ∧
      (getSlot testDev 1).kind = 0 := by decide
theorem test_hyps_VaultEraseAndScrub :
    kvTakes testDev testAccess = true ∧
      (let s := { testDev with kv := { testDev.kv with
        scrubAt := some (2 ^ 40 - 32768), drbg := List.replicate 8 ⟨true, 0, 2 ^ 40⟩ } }
       engineUp s = true ∧ 2 ^ 40 - 32768 + 32768 ≤ s.clk.meridian ∧ drbgUp s 0 = true ∧ maskable s = true) ∧
      drbgUp testDev 0 = false ∧ maskable { testDev with bn := { testDev.bn with eraseHold := 1 } } = false ∧
      ownsSlot testDev 1 0 = true ∧ ownsSlot testDev 1 (2 ^ 15) = false ∧
      (let s := setUni { testDev with kv := { testDev.kv with dAtt := some 5 } } 3 { Uni.init with vault := true }
       engineUp s = true ∧ s.chart.ksu = some 3 ∧ s.kv.attValid = false ∧ (getUni s 3).vault = true) := by decide

/-- The host holds unit 2. -/
def testHeld : State := setUni testDev 2 { Uni.init with hostHeld := true }

theorem test_hyps_AtCommandsRule :
    atTakes testHeld testAccess 2 = true ∧ (unitRec testHeld 2).any (fun r => !r.sealed) = true ∧
      wfld (getUni testHeld 2).ar.opdDA 0 16 < opdCount testHeld 2 ∧
      atCheck testHeld 2 ⟨1, 0, 0, 0, 0, 0, 0, 0, 0, 0, .none, 0, false, false⟩ = none ∧
      (atCheck testHeld 2 ⟨1, 0, opdCount testHeld 2, 0, 0, 0, 0, 0, 0, 0, .none, 0, false, false⟩).isSome = true ∧
      granted testDev testAccess true (unitAt testAccess 2 0x48) = true ∧
      (unitRec testDev 2).any (fun r => r.cls == 2) = true ∧ quietWrites testDev = false ∧ struck testDev = false ∧
      (getUni testDev (topUnit testDev 2)).hostHeld = false := by decide
theorem test_hyps_AtResultsExact :
    let c : AtCmd := ⟨0x10, 0, 0, 2, 3, 0, 0, 0, 0, 0, .none, 0, false, false⟩
    let s := setUni testDev 2 { Uni.init with hostHeld := true, ar := { Uni.init.ar with busy := true, cmd := some c } }
    engineUp s = true ∧ Memory.wf s.opmem = true ∧ (getUni s 2).ar.cmd = some c ∧ c.due ≤ s.clk.meridian ∧
      c.gather.need = 0 ∧ c.out = 0 ∧ c.sent = false ∧ atFault c = false ∧ c.op ∈ [1, 8, 9, 0x0A, 0x10, 0x11, 0x12] := by decide
theorem test_hyps_AtButterflyLanes :
    let c : AtCmd := ⟨0x18, 0, 0, 2, 3, 4, 3, 0, 0, 0, .none, 0, false, false⟩
    let s := setUni testDev 2 { Uni.init with hostHeld := true, ar := { Uni.init.ar with busy := true, cmd := some c } }
    engineUp s = true ∧ (getUni s 2).ar.cmd = some c ∧ c.sent = false ∧ atFault c = false ∧ 3 ≤ c.q ∧ c.q < 2 ^ 31 := by decide
theorem test_hyps_ApertureRule :
    access testHeld testAccess true (mgmtAt testAccess 0x02000000) = (testHeld, none) ∧
      access testHeld testAccess false (mgmtAt testAccess 0x02000000) = (testHeld, none) := ⟨rfl, rfl⟩
theorem test_hyps_ApertureRule_form : apertureUnit testHeld 0 = some 2 ∧ apertureOk testHeld 2 testAccess 0 = true ∧
    accessBytes testAccess.size = 4 ∧ apertureDiffers testHeld 2 true = false ∧
    apertureOk testHeld 2 testAccess 2 = false := by decide
theorem test_hyps_HostClaimAndRelease :
    granted testDev testAccess true (unitAt testAccess 2 4) = true ∧ quietWrites testDev = false ∧
      (unitRec testDev 2).any (fun r => r.hostClaim && r.cls == 2) = true ∧ ownerFree testDev 2 = true ∧
      (getUni testHeld 2).hostHeld = true ∧ (getUni testHeld 2).ar.cmd = none ∧ (getUni testDev 2).hostHeld = false ∧
      (unitRec testDev 1).any (fun r => r.hostClaim && r.cls != 2) = true ∧
      (getUni (setUni testDev 2 { Uni.init with hostHeld := true, ar := { Uni.init.ar with
        busy := true, cmd := some ⟨1, 0, 0, 0, 0, 0, 0, 0, 0, 0, .none, 0, false, false⟩ } }) 2).ar.cmd ≠ none ∧
      (let s := setUni testDev 2 { Uni.init with relScrub := true, scrubAt := 2 ^ 40 - 4096 }
       running s = true ∧ (getUni s 2).scrubAt + 4096 ≤ s.clk.meridian) := by decide
theorem test_hyps_ScrubTrapAndPreempt :
    running testDev = true ∧ (getUni (setUni testDev 3 { Uni.init with st := 2 }) 3).st = 2 ∧
      (getUni (setUni testDev 3 { Uni.init with st := 4 }) 3).st = 4 ∧ (getUni testDev 3).st = 0 ∧ engineUp testDev = true ∧
      testDev.ch.state = 2 ∧ (getHelm testDev 0).st ≠ 3 ∧
      granted testDev testAccess true (mgmtAt testAccess 0x70038) = true ∧ testDev.hl.preBusy = false ∧
      preemptible testDev 3 = true ∧ preemptible testDev 2 = false ∧
      (getUni (setUni testDev 3 { Uni.init with job := some testJob }) 3).job ≠ none := by decide

theorem test_hyps_ChartRule :
    (let s := { testDev with ch := { testDev.ch with src := 64, len := 640 } }
     granted s testAccess true (mgmtAt testAccess 0x10004) = true ∧ failedStart s = false ∧ struck s = false ∧
       s.ch.held = none ∧ 5 ≤ s.pw.step ∧ nostart s = false ∧ s.ch.busy = false ∧ s.ch.state ≠ 1 ∧ s.lc.busy = false ∧
       s.lc.state = 0x0F) ∧
      (let s := { testDev with lc := { testDev.lc with state := 3 }, ch := { testDev.ch with src := 64, len := 640 } }
       s.lc.state ≠ 6 ∧ s.lc.state ≠ 0x0F ∧ s.ch.src % 64 = 0 ∧ s.ch.len ≠ 0 ∧ s.lc.busy = false ∧ s.ch.state = 2 ∧
         busyDevice s = false ∧ anyCtx s = false ∧ s.lc.ops = [] ∧ fuseGo s = true ∧
         (thermoBits s 66 (chartMinSvn s) (max (chartMinSvn s) s.ch.svn) = [] ∧
           thermoBits { s with ch := { s.ch with svn := 1 } } 66 0 1 = [2112])) ∧
      (let o : FuseOp := ⟨.field, [.bits 0 [1024]], 0, true, 0, (2 ^ 40 - 36000, 2 ^ 40 - 384)⟩
       let s := { testDev with lc := { testDev.lc with ops := [o] } }
       active s = true ∧ s.lc.ops = ⟨.field, .bits 0 (1024 :: []) :: [], 0, true, 0, (2 ^ 40 - 36000, 2 ^ 40 - 384)⟩ :: [] ∧
         o.bitAt.1 + 36000 ≤ s.clk.meridian ∧ s.clk.meridian < o.bitAt.1 + 36001) := by decide +kernel
/-- The clause on an installed image has no state written out: it needs a signature that holds under the opaque key check of
Config, which no proof can evaluate. The clause on a refused image is met here. -/
theorem test_hyps_ChartLoadEnds :
    let s := { testDev with ch := { Ch.reset with state := 1, busy := true, gather := ⟨0, [(0, [1])], none⟩ } }
    engineUp s = true ∧ s.ch.state = 1 ∧ s.ch.gather.need = 0 ∧ s.ch.gather.bytes = [1] ∧ s.ch.gather.err = none ∧
      loadFailure s s.ch.gather.bytes = some (1, ⟨0x02, 0, 0, 0⟩) := by decide +kernel
theorem test_hyps_TransactionRule :
    (∀ o ∈ [0x100, 0x104, 0x108], granted testDev testAccess true (mgmtAt testAccess o) = true) ∧
      failedStart testDev = false ∧ quietWrites testDev = false ∧ wbit (1 : Word) 0 = true ∧
      (let s := { testDev with tx := { Tx.reset with state := 2, spoiled := true } }
       engineUp s = true ∧ s.tx.state = 2 ∧ txCheck s = some ⟨0x38, 0, 0, 0⟩) ∧
      (let s := { testRun with tx := { Tx.reset with state := 2 } }
       engineUp s = true ∧ s.tx.state = 2) := by decide +kernel
/-- A Chart of every tile as a unit of its own and of the PF alone. -/
def testWhole : Chart :=
  let u := fun (cls base n : Nat) =>
    (List.range n).map (fun i => (⟨base + i, cls, false, 0, false, i, none, 0, 0, 0, false, none, none⟩ : UnitRec))
  ⟨512, 1, 0, none, u 0 0 128 ++ u 1 128 32 ++ u 2 160 32, [], [], [], [⟨0, 1, 0, 0, 0, 0, 0, 0, 0, 0, 0, 0, 0⟩], [], false⟩

theorem test_hyps_TransactionRule_passes :
    txCheck { testRun with chart := testWhole, tx := { Tx.reset with state := 2 } } = none := by decide +kernel
theorem test_hyps_PatchWholeOrNot :
    (let s := { testDev with tx := { Tx.reset with state := 1, plen := 16 } }
     granted s testAccess true (mgmtAt testAccess 0x130) = true ∧ s.tx.pbusy = false ∧ s.tx.plen % 8 = 0 ∧
       s.tx.plen ≠ 0 ∧ s.tx.plen ≤ 131072 ∧ (12 : Nat) % 8 ≠ 0 ∧
       granted { s with tx := { s.tx with state := 2 } } testAccess true (mgmtAt testAccess 0x130) = true) ∧
      (let s := { testDev with tx := { Tx.reset with
        state := 1, pbusy := true, gather := ⟨0, [(0, [3, 3, 0, 0, 1, 0, 0, 0])], none⟩ } }
       engineUp s = true ∧ s.tx.gather.need = 0 ∧ s.tx.gather.err = none ∧
         parsePatches 1 s.tx.gather.bytes = some [⟨3, 3, 1, []⟩] ∧
         shadowUsed s + s.tx.gather.bytes.length ≤ 131072 ∧ parsePatches 1 [8, 1, 0, 0, 0, 0, 0, 0] = none) := by
  decide +kernel
theorem test_hyps_TransactionalWriteReachesShadow :
    let s := { testDev with tx := { Tx.reset with state := 1 }, sc := { testDev.sc with fnSel := 1 } }
    (∀ o ∈ [0x400000, 0x401000, 0x402FEC, 0x40024],
      granted s testAccess true (mgmtAt testAccess o) = true ∧ (txTarget s o 0).isSome = true ∧ o % 4 = 0) ∧
      s.tx.state = 1 ∧ testDev.tx.state ≠ 1 ∧ (∀ k ∈ [6, 0x10, 0x13], patchesOf s.tx.shadow k = []) ∧
      shadowUsed s + 48 ≤ 131072 ∧ 0x402FEC = 0x401000 + 0x20 * 255 + 4 * 3 ∧
      (funcRec s s.sc.fnSel.toNat).any (fun r => parseFunc (funcBytes r) == r) = true := by decide +kernel

theorem test_hyps_FunctionResets :
    flrReady testDev = true ∧ ported testDev = true ∧ testDev.pw.mode = .run ∧ (getFn testDev 1).resetting = false ∧
      testDev.pw.coreHeld = false ∧ flrReady { testDev with pw := { testDev.pw with step := 4 } } = false ∧
      (funcRec testDev 1).isSome = true ∧ funcRec testDev 2 = none ∧ (getFn testDev 2).resetting = false ∧
      granted testDev testAccess true (mgmtAt testAccess 8) = true ∧
      granted testDev testAccess true (vfAt testAccess 0 0) = true ∧ granted testDev testAccess true (vfAt testAccess 1 0) = true ∧
      (let s := setFn testDev 1 { Fn.init with resetting := true, ctxFill := true }
       engineUp s = true ∧ (getFn s 1).resetting = true ∧ vfQuiet s 1 = true ∧ (getFn s 1).t0 ≤ controlCycle s ∧ (getFn s 1).ctxFill = true ∧
         (getFn s 1).fillAt + fillTime (getFn s 1) ≤ s.clk.meridian ∧
         vfQuiet (setPort s 0 ⟨0, 0, 0, 0, [], [{ testTxn with func := 1 }]⟩) 1 = false) := by decide
theorem test_hyps_ResetSurvival :
    (let s := { testDev with pw := { testDev.pw with block := some (0, 0) } }
     active s = true ∧ struck s = false ∧ s.lc.busy = false ∧ blockQuiet s = true) ∧
      (let s := { testDev with bn := { testDev.bn with erase := some ⟨1, 0, true, true, true⟩ } }
       active s = true ∧ fuseInBit s = false) ∧
      testDev.bn.vsbRst = false ∧ testDev.lb.scanning = false ∧ vddUp testDev = true ∧ testDev.bn.erase = none ∧
      (let s := { testDev with pw := { testDev.pw with block := some (2 ^ 40 - 7536, 2 ^ 40 - 81) } }
       2 ^ 40 - 81 + cdiv ((6000 + fabricR s) * 32) 3000 ≤ s.bn.btime ∧ fabricR s = 1536 ∧ 2 ^ 40 - 7536 + 6000 + fabricR s ≤ s.clk.meridian) ∧
      (let s := { testDev with bn := { testDev.bn with vsbRst := true, vsbUp := true } }
       s.bn.vsbRst = true ∧ s.bn.vsbUp = true ∧ s.lb.queue = []) := by
  decide
theorem test_hyps_DirtyLogCommands :
    (∀ o ∈ [0x28, 0x30, 0x34, 0x38], granted testDev testAccess true (vfAt testAccess 8191 o) = true) ∧
      wfld (8 : Word) 0 5 < 9 ∧ 9 ≤ wfld (9 : Word) 0 5 ∧ wfld (20 : Word) 0 5 ≤ 20 ∧ 20 < wfld (21 : Word) 0 5 ∧
      (let s := setFn testDev 1 { Fn.init with dl := { Dl.init with sweepAt := some (2 ^ 40 - 4096) } }
       active s = true ∧ (getFn s 1).dl.sweepAt = some (2 ^ 40 - 4096) ∧ 2 ^ 40 - 4096 + 4096 ≤ s.clk.meridian) := by
  decide
theorem test_hyps_FunctionPortAndCredits :
    (let y : Lane := ⟨0, [⟨0, 1, false⟩], [(⟨0, 2, false⟩, 2 ^ 38 - 1)]⟩
     let s := setLane testDev false y
     ported s = true ∧ struck s = false ∧ getLane s false = y ∧
       y.sent.find? (fun x => x.2 + 1 == controlCycle s) = some (⟨0, 2, false⟩, 2 ^ 38 - 1) ∧ y.crd = 0 ∧
       y.waiting = ⟨0, 1, false⟩ :: [] ∧ y.sent.head?.map (·.2) ≠ some (controlCycle s) ∧ (getLane s true).waiting = [] ∧
       (getLane s true).sent.find? (fun x => x.2 + 1 == controlCycle s) = none) ∧
      ported { testDev with scanMode := true } = false ∧ running testDev = true ∧ running State.reset = false ∧
      (let s := setPort testDev 7 ⟨0, 0, 1024, 1024, [testTxn], []⟩
       engineUp s = true ∧ blockReq s = false ∧ (getPort s 7).reqCrd = 0 ∧ (getPort s 7).sendQ = testTxn :: [] ∧
         freeTag (getPort s 7) = some 0 ∧ beatsOut (getPort s 7) + beats testTxn.addr testTxn.len ≤ 1024 ∧
         (judgeOut s testTxn.func false testTxn.addr).ok = true ∧
         (∀ y ∈ pieces testTxn.addr (testTxn.len + testTxn.rest), (judgeOut s testTxn.func false y.2.1).ok = true) ∧
         (getPort s 6).sendQ = []) ∧
      (let x := { testTxn with write := true, left := 1 }
       let s := setPort testDev 7 ⟨0, 0, 1024, 1024, [], [x]⟩
       (getPort s 7).wdCrd = 0 ∧ (getPort s 7).out = x :: [] ∧ x.left ≠ 0 ∧ (getPort s 7).sendQ = []) ∧
      (let s := { testEdge testCq with
         tp0 := [⟨0, []⟩, ⟨1, []⟩], fdn := [1], tpq := [true], dbg := [0], ready := { testLive.ready with trs0 := false } }
       edgeQuiet s = true ∧ s.ready.trs1 = true ∧ s.ready.trs0 = false) ∧
      outputLost testDev { testTxn with who := .chart } = none := by decide +kernel
theorem test_hyps_DebugAuthorisation :
    granted testDev testAccess true (mgmtAt testAccess 0x400050) = true ∧ testDev.ac.dbgBusy = false ∧
      drbgUp { testDev with kv := { testDev.kv with drbg := List.replicate 8 ⟨true, 0, 2 ^ 40⟩ } } 0 = true ∧
      (let s := { testDev with ac := { testDev.ac with dbgBusy := true, nonceAt := some (2 ^ 40 - 2 ^ 32) } }
       engineUp s = true ∧ s.ac.dbgCode = 0 ∧ active s = true ∧ 2 ^ 40 - 2 ^ 32 + 2 ^ 32 ≤ s.clk.meridian) := by decide

/-- The bytes of a present debugger with their parity. -/
def testDebug (l : Bytes) : DebugReq := ⟨true, 0, 1, l.map (fun x => (x, oddBit x.toNat 0 8)), ⟨true, false⟩⟩

theorem test_hyps_DebugInterface :
    let s := { testDev with lc := { testDev.lc with state := 1 } }
    ported s = true ∧ s.dbgIn = ⟨[], false⟩ ∧ oddBit (1 : Byte).toNat 0 8 = false ∧ oddBit (3 : Byte).toNat 0 8 = true ∧
      (⟨true, 0, 1, [(1, false), (0, true), (0, true), (0, true), (0, false)], ⟨true, false⟩⟩ : DebugReq).bytes.map (·.1) = [1] ++ toLE 4 0 ∧
      dbgLocked s 0x10000000 = true ∧ dbgLocked s 0x187FFFFC = true ∧ dbgLocked s 0x19400000 = false ∧
      lockedOff testDev (dbgReq (testDebug []) 0x118 false) = false ∧
      debugPass testDev (dbgReq (testDebug []) 0x118 false) = false ∧
      (judge s (dbgReq (testDebug []) 0x118 false)).2 = none ∧ (judge s (dbgReq (testDebug []) 0x10014 true)).2 = none ∧
      (judge s (dbgReq (testDebug []) 0x19400000 false)).2 = none ∧ tileSealed s 0 = false ∧ storedTile s 0 = 0 ∧
      tileSealed s 31 = false ∧ storedTile s 31 = 31 ∧ (leafAt s 0).isSome = true := by decide
theorem test_hyps_DebugInterface_judged :
    let s := { testDev with lc := { testDev.lc with state := 1 } }
    judge s (dbgReq (testDebug []) 0x118 false) = (s, none) ∧ judge s (dbgReq (testDebug []) 0x10014 true) = (s, none) ∧
      judge s (dbgReq (testDebug []) 0x19400000 false) = (s, none) ∧
      judge s (dbgReq (testDebug []) 0x19400000 true) = (s, none) :=
  ⟨rfl, rfl, rfl, rfl⟩
theorem test_hyps_RefusedAccessHasNoEffect :
    let a := { testAccess with pl := 3 }
    ported testDev = true ∧ a.parityOk = true ∧ a.func.toNat ≤ 0x2000 ∧ decodeAddr a.func.toNat 0x118 = some 0x118 ∧
      lockedOff testDev (reqOf a false 0x118) = false ∧ a.debug = false ∧ a.fetch = false ∧
      (judgeIn testDev (reqOf a false 0x118)).1 = false ∧ decodeAddr 0 (2 ^ 26) = none ∧ coreRstN testDev = true ∧
      coreRstN { testDev with pw := { testDev.pw with rstLeft := 1 } } = false ∧ coreRstN { testDev with scanMode := true } = true ∧
      ported { testDev with scanMode := true } = false ∧
      (let s := { testDev with chart := { testChart with
        units := [⟨3, 2, false, 0, false, 0, some 2, 0, 0, 0, true, some 0, none⟩] } }
       lockedOff s (reqOf testAccess true 0x02000000) = true ∧
         lockedOff s (reqOf testAccess true 0x02040000) = false) := by decide
theorem test_hyps_RegisterAccesses :
    (∀ o ∈ [0x10014, 0x400044, 0x80040, 0x8006C, 0x1000C, 0x10010, 0x10038],
      granted testDev testAccess true (decodeAddr 0 o) = true) ∧
      (∀ o ∈ [0x400020, 0xA0120, 0xB0008, 0x118], granted testDev testAccess false (decodeAddr 0 o) = true) ∧
      granted testDev { testAccess with func := 1 } false (some 0x14) = true ∧ (funcRec testDev 1).isSome = true := by
  decide
theorem test_hyps_LifeCycleRule :
    (let s := { testRun with lc := { testRun.lc with state := 3 } }
     granted s testAccess true (mgmtAt testAccess 0x80004) = true ∧ failedStart s = false ∧
       wfld (0x4C430006 : Word) 16 16 = 0x4C43 ∧ wfld (0x4C430006 : Word) 8 8 = 0 ∧ s.lc.busy = false ∧
       permitted s.lc.state 6 = true ∧ permitted s.lc.state 2 = false ∧ s.ch.state ≠ 1 ∧ busyDevice s = false ∧
       supplyBad s = false) ∧
      (let s := { testRun with lc := { testRun.lc with busy := true, ops := [⟨.transition 6, [], 9, false, 0, (0, 0)⟩] } }
       active s = true ∧ struck s = false) ∧
      (let s := { testRun with lc := { testRun.lc with state := 2 } }
       granted s testAccess true (mgmtAt testAccess 0x8000C) = true ∧ s.lc.fuseBusy = false ∧ s.lc.ops = [] ∧
         wfld (1 : Word) 0 2 = 1 ∧ wfld (2 : Word) 0 2 = 2 ∧ wfld (3 : Word) 0 2 = 3) := by decide

theorem test_hyps_AlarmCommands :
    testDev.bn.vsbRst = false ∧ (0x802 : BitVec 12).getLsbD 0 = false ∧ newSources testDev 0x802 = 0x802 ∧
      strongest testDev 0x802 = 2 ∧ strongest testDev 0x200 = 0 ∧ testDev.bn.erase = none ∧ testDev.lb.queue.length < 32 ∧
      testDev.bn.alarmAt ≠ some testDev.bn.btime ∧
      (let s := { testDev with
         bn := { testDev.bn with alarmAt := some testDev.bn.btime, alarmSrc := 0x200 }
         lb := { testDev.lb with queue := [⟨4, false, false, true, 1, testDev.bn.btime, 0, 0, []⟩] } }
       s.lb.queue.any (alarmQueued s) = true ∧ newSources s 0x200 = 0 ∧ newSources s 0x400 = 0x400) ∧
      (let s := { testDev with bn := { testDev.bn with
         meshEn := 3, meshFail := 1, active := 0x1B, holdFrom := some (2 ^ 40 - 336), since := [(1, 2 ^ 40 - 33600)] } }
       newSources s 0x003 = 0 ∧ newSources s 0x004 = 4 ∧ (∀ n ∈ [0, 1, 3, 4], s.bn.active.getLsbD n = true) ∧
         s.bn.since.get 0 1 + 33600 ≤ s.bn.btime ∧ s.bn.since.get 0 0 ≤ s.bn.btime ∧ s.clk.lock = true ∧
         s.bn.meshAt.get 0 0 + 2048 ≤ s.bn.btime ∧ s.bn.holdSrc = 0 ∧ 2 ^ 40 - 336 + 336 ≤ s.bn.btime) := by decide
/-- Line B of pair 1 disagreed in the bit before, line A of pair 0 two bits before, and pair 2 is not enabled. -/
theorem test_hyps_AlarmCommands_mesh :
    let s := { testDev with bn := { testDev.bn with
      meshEn := 3, btime := 64, meshBad := [(0, 2), (2, 3), (17, 3)] } }
    meshTwice s 0x20005 = [17] ∧ meshLines s 0x20005 = [0, 17] ∧ s.bn.meshBad.get 0 17 = s.bn.btime / 32 + 1 := by decide
theorem test_hyps_BinnacleRule :
    (∀ o ∈ [0x90080, 0x900AC, 0x900BC, 0x90004, 0x90030, 0x90034, 0x9003C],
      granted testDev testAccess true (mgmtAt testAccess o) = true) ∧ wfld (2 : Word) 0 2 ≠ 3 ∧
      (let s := { testDev with bn := { testDev.bn with erase := some ⟨1, 2 ^ 40 - 393336, false, true, true⟩ } }
       active s = true ∧ 2 ^ 40 - 393336 + 393336 ≤ s.clk.meridian) ∧
      (let s := setUni testDev 2 { Uni.init with st := 4 }
       (unitRec s 2).any (fun r => r.parent.isNone && r.helm.isNone) = true ∧ (getUni s 2).st = 4 ∧
         s.bn.faultBusy = false ∧ (getUni s 1).st ≠ 4) ∧
      (unitRec testDev 3).any (fun r => r.parent.isNone && r.helm == some 0) = true ∧ (getHelm testDev 0).st ≠ 3 ∧
      running { testDev with bn := { testDev.bn with faultBusy := true } } = true := by decide
theorem test_hyps_SupplyMonitor :
    testDev.bn.vsbRst = false ∧ { testDev.bn with vsbRst := true }.vsbRst = true ∧ (120 : Int) < (121 : BitVec 8).toInt ∧
      ¬(120 : Int) < (120 : BitVec 8).toInt ∧ (0xCD : BitVec 8).toInt < -50 ∧ (0xCE : BitVec 8).toInt = -50 ∧
      (let s := { testDev with bn := { testDev.bn with btime := 31, overVsb := 31, overVdd := 3, overEnd := 31 } }
       (s.bn.btime + 1) % 32 = 0 ∧ s.bn.active.getLsbD 2 = false ∧ s.bn.active.getLsbD 7 = false ∧
         s.bn.alarmAt ≠ some (s.bn.btime + 1) ∧ 31 ≤ s.bn.overVsb ∧ 3 ≤ s.bn.overVdd ∧ 31 ≤ s.bn.overEnd) ∧
      (let s := { testDev with bn := { testDev.bn with
        nostart := true, warnEnd := 2 ^ 40 - 336, group := some ⟨170, 700, 5, 1, 2 ^ 40 - 33600, 1⟩ } }
       s.bn.vsbWarn = false ∧ s.bn.vddWarn = false ∧ s.bn.warnEnd + 336 ≤ s.bn.btime ∧
         2 ^ 40 - 33600 + 33600 ≤ s.bn.btime) ∧
      (let s := { testDev with bn := { testDev.bn with vddRst := true, vddUp := true, vddLow := 1 } }
       s.bn.vsbRst = false ∧ vddUp s = true ∧ vddUp { s with bn := { s.bn with vddUp := false } } = false) := by decide
theorem test_hyps_SoundingsCommands :
    granted testDev testAccess true (mgmtAt testAccess 0xB0004) = true ∧
      granted testDev testAccess true (mgmtAt testAccess 0xB000C) = true ∧ testDev.sd.clearing = 0 ∧
      (let s := { testDev with sd := { testDev.sd with frozen := true, freezeAt := 2 ^ 40 - 30000000 } }
       active s = true ∧ s.sd.freezeAt + 30000000 ≤ s.clk.meridian) ∧ running testDev = true ∧
      testDev.sd.clearEnd ≤ testDev.clk.meridian := by decide
theorem test_hyps_LogbookWriter :
    (let r : LogRec := ⟨4, true, true, true, 3, 0, 0, 0, zeros 32⟩
     let s := { testDev with lb := { testDev.lb with queue := [r], pinned := 255 } }
     s.lb.scanning = false ∧ s.lb.queue = r :: [] ∧ s.lb.second = false ∧ s.lb.pinned < 256) ∧
      testDev.lb.tokenAt + 2 ^ 25 ≤ testDev.bn.btime ∧ newest 0 [] = none ∧ newest 256 [] = none ∧
      { testDev.lb with scanning := true }.scanning = true ∧ lastSeq [] = none := by decide
/-- A circular record of SEQ 8, one pinned copy of an older record and one of the record that follows. -/
theorem test_hyps_LogbookWriter_scan :
    let r : LogRec := ⟨4, true, true, true, 3, 0, 0, 0, zeros 32⟩
    let rec_ := fun (n : Nat) => logBytes { testDev with lb := { testDev.lb with seq := n } } r
    newest 256 [(0, rec_ 2), (300, rec_ 7)] = some (300, wordAt (rec_ 7) 0) ∧
      lastSeq [(0, rec_ 2), (300, rec_ 7)] = some (wordAt (rec_ 7) 0) ∧
      lastSeq [(0, rec_ 8), (300, rec_ 7)] = some (wordAt (rec_ 8) 0) ∧ recordOk (rec_ 2) = true ∧
      ¬(0 < posDiff (wordAt (rec_ 2) 0) (wordAt (rec_ 7) 0)) := by decide +kernel
theorem test_hyps_ClockAndStartup :
    State.reset.clk.lock = false ∧ State.reset.pw.coreHeld = false ∧ State.reset.scanMode = false ∧
      State.reset.pw.mode = .run ∧ State.reset.pw.step = 1 ∧ active State.reset = true ∧ testDev.clk.lock = true ∧
      testDev.bn.active.getLsbD 3 = false ∧ testDev.bn.alarmAt ≠ some testDev.bn.btime ∧ State.reset.lb.queue.length < 32 ∧
      engineUp testDev = true ∧
      (let s := { testRun with pw := { testRun.pw with step := 3 } }
       engineUp s = true ∧ s.lc.ops = [] ∧ decodeFuses s = .state 1) ∧
      eraseHold { testRun with bn := { testRun.bn with eraseHold := 1 } } = true ∧ testRun.kv.healthFail = false ∧
      testRun.ch.held = none := by decide +kernel
theorem test_hyps_PowerRule :
    granted testRun testAccess true (mgmtAt testAccess 0xA0108) = true ∧ failedStart testRun = false ∧
      testRun.pw.reqBusy = false ∧ pwJudge testRun true = 0 ∧ pwJudge testRun false = 0 ∧ pwJudge State.reset true = 6 ∧
      portsQuiet { testRun with pw := { testRun.pw with mode := .a2Entry } } = true ∧
      active { testRun with pw := { testRun.pw with mode := .a2Entry } } = true ∧ testRun.clk.lock = true ∧
      testRun.pw.coreHeld = false ∧ testRun.pw.pswAck.getLsbD 22 = true ∧ testRun.pw.mode ≠ .a2 ∧
      (getUni (setUni testRun 1 { Uni.init with key := some ⟨0, 0, 1, []⟩ }) 1).vault = false ∧
      { testRun with pw := { testRun.pw with mode := .a2Exit, flrWake := [(1, true)] } }.pw.flrWake ≠ [] ∧
      testEnabled { testRun with lc := { testRun.lc with state := 1 } } = true ∧ testRun.scanMode = false := by decide

end Sys2Proof.Machine
end

namespace Sys2Proof.Machine

/-!
# No command touches the queue of commands

The queue `pending` is the model's own (log entry 1): `step` alone takes from it, and every function that a command or a
root cycle is made of keeps it. One lemma per function says so, in the order of the model: by unfolding it, by splitting
its branches where it has matches, and by the lemmas of the functions it calls. A function that answers an `Option` has
its lemma about the state inside. So every command completes with the queue it was given.
-/

/-! ## Outcomes, branches and folds -/

/-- An outcome of a command that completes: there is a next state, and it holds the queue of s. -/
def Completes (s : State) (o : Host.Outcome State Fault Refusal) : Prop := ∃ t, o = .next t ∧ t.pending = s.pending

@[simp] theorem completes_next (s t : State) : Completes s (.next t) ↔ t.pending = s.pending := by
  simp [Completes]

@[simp] theorem ite_pending (c : Prop) [Decidable c] (a b : State) :
    (if c then a else b).pending = if c then a.pending else b.pending := apply_ite ..

/-- The state that a match on a pair names holds the queue of the pair's state. -/
theorem fst_pending {α : Type} {x : State × α} {t : State} {r : α} (h : x = (t, r)) : t.pending = x.1.pending := by
  rw [h]

@[simp] theorem foldl_pending {α : Type} (f : State → α → State) (l : List α) (s : State)
    (h : ∀ t x, (f t x).pending = t.pending) : (l.foldl f s).pending = s.pending := by
  induction l generalizing s with
  | nil => rfl
  | cons x l ih => simp [ih, h]

/-- The effect that a choice yields keeps the queue if the effects of both branches do. -/
theorem ite_effect_pending {c : Prop} [Decidable c] {a b : Option (State → State)}
    (ha : ∀ f ∈ a, ∀ t, (f t).pending = t.pending) (hb : ∀ f ∈ b, ∀ t, (f t).pending = t.pending) :
    ∀ f ∈ (if c then a else b), ∀ t, (f t).pending = t.pending := by
  split <;> assumption

@[simp] theorem foldl_setPool_pending {α : Type} (p : State → α → Nat) (x : State → α → Pool) (l : List α) (s : State) :
    (l.foldl (fun t a => setPool t (p t a) (x t a)) s).pending = s.pending :=
  foldl_pending _ _ _ fun _ _ => rfl

@[simp] theorem foldl_setUni_pending {α : Type} (u : State → α → Nat) (x : State → α → Uni) (l : List α) (s : State) :
    (l.foldl (fun t a => setUni t (u t a) (x t a)) s).pending = s.pending :=
  foldl_pending _ _ _ fun _ _ => rfl

@[simp] theorem foldl_setSlot_pending {α : Type} (i : State → α → Nat) (x : State → α → Slot) (l : List α) (s : State) :
    (l.foldl (fun t a => setSlot t (i t a) (x t a)) s).pending = s.pending :=
  foldl_pending _ _ _ fun _ _ => rfl

@[simp] theorem foldl_count_pending {α : Type} (u : State → α → Nat) (f : State → α → Counts → Counts) (l : List α)
    (s : State) : (l.foldl (fun t a => count t (u t a) (f t a)) s).pending = s.pending :=
  foldl_pending _ _ _ fun _ _ => rfl

/-! ## Machine/Ops.lean -/

@[simp] theorem setLane_pending (s odd l) : (setLane s odd l).pending = s.pending := by simp [setLane]

@[simp] theorem flushLane_pending (s odd) : (flushLane s odd).pending = s.pending := by
  simp only [flushLane]; (repeat' split) <;> simp

@[simp] theorem emitNotice_pending (s f k) : (emitNotice s f k).pending = s.pending := by simp [emitNotice]

@[simp] theorem sendNotice_pending (s f k) : (sendNotice s f k).pending = s.pending := by simp [sendNotice]

@[simp] theorem pfNotice_pending (s cfg) : (pfNotice s cfg).pending = s.pending := by simp [pfNotice]

@[simp] theorem flushLanes_pending (s) : (flushLanes s).pending = s.pending := by simp [flushLanes]

@[simp] theorem lbLatch_pending (s i) : (lbLatch s i).pending = s.pending := by simp [lbLatch]

@[simp] theorem writeSlot_pending (s) : (writeSlot s).pending = s.pending := by
  simp only [writeSlot]; (repeat' split) <;> simp

@[simp] theorem lbRoom_pending (n s) : (lbRoom n s).pending = s.pending := by
  induction n generalizing s with
  | zero => rfl
  | succ n ih => unfold lbRoom; split <;> simp [ih]

@[simp] theorem lbAppend_pending (s type pin exempt data) :
    (lbAppend s type pin exempt data).pending = s.pending := by simp [lbAppend]

@[simp] theorem logReq_pending (s type pin exempt data) :
    (logReq s type pin exempt data).pending = s.pending := by simp [logReq]

@[simp] theorem sounding_pending (s i f) : (sounding s i f).pending = s.pending := by simp [sounding]

@[simp] theorem depthSounding_pending (s g) : (depthSounding s g).pending = s.pending := by simp [depthSounding]

@[simp] theorem bnLatch_pending (s i) : (bnLatch s i).pending = s.pending := by simp [bnLatch]

@[simp] theorem acLatch_pending (s i) : (acLatch s i).pending = s.pending := by simp [acLatch]

@[simp] theorem outViolation_pending (s addr info rule) :
    (outViolation s addr info rule).pending = s.pending := by simp [outViolation]

@[simp] theorem sendTxn_pending (s n t v) : (sendTxn s n t v).pending = s.pending := by simp [sendTxn]

@[simp] theorem refuseTxn_pending (s n t v) : (refuseTxn s n t v).pending = s.pending := by simp [refuseTxn]

@[simp] theorem setDl_pending (s f d) : (setDl s f d).pending = s.pending := by simp [setDl]

theorem dlPage_pending {s f n page who pools t} (h : dlPage s f n page who pools = some t) :
    t.pending = s.pending := by
  simp only [dlPage] at h
  (repeat' split at h) <;> simp at h <;> simp [← h]

theorem dlBefore_pending {s n x t} (h : dlBefore s n x = some t) : t.pending = s.pending := by
  unfold dlBefore at h
  split at h
  · exact dlPage_pending h
  · cases h; rfl

@[simp] theorem comesToIssue_pending (s n t) : (comesToIssue s n t).1.pending = s.pending := by
  unfold comesToIssue
  split
  · rfl
  · split
    · rfl
    next u hu =>
      have h := dlBefore_pending hu
      simp only
      (repeat' split) <;> simp [h]

@[simp] theorem issueTxn_pending (s n t) : (issueTxn s n t).1.pending = s.pending := by
  have h : (if (getPort s n).sendQ.isEmpty then comesToIssue s n t else (s, .waits t)).1.pending = s.pending := by
    split <;> simp
  simp only [issueTxn]
  split
  · next hx => exact (fst_pending hx).trans h
  · exact h

@[simp] theorem issueOne_pending (s port func write addr len off data who pools) :
    (issueOne s port func write addr len off data who pools).1.pending = s.pending := by simp [issueOne]

@[simp] theorem issueAll_pending (s port func write data who pools l) :
    (issueAll s port func write data who pools l).1.pending = s.pending := by
  induction l generalizing s with
  | nil => rfl
  | cons p r ih =>
    unfold issueAll
    split <;> (next hx => simp [ih, fst_pending hx])

@[simp] theorem startRead_pending (s port func addr len who pools) :
    (startRead s port func addr len who pools).1.pending = s.pending := by simp [startRead]

@[simp] theorem dropQueued_pending (s p) : (dropQueued s p).pending = s.pending := by simp [dropQueued]

@[simp] theorem forget_pending (s p) : (forget s p).pending = s.pending := by simp [forget]

@[simp] theorem voidSupply_pending (s) : (voidSupply s).pending = s.pending := by simp [voidSupply]

@[simp] theorem voidFabric_pending (s hit) : (voidFabric s hit).pending = s.pending := by simp [voidFabric]

@[simp] theorem voidUnit_pending (s hit) : (voidUnit s hit).pending = s.pending := by simp [voidUnit]

@[simp] theorem respond_pending (s a r) : (respond s a r).pending = s.pending := by simp [respond]

/-! ## Machine/Operands.lean -/

@[simp] theorem lockedAccess_pending (s addr master func debug) :
    (lockedAccess s addr master func debug).pending = s.pending := by simp [lockedAccess]

@[simp] theorem inViolation_pending (s r rule) : (inViolation s r rule).pending = s.pending := by simp [inViolation]

@[simp] theorem judge_pending (s r) : (judge s r).1.pending = s.pending := by
  simp only [judge]; (repeat' split) <;> simp

@[simp] theorem access_pending (s a write off) : (access s a write off).1.pending = s.pending := by
  unfold access; (repeat' split) <;> simp

@[simp] theorem hostWrite_pending (s a off) (eff : State → State) (h : ∀ t, (eff t).pending = t.pending) :
    (hostWrite s a off eff).pending = s.pending := by
  unfold hostWrite
  split
  · rfl
  · split
    · next hx => simp [fst_pending hx]
    · next hx => split <;> simp [h, fst_pending hx]

@[simp] theorem loRead_pending (s key v) : (loRead s key v).1.pending = s.pending := by simp [loRead]

@[simp] theorem hiRead_pending (s key v) : (hiRead s key v).1.pending = s.pending := by
  unfold hiRead; split <;> simp

@[simp] theorem loWrite_pending (s key v) : (loWrite s key v).pending = s.pending := by simp [loWrite]

@[simp] theorem hiWrite_pending (s key v) (f : State → Nat → State) (h : ∀ t n, (f t n).pending = t.pending) :
    (hiWrite s key v f).pending = s.pending := h ..

/-! ## Machine/DirtyLog.lean -/

@[simp] theorem dlSweep_pending (s f) : (dlSweep s f).pending = s.pending := by simp [dlSweep]

@[simp] theorem dlCfgW_pending (s f v) : (dlCfgW s f v).pending = s.pending := by simp [dlCfgW]

@[simp] theorem dlConsumedW_pending (s f v) : (dlConsumedW s f v).pending = s.pending := by simp [dlConsumedW]

@[simp] theorem dlCmdW_pending (s f v) : (dlCmdW s f v).pending = s.pending := by simp [dlCmdW]

@[simp] theorem dlStatusW_pending (s f v) : (dlStatusW s f v).pending = s.pending := by simp [dlStatusW]

@[simp] theorem execDlEnable_completes (a f v s) : Completes s (execDlEnable a f v s) := by simp [execDlEnable]

@[simp] theorem execDlDisable_completes (a f v s) : Completes s (execDlDisable a f v s) := by simp [execDlDisable]

@[simp] theorem execDlConsumedWrite_completes (a f v s) :
    Completes s (execDlConsumedWrite a f v s) := by simp [execDlConsumedWrite]

@[simp] theorem execDlRound_completes (a f v s) : Completes s (execDlRound a f v s) := by simp [execDlRound]

@[simp] theorem execDlSweepDone_completes (f s) : Completes s (execDlSweepDone f s) := by
  simp only [execDlSweepDone]; (repeat' split) <;> simp

@[simp] theorem execDlAllDirtyClear_completes (a f v s) :
    Completes s (execDlAllDirtyClear a f v s) := by simp [execDlAllDirtyClear]

/-! ## Machine/Ledger.lean -/

@[simp] theorem voidFewer_pending (s) : (voidFewer s).pending = s.pending := by simp [voidFewer]

@[simp] theorem settleBucket_pending (s g) : (settleBucket s g).pending = s.pending := by simp [settleBucket]

@[simp] theorem famineSample_pending (s p) : (famineSample s p).pending = s.pending := by simp [famineSample]

@[simp] theorem famineClock_pending (s g) : (famineClock s g).pending = s.pending := by simp [famineClock]

@[simp] theorem lateChain_pending (s c finish) : (lateChain s c finish).pending = s.pending := by simp [lateChain]

/-! ## Machine/Slots.lean -/

@[simp] theorem opdWrite_pending (s uid n v) : (opdWrite s uid n v).pending = s.pending := by simp [opdWrite]

@[simp] theorem opdClear_pending (s uid n) : (opdClear s uid n).pending = s.pending := by simp [opdClear]

@[simp] theorem zeroTiles_pending (s uid) : (zeroTiles s uid).pending = s.pending := by simp [zeroTiles]

@[simp] theorem atEnd_pending (s uid op status detail carry) :
    (atEnd s uid op status detail carry).pending = s.pending := by simp [atEnd]

@[simp] theorem forgetCmd_pending (s uid) : (forgetCmd s uid).pending = s.pending := by simp [forgetCmd]

@[simp] theorem atFail_pending (s uid c status detail) :
    (atFail s uid c status detail).pending = s.pending := by simp [atFail]

@[simp] theorem abortCmd_pending (s uid status detail) : (abortCmd s uid status detail).pending = s.pending := by
  unfold abortCmd; split <;> simp

/-! ## Machine/JobEnd.lean -/

@[simp] theorem ctxPut_pending (s r c) : (ctxPut s r c).pending = s.pending := by simp [ctxPut]

@[simp] theorem countScrub_pending (s uid) : (countScrub s uid).pending = s.pending := by simp [countScrub]

@[simp] theorem countMismatch_pending (s uid) : (countMismatch s uid).pending = s.pending := by simp [countMismatch]

@[simp] theorem scrubUnit_pending (s uid) : (scrubUnit s uid).pending = s.pending := by simp [scrubUnit]

@[simp] theorem wakeRings_pending (s p) : (wakeRings s p).pending = s.pending := by simp [wakeRings]

@[simp] theorem release_pending (s uid) : (release s uid).pending = s.pending := by simp [release]

@[simp] theorem dropKept_pending (s) : (dropKept s).pending = s.pending := by simp [dropKept]

@[simp] theorem freeEntries_pending (s p cid f) : (freeEntries s p cid f).pending = s.pending := by simp [freeEntries]

@[simp] theorem iqMessage_pending (s rose) : (iqMessage s rose).pending = s.pending := by simp [iqMessage]

@[simp] theorem iqSample_pending (s p) : (iqSample s p).pending = s.pending := by simp [iqSample]

@[simp] theorem freeSeg_pending (s c g) : (freeSeg s c g).pending = s.pending := by simp [freeSeg]

@[simp] theorem addResult_pending (s c r) : (addResult s c r).pending = s.pending := by simp [addResult]

@[simp] theorem commandErr_pending (s uid op status detail) :
    (commandErr s uid op status detail).pending = s.pending := by simp [commandErr]

@[simp] theorem countEnd_pending (s uid cls func e ran) :
    (countEnd s uid cls func e ran).pending = s.pending := by simp [countEnd]

@[simp] theorem countKv_pending (s status) : (countKv s status).pending = s.pending := by simp [countKv]

@[simp] theorem countHelm_pending (s uid e ran) : (countHelm s uid e ran).pending = s.pending := by
  unfold countHelm; split <;> simp

@[simp] theorem setHalf_pending (s uid b) : (setHalf s uid b).pending = s.pending := by
  unfold setHalf; split <;> simp

@[simp] theorem dropDesc_pending (s j) : (dropDesc s j).pending = s.pending := by simp [dropDesc]

@[simp] theorem writeBack_pending (s u r c) : (writeBack s u r c).pending = s.pending := by simp [writeBack]

@[simp] theorem endDesc_pending (s uid e) : (endDesc s uid e).pending = s.pending := by
  simp only [endDesc]; (repeat' split) <;> simp

@[simp] theorem abortSlots_pending (s uid) : (abortSlots s uid).pending = s.pending := by simp [abortSlots]

@[simp] theorem abortService_pending (s uid) : (abortService s uid).pending = s.pending := by simp [abortService]

@[simp] theorem abortUnit_pending (s uid) : (abortUnit s uid).pending = s.pending := by simp [abortUnit]

@[simp] theorem stopNoRecord_pending (s uid) : (stopNoRecord s uid).pending = s.pending := by
  simp only [stopNoRecord]; (repeat' split) <;> simp

@[simp] theorem abortRecord_pending (s uid status detail) : (abortRecord s uid status detail).pending = s.pending := by
  simp only [abortRecord]; (repeat' split) <;> simp

/-! ## Machine/Erase.lean -/

@[simp] theorem reachUnit_pending (s p uid) : (reachUnit s p uid).pending = s.pending := by
  simp only [reachUnit]; (repeat' split) <;> simp

@[simp] theorem eraseWhere_pending (s p) : (eraseWhere s p).pending = s.pending := by simp [eraseWhere]

@[simp] theorem eraseSlots_pending (s l) : (eraseSlots s l).pending = s.pending := by simp [eraseSlots]

@[simp] theorem scrubOwner_pending (s f) : (scrubOwner s f).pending = s.pending := by simp [scrubOwner]

@[simp] theorem eraseFn_pending (s f) : (eraseFn s f).pending = s.pending := by simp [eraseFn]

@[simp] theorem eraseVault_pending (s) : (eraseVault s).pending = s.pending := by simp [eraseVault]

@[simp] theorem eraseCtx_pending (s) : (eraseCtx s).pending = s.pending := by simp [eraseCtx]

@[simp] theorem zeroize_pending (s) : (zeroize s).pending = s.pending := by simp [zeroize]

@[simp] theorem stopUnit_pending (s uid) : (stopUnit s uid).pending = s.pending := by
  simp only [stopUnit]; (repeat' split) <;> simp

@[simp] theorem dropJobs_pending (s) : (dropJobs s).pending = s.pending := by simp [dropJobs]

@[simp] theorem alarmCmd_pending (s uid) : (alarmCmd s uid).pending = s.pending := by simp [alarmCmd]

@[simp] theorem alarmStop_pending (s) : (alarmStop s).pending = s.pending := by simp [alarmStop]

/-! ## Machine/KeySlots.lean -/

@[simp] theorem putSlot_pending (s i attr key pubh) : (putSlot s i attr key pubh).pending = s.pending := by
  unfold putSlot; split <;> simp

@[simp] theorem slotParity_pending (s i) : (slotParity s i).pending = s.pending := by simp [slotParity]

@[simp] theorem vaultAccess_pending (s k bad) : (vaultAccess s k bad).1.pending = s.pending := by
  simp only [vaultAccess]; (repeat' split) <;> simp

@[simp] theorem bumpInv_pending (s i) : (bumpInv s i).pending = s.pending := by simp [bumpInv]

/-! ## Machine/Queues.lean -/

@[simp] theorem fbLog_pending (s p) : (fbLog s p).pending = s.pending := by simp [fbLog]

@[simp] theorem startScrub_pending (s p) : (startScrub s p).pending = s.pending := by simp [startScrub]

@[simp] theorem enterFallback_pending (s p cause) :
    (enterFallback s p cause).pending = s.pending := by simp [enterFallback]

@[simp] theorem parityError_pending (s p e w) : (parityError s p e w).pending = s.pending := by
  simp only [parityError]; (repeat' split) <;> simp

@[simp] theorem parityErrors_pending (s p read bad) : (parityErrors s p read bad).pending = s.pending := by
  refine foldl_pending _ _ _ fun t b => ?_
  (repeat' split) <;> simp

@[simp] theorem iqMove_pending (s p bad) : (iqMove s p bad).pending = s.pending := by simp [iqMove]

@[simp] theorem execIqEntryMove_completes (p bad s) : Completes s (execIqEntryMove p bad s) := by simp [execIqEntryMove]

@[simp] theorem execStormInterval_completes (s) : Completes s (execStormInterval s) := by simp [execStormInterval]

@[simp] theorem execIqReturnStart_completes (p s) : Completes s (execIqReturnStart p s) := by simp [execIqReturnStart]

@[simp] theorem execIqReturnEnd_completes (p ok s) : Completes s (execIqReturnEnd p ok s) := by simp [execIqReturnEnd]

@[simp] theorem retryScrubW_pending (s p v) : (retryScrubW s p v).pending = s.pending := by simp [retryScrubW]

@[simp] theorem execRetryScrub_completes (a p v s) : Completes s (execRetryScrub a p v s) := by simp [execRetryScrub]

@[simp] theorem iqHoldW_pending (s p v) : (iqHoldW s p v).pending = s.pending := by simp [iqHoldW]

@[simp] theorem execIqHoldFallback_completes (a p v s) :
    Completes s (execIqHoldFallback a p v s) := by simp [execIqHoldFallback]

@[simp] theorem layPool_pending (s p) : (layPool s p).pending = s.pending := by simp [layPool]

@[simp] theorem execReshareLayout_completes (s) : Completes s (execReshareLayout s) := by simp [execReshareLayout]

@[simp] theorem iqNoticeW_pending (s p v) : (iqNoticeW s p v).pending = s.pending := by simp [iqNoticeW]

@[simp] theorem execIqNoticeClear_completes (a p v s) :
    Completes s (execIqNoticeClear a p v s) := by simp [execIqNoticeClear]

/-! ## Machine/Admission.lean -/

@[simp] theorem fetchFault_pending (s g) : (fetchFault s g).pending = s.pending := by simp [fetchFault]

@[simp] theorem stageFault_pending (s g) : (stageFault s g).pending = s.pending := by simp [stageFault]

@[simp] theorem startStage_pending (s g d) : (startStage s g d).pending = s.pending := by simp [startStage]

@[simp] theorem fetched_pending (s g) : (fetched s g).pending = s.pending := by
  simp only [fetched]; (repeat' split) <;> simp

@[simp] theorem execChainFetch_completes (g s) : Completes s (execChainFetch g s) := by simp [execChainFetch]

@[simp] theorem takeRound_pending (s p ps) : (takeRound s p ps).pending = s.pending := by simp [takeRound]

@[simp] theorem refuse_pending (s g ps count) : (refuse s g ps count).pending = s.pending := by simp [refuse]

theorem enqueue_pending {s c l x} (h : enqueue s c l = some x) : x.1.pending = s.pending := by
  induction l generalizing s x with
  | nil => cases h; rfl
  | cons g r ih =>
    simp only [enqueue, Option.bind_eq_some_iff, Option.map_eq_some_iff] at h
    obtain ⟨y, -, z, hz, rfl⟩ := h
    simpa using ih hz

@[simp] theorem movedErrors_pending (s l bad) : (movedErrors s l bad).pending = s.pending := by
  refine foldl_pending _ _ _ fun t b => ?_
  split <;> simp

@[simp] theorem accept_pending (s g c) : (accept s g c).pending = s.pending := by simp [accept]

@[simp] theorem acceptDirect_pending (s g q k) : (acceptDirect s g q k).pending = s.pending := by simp [acceptDirect]

theorem offer_pending {s g q k bad t} (h : offer s g q k bad = some t) : t.pending = s.pending := by
  unfold offer at h
  extract_lets r staged c tail segs ps no c' s' at h
  split at h
  · cases h; simp
  · split at h
    · cases h; simp
    · split at h
      · cases h
      · obtain ⟨y, hy, rfl⟩ := Option.map_eq_some_iff.1 h
        simpa [s'] using enqueue_pending hy

@[simp] theorem execAdmissionOffer_completes (o s) : Completes s (execAdmissionOffer o s) := by
  simp only [execAdmissionOffer, completes_next]
  split
  · split
    · rfl
    · split
      · simp
      · split
        · next k q _ _ _ _ _ =>
          cases ho : offer (takeRound s ((headPools s o.ring.toNat).headD 64) (headPools s o.ring.toNat))
              o.ring.toNat q k o.bad with
          | none => rfl
          | some t => simpa using offer_pending ho
        · rfl
  · rfl

@[simp] theorem execReofferTimer_completes (g s) : Completes s (execReofferTimer g s) := by
  simp only [execReofferTimer]; (repeat' split) <;> simp

@[simp] theorem claimRead_pending (s p l) : (claimRead s p l).pending = s.pending := by simp [claimRead]

@[simp] theorem claim_pending (s c i g u bad) : (claim s c i g u bad).pending = s.pending := by simp [claim]

@[simp] theorem execSchedulerSelect_completes (p bad s) : Completes s (execSchedulerSelect p bad s) := by
  unfold execSchedulerSelect; (repeat' split) <;> simp

/-! ## Machine/Commands.lean -/

@[simp] theorem atEffect_pending (s uid c data) : (atEffect s uid c data).1.pending = s.pending := by
  unfold atEffect; (repeat' split) <;> simp

@[simp] theorem vloadAt_pending (s uid d v) : (vloadAt s uid d v).pending = s.pending := by simp [vloadAt]

@[simp] theorem addOcc_pending (s uid n) : (addOcc s uid n).pending = s.pending := by simp [addOcc]

@[simp] theorem helmEnd_pending (s uid op status detail carry) :
    (helmEnd s uid op status detail carry).pending = s.pending := by simp [helmEnd]

@[simp] theorem noteWritten_pending (s uid l) : (noteWritten s uid l).pending = s.pending := by simp [noteWritten]

@[simp] theorem helmCommand_pending (s uid w data v) : (helmCommand s uid w data v).pending = s.pending := by
  simp only [helmCommand]; (repeat' split) <;> simp

/-! ## Machine/Binnacle.lean -/

@[simp] theorem raiseFloors_pending (s) : (raiseFloors s).pending = s.pending := by simp [raiseFloors]

@[simp] theorem startErase_pending (s src) : (startErase s src).pending = s.pending := by
  unfold startErase; split <;> simp

@[simp] theorem soundAlarms_pending (s m) : (soundAlarms s m).pending = s.pending := by simp [soundAlarms]

@[simp] theorem alarmRecord_pending (s src act) : (alarmRecord s src act).pending = s.pending := by simp [alarmRecord]

@[simp] theorem holdsStill_pending (s src) : (holdsStill s src).pending = s.pending := by simp [holdsStill]

@[simp] theorem alarmReport_pending (s src) : (alarmReport s src).pending = s.pending := by simp [alarmReport]

@[simp] theorem alarmEnd_pending (s k) : (alarmEnd s k).pending = s.pending := by simp [alarmEnd]

@[simp] theorem meshReport_pending (s mesh) : (meshReport s mesh).pending = s.pending := by simp [meshReport]

@[simp] theorem meshGood_pending (s mesh) : (meshGood s mesh).pending = s.pending := by simp [meshGood]

@[simp] theorem closeGroup_pending (s reset vddReset) : (closeGroup s reset vddReset).pending = s.pending := by
  unfold closeGroup; split <;> simp

@[simp] theorem resetRecord_pending (s) : (resetRecord s).pending = s.pending := by
  unfold resetRecord; split <;> simp

@[simp] theorem soundSample_pending (s vsb vdd hot cold) :
    (soundSample s vsb vdd hot cold).pending = s.pending := by simp [soundSample]

@[simp] theorem sensorSample_pending (s vsbMv vddMv hot cold) :
    (sensorSample s vsbMv vddMv hot cold).pending = s.pending := by simp [sensorSample]

@[simp] theorem supplySample_pending (s vsbMv vddMv hot cold) :
    (supplySample s vsbMv vddMv hot cold).pending = s.pending := by simp [supplySample]

@[simp] theorem drainLog_pending (n s) : (drainLog n s).pending = s.pending := by
  induction n generalizing s with
  | zero => rfl
  | succ n ih => simp [drainLog, ih]

@[simp] theorem execAlarmSource_completes (src mesh s) : Completes s (execAlarmSource src mesh s) := by
  unfold execAlarmSource; split <;> simp

@[simp] theorem execAlarmConditionEnd_completes (n mesh s) :
    Completes s (execAlarmConditionEnd n mesh s) := by simp [execAlarmConditionEnd]

@[simp] theorem execAlarmHoldEnd_completes (s) : Completes s (execAlarmHoldEnd s) := by
  unfold execAlarmHoldEnd; split <;> simp

@[simp] theorem execSupplyGroupClose_completes (s) : Completes s (execSupplyGroupClose s) := by
  unfold execSupplyGroupClose; split <;> simp

@[simp] theorem execLogbookSlotWritten_completes (s) :
    Completes s (execLogbookSlotWritten s) := by simp [execLogbookSlotWritten]

@[simp] theorem execLogTokenTick_completes (s) : Completes s (execLogTokenTick s) := by simp [execLogTokenTick]

@[simp] theorem bnActW_pending (s n v) : (bnActW s n v).pending = s.pending := by simp [bnActW]

@[simp] theorem execBnActionWrite_completes (a n v s) :
    Completes s (execBnActionWrite a n v s) := by simp [execBnActionWrite]

@[simp] theorem bnLockW_pending (s v) : (bnLockW s v).pending = s.pending := by simp [bnLockW]

@[simp] theorem execBnLock_completes (a v s) : Completes s (execBnLock a v s) := by simp [execBnLock]

@[simp] theorem bnLatchW_pending (s v) : (bnLatchW s v).pending = s.pending := by simp [bnLatchW]

@[simp] theorem execBnLatchClear_completes (a v s) : Completes s (execBnLatchClear a v s) := by simp [execBnLatchClear]

@[simp] theorem bnMeshW_pending (s v) : (bnMeshW s v).pending = s.pending := by simp [bnMeshW]

@[simp] theorem execBnMeshEnable_completes (a v s) : Completes s (execBnMeshEnable a v s) := by simp [execBnMeshEnable]

@[simp] theorem execHoldOkChange_completes (up s) : Completes s (execHoldOkChange up s) := by simp [execHoldOkChange]

/-! ## Machine/Drbg.lean -/

@[simp] theorem setDrbg_pending (s k d) : (setDrbg s k d).pending = s.pending := by simp [setDrbg]

@[simp] theorem drbgSeed_pending (s k) : (drbgSeed s k).pending = s.pending := by simp [drbgSeed]

@[simp] theorem drbgDraw_pending (s k n) : (drbgDraw s k n).1.pending = s.pending := by simp [drbgDraw]

@[simp] theorem healthFail_pending (s) : (healthFail s).pending = s.pending := by simp [healthFail]

@[simp] theorem execDrbgReseed_completes (k s) : Completes s (execDrbgReseed k s) := by simp [execDrbgReseed]

@[simp] theorem execEntropyHealthFail_completes (s) :
    Completes s (execEntropyHealthFail s) := by simp [execEntropyHealthFail]

/-! ## Machine/Load.lean -/

@[simp] theorem killExt_pending (s r bad) : (killExt s r bad).pending = s.pending := by simp [killExt]

@[simp] theorem ctxRewrite_pending (s r bad kind owner) :
    (ctxRewrite s r bad kind owner).pending = s.pending := by simp [ctxRewrite]

@[simp] theorem ownWriteBack_pending (s uid r) : (ownWriteBack s uid r).pending = s.pending := by
  unfold ownWriteBack; split <;> simp

@[simp] theorem letGo_pending (s uid j n) : (letGo s uid j n).1.pending = s.pending := by
  unfold letGo; (repeat' split) <;> simp

@[simp] theorem loadCount_pending (d s j) : (loadCount d s j).2.pending = s.pending := by
  unfold loadCount; split <;> simp

/-! ## Machine/Execute.lean -/

@[simp] theorem unitFault_pending (s uid) : (unitFault s uid).pending = s.pending := by simp [unitFault]

@[simp] theorem pinFailure_pending (s f) : (pinFailure s f).pending = s.pending := by
  simp only [pinFailure]; (repeat' split) <;> simp

@[simp] theorem payCount_pending (s f d status detail) :
    (payCount s f d status detail).pending = s.pending := by simp [payCount]

@[simp] theorem helmCount_pending (s p) : (helmCount s p).pending = s.pending := by simp [helmCount]

@[simp] theorem clearSlots_pending (s uid) : (clearSlots s uid).pending = s.pending := by simp [clearSlots]

@[simp] theorem complete_pending (s uid j c status detail flags result) :
    (complete s uid j c status detail flags result).pending = s.pending := by simp [complete]

@[simp] theorem finish_pending (s uid) : (finish s uid).pending = s.pending := by
  simp only [finish]; (repeat' split) <;> simp

@[simp] theorem failRun_pending (s uid status detail) : (failRun s uid status detail).pending = s.pending := by
  unfold failRun; split <;> simp

@[simp] theorem drained_pending (s uid) : (drained s uid).pending = s.pending := by
  unfold drained; split <;> simp

@[simp] theorem startExec_pending (s uid) : (startExec s uid).pending = s.pending := by
  simp only [startExec]; (repeat' split) <;> simp

@[simp] theorem tryExec_pending (s uid) : (tryExec s uid).pending = s.pending := by
  unfold tryExec; split <;> simp

@[simp] theorem beginOp_pending (s uid d) : (beginOp s uid d).pending = s.pending := by
  simp only [beginOp]; (repeat' split) <;> simp

@[simp] theorem LoadRes.next_pending (x : LoadRes) (f : State → Job → LoadRes)
    (h : ∀ t j, (f t j).s.pending = t.pending) : (x.next f).s.pending = x.s.pending := by
  unfold LoadRes.next; split <;> simp [h]

@[simp] theorem loadFail_pending (s j st dt) : (loadFail s j st dt).s.pending = s.pending := by simp [loadFail]

@[simp] theorem loadCheck_pending (s j st dt) : (loadCheck s j st dt).s.pending = s.pending := by simp [loadCheck]

@[simp] theorem loadCtx_pending (uid func d bad s j) : (loadCtx uid func d bad s j).s.pending = s.pending := by
  unfold loadCtx
  extract_lets n x s'
  have hs : s'.pending = s.pending := letGo_pending ..
  clear_value s' n
  split
  · exact hs
  · split
    · exact hs
    · split
      · exact hs
      · split
        · exact hs
        · extract_lets t c b j' u
          have ht : t.pending = s.pending := by simp only [t]; split <;> simp [hs]
          have hu : u.pending = s.pending := (ctxRewrite_pending ..).trans ht
          (repeat' split) <;> simp [hs, ht, hu]

@[simp] theorem loadTarget_pending (uid func d s j) : (loadTarget uid func d s j).s.pending = s.pending := by
  simp only [loadTarget]
  (repeat' split) <;> simp

@[simp] theorem loadPolicy_pending (uid d s j) : (loadPolicy uid d s j).s.pending = s.pending := by
  simp only [loadPolicy]
  (repeat' split) <;> simp

@[simp] theorem loadKey_pending (uid func d bad s j) : (loadKey uid func d bad s j).s.pending = s.pending := by
  unfold loadKey
  split
  · rfl
  · split <;> (next hx => simp [fst_pending hx])

@[simp] theorem loadKey2_pending (func d bad s j) : (loadKey2 func d bad s j).s.pending = s.pending := by
  unfold loadKey2
  split
  · rfl
  · split <;> (next hx => simp [fst_pending hx])

@[simp] theorem loadValue_pending (func d s j) : (loadValue func d s j).s.pending = s.pending := by simp [loadValue]

@[simp] theorem loadDraw_pending (uid d s j) : (loadDraw uid d s j).s.pending = s.pending := by
  simp only [loadDraw]
  (repeat' split) <;> simp

@[simp] theorem loadReserve_pending (d cnt s j) : (loadReserve d cnt s j).s.pending = s.pending := by
  simp only [loadReserve]
  split <;> simp

@[simp] theorem loadUnit_pending (uid d s j) : (loadUnit uid d s j).s.pending = s.pending := by
  simp only [loadUnit]
  split <;> simp

@[simp] theorem loadAll_pending (uid func d env s j) : (loadAll uid func d env s j).s.pending = s.pending := by
  simp [loadAll]

@[simp] theorem loadDesc_pending (s uid env j c) : (loadDesc s uid env j c).pending = s.pending := by
  simp only [loadDesc]
  split <;> simp [apply_ite Prod.fst]

@[simp] theorem poisoned_pending (s uid j c) : (poisoned s uid j c).pending = s.pending := by
  simp only [poisoned]; (repeat' split) <;> simp

@[simp] theorem execDescriptorLoad_completes (u env s) : Completes s (execDescriptorLoad u env s) := by
  simp only [execDescriptorLoad]; (repeat' split) <;> simp

@[simp] theorem execLoadStageEnd_completes (u s) : Completes s (execLoadStageEnd u s) := by
  simp only [execLoadStageEnd]; (repeat' split) <;> simp

@[simp] theorem outIssued_pending (s id idx v) : (outIssued s id idx v).pending = s.pending := by simp [outIssued]

@[simp] theorem issueOut_pending (s c idx data whole l) : (issueOut s c idx data whole l).1.pending = s.pending := by
  induction l generalizing s with
  | nil => rfl
  | cons p r ih =>
    unfold issueOut
    simp only
    split <;> (next hx => simp [ih, fst_pending hx])

@[simp] theorem releaseOut_pending (s uid j c out) : (releaseOut s uid j c out).1.pending = s.pending := by
  simp only [releaseOut]; (repeat' split) <;> simp

theorem vaultSwap_pending {s k ask bad r} (h : vaultSwap s k ask bad = .inl r) : r.1.pending = s.pending := by
  simp only [vaultSwap] at h
  (repeat' split at h) <;> cases h <;> simp

@[simp] theorem releaseBlock_pending (s uid j c b) : (releaseBlock s uid j c b).pending = s.pending := by
  simp only [releaseBlock]; (repeat' split) <;> simp

@[simp] theorem swapThen_pending (s uid j c bad b) : (swapThen s uid j c bad b).pending = s.pending := by
  unfold swapThen
  split
  · split
    · next hx => split <;> simpa using vaultSwap_pending hx
    · simp
  · simp

@[simp] theorem mismatch_pending (s uid j b) : (mismatch s uid j b).pending = s.pending := by simp [mismatch]

@[simp] theorem tileParity_pending (s uid n) : (tileParity s uid n).pending = s.pending := by
  simp only [tileParity]; (repeat' split) <;> simp

@[simp] theorem loadedReads_pending (s uid n) : (loadedReads s uid n).pending = s.pending := by simp [loadedReads]

@[simp] theorem execExecuteBlockDone_completes (u env s) : Completes s (execExecuteBlockDone u env s) := by
  simp only [execExecuteBlockDone]; (repeat' split) <;> simp

/-! ## Machine/Arith.lean -/

@[simp] theorem atTransfer_pending (s uid c) : (atTransfer s uid c).1.pending = s.pending := by
  unfold atTransfer; split <;> simp

@[simp] theorem atStart_pending (s uid c) : (atStart s uid c).pending = s.pending := by simp [atStart]

@[simp] theorem atCmdW_pending (s uid v) : (atCmdW s uid v).pending = s.pending := by
  simp only [atCmdW]; (repeat' split) <;> simp

@[simp] theorem execAtClear_completes (a u fl s) : Completes s (execAtClear a u fl s) := by simp [execAtClear]

@[simp] theorem execAtLoad_completes (a u fl s) : Completes s (execAtLoad a u fl s) := by simp [execAtLoad]

@[simp] theorem execAtStore_completes (a u fl s) : Completes s (execAtStore a u fl s) := by simp [execAtStore]

@[simp] theorem execAtVload_completes (a u fl s) : Completes s (execAtVload a u fl s) := by simp [execAtVload]

@[simp] theorem execAtAdd_completes (a u fl s) : Completes s (execAtAdd a u fl s) := by simp [execAtAdd]

@[simp] theorem execAtSub_completes (a u fl s) : Completes s (execAtSub a u fl s) := by simp [execAtSub]

@[simp] theorem execAtCsub_completes (a u fl s) : Completes s (execAtCsub a u fl s) := by simp [execAtCsub]

@[simp] theorem execAtMul_completes (a u fl s) : Completes s (execAtMul a u fl s) := by simp [execAtMul]

@[simp] theorem execAtMulacc_completes (a u fl s) : Completes s (execAtMulacc a u fl s) := by simp [execAtMulacc]

@[simp] theorem execAtSqr_completes (a u fl s) : Completes s (execAtSqr a u fl s) := by simp [execAtSqr]

@[simp] theorem execAtBfly_completes (a u fl s) : Completes s (execAtBfly a u fl s) := by simp [execAtBfly]

@[simp] theorem atWriteBack_pending (s uid c) : (atWriteBack s uid c).pending = s.pending := by simp [atWriteBack]

@[simp] theorem atMismatch_pending (s uid c) : (atMismatch s uid c).pending = s.pending := by simp [atMismatch]

@[simp] theorem atStore_pending (s uid c) : (atStore s uid c).pending = s.pending := by simp [atStore]

@[simp] theorem atFinish_pending (s uid c env) : (atFinish s uid c env).pending = s.pending := by simp [atFinish]

@[simp] theorem execAtCmdDone_completes (u env s) : Completes s (execAtCmdDone u env s) := by
  simp only [execAtCmdDone]; (repeat' split) <;> simp

@[simp] theorem apertureRefuse_pending (s uid) : (apertureRefuse s uid).pending = s.pending := by
  unfold apertureRefuse; split <;> simp

@[simp] theorem apertureStore_pending (s uid off data) : (apertureStore s uid off data).pending = s.pending := by
  have h (t : State) (m : List Host.Cell) (x : Uni) : (setUni { t with opmem := m } uid x).pending = t.pending := rfl
  rw [apertureStore, h]
  exact foldl_pending _ _ _ fun _ _ => opdClear_pending ..

@[simp] theorem apertureWriteAt_pending (s a o data) : (apertureWriteAt s a o data).1.pending = s.pending := by
  unfold apertureWriteAt; (repeat' split) <;> simp

@[simp] theorem aperturePar_pending (s o) : (aperturePar s o).pending = s.pending := by
  unfold aperturePar; split <;> simp

@[simp] theorem apertureReadAt_pending (s a o agree parity) :
    (apertureReadAt s a o agree parity).1.pending = s.pending := by
  simp only [apertureReadAt]; (repeat' split) <;> simp

@[simp] theorem execApertureWrite_completes (a off data s) : Completes s (execApertureWrite a off data s) := by
  simp only [execApertureWrite, completes_next]
  split
  · rfl
  · split <;> (next hx => simp [fst_pending hx])

@[simp] theorem execApertureRead_completes (a off env s) : Completes s (execApertureRead a off env s) := by
  simp only [execApertureRead, completes_next]
  split
  · rfl
  · split <;> (next hx => simp [fst_pending hx])

@[simp] theorem claimW_pending (s uid) : (claimW s uid).pending = s.pending := by
  unfold claimW; split <;> simp

@[simp] theorem releaseW_pending (s uid) : (releaseW s uid).pending = s.pending := by simp [releaseW]

@[simp] theorem unLockW_pending (s uid v) : (unLockW s uid v).pending = s.pending := by simp [unLockW]

@[simp] theorem execHostClaim_completes (a u s) : Completes s (execHostClaim a u s) := by simp [execHostClaim]

@[simp] theorem execHostRelease_completes (a u s) : Completes s (execHostRelease a u s) := by simp [execHostRelease]

@[simp] theorem execHostReleaseScrubDone_completes (u s) :
    Completes s (execHostReleaseScrubDone u s) := by simp [execHostReleaseScrubDone]

@[simp] theorem preemptEnd_pending (s uid) : (preemptEnd s uid).pending = s.pending := by simp [preemptEnd]

@[simp] theorem execAbortScrubDone_completes (u s) :
    Completes s (execAbortScrubDone u s) := by simp [execAbortScrubDone]

/-! ## Machine/Rings.lean -/

@[simp] theorem drainRing_pending (s g) : (drainRing s g).pending = s.pending := by simp [drainRing]

@[simp] theorem drainCq_pending (s q) : (drainCq s q).pending = s.pending := by simp [drainCq]

@[simp] theorem rgDoorbell_pending (s g v) : (rgDoorbell s g v).pending = s.pending := by simp [rgDoorbell]

@[simp] theorem rgCfg_pending (s g v) : (rgCfg s g v).pending = s.pending := by simp [rgCfg]

@[simp] theorem rgBase_pending (s g base) : (rgBase s g base).pending = s.pending := by simp [rgBase]

@[simp] theorem rgStatusW_pending (s g v) : (rgStatusW s g v).pending = s.pending := by simp [rgStatusW]

@[simp] theorem cqCfg_pending (s q v) : (cqCfg s q v).pending = s.pending := by simp [cqCfg]

@[simp] theorem cqBase_pending (s q base) : (cqBase s q base).pending = s.pending := by simp [cqBase]

@[simp] theorem cqStatusW_pending (s q v) : (cqStatusW s q v).pending = s.pending := by simp [cqStatusW]

@[simp] theorem cqOp_pending (s q o) : (cqOp s q o).pending = s.pending := by
  unfold cqOp; split <;> simp

@[simp] theorem cqGrantW_pending (s q v) : (cqGrantW s q v).pending = s.pending := by simp [cqGrantW]

@[simp] theorem cqWpCmd_pending (s q op) : (cqWpCmd s q op).pending = s.pending := by simp [cqWpCmd]

@[simp] theorem cqNotice_pending (s q) : (cqNotice s q).pending = s.pending := by
  simp only [cqNotice]; (repeat' split) <;> simp

@[simp] theorem coalCheck_pending (s q) : (coalCheck s q).pending = s.pending := by simp [coalCheck]

@[simp] theorem cqNoticeable_pending (s q) : (cqNoticeable s q).pending = s.pending := by simp [cqNoticeable]

@[simp] theorem cqCoal_pending (s q v) : (cqCoal s q v).pending = s.pending := by simp [cqCoal]

@[simp] theorem nvHold_pending (s f k v) : (nvHold s f k v).pending = s.pending := by simp [nvHold]

@[simp] theorem creditTick_pending (s g) : (creditTick s g).pending = s.pending := by
  unfold creditTick; (repeat' split) <;> simp

@[simp] theorem onRing_pending (s a g) (f : State → Nat → State) (h : ∀ t n, (f t n).pending = t.pending) :
    (onRing s a g f).pending = s.pending := by
  unfold onRing; split <;> simp [h]

@[simp] theorem onCq_pending (s a q) (f : State → Nat → State) (h : ∀ t n, (f t n).pending = t.pending) :
    (onCq s a q f).pending = s.pending := by
  unfold onCq; split <;> simp [h]

@[simp] theorem execDoorbell_completes (a g v s) : Completes s (execDoorbell a g v s) := by simp [execDoorbell]

@[simp] theorem execRingEnable_completes (a g v s) : Completes s (execRingEnable a g v s) := by simp [execRingEnable]

@[simp] theorem execRingDisable_completes (a g v s) : Completes s (execRingDisable a g v s) := by simp [execRingDisable]

@[simp] theorem execCqEnable_completes (a q v s) : Completes s (execCqEnable a q v s) := by simp [execCqEnable]

@[simp] theorem execCqDisable_completes (a q v s) : Completes s (execCqDisable a q v s) := by simp [execCqDisable]

@[simp] theorem execCqGrant_completes (a q v s) : Completes s (execCqGrant a q v s) := by simp [execCqGrant]

@[simp] theorem execWaypointSet_completes (a q s) : Completes s (execWaypointSet a q s) := by simp [execWaypointSet]

@[simp] theorem execWaypointRewind_completes (a q s) :
    Completes s (execWaypointRewind a q s) := by simp [execWaypointRewind]

@[simp] theorem execWaypointClear_completes (a q s) :
    Completes s (execWaypointClear a q s) := by simp [execWaypointClear]

@[simp] theorem execNoticeHoldWrite_completes (a k v s) :
    Completes s (execNoticeHoldWrite a k v s) := by simp [execNoticeHoldWrite]

@[simp] theorem execNoticeCoalTimer_completes (q s) :
    Completes s (execNoticeCoalTimer q s) := by simp [execNoticeCoalTimer]

@[simp] theorem execCreditTick_completes (g s) : Completes s (execCreditTick g s) := by simp [execCreditTick]

@[simp] theorem famineNoticeW_pending (s p v) : (famineNoticeW s p v).pending = s.pending := by simp [famineNoticeW]

@[simp] theorem execFamineNoticeClear_completes (a p v s) :
    Completes s (execFamineNoticeClear a p v s) := by simp [execFamineNoticeClear]

@[simp] theorem execFamineTimeUnit_completes (g s) :
    Completes s (execFamineTimeUnit g s) := by simp [execFamineTimeUnit]

/-! ## Machine/Soundings.lean -/

@[simp] theorem latencySounding_pending (s pools l ring finish late) :
    (latencySounding s pools l ring finish late).pending = s.pending := by simp [latencySounding]

@[simp] theorem sdFreezeW_pending (s v) : (sdFreezeW s v).pending = s.pending := by simp [sdFreezeW]

@[simp] theorem sdCmdW_pending (s v) : (sdCmdW s v).pending = s.pending := by simp [sdCmdW]

@[simp] theorem execSdFreeze_completes (a v s) : Completes s (execSdFreeze a v s) := by simp [execSdFreeze]

@[simp] theorem execSdUnfreeze_completes (a v s) : Completes s (execSdUnfreeze a v s) := by simp [execSdUnfreeze]

@[simp] theorem execSdAutoRelease_completes (s) : Completes s (execSdAutoRelease s) := by simp [execSdAutoRelease]

@[simp] theorem execSdClearPools_completes (a v s) : Completes s (execSdClearPools a v s) := by simp [execSdClearPools]

@[simp] theorem execSdClearRings_completes (a v s) : Completes s (execSdClearRings a v s) := by simp [execSdClearRings]

@[simp] theorem execSdClearDevice_completes (a v s) :
    Completes s (execSdClearDevice a v s) := by simp [execSdClearDevice]

@[simp] theorem execSdClearDone_completes (s) : Completes s (execSdClearDone s) := by simp [execSdClearDone]

/-! ## Machine/Records.lean -/

@[simp] theorem reap_pending (s id) : (reap s id).pending = s.pending := by
  unfold reap; split <;> simp

@[simp] theorem chainEnds_pending (s c finish issued) :
    (chainEnds s c finish issued).pending = s.pending := by simp [chainEnds]

theorem recordPage_pending {s c k addr r t} (h : recordPage s c k addr r = some t) : t.pending = s.pending := by
  simp only [recordPage] at h
  split at h
  · cases h; rfl
  · split at h
    · cases h
    · simpa using dlPage_pending h

@[simp] theorem writeRecord_pending (s c addr k data) : (writeRecord s c addr k data).1.pending = s.pending := by
  simp only [writeRecord]
  split
  · simp
  · split <;> (next hx => simp [fst_pending hx])

@[simp] theorem xlateCount_pending (s d r) : (xlateCount s d r).pending = s.pending := by simp [xlateCount]

@[simp] theorem issueRecord_pending (s c k r) : (issueRecord s c k r).pending = s.pending := by
  simp only [issueRecord]
  split
  · rfl
  next t ht =>
    have h : t.pending = s.pending := by
      split at ht
      · cases ht; rfl
      · exact recordPage_pending ht
    (repeat' split) <;> simp [h]

@[simp] theorem execRecordIssue_completes (c s) : Completes s (execRecordIssue c s) := by
  unfold execRecordIssue; (repeat' split) <;> simp

@[simp] theorem execNoexecRecord_completes (c s) : Completes s (execNoexecRecord c s) := by
  unfold execNoexecRecord; (repeat' split) <;> simp

@[simp] theorem voidLate_pending (s t) : (voidLate s t).pending = s.pending := by
  unfold voidLate; split <;> simp

@[simp] theorem lateReset_pending (s t) : (lateReset s t).pending = s.pending := by simp [lateReset]

@[simp] theorem timely_pending (s t) : (timely s t).pending = s.pending := by simp [timely]

@[simp] theorem stopLater_pending (s id uid) : (stopLater s id uid).pending = s.pending := by
  simp only [stopLater]; (repeat' split) <;> simp

@[simp] theorem taintLate_pending (s func d) : (taintLate s func d).pending = s.pending := by
  unfold taintLate; split <;> simp

@[simp] theorem failWriting_pending (s uid j) : (failWriting s uid j).pending = s.pending := by simp [failWriting]

@[simp] theorem outputFailed_pending (s id idx) : (outputFailed s id idx).pending = s.pending := by
  unfold outputFailed
  split
  · rfl
  · split
    · simp
    · split
      · split <;> simp
      · refine foldl_pending _ _ _ fun t u => ?_
        (repeat' split) <;> simp

@[simp] theorem outRefused_pending (s id idx) : (outRefused s id idx).pending = s.pending := by simp [outRefused]

/-! ## Machine/LifeCycle.lean -/

@[simp] theorem programBit_pending (s b) : (programBit s b).pending = s.pending := by simp [programBit]

theorem lodeDraw_pending {s x} (h : lodeDraw s = some x) : x.1.pending = s.pending := by
  unfold lodeDraw at h
  (repeat' split at h) <;> cases h <;> simp

@[simp] theorem trimSteps_pending (s l) : (trimSteps s l).1.pending = s.pending := by
  induction l generalizing s with
  | nil => rfl
  | cons x r ih =>
    cases x with
    | bits n l => unfold trimSteps; split <;> simp [ih]
    | erase n t => unfold trimSteps; split <;> simp [ih]
    | draw n k =>
      unfold trimSteps
      split
      · next hx => split <;> simp [ih, lodeDraw_pending hx]
      · rfl

@[simp] theorem fuseBegin_pending (s) : (fuseBegin s).pending = s.pending := by
  unfold fuseBegin; split <;> simp

@[simp] theorem fuseEnd_pending (n s) : (fuseEnd n s).pending = s.pending := by
  induction n generalizing s with
  | zero => rfl
  | succ n ih => unfold fuseEnd; split <;> simp [ih]

@[simp] theorem fuseStart_pending (s what steps) : (fuseStart s what steps).pending = s.pending := by simp [fuseStart]

@[simp] theorem fusePulse_pending (s) : (fusePulse s).pending = s.pending := by
  unfold fusePulse; split <;> simp

@[simp] theorem fuseResume_pending (s) : (fuseResume s).pending = s.pending := by
  unfold fuseResume; split <;> simp

@[simp] theorem lcErase_pending (s) : (lcErase s).pending = s.pending := by simp [lcErase]

@[simp] theorem lcRequest_pending (s v) : (lcRequest s v).pending = s.pending := by simp [lcRequest]

@[simp] theorem execLcRequest_completes (a v s) : Completes s (execLcRequest a v s) := by simp [execLcRequest]

@[simp] theorem lcEnd_pending (s) : (lcEnd s).pending = s.pending := by
  unfold lcEnd; split <;> simp

@[simp] theorem execLcTransitionEnd_completes (s) : Completes s (execLcTransitionEnd s) := by simp [execLcTransitionEnd]

@[simp] theorem lcFuseCmd_pending (s v) : (lcFuseCmd s v).pending = s.pending := by simp [lcFuseCmd]

@[simp] theorem execLcFuseCmd_completes (a v s) : Completes s (execLcFuseCmd a v s) := by simp [execLcFuseCmd]

@[simp] theorem execFuseBitProgrammed_completes (s) :
    Completes s (execFuseBitProgrammed s) := by simp [execFuseBitProgrammed]

@[simp] theorem lcPass_pending (s n) : (lcPass s n).pending = s.pending := by simp [lcPass]

@[simp] theorem lcDecodeLog_pending (s n) : (lcDecodeLog s n).pending = s.pending := by simp [lcDecodeLog]

@[simp] theorem lcSettle_pending (s n) : (lcSettle s n).pending = s.pending := by simp [lcSettle]

@[simp] theorem fuseSettle_pending (s) : (fuseSettle s).pending = s.pending := by
  unfold fuseSettle; split <;> simp

@[simp] theorem fuseRead_pending (s) : (fuseRead s).1.pending = s.pending := by
  unfold fuseRead; (repeat' split) <;> simp

/-! ## Machine/Vault.lean -/

@[simp] theorem placeAtt_pending (s) : (placeAtt s).pending = s.pending := by
  unfold placeAtt; split <;> simp

@[simp] theorem execAttPubkeyDone_completes (s) : Completes s (execAttPubkeyDone s) := by
  unfold execAttPubkeyDone; split <;> simp

@[simp] theorem kvResult_pending (s n) : (kvResult s n).pending = s.pending := by simp [kvResult]

@[simp] theorem kvFound_pending (s i bad) : (kvFound s i bad).pending = s.pending := by simp [kvFound]

@[simp] theorem kvWrote_pending (s c) : (kvWrote s c).pending = s.pending := by simp [kvWrote]

@[simp] theorem kvStore_pending (s c out) : (kvStore s c out).pending = s.pending := by simp [kvStore]

@[simp] theorem kvWritten_pending (s k n ok) : (kvWritten s k n ok).pending = s.pending := by
  unfold kvWritten; split <;> simp

@[simp] theorem kvPeek_pending (s i) : (kvPeek s i).pending = s.pending := by simp [kvPeek]

@[simp] theorem kvDraw_pending (s c attr) : (kvDraw s c attr).pending = s.pending := by simp [kvDraw]

@[simp] theorem kvGenerate_pending (s c) : (kvGenerate s c).pending = s.pending := by
  unfold kvGenerate; split <;> simp

@[simp] theorem kvRedraw_pending (s) : (kvRedraw s).pending = s.pending := by
  unfold kvRedraw; split <;> simp

@[simp] theorem kvUnwrapped_pending (s c b) : (kvUnwrapped s c b).pending = s.pending := by
  simp only [kvUnwrapped]; (repeat' split) <;> simp

@[simp] theorem kvAttested_pending (s c challenge) : (kvAttested s c challenge).pending = s.pending := by
  unfold kvAttested; split <;> simp

@[simp] theorem kvRead_pending (s) : (kvRead s).pending = s.pending := by
  unfold kvRead; split <;> simp

@[simp] theorem kvFetch_pending (s c len) : (kvFetch s c len).pending = s.pending := by simp [kvFetch]

@[simp] theorem kvWrap_pending (s c) : (kvWrap s c).pending = s.pending := by
  simp only [kvWrap]; (repeat' split) <;> simp

@[simp] theorem kvAttest_pending (s c) : (kvAttest s c).pending = s.pending := by
  simp only [kvAttest]; (repeat' split) <;> simp

@[simp] theorem kvStart_pending (s c) : (kvStart s c).pending = s.pending := by
  simp only [kvStart]; (repeat' split) <;> simp

@[simp] theorem kvCmdW_pending (s v bad kekBad) : (kvCmdW s v bad kekBad).pending = s.pending := by simp [kvCmdW]

@[simp] theorem kvRelease_pending (s) : (kvRelease s).pending = s.pending := by
  unfold kvRelease; split <;> simp

@[simp] theorem execKvPeek_completes (a s) : Completes s (execKvPeek a s) := by simp [execKvPeek]

@[simp] theorem execKvErase_completes (a s) : Completes s (execKvErase a s) := by simp [execKvErase]

@[simp] theorem execKvGenerate_completes (a ktype klen s) :
    Completes s (execKvGenerate a ktype klen s) := by simp [execKvGenerate]

@[simp] theorem execKvUnwrap_completes (a kek s) : Completes s (execKvUnwrap a kek s) := by simp [execKvUnwrap]

@[simp] theorem execKvWrap_completes (a kek s) : Completes s (execKvWrap a kek s) := by simp [execKvWrap]

@[simp] theorem execKvAttest_completes (a s) : Completes s (execKvAttest a s) := by simp [execKvAttest]

@[simp] theorem execKvEraseFn_completes (a s) : Completes s (execKvEraseFn a s) := by simp [execKvEraseFn]

@[simp] theorem execKvEraseAll_completes (a s) : Completes s (execKvEraseAll a s) := by simp [execKvEraseAll]

@[simp] theorem eraseAllEnds_pending (s n) : (eraseAllEnds s n).pending = s.pending := by simp [eraseAllEnds]

@[simp] theorem vaultScrubbed_pending (s) : (vaultScrubbed s).pending = s.pending := by simp [vaultScrubbed]

@[simp] theorem vaultStarved_pending (s) : (vaultStarved s).pending = s.pending := by simp [vaultStarved]

@[simp] theorem execVaultScrubDone_completes (s) : Completes s (execVaultScrubDone s) := by
  unfold execVaultScrubDone; split <;> simp

/-! ## Machine/Chart.lean -/

@[simp] theorem chartLog_pending (s result svn fw) :
    (chartLog s result svn fw).pending = s.pending := by simp [chartLog]

@[simp] theorem chartReject_pending (s b phase f) :
    (chartReject s b phase f).pending = s.pending := by simp [chartReject]

@[simp] theorem layPools_pending (s c) : (layPools s c).pending = s.pending := by simp [layPools]

@[simp] theorem chartInstall_pending (s b) : (chartInstall s b).pending = s.pending := by simp [chartInstall]

@[simp] theorem chartEnd_pending (s) : (chartEnd s).pending = s.pending := by
  simp only [chartEnd]; (repeat' split) <;> simp

@[simp] theorem execChartLoadEnd_completes (s) : Completes s (execChartLoadEnd s) := by simp [execChartLoadEnd]

@[simp] theorem chResult_pending (s n) : (chResult s n).pending = s.pending := by simp [chResult]

@[simp] theorem chartPlace_pending (s) : (chartPlace s).pending = s.pending := by simp [chartPlace]

@[simp] theorem chartPhase_pending (s) : (chartPhase s).pending = s.pending := by simp [chartPhase]

@[simp] theorem chartBegin_pending (s keep) : (chartBegin s keep).pending = s.pending := by simp [chartBegin]

@[simp] theorem chLoad_pending (s keep) : (chLoad s keep).pending = s.pending := by simp [chLoad]

@[simp] theorem chAdvance_pending (s) : (chAdvance s).pending = s.pending := by simp [chAdvance]

@[simp] theorem chJudge_pending (s v) : (chJudge s v).pending = s.pending := by simp [chJudge]

@[simp] theorem chCmdW_pending (s v) : (chCmdW s v).pending = s.pending := by simp [chCmdW]

@[simp] theorem chRelease_pending (s) : (chRelease s).pending = s.pending := by
  unfold chRelease; split <;> simp

@[simp] theorem execChLoad_completes (a keep s) : Completes s (execChLoad a keep s) := by simp [execChLoad]

@[simp] theorem execChAdvance_completes (a s) : Completes s (execChAdvance a s) := by simp [execChAdvance]

/-! ## Machine/Tx.lean -/

@[simp] theorem txResult_pending (s n) : (txResult s n).pending = s.pending := by simp [txResult]

@[simp] theorem txGate_pending (s) (f : State → State) (h : ∀ t, (f t).pending = t.pending) :
    (txGate s f).pending = s.pending := by
  unfold txGate; split <;> simp [h]

@[simp] theorem txBeginW_pending (s v) : (txBeginW s v).pending = s.pending := by simp [txBeginW]

@[simp] theorem txCommitW_pending (s v) : (txCommitW s v).pending = s.pending := by simp [txCommitW]

@[simp] theorem txRollbackW_pending (s v) : (txRollbackW s v).pending = s.pending := by simp [txRollbackW]

@[simp] theorem execTxBegin_completes (a v s) : Completes s (execTxBegin a v s) := by simp [execTxBegin]

@[simp] theorem execTxCommit_completes (a v s) : Completes s (execTxCommit a v s) := by simp [execTxCommit]

@[simp] theorem execTxRollback_completes (a v s) : Completes s (execTxRollback a v s) := by simp [execTxRollback]

@[simp] theorem patchResult_pending (s n) : (patchResult s n).pending = s.pending := by simp [patchResult]

@[simp] theorem txPatchW_pending (s v) : (txPatchW s v).pending = s.pending := by simp [txPatchW]

@[simp] theorem execTxPatch_completes (a v s) : Completes s (execTxPatch a v s) := by simp [execTxPatch]

@[simp] theorem setShadow_pending (s l) : (setShadow s l).pending = s.pending := by simp [setShadow]

@[simp] theorem patchEnd_pending (s) : (patchEnd s).pending = s.pending := by
  simp only [patchEnd]; (repeat' split) <;> simp

@[simp] theorem execTxPatchReadDone_completes (s) : Completes s (execTxPatchReadDone s) := by simp [execTxPatchReadDone]

@[simp] theorem shadowPut_pending (s p) : (shadowPut s p).pending = s.pending := by
  unfold shadowPut; split <;> simp

@[simp] theorem funcWrite_pending (s f o n v) : (funcWrite s f o n v).pending = s.pending := by simp [funcWrite]

@[simp] theorem rulePut_pending (s type i o x) : (rulePut s type i o x).pending = s.pending := by simp [rulePut]

@[simp] theorem ruleWrite_pending (s type i k v) : (ruleWrite s type i k v).pending = s.pending := by simp [ruleWrite]

theorem txTarget_pending (s off v) : ∀ f ∈ txTarget s off v, ∀ t, (f t).pending = t.pending := by
  unfold txTarget
  repeat' refine ite_effect_pending ?_ ?_
  all_goals simp

@[simp] theorem txWriteW_pending (s off v) : (txWriteW s off v).pending = s.pending := by
  unfold txWriteW
  split
  · rfl
  · next h => split <;> simp [txTarget_pending _ _ _ _ h]

@[simp] theorem execTransactionalWrite_completes (a off v s) :
    Completes s (execTransactionalWrite a off v s) := by simp [execTransactionalWrite]

@[simp] theorem reshare_pending (s old p) : (reshare s old p).pending = s.pending := by
  unfold reshare; split <;> simp

@[simp] theorem dropPool_pending (s p) : (dropPool s p).pending = s.pending := by simp [dropPool]

@[simp] theorem txApply_pending (s) : (txApply s).pending = s.pending := by simp [txApply]

@[simp] theorem txRefuse_pending (s f) : (txRefuse s f).pending = s.pending := by simp [txRefuse]

@[simp] theorem execCommitValidationEnd_completes (s) : Completes s (execCommitValidationEnd s) := by
  unfold execCommitValidationEnd; (repeat' split) <;> simp

/-! ## Machine/Completion.lean -/

theorem takeTxn_pending {s port tag write x} (h : takeTxn s port tag write = some x) : x.2.pending = s.pending := by
  simp only [takeTxn] at h
  split at h <;> cases h
  simp

@[simp] theorem fetchArrived_pending (s g t ok data) :
    (fetchArrived s g t ok data).pending = s.pending := by simp [fetchArrived]

@[simp] theorem stageArrived_pending (s g t ok data) :
    (stageArrived s g t ok data).pending = s.pending := by simp [stageArrived]

@[simp] theorem inputStep_pending (s id idx f) : (inputStep s id idx f).pending = s.pending := by
  unfold inputStep; split <;> simp

@[simp] theorem loadStep_pending (s uid f) : (loadStep s uid f).pending = s.pending := by simp [loadStep]

@[simp] theorem kvStep_pending (s f) : (kvStep s f).pending = s.pending := by simp [kvStep]

@[simp] theorem reapOf_pending (s o) : (reapOf s o).pending = s.pending := by
  unfold reapOf; split <;> simp

@[simp] theorem readArrived_pending (s t ok data) : (readArrived s t ok data).pending = s.pending := by
  unfold readArrived; split <;> simp

@[simp] theorem recordDone_pending (s id idx ok) : (recordDone s id idx ok).pending = s.pending := by
  unfold recordDone; split <;> simp

@[simp] theorem logFailed_pending (s vf) : (logFailed s vf).pending = s.pending := by simp [logFailed]

@[simp] theorem storeDone_pending (s uid k ok) : (storeDone s uid k ok).pending = s.pending := by simp [storeDone]

@[simp] theorem writeDone_pending (s t ok) : (writeDone s t ok).pending = s.pending := by
  unfold writeDone; split <;> simp

@[simp] theorem writingDone_pending (s id idx) : (writingDone s id idx).pending = s.pending := by
  unfold writingDone; (repeat' split) <;> simp

@[simp] theorem txnIssued_pending (s t v) : (txnIssued s t v).pending = s.pending := by
  unfold txnIssued; split <;> simp

@[simp] theorem txnRefused_pending (s t) : (txnRefused s t).pending = s.pending := by
  unfold txnRefused; split <;> simp

@[simp] theorem pumpN_pending (n s port) : (pumpN n s port).pending = s.pending := by
  induction n generalizing s with
  | zero => rfl
  | succ n ih =>
    simp only [pumpN]
    split
    · rfl
    · split
      · simp [ih]
      · split <;> (next hx => simp [ih, fst_pending hx])

@[simp] theorem pump_pending (s port) : (pump s port).pending = s.pending := by simp [pump]

@[simp] theorem txnAnswered_pending (s port t) (f : State → State) (h : ∀ u, (f u).pending = u.pending) :
    (txnAnswered s port t f).pending = s.pending := by
  unfold txnAnswered; split <;> simp [h]

@[simp] theorem execReadCompletion_completes (port tag chk data s) :
    Completes s (execReadCompletion port tag chk data s) := by
  simp only [execReadCompletion, completes_next]
  split
  · rfl
  · split
    · rfl
    · next hx =>
      have h := takeTxn_pending hx
      split <;> simp_all

@[simp] theorem execWriteResponse_completes (port tag ok s) : Completes s (execWriteResponse port tag ok s) := by
  simp only [execWriteResponse, completes_next]
  split
  · rfl
  · split
    · rfl
    · next hx => simpa using takeTxn_pending hx

@[simp] theorem laneCredit_pending (s odd) : (laneCredit s odd).pending = s.pending := by simp [laneCredit]

@[simp] theorem portCredit_pending (s n f) : (portCredit s n f).pending = s.pending := by simp [portCredit]

@[simp] theorem execCrdPulse_completes (c s) : Completes s (execCrdPulse c s) := by
  unfold execCrdPulse; split <;> simp

/-! ## Machine/Contexts.lean -/

@[simp] theorem scResult_pending (s n) : (scResult s n).pending = s.pending := by simp [scResult]

@[simp] theorem scApply_pending (s op r) : (scApply s op r).pending = s.pending := by simp [scApply]

@[simp] theorem scStart_pending (s op kind i) : (scStart s op kind i).pending = s.pending := by simp [scStart]

@[simp] theorem scCmd_pending (s v) : (scCmd s v).pending = s.pending := by simp [scCmd]

@[simp] theorem scRelease_pending (s) : (scRelease s).pending = s.pending := by
  unfold scRelease; split <;> simp

@[simp] theorem scWaiting_pending (s) : (scWaiting s).pending = s.pending := by
  unfold scWaiting; split <;> simp

@[simp] theorem execScPeek_completes (a kind s) : Completes s (execScPeek a kind s) := by simp [execScPeek]

@[simp] theorem execScSeal_completes (a kind s) : Completes s (execScSeal a kind s) := by simp [execScSeal]

@[simp] theorem execScUnseal_completes (a kind s) : Completes s (execScUnseal a kind s) := by simp [execScUnseal]

@[simp] theorem execScFree_completes (a kind s) : Completes s (execScFree a kind s) := by simp [execScFree]

@[simp] theorem wbStore_pending (s compact i) : (wbStore s compact i).pending = s.pending := by
  unfold wbStore; split <;> simp

@[simp] theorem execContextWritebackDone_completes (compact idx s) :
    Completes s (execContextWritebackDone compact idx s) := by simp [execContextWritebackDone]

@[simp] theorem scEraseW_pending (s v) : (scEraseW s v).pending = s.pending := by simp [scEraseW]

@[simp] theorem execScEraseAll_completes (a v s) : Completes s (execScEraseAll a v s) := by simp [execScEraseAll]

@[simp] theorem keyScrubs_pending (s) : (keyScrubs s).pending = s.pending := by simp [keyScrubs]

@[simp] theorem ctxScrubbed_pending (s) : (ctxScrubbed s).pending = s.pending := by simp [ctxScrubbed]

@[simp] theorem execContextScrubDone_completes (s) : Completes s (execContextScrubDone s) := by
  unfold execContextScrubDone; split <;> simp

/-! ## Machine/Power.lean -/

@[simp] theorem startRecord_pending (s step error) :
    (startRecord s step error).pending = s.pending := by simp [startRecord]

@[simp] theorem outputsDown_pending (s) : (outputsDown s).pending = s.pending := by simp [outputsDown]

@[simp] theorem holdCore_pending (s) : (holdCore s).pending = s.pending := by simp [holdCore]

@[simp] theorem resetCore_pending (s kind) : (resetCore s kind).pending = s.pending := by simp [resetCore]

@[simp] theorem execBlockReset_completes (s) : Completes s (execBlockReset s) := by
  unfold execBlockReset; split <;> simp

@[simp] theorem execTamperReset_completes (s) : Completes s (execTamperReset s) := by
  unfold execTamperReset; split <;> simp

@[simp] theorem execEraseScrubDone_completes (s) : Completes s (execEraseScrubDone s) := by
  unfold execEraseScrubDone; split <;> simp

@[simp] theorem execPwrCore_completes (s) : Completes s (execPwrCore s) := by simp [execPwrCore]

@[simp] theorem vsbReset_pending (s) : (vsbReset s).pending = s.pending := by simp [vsbReset]

@[simp] theorem vddReset_pending (s) : (vddReset s).pending = s.pending := by simp [vddReset]

@[simp] theorem execSupplySample_completes (vsb vdd hot cold s) :
    Completes s (execSupplySample vsb vdd hot cold s) := by simp [execSupplySample]

@[simp] theorem tearSlot_pending (s) : (tearSlot s).pending = s.pending := by
  simp only [tearSlot]; (repeat' split) <;> simp

@[simp] theorem holdUp_pending (s ok) : (holdUp s ok).pending = s.pending := by simp [holdUp]

@[simp] theorem execPwrSentinel_completes (s) : Completes s (execPwrSentinel s) := by simp [execPwrSentinel]

@[simp] theorem scanLog_pending (s) : (scanLog s).pending = s.pending := by
  simp only [scanLog]; (repeat' split) <;> simp

@[simp] theorem execLogbookScanDone_completes (s) : Completes s (execLogbookScanDone s) := by simp [execLogbookScanDone]

@[simp] theorem execPllLock_completes (khz time s) : Completes s (execPllLock khz time s) := by simp [execPllLock]

@[simp] theorem execPllLockLost_completes (s) : Completes s (execPllLockLost s) := by simp [execPllLockLost]

@[simp] theorem execPllLockRetry_completes (noRef s) :
    Completes s (execPllLockRetry noRef s) := by simp [execPllLockRetry]

@[simp] theorem pwReq_pending (s a2) : (pwReq s a2).pending = s.pending := by simp [pwReq]

@[simp] theorem pwReqW_pending (s v) : (pwReqW s v).pending = s.pending := by simp [pwReqW]

@[simp] theorem execPwReqA2_completes (a s) : Completes s (execPwReqA2 a s) := by simp [execPwReqA2]

@[simp] theorem execPwReqA3_completes (a s) : Completes s (execPwReqA3 a s) := by simp [execPwReqA3]

@[simp] theorem wake_pending (s) : (wake s).pending = s.pending := by simp [wake]

@[simp] theorem execA2EntryComplete_completes (s) : Completes s (execA2EntryComplete s) := by simp [execA2EntryComplete]

@[simp] theorem execPdWake_completes (s) : Completes s (execPdWake s) := by simp [execPdWake]

@[simp] theorem reseedAll_pending (s) : (reseedAll s).pending = s.pending := by simp [reseedAll]

@[simp] theorem exitA2_pending (s) : (exitA2 s).pending = s.pending := by simp [exitA2]

@[simp] theorem execPowerSwitchLoss_completes (g s) :
    Completes s (execPowerSwitchLoss g s) := by simp [execPowerSwitchLoss]

@[simp] theorem zeroOnly_pending (s) : (zeroOnly s).pending = s.pending := by simp [zeroOnly]

@[simp] theorem execScanModeEntry_completes (s) : Completes s (execScanModeEntry s) := by simp [execScanModeEntry]

@[simp] theorem execScanModeExit_completes (s) : Completes s (execScanModeExit s) := by simp [execScanModeExit]

@[simp] theorem execMbistStart_completes (s) : Completes s (execMbistStart s) := by simp [execMbistStart]

/-! ## Machine/Functions.lean -/

@[simp] theorem blockRequest_pending (s) : (blockRequest s).pending = s.pending := by simp [blockRequest]

@[simp] theorem mgResetW_pending (s v) : (mgResetW s v).pending = s.pending := by simp [mgResetW]

@[simp] theorem execMgReset_completes (a v s) : Completes s (execMgReset a v s) := by simp [execMgReset]

@[simp] theorem stopIo_pending (s f) : (stopIo s f).pending = s.pending := by simp [stopIo]

@[simp] theorem dropChains_pending (s f) : (dropChains s f).pending = s.pending := by simp [dropChains]

@[simp] theorem freeContexts_pending (s f) : (freeContexts s f).pending = s.pending := by
  unfold freeContexts; split <;> simp

@[simp] theorem eraseOwner_pending (s f) : (eraseOwner s f).pending = s.pending := by simp [eraseOwner]

@[simp] theorem vfStop_pending (s f) : (vfStop s f).pending = s.pending := by simp [vfStop]

@[simp] theorem vfReset_pending (s f flr) : (vfReset s f flr).pending = s.pending := by simp [vfReset]

@[simp] theorem vfCtlW_pending (s f v) : (vfCtlW s f v).pending = s.pending := by simp [vfCtlW]

@[simp] theorem execVfCtlReset_completes (a f v s) : Completes s (execVfCtlReset a f v s) := by simp [execVfCtlReset]

@[simp] theorem takeFlr_pending (s n) : (takeFlr s n).pending = s.pending := by simp [takeFlr]

@[simp] theorem fpError_pending (s) : (fpError s).pending = s.pending := by simp [fpError]

@[simp] theorem flrHeld_pending (s n parityOk) : (flrHeld s n parityOk).pending = s.pending := by simp [flrHeld]

@[simp] theorem flrBeat_pending (s x) : (flrBeat s x).pending = s.pending := by simp [flrBeat]

@[simp] theorem execFlrRequest_completes (f parityOk s) :
    Completes s (execFlrRequest f parityOk s) := by simp [execFlrRequest]

@[simp] theorem execA2ExitComplete_completes (s) : Completes s (execA2ExitComplete s) := by simp [execA2ExitComplete]

@[simp] theorem vfDone_pending (s f) : (vfDone s f).pending = s.pending := by simp [vfDone]

@[simp] theorem execVfResetComplete_completes (f s) :
    Completes s (execVfResetComplete f s) := by simp [execVfResetComplete]

@[simp] theorem execCtxFillDone_completes (f s) : Completes s (execCtxFillDone f s) := by simp [execCtxFillDone]

@[simp] theorem execPendingQuery_completes (f parityOk s) :
    Completes s (execPendingQuery f parityOk s) := by simp [execPendingQuery]

@[simp] theorem resend_pending (s odd) : (resend s odd).pending = s.pending := by
  simp only [resend]; (repeat' split) <;> simp

@[simp] theorem execFpHostPerr_completes (s) : Completes s (execFpHostPerr s) := by simp [execFpHostPerr]

@[simp] theorem hostTakes_pending (s) : (hostTakes s).pending = s.pending := by simp [hostTakes]

/-! ## Machine/Control.lean -/

@[simp] theorem controlEdge_pending (s) : (controlEdge s).pending = s.pending := by simp [controlEdge]

@[simp] theorem resetEdge_pending (s) : (resetEdge s).pending = s.pending := by simp [resetEdge]

@[simp] theorem cycleEdge_pending (s) : (cycleEdge s).pending = s.pending := by simp [cycleEdge]

@[simp] theorem leave_pending (s) : (leave s).pending = s.pending := by simp [leave]

@[simp] theorem countCycle_pending (s) : (countCycle s).pending = s.pending := by simp [countCycle]

@[simp] theorem rootCycle_pending (s) : (rootCycle s).pending = s.pending := by simp [rootCycle]

/-! ## Machine/Debug.lean -/

@[simp] theorem setDbg_pending (s code) : (setDbg s code).pending = s.pending := by simp [setDbg]

@[simp] theorem dbgChallenge_pending (s) : (dbgChallenge s).pending = s.pending := by simp [dbgChallenge]

@[simp] theorem dbgAuth_pending (s) : (dbgAuth s).pending = s.pending := by simp [dbgAuth]

@[simp] theorem dbgRelease_pending (s) : (dbgRelease s).pending = s.pending := by simp [dbgRelease]

@[simp] theorem dbgCmd_pending (s v) : (dbgCmd s v).pending = s.pending := by simp [dbgCmd]

@[simp] theorem execDbgChallenge_completes (a s) : Completes s (execDbgChallenge a s) := by simp [execDbgChallenge]

@[simp] theorem execDbgAuth_completes (a s) : Completes s (execDbgAuth a s) := by simp [execDbgAuth]

@[simp] theorem execDbgRelease_completes (a s) : Completes s (execDbgRelease a s) := by simp [execDbgRelease]

@[simp] theorem drawOpr_pending (s) : (drawOpr s).pending = s.pending := by simp [drawOpr]

@[simp] theorem dbgGrant_pending (s) : (dbgGrant s).pending = s.pending := by simp [dbgGrant]

@[simp] theorem execDbgAuthComplete_completes (s) : Completes s (execDbgAuthComplete s) := by simp [execDbgAuthComplete]

@[simp] theorem execDbgNonceExpire_completes (s) : Completes s (execDbgNonceExpire s) := by
  unfold execDbgNonceExpire; split <;> simp

@[simp] theorem execLockedLogInterval_completes (s) :
    Completes s (execLockedLogInterval s) := by simp [execLockedLogInterval]

@[simp] theorem acNoticeW_pending (s v) : (acNoticeW s v).pending = s.pending := by simp [acNoticeW]

@[simp] theorem execAcNoticeClear_completes (a v s) :
    Completes s (execAcNoticeClear a v s) := by simp [execAcNoticeClear]

/-! ## Machine/Helms.lean -/

@[simp] theorem trapUnit_pending (s uid) : (trapUnit s uid).pending = s.pending := by simp [trapUnit]

@[simp] theorem helmTrap_pending (s h cause) : (helmTrap s h cause).pending = s.pending := by simp [helmTrap]

@[simp] theorem execHelmTrap_completes (h cause s) : Completes s (execHelmTrap h cause s) := by simp [execHelmTrap]

@[simp] theorem preemptW_pending (s v) : (preemptW s v).pending = s.pending := by simp [preemptW]

@[simp] theorem execHlPreempt_completes (a v s) : Completes s (execHlPreempt a v s) := by simp [execHlPreempt]

@[simp] theorem faultClrW_pending (s v) : (faultClrW s v).pending = s.pending := by simp [faultClrW]

@[simp] theorem execBnFaultClr_completes (a v s) : Completes s (execBnFaultClr a v s) := by simp [execBnFaultClr]

@[simp] theorem execUnitKatDone_completes (pass s) : Completes s (execUnitKatDone pass s) := by simp [execUnitKatDone]

/-! ## Machine/Payments.lean -/

@[simp] theorem execPinFailInterval_completes (s) : Completes s (execPinFailInterval s) := by simp [execPinFailInterval]

@[simp] theorem pyNoticeW_pending (s v) : (pyNoticeW s v).pending = s.pending := by simp [pyNoticeW]

@[simp] theorem execPyNoticeClear_completes (a v s) :
    Completes s (execPyNoticeClear a v s) := by simp [execPyNoticeClear]

/-! ## Machine/RegsBase.lean -/

@[simp] theorem ro_pending (s n) : (ro s n).1.pending = s.pending := by simp [ro]

@[simp] theorem rgRead_pending (s g o) : (rgRead s g o).1.pending = s.pending := by
  unfold rgRead; split <;> simp

@[simp] theorem rgWrite_pending (s g o v) : (rgWrite s g o v).pending = s.pending := by
  unfold rgWrite; split <;> simp

@[simp] theorem cqRead_pending (s q o) : (cqRead s q o).1.pending = s.pending := by
  unfold cqRead; split <;> simp

@[simp] theorem wpPosW_pending (s q v) : (wpPosW s q v).pending = s.pending := by simp [wpPosW]

@[simp] theorem cqWrite_pending (s q o v) : (cqWrite s q o v).pending = s.pending := by
  unfold cqWrite; split <;> simp

@[simp] theorem nvRead_pending (s f k o) : (nvRead s f k o).1.pending = s.pending := by
  unfold nvRead; (repeat' split) <;> simp

@[simp] theorem nvWrite_pending (s f k o v) : (nvWrite s f k o v).pending = s.pending := by
  unfold nvWrite; split <;> simp

@[simp] theorem adPoolRead_pending (s p o) : (adPoolRead s p o).1.pending = s.pending := by
  unfold adPoolRead; split <;> simp

@[simp] theorem adClassRead_pending (s k o) : (adClassRead s k o).1.pending = s.pending := by
  unfold adClassRead; (repeat' split) <;> simp

@[simp] theorem adRead_pending (s o) : (adRead s o).1.pending = s.pending := by
  unfold adRead; (repeat' split) <;> simp

@[simp] theorem famWmW_pending (s p v) : (famWmW s p v).pending = s.pending := by simp [famWmW]

@[simp] theorem adWrite_pending (s o v) : (adWrite s o v).pending = s.pending := by
  unfold adWrite; (repeat' split) <;> simp

@[simp] theorem iqPoolRead_pending (s p o) : (iqPoolRead s p o).1.pending = s.pending := by
  unfold iqPoolRead; split <;> simp

@[simp] theorem iqRead_pending (s o) : (iqRead s o).1.pending = s.pending := by
  unfold iqRead; (repeat' split) <;> simp

@[simp] theorem iqWmW_pending (s p v) : (iqWmW s p v).pending = s.pending := by simp [iqWmW]

@[simp] theorem iqWrite_pending (s o v) : (iqWrite s o v).pending = s.pending := by
  unfold iqWrite; (repeat' split) <;> simp

/-! ## Machine/RegsUnit.lean -/

@[simp] theorem setCnt_pending (s uid c) : (setCnt s uid c).pending = s.pending := by simp [setCnt]

@[simp] theorem unCommon_pending (s r o) : (unCommon s r o).1.pending = s.pending := by
  unfold unCommon; split <;> simp

@[simp] theorem unTile_pending (s r o) : (unTile s r o).1.pending = s.pending := by
  unfold unTile; split <;> simp

@[simp] theorem atParity_pending (s uid) : (atParity s uid).1.pending = s.pending := by simp [atParity]

@[simp] theorem unArith_pending (s r o) : (unArith s r o).1.pending = s.pending := by
  unfold unArith; split <;> simp

@[simp] theorem setAr_pending (s t f) : (setAr s t f).pending = s.pending := by simp [setAr]

@[simp] theorem unArithW_pending (s uid o v) : (unArithW s uid o v).pending = s.pending := by
  unfold unArithW; split <;> simp

@[simp] theorem unRead_pending (s uid o) : (unRead s uid o).1.pending = s.pending := by
  unfold unRead; (repeat' split) <;> simp

@[simp] theorem unWrite_pending (s uid o v) : (unWrite s uid o v).pending = s.pending := by
  unfold unWrite; split <;> simp

@[simp] theorem helmRead_pending (s h o) : (helmRead s h o).1.pending = s.pending := by
  unfold helmRead; split <;> simp

@[simp] theorem hlRead_pending (s o) : (hlRead s o).1.pending = s.pending := by
  unfold hlRead; (repeat' split) <;> simp

@[simp] theorem hlWrite_pending (s o v) : (hlWrite s o v).pending = s.pending := by simp [hlWrite]

/-! ## Machine/RegsCore.lean -/

@[simp] theorem mgRead_pending (s o) : (mgRead s o).1.pending = s.pending := by
  unfold mgRead; (repeat' split) <;> simp

@[simp] theorem mgWrite_pending (s o v) : (mgWrite s o v).pending = s.pending := by
  unfold mgWrite; split <;> simp

@[simp] theorem chRead_pending (s o) : (chRead s o).1.pending = s.pending := by
  unfold chRead; (repeat' split) <;> simp

@[simp] theorem chWrite_pending (s o v) : (chWrite s o v).pending = s.pending := by
  unfold chWrite; split <;> simp

@[simp] theorem scRead_pending (s o) : (scRead s o).1.pending = s.pending := by
  unfold scRead; split <;> simp

@[simp] theorem scWrite_pending (s o v) : (scWrite s o v).pending = s.pending := by
  unfold scWrite; split <;> simp

@[simp] theorem kvRegRead_pending (s o) : (kvRegRead s o).1.pending = s.pending := by
  unfold kvRegRead; (repeat' split) <;> simp

@[simp] theorem kvRegWrite_pending (s o v) : (kvRegWrite s o v).pending = s.pending := by
  unfold kvRegWrite; split <;> simp

@[simp] theorem pyRead_pending (s o) : (pyRead s o).1.pending = s.pending := by
  unfold pyRead; split <;> simp

@[simp] theorem pyWrite_pending (s o v) : (pyWrite s o v).pending = s.pending := by
  unfold pyWrite; split <;> simp

@[simp] theorem lcRead_pending (s o) : (lcRead s o).1.pending = s.pending := by
  unfold lcRead; (repeat' split) <;> simp

@[simp] theorem lcWrite_pending (s o v) : (lcWrite s o v).pending = s.pending := by
  unfold lcWrite; split <;> simp

@[simp] theorem bnRead_pending (s o) : (bnRead s o).1.pending = s.pending := by
  unfold bnRead; (repeat' split) <;> simp

@[simp] theorem bnWrite_pending (s o v) : (bnWrite s o v).pending = s.pending := by
  unfold bnWrite; split <;> simp

@[simp] theorem ckRead_pending (s o) : (ckRead s o).1.pending = s.pending := by
  unfold ckRead; split <;> simp

@[simp] theorem ckWrite_pending (s o v) : (ckWrite s o v).pending = s.pending := by
  unfold ckWrite; split <;> simp

@[simp] theorem sdRegRead_pending (s o) : (sdRegRead s o).1.pending = s.pending := by
  unfold sdRegRead; split <;> simp

@[simp] theorem sdRegWrite_pending (s o v) : (sdRegWrite s o v).pending = s.pending := by
  unfold sdRegWrite; split <;> simp

@[simp] theorem lbRead_pending (s o) : (lbRead s o).1.pending = s.pending := by
  unfold lbRead; split <;> simp

@[simp] theorem lbWrite_pending (s o v) : (lbWrite s o v).pending = s.pending := by
  unfold lbWrite; split <;> simp

@[simp] theorem vfRead_pending (s f o) : (vfRead s f o).1.pending = s.pending := by
  unfold vfRead; split <;> simp

@[simp] theorem vfStatW_pending (s f v) : (vfStatW s f v).pending = s.pending := by simp [vfStatW]

@[simp] theorem vfWrite_pending (s f o v) : (vfWrite s f o v).pending = s.pending := by
  unfold vfWrite; split <;> simp

@[simp] theorem tenantRead_pending (s f o) : (tenantRead s f o).1.pending = s.pending := by
  unfold tenantRead; split <;> simp

@[simp] theorem vfWinRead_pending (s f o) : (vfWinRead s f o).1.pending = s.pending := by
  unfold vfWinRead; (repeat' split) <;> simp

@[simp] theorem vfWinWrite_pending (s f o v) : (vfWinWrite s f o v).pending = s.pending := by
  unfold vfWinWrite; (repeat' split) <;> simp

@[simp] theorem outRuleRead_pending (s i k) : (outRuleRead s i k).1.pending = s.pending := by
  unfold outRuleRead; split <;> simp

@[simp] theorem acStatRead_pending (s o) : (acStatRead s o).1.pending = s.pending := by
  unfold acStatRead; split <;> simp

@[simp] theorem acRead_pending (s o) : (acRead s o).1.pending = s.pending := by
  unfold acRead; (repeat' split) <;> simp

@[simp] theorem acWrite_pending (s o v) : (acWrite s o v).pending = s.pending := by
  unfold acWrite; split <;> simp

/-! ## Machine/Startup.lean -/

@[simp] theorem startFail_pending (s code) : (startFail s code).pending = s.pending := by simp [startFail]

@[simp] theorem endSelfTest_pending (s env) : (endSelfTest s env).pending = s.pending := by simp [endSelfTest]

@[simp] theorem endFuseRead_pending (s) : (endFuseRead s).pending = s.pending := by simp [endFuseRead]

@[simp] theorem endKeys_pending (s) : (endKeys s).pending = s.pending := by simp [endKeys]

@[simp] theorem helmTested_pending (bad s h) : (helmTested bad s h).pending = s.pending := by simp [helmTested]

@[simp] theorem startReady_pending (s) : (startReady s).pending = s.pending := by simp [startReady]

@[simp] theorem endActivate_pending (s env) : (endActivate s env).pending = s.pending := by simp [endActivate]

@[simp] theorem execStartupStepEnd_completes (env s) : Completes s (execStartupStepEnd env s) := by
  unfold execStartupStepEnd; (repeat' split) <;> simp

@[simp] theorem holdEnded_pending (s) : (holdEnded s).pending = s.pending := by simp [holdEnded]

@[simp] theorem execNostartHoldEnd_completes (s) : Completes s (execNostartHoldEnd s) := by simp [execNostartHoldEnd]

/-! ## Machine/Ports.lean -/

@[simp] theorem regRead_pending (s off) : (regRead s off).1.pending = s.pending := by
  simp only [regRead]
  split_ifs
  iterate 5 simp
  split <;> simp

@[simp] theorem regWrite_pending (s off v) : (regWrite s off v).pending = s.pending := by
  simp only [regWrite]
  split_ifs
  iterate 5 simp
  split <;> simp

@[simp] theorem storeRead_pending (s b zero o n) : (storeRead s b zero o n).1.pending = s.pending := by
  unfold storeRead; split <;> simp

theorem romRead_pending {s off n x} (h : romRead s off n = some x) : x.1.pending = s.pending := by
  unfold romRead at h
  (repeat' split at h) <;> cases h <;> simp

@[simp] theorem mgmtRead_pending (s a off) : (mgmtRead s a off).1.pending = s.pending := by
  simp only [mgmtRead]
  split
  · simp
  · split
    · next hx => split <;> simp [romRead_pending hx]
    · split <;> simp

@[simp] theorem mgmtWrite_pending (s a off v) : (mgmtWrite s a off v).1.pending = s.pending := by
  unfold mgmtWrite; (repeat' split) <;> simp

@[simp] theorem portRead_pending (s a addr) : (portRead s a addr).pending = s.pending := by
  simp only [portRead]
  split
  · rfl
  · split
    · next hx => simp [fst_pending hx]
    · next hx => (repeat' split) <;> simp [fst_pending hx]

@[simp] theorem portWrite_pending (s a addr v) : (portWrite s a addr v).pending = s.pending := by
  simp only [portWrite]
  split
  · rfl
  · split
    · next hx => simp [fst_pending hx]
    · next hx => (repeat' split) <;> simp [fst_pending hx]

@[simp] theorem execRegisterWrite_completes (a addr v s) :
    Completes s (execRegisterWrite a addr v s) := by simp [execRegisterWrite]

@[simp] theorem execRcRead_completes (a addr s) : Completes s (execRcRead a addr s) := by simp [execRcRead]

@[simp] theorem execInboundRead_completes (a addr s) :
    Completes s (execInboundRead a addr s) := by simp [execInboundRead]

@[simp] theorem middleParity_pending (s o) : (middleParity s o).pending = s.pending := by
  unfold middleParity; (repeat' split) <;> simp

@[simp] theorem middleBytes_pending (s o) : (middleBytes s o).1.pending = s.pending := by
  unfold middleBytes; split <;> simp

@[simp] theorem middleRead_pending (s o parity) : (middleRead s o parity).1.pending = s.pending := by simp [middleRead]

theorem dbgMemory_pending {s addr parity x} (h : dbgMemory s addr parity = some x) : x.1.pending = s.pending := by
  simp only [dbgMemory] at h
  (repeat' split at h) <;> cases h <;> simp

@[simp] theorem dbgJudge_pending (s r addr write) : (dbgJudge s r addr write).1.pending = s.pending := by
  unfold dbgJudge; split <;> simp

@[simp] theorem dbgLoad_pending (s r addr) : (dbgLoad s r addr).1.pending = s.pending := by
  unfold dbgLoad
  split
  · simp
  · split
    · next hx => simpa using dbgMemory_pending hx
    · rfl

@[simp] theorem dbgStore_pending (s r addr v) : (dbgStore s r addr v).1.pending = s.pending := by
  unfold dbgStore; split <;> simp

@[simp] theorem dbgRun_pending (s r b bad) : (dbgRun s r b bad).1.pending = s.pending := by
  simp only [dbgRun]
  split
  · rfl
  · split
    · next hx => simp [fst_pending hx]
    · next hx => split <;> simp [fst_pending hx]

@[simp] theorem dbgAnswer_pending (s x) : (dbgAnswer s x).pending = s.pending := by simp [dbgAnswer]

@[simp] theorem dbgByte_pending (r s x) : (dbgByte r s x).pending = s.pending := by simp [dbgByte]

@[simp] theorem dbgFeed_pending (r s) : (dbgFeed r s).pending = s.pending := by simp [dbgFeed]

@[simp] theorem execDebugRead_completes (r s) : Completes s (execDebugRead r s) := by simp [execDebugRead]

@[simp] theorem execDebugWrite_completes (r v s) : Completes s (execDebugWrite r v s) := by simp [execDebugWrite]

/-! ## The dispatcher and the step -/

/-- Each arm of the dispatcher is one command, which completes. -/
theorem exec_completes (i s) : Completes s (exec i s) := by
  cases i <;> simp [exec]

theorem step_of_pending_nil {s : State} (h : s.pending = []) : step s = .next (rootCycle s) := by
  simp only [step, h]

theorem step_of_pending_cons {s : State} {c : Instr} {rest : List Instr} (h : s.pending = c :: rest) :
    step s = exec c { s with pending := rest } := by
  simp only [step, h]

/-- Settles O1: the branch of the step on a queue that is not empty. -/
theorem stepRunsFrontCommand : Obligations.StepRunsFrontCommand :=
  fun _ _ _ h => step_of_pending_cons h

/-- Settles O3: a root cycle and every command complete, and neither touches the queue. -/
theorem everyStepCompletes : Obligations.EveryStepCompletes := by
  intro s
  cases h : s.pending with
  | nil => exact ⟨rootCycle s, step_of_pending_nil h, by simp [h]⟩
  | cons c rest =>
    obtain ⟨t, ht, hp⟩ := exec_completes c { s with pending := rest }
    exact ⟨t, (step_of_pending_cons h).trans ht, hp⟩

end Sys2Proof.Machine

namespace Sys2Proof.Machine

/-!
# Granted register accesses

What REGISTER_WRITE, RC_READ and INBOUND_READ do once R307 has granted them: the access reaches the register of its
offset and is answered on its port.
-/

/-! ## A granted register access of the management window (R25, R307) -/

theorem respond_ok_eq_acked (s : State) (a : Access) : respond s a (respOk []) = acked s a := rfl

theorem respond_word_eq_answered (s : State) (a : Access) (w : Word) :
    respond s a (respOk (toLE 4 w.toNat)) = answered s a w := rfl

/-- A granted access has an offset: a PF access finds its address inside the management window. -/
theorem decodeAddr_of_granted {s : State} {a : Access} {w : Bool} {n : Nat}
    (h : granted s a w (decodeAddr 0 n) = true) : decodeAddr 0 n = some n := by
  by_cases hn : n < 2 ^ 26
  · exact if_pos hn
  · have hd : decodeAddr 0 n = none := if_neg hn
    rw [hd] at h
    cases h

/-- A granted access is one aligned word (R5). -/
theorem registerSize_of_granted {s : State} {a : Access} {w : Bool} {o : Nat} (h : granted s a w (some o) = true) :
    registerSize a o = true := by
  have hs := granted_size s a w _ h
  simpa [registerSize] using hs

/-- An offset of the management window below the Helm image and outside the Soundings and the Logbook (R25): only
registers and reserved ranges lie there. -/
abbrev RegisterSpace (o : Nat) : Prop := o < 0x00100000 ∨ 0x00300000 ≤ o ∧ o < 0x01200000

theorem romRead_eq_none {s : State} {o n : Nat} (h : RegisterSpace o) : romRead s o n = none := by
  unfold romRead
  rw [if_neg (by omega), if_neg (by omega), if_neg (by omega)]

theorem inAperture_eq_false {o : Nat} (h : RegisterSpace o) : inAperture o = false :=
  decide_eq_false (by omega)

theorem portWrite_register {s : State} {a : Access} {o : Nat} (v : Word) (ha : a.func = 0)
    (h : granted s a true (decodeAddr 0 o) = true) (ho : RegisterSpace o) :
    portWrite s a o v = acked (regWrite s o v) a := by
  have hd := decodeAddr_of_granted h
  have hsize := registerSize_of_granted (hd ▸ h)
  have hin : inAperture o = false := inAperture_eq_false ho
  have hacc : access s a true (some o) = (s, none) := hd ▸ access_granted s a true _ h
  simp [portWrite, granted_coreRstN s a true _ h, hacc, ha, hd, mgmtWrite, hin, romRead_eq_none ho, hsize,
    respond_ok_eq_acked]

theorem portRead_register {s : State} {a : Access} {o : Nat} (ha : a.func = 0)
    (h : granted s a false (decodeAddr 0 o) = true) (ho : RegisterSpace o) :
    portRead s a o = answered (regRead s o).1 a (regRead s o).2 := by
  have hd := decodeAddr_of_granted h
  have hsize := registerSize_of_granted (hd ▸ h)
  have hin : inAperture o = false := inAperture_eq_false ho
  have hacc : access s a false (some o) = (s, none) := hd ▸ access_granted s a false _ h
  simp [portRead, granted_coreRstN s a false _ h, hacc, ha, hd, mgmtRead, hin, romRead_eq_none ho, hsize,
    respond_word_eq_answered]

theorem exec_registerWrite_register {s t : State} {a : Access} {addr : BitVec 29} {o : Nat} {v : Word} (ha : a.func = 0)
    (h : granted s a true (decodeAddr 0 addr.toNat) = true) (e : addr.toNat = o) (ho : RegisterSpace o)
    (hw : regWrite s o v = t) : exec (.registerWrite a addr v) s = .next (acked t a) := by
  subst e hw
  exact congrArg _ (portWrite_register v ha h ho)

theorem exec_rcRead_register {s t : State} {a : Access} {addr : BitVec 29} {o : Nat} {w : Word} (ha : a.func = 0)
    (h : granted s a false (decodeAddr 0 addr.toNat) = true) (e : addr.toNat = o) (ho : RegisterSpace o)
    (hr : regRead s o = (t, w)) : exec (.rcRead a addr) s = .next (answered t a w) := by
  subst e
  exact congrArg _ ((portRead_register ha h ho).trans (by rw [hr]))

/-- INBOUND_READ and RC_READ are the same access of a port (R4). -/
theorem exec_inboundRead (a : Access) (addr : BitVec 29) (s : State) :
    exec (.inboundRead a addr) s = exec (.rcRead a addr) s := rfl

/-- A granted read of a VF's window (R26). -/
theorem portRead_vf {s : State} {a : Access} {n o : Nat} (ha : a.func ≠ 0)
    (hd : decodeAddr a.func.toNat n = some o) (h : granted s a false (some o) = true) :
    portRead s a n = answered (vfWinRead s a.func.toNat o).1 a (vfWinRead s a.func.toNat o).2 := by
  have hf : a.func.toNat ≠ 0 := fun e => ha (BitVec.eq_of_toNat_eq e)
  simp [portRead, granted_coreRstN s a false _ h, hd, access_granted s a false _ h, hf, registerSize_of_granted h,
    respond_word_eq_answered]

/-- The bytes at (f - 1) * 64 KiB are the window of the function with id f (R26). -/
theorem decodeAddr_vf {f n o : Nat} (hf : f ≠ 0) (ho : o < 65536) (hn : n = (f - 1) * 65536 + o) :
    decodeAddr f n = some o := by
  simp only [decodeAddr, hf, if_false]
  rw [if_pos (by omega), Option.some.injEq]
  omega

/-! ## Registers by their offset -/

theorem regWrite_chLen (s : State) (v : Word) :
    regWrite s 0x10014 v = { s with ch := { s.ch with len := wfld v 0 22 } } := rfl

theorem regWrite_acFnSel (s : State) (v : Word) :
    regWrite s 0x400044 v = { s with ac := { s.ac with fnSel := BitVec.ofNat 14 v.toNat } } := rfl

theorem regWrite_chSrcLo (s : State) (v : Word) : regWrite s 0x1000C v = { s with hold := s.hold.set 0x1000C v } := rfl

theorem regWrite_chSrcHi (s : State) (v : Word) : regWrite s 0x10010 v =
    { s with ch := { s.ch with src := ((s.hold.get 0 0x1000C).toNat + 2 ^ 32 * v.toNat) % 2 ^ 52 } } := rfl

/-- LC_DATA n takes the written word (R332). -/
theorem regWrite_lcData (s : State) (n : Nat) (v : Word) (hn : n < 12) :
    regWrite s (0x80040 + 4 * n) v = { s with lc := { s.lc with data := s.lc.data.set n v } } := by
  interval_cases n <;> rfl

/-- CH_ has no register at 0x38 (R5). -/
theorem regWrite_chReserved (s : State) (v : Word) : regWrite s 0x10038 v = s := rfl

theorem regRead_ivCount (s : State) :
    regRead s 0x400020 = ({ s with ac := { s.ac with ivCount := 0 } }, word s.ac.ivCount) := rfl

theorem regRead_a2Count (s : State) :
    regRead s 0xA0120 = ({ s with pw := { s.pw with a2Count := 0 } }, word s.pw.a2Count) := rfl

theorem regRead_sdMissed (s : State) :
    regRead s 0xB0008 = ({ s with sd := { s.sd with missed := 0 } }, word s.sd.missed) := rfl

theorem regRead_txEpoch (s : State) : regRead s 0x118 = (s, s.tx.epoch) := rfl

/-- VF_T_STD shows the STD_COUNT of the record of the function (R292). -/
theorem vfWinRead_std {s : State} {f : Nat} {r : FuncRec} (h : funcRec s f = some r) :
    vfWinRead s f 0x14 = (s, word r.stdCount) := by
  simp [vfWinRead, tenantRead, ro, h]

/-- Settles O52: a granted access reaches its register, whose write or read is then the one of its offset. -/
theorem registerAccesses : Obligations.RegisterAccesses := by
  refine ⟨fun s a addr v ha h => ?_, fun s a addr ha h => ?_, fun s a addr r ha hn h hr => ?_⟩
  · have hw {o t} := exec_registerWrite_register (t := t) (o := o) (v := v) ha h
    exact ⟨fun e => hw (e ▸ rfl) (by decide) (regWrite_chLen s v),
      fun e => hw (e ▸ rfl) (by decide) (regWrite_acFnSel s v),
      fun n hn e => hw e (by omega) (regWrite_lcData s n v hn),
      fun e => hw (e ▸ rfl) (by decide) (regWrite_chSrcLo s v),
      fun e => hw (e ▸ rfl) (by decide) (regWrite_chSrcHi s v),
      fun e => hw (e ▸ rfl) (by decide) (regWrite_chReserved s v)⟩
  · have hr {o t w} := exec_rcRead_register (t := t) (o := o) (w := w) ha h
    exact ⟨fun e => hr (e ▸ rfl) (by decide) (regRead_ivCount s),
      fun e => hr (e ▸ rfl) (by decide) (regRead_a2Count s),
      fun e => hr (e ▸ rfl) (by decide) (regRead_sdMissed s),
      fun e => (exec_inboundRead a addr s).trans (hr (e ▸ rfl) (by decide) (regRead_txEpoch s))⟩
  · have hf : a.func.toNat ≠ 0 := fun e => ha (BitVec.eq_of_toNat_eq e)
    have hd := decodeAddr_vf hf (by decide) hn
    simp only [exec, execInboundRead, portRead_vf ha hd h, vfWinRead_std hr]

end Sys2Proof.Machine

namespace Sys2Proof.Machine

/-!
# What notices, latches and refused accesses change

A notice changes the counts of its vector and the lanes of the function port; a latch adds the ACCESS or Logbook area;
a refused access (R307) adds its counters. Nothing else of the state moves.
-/

/-! ## The areas that a record of an access may change -/

/-- From s to t at most the ACCESS registers, the Logbook, the vectors and the notice lanes have changed. -/
def OnlyRecords (s t : State) : Prop :=
  t = { s with ac := t.ac, lb := t.lb, nv := t.nv, lane0 := t.lane0, lane1 := t.lane1 }

theorem OnlyRecords.refl (s : State) : OnlyRecords s s := rfl

theorem OnlyRecords.trans {s t u : State} (h : OnlyRecords s t) (k : OnlyRecords t u) : OnlyRecords s u :=
  Eq.trans k (congrArg (fun x : State => { x with ac := u.ac, lb := u.lb, nv := u.nv, lane0 := u.lane0, lane1 := u.lane1 }) h)

/-- Where the Logbook stays too, the change is one of the other four areas. -/
theorem OnlyRecords.of_lb {s t : State} (h : OnlyRecords s t) (hlb : t.lb = s.lb) :
    t = { s with ac := t.ac, nv := t.nv, lane0 := t.lane0, lane1 := t.lane1 } :=
  Eq.trans h (by rw [hlb])

theorem onlyRecords_setLane (s : State) (odd : Bool) (l : Lane) : OnlyRecords s (setLane s odd l) := by
  cases odd <;> rfl

theorem onlyRecords_setNv (s : State) (f k : Nat) (n : Nv) : OnlyRecords s (setNv s f k n) := rfl

theorem onlyRecords_flushLane (s : State) (odd : Bool) : OnlyRecords s (flushLane s odd) := by
  unfold flushLane
  dsimp only
  split
  · split
    · exact .refl s
    · split
      · exact onlyRecords_setLane ..
      · exact (onlyRecords_setLane ..).trans (onlyRecords_setNv ..)
  · exact .refl s

theorem onlyRecords_emitNotice (s : State) (f k : Nat) : OnlyRecords s (emitNotice s f k) :=
  (onlyRecords_setLane ..).trans (onlyRecords_flushLane ..)

theorem onlyRecords_sendNotice (s : State) (f k : Nat) : OnlyRecords s (sendNotice s f k) := by
  unfold sendNotice
  dsimp only
  split
  · exact onlyRecords_setNv ..
  · exact onlyRecords_emitNotice ..

theorem onlyRecords_pfNotice (s : State) (cfg : BitVec 5) : OnlyRecords s (pfNotice s cfg) := by
  unfold pfNotice
  split
  · exact onlyRecords_sendNotice ..
  · exact .refl s

theorem onlyRecords_acLatch (s : State) (i : Nat) : OnlyRecords s (acLatch s i) := by
  unfold acLatch
  split
  · exact .refl s
  · exact OnlyRecords.trans (t := { s with ac := _ }) rfl (onlyRecords_pfNotice ..)

theorem onlyRecords_lbLatch (s : State) (i : Nat) : OnlyRecords s (lbLatch s i) := by
  unfold lbLatch
  split
  · exact .refl s
  · exact OnlyRecords.trans (t := { s with lb := _ }) rfl (onlyRecords_pfNotice ..)

/-! ## Notices leave the registers of their cause -/

@[simp] theorem setLane_ac (s : State) (odd : Bool) (l : Lane) : (setLane s odd l).ac = s.ac := by cases odd <;> rfl
@[simp] theorem setLane_lb (s : State) (odd : Bool) (l : Lane) : (setLane s odd l).lb = s.lb := by cases odd <;> rfl

@[simp] theorem flushLane_ac (s : State) (odd : Bool) : (flushLane s odd).ac = s.ac := by
  unfold flushLane; dsimp only; (repeat' split) <;> simp
@[simp] theorem flushLane_lb (s : State) (odd : Bool) : (flushLane s odd).lb = s.lb := by
  unfold flushLane; dsimp only; (repeat' split) <;> simp

@[simp] theorem pfNotice_ac (s : State) (cfg : BitVec 5) : (pfNotice s cfg).ac = s.ac := by
  unfold pfNotice sendNotice emitNotice; dsimp only; (repeat' split) <;> simp
@[simp] theorem pfNotice_lb (s : State) (cfg : BitVec 5) : (pfNotice s cfg).lb = s.lb := by
  unfold pfNotice sendNotice emitNotice; dsimp only; (repeat' split) <;> simp

@[simp] theorem acLatch_lb (s : State) (i : Nat) : (acLatch s i).lb = s.lb := by
  unfold acLatch; split <;> simp

/-- A latch of the ACCESS area sets bits of AC_NOTICE and nothing else there. -/
theorem acLatch_ac (s : State) (i : Nat) : (acLatch s i).ac = { s.ac with notice := (acLatch s i).ac.notice } := by
  unfold acLatch; split <;> simp

/-! ## Logbook requests that are limited -/

/-- A queue below its 32 entries has room (R363). -/
theorem lbRoom_of_lt {n : Nat} {s : State} (h : s.lb.queue.length < 32) : lbRoom n s = s := by
  cases n
  · rfl
  · exact if_pos (.inl h)

theorem onlyRecords_lbAppend {s : State} (h : s.lb.queue.length < 32) (type : Nat) (pin exempt : Bool) (data : Bytes) :
    OnlyRecords s (lbAppend s type pin exempt data) := by
  unfold lbAppend
  simp only [lbRoom_of_lt h]
  rfl

/-- A limited request finds the queue below 24 entries, or is lost (R363, R364): the writer has nothing to do for it. -/
theorem onlyRecords_logReq (s : State) (type : Nat) (pin : Bool) (data : Bytes) :
    OnlyRecords s (logReq s type pin false data) := by
  unfold logReq
  simp only [Bool.false_eq_true, if_false]
  split
  · rfl
  · split
    · exact OnlyRecords.trans (t := { s with lb := _ }) rfl (onlyRecords_lbLatch ..)
    · next h => exact OnlyRecords.trans (t := { s with lb := _ }) rfl (onlyRecords_lbAppend (by simp at h ⊢; omega) ..)

@[simp] theorem lbLatch_ac (s : State) (i : Nat) : (lbLatch s i).ac = s.ac := by
  unfold lbLatch; split <;> simp

@[simp] theorem logReq_ac (s : State) (type : Nat) (pin : Bool) (data : Bytes) :
    (logReq s type pin false data).ac = s.ac := by
  unfold logReq
  simp only [Bool.false_eq_true, if_false]
  split
  · rfl
  · split
    · simp
    · next h => 
      unfold lbAppend
      rw [lbRoom_of_lt (by simp at h ⊢; omega)]

/-! ## Refused accesses (R313, R318) -/

theorem onlyRecords_lockedAccess (s : State) (addr : Nat) (master : BitVec 16) (func : Nat) (debug : Bool) :
    OnlyRecords s (lockedAccess s addr master func debug) := by
  have h (ac : Ac) : OnlyRecords s (acLatch { s with ac := ac } 2) :=
    OnlyRecords.trans (t := { s with ac := ac }) rfl (onlyRecords_acLatch ..)
  unfold lockedAccess
  dsimp only
  split
  · exact (h _).trans (onlyRecords_logReq ..)
  · exact h _

/-- An access to a locked region counts (R318). -/
theorem lockedAccess_lockedCount (s : State) (addr : Nat) (master : BitVec 16) (func : Nat) (debug : Bool) :
    (lockedAccess s addr master func debug).ac.lockedCount = sat32 s.ac.lockedCount := by
  unfold lockedAccess
  dsimp only
  split
  · rw [logReq_ac, acLatch_ac]
  · rw [acLatch_ac]

theorem onlyRecords_inViolation (s : State) (r : Req) (rule : Nat) : OnlyRecords s (inViolation s r rule) := by
  unfold inViolation
  dsimp only
  split
  · rfl
  · exact OnlyRecords.trans (t := { s with ac := _ }) rfl (onlyRecords_acLatch ..)

@[simp] theorem inViolation_lb (s : State) (r : Req) (rule : Nat) : (inViolation s r rule).lb = s.lb := by
  unfold inViolation
  dsimp only
  split <;> simp

/-- A violation counts, and the rules stay (R313). -/
theorem inViolation_ac (s : State) (r : Req) (rule : Nat) :
    (inViolation s r rule).ac.ivCount = sat32 s.ac.ivCount ∧ (inViolation s r rule).ac.inRules = s.ac.inRules := by
  unfold inViolation
  dsimp only
  split
  · exact ⟨rfl, rfl⟩
  · rw [acLatch_ac]
    exact ⟨rfl, rfl⟩

/-! ## Accesses of a target port that are refused (R307) -/

/-- Before R307 judges it: a port that does not answer, bad parity, a wrong function id, an address outside (R23, R391). -/
theorem access_unjudged {s : State} {a : Access} {w : Bool} {off : Option Nat}
    (h : ported s = false ∨ a.parityOk = false ∨ 0x2000 < a.func.toNat ∨ off = none) : access s a w off = (s, some 1) := by
  cases off with
  | none => rfl
  | some o =>
    refine if_neg ?_
    simp only [Bool.and_eq_true, decide_eq_true_eq]
    rintro ⟨⟨hp, ha⟩, hf⟩
    rcases h with h | h | h | h
    · simp [h] at hp
    · simp [h] at ha
    · omega
    · cases h

/-- Any other access is judged. -/
theorem access_judged {s : State} {a : Access} {w : Bool} {o : Nat} (hp : ported s = true) (ha : a.parityOk = true)
    (hf : a.func.toNat ≤ 0x2000) : access s a w (some o) = judge s (reqOf a w o) := by
  simp [access, hp, ha, hf, reqOf]

/-- Step 2 of R307. -/
theorem judge_locked {s : State} {r : Req} (h : lockedOff s r = true) :
    judge s r = (lockedAccess s r.off r.master r.func r.debug, some 2) := if_pos h

/-- Step 5 of R307 for an access that is neither a debug access nor a fetch. -/
theorem judge_violation {s : State} {r : Req} (hl : lockedOff s r = false) (hd : r.debug = false) (hf : r.fetch = false)
    (hj : (judgeIn s r).1 = false) : judge s r = (inViolation s r (judgeIn s r).2, some 1) := by
  simp [judge, hl, hd, hf, hj]

theorem portWrite_refused {s t : State} {a : Access} {n c : Nat} {v : Word} (hr : coreRstN s = true)
    (h : access s a true (decodeAddr a.func.toNat n) = (t, some c)) : portWrite s a n v = respond t a ⟨c, []⟩ := by
  simp [portWrite, hr, h]

theorem portRead_refused {s t : State} {a : Access} {n c : Nat} (hr : coreRstN s = true)
    (h : access s a false (decodeAddr a.func.toNat n) = (t, some c)) :
    portRead s a n = respond t a ⟨c, zeros (accessBytes a.size)⟩ := by
  simp [portRead, hr, h, respErr]

theorem exec_registerWrite (a : Access) (addr : BitVec 29) (v : Word) (s : State) :
    exec (.registerWrite a addr v) s = .next (portWrite s a addr.toNat v) := rfl

theorem exec_rcRead (a : Access) (addr : BitVec 29) (s : State) :
    exec (.rcRead a addr) s = .next (portRead s a addr.toNat) := rfl

/-- While CORE_RST_N is 0 a port takes nothing (R389). -/
theorem portWrite_coreRst {s : State} (h : coreRstN s = false) (a : Access) (n : Nat) (v : Word) : portWrite s a n v = s := by
  simp [portWrite, h]

theorem portRead_coreRst {s : State} (h : coreRstN s = false) (a : Access) (n : Nat) : portRead s a n = s := by
  simp [portRead, h]

/-- Settles O51: each way in which an access is refused, with what the refusal changes. -/
theorem refusedAccessHasNoEffect : Obligations.RefusedAccessHasNoEffect := by
  rintro s a addr v f off rfl rfl
  simp only [exec_inboundRead, exec_registerWrite, exec_rcRead]
  refine ⟨fun hr => ?_, fun hr h => ?_, fun o hp ha hf hd hl => ?_, fun o w hp ha hf hd hl hdbg hfe hj => ?_⟩
  · simp only [portWrite_coreRst hr, portRead_coreRst hr, and_self]
  · simp only [portWrite_refused hr (access_unjudged h), portRead_refused hr (access_unjudged h), and_self]
  · have hr := coreRstN_of_ported s hp
    have hacc (w : Bool) : access s a w (decodeAddr a.func.toNat addr.toNat) =
        (lockedAccess s o a.master a.func.toNat a.debug, some 2) := by
      rw [hd, access_judged hp ha hf]
      exact judge_locked hl
    exact ⟨_, by rw [portWrite_refused hr (hacc true)], by rw [portRead_refused hr (hacc false)],
      by rw [portRead_refused hr (hacc false)], onlyRecords_lockedAccess .., lockedAccess_lockedCount ..⟩
  · have hr := coreRstN_of_ported s hp
    have hacc : access s a w (decodeAddr a.func.toNat addr.toNat) =
        (inViolation s (reqOf a w o) (judgeIn s (reqOf a w o)).2, some 1) := by
      rw [hd, access_judged hp ha hf, judge_violation hl hdbg hfe hj]
    refine ⟨inViolation s (reqOf a w o) (judgeIn s (reqOf a w o)).2, ?_, (onlyRecords_inViolation ..).of_lb (inViolation_lb ..),
      inViolation_ac ..⟩
    cases w
    · simp [portRead_refused hr hacc]
    · simp [portWrite_refused hr hacc]

end Sys2Proof.Machine

namespace Sys2Proof.Machine

/-!
# The debug link

What stands in the link's receiver (`dbgIn`) is no business of the access rules: every refusal commutes with a change of
it. So a whole request runs as if it had come at once, and its answer empties the receiver (R395, R396).
-/

/-! ## Refusals do not read the receiver of the debug link -/

/-- The state with something else in the receiver. -/
def withDbgIn (s : State) (i : DbgIn) : State := { s with dbgIn := i }

theorem flushLane_withDbgIn (s : State) (i : DbgIn) (odd : Bool) :
    flushLane (withDbgIn s i) odd = withDbgIn (flushLane s odd) i := by
  have hl : getLane (withDbgIn s i) odd = getLane s odd := rfl
  have hu : laneUp (withDbgIn s i) = laneUp s := rfl
  have hc : controlCycle (withDbgIn s i) = controlCycle s := rfl
  unfold flushLane
  simp only [hl, hu, hc]
  split
  · split
    · rfl
    · split <;> cases odd <;> rfl
  · rfl

theorem emitNotice_withDbgIn (s : State) (i : DbgIn) (f k : Nat) :
    emitNotice (withDbgIn s i) f k = withDbgIn (emitNotice s f k) i := by
  have hs (odd : Bool) (l : Lane) : setLane (withDbgIn s i) odd l = withDbgIn (setLane s odd l) i := by cases odd <;> rfl
  unfold emitNotice
  simp only [hs, flushLane_withDbgIn]
  rfl

theorem pfNotice_withDbgIn (s : State) (i : DbgIn) (cfg : BitVec 5) :
    pfNotice (withDbgIn s i) cfg = withDbgIn (pfNotice s cfg) i := by
  have hn (f k : Nat) : getNv (withDbgIn s i) f k = getNv s f k := rfl
  unfold pfNotice sendNotice
  simp only [hn, emitNotice_withDbgIn]
  split
  · split <;> rfl
  · rfl

theorem acLatch_withDbgIn (s : State) (i : DbgIn) (n : Nat) :
    acLatch (withDbgIn s i) n = withDbgIn (acLatch s n) i := by
  have hac : (withDbgIn s i).ac = s.ac := rfl
  unfold acLatch
  simp only [hac]
  split
  · rfl
  · exact pfNotice_withDbgIn { s with ac := _ } i _

theorem lbLatch_withDbgIn (s : State) (i : DbgIn) (n : Nat) :
    lbLatch (withDbgIn s i) n = withDbgIn (lbLatch s n) i := by
  have hlb : (withDbgIn s i).lb = s.lb := rfl
  unfold lbLatch
  simp only [hlb]
  split
  · rfl
  · exact pfNotice_withDbgIn { s with lb := _ } i _

theorem logReq_withDbgIn (s : State) (i : DbgIn) (type : Nat) (pin : Bool) (data : Bytes) :
    logReq (withDbgIn s i) type pin false data = withDbgIn (logReq s type pin false data) i := by
  have hlb : (withDbgIn s i).lb = s.lb := rfl
  unfold logReq
  simp only [Bool.false_eq_true, if_false, hlb]
  split
  · rfl
  · split
    · exact lbLatch_withDbgIn { s with lb := _ } i _
    · next h =>
      unfold lbAppend
      rw [lbRoom_of_lt (by simp at h ⊢; omega), lbRoom_of_lt (by simp at h ⊢; omega)]
      rfl

theorem lockedAccess_withDbgIn (s : State) (i : DbgIn) (addr : Nat) (master : BitVec 16) (func : Nat) (debug : Bool) :
    lockedAccess (withDbgIn s i) addr master func debug = withDbgIn (lockedAccess s addr master func debug) i := by
  have hac : (withDbgIn s i).ac = s.ac := rfl
  have h (ac : Ac) : acLatch { withDbgIn s i with ac := ac } 2 = withDbgIn (acLatch { s with ac := ac } 2) i :=
    acLatch_withDbgIn { s with ac := ac } i 2
  unfold lockedAccess
  simp only [hac, h]
  split
  · exact logReq_withDbgIn ..
  · rfl

theorem inViolation_withDbgIn (s : State) (i : DbgIn) (r : Req) (rule : Nat) :
    inViolation (withDbgIn s i) r rule = withDbgIn (inViolation s r rule) i := by
  have hac : (withDbgIn s i).ac = s.ac := rfl
  have hc (ac : Ac) : controlCycle { withDbgIn s i with ac := ac } = controlCycle { s with ac := ac } := rfl
  unfold inViolation
  simp only [hac, hc]
  split
  · rfl
  · exact acLatch_withDbgIn { s with ac := _ } i 0

theorem judge_withDbgIn (s : State) (i : DbgIn) (r : Req) :
    judge (withDbgIn s i) r = (withDbgIn (judge s r).1 i, (judge s r).2) := by
  have hac : (withDbgIn s i).ac = s.ac := rfl
  have hl : lockedOff (withDbgIn s i) r = lockedOff s r := rfl
  have hd : debugPass (withDbgIn s i) r = debugPass s r := rfl
  have hj : judgeIn (withDbgIn s i) r = judgeIn s r := rfl
  unfold judge
  simp only [hac, hl, hd, hj, lockedAccess_withDbgIn, inViolation_withDbgIn]
  split
  · rfl
  · split
    · exact congrArg (·, some 1) (acLatch_withDbgIn { s with ac := _ } i 3)
    · (repeat' split) <;> rfl

theorem dbgJudge_withDbgIn (s : State) (i : DbgIn) (r : DebugReq) (addr : Nat) (write : Bool) :
    dbgJudge (withDbgIn s i) r addr write = (withDbgIn (dbgJudge s r addr write).1 i, (dbgJudge s r addr write).2) := by
  have hl : dbgLocked (withDbgIn s i) addr = dbgLocked s addr := rfl
  unfold dbgJudge
  simp only [hl, lockedAccess_withDbgIn, judge_withDbgIn]
  split <;> rfl

/-! ## The bytes of a request (R3, R396) -/

theorem toLE_length (k n : Nat) : (toLE k n).length = k := by
  induction k generalizing n with
  | zero => rfl
  | succ k ih => simp [toLE, ih]

theorem leNat_toLE (k n : Nat) : leNat (toLE k n) = n % 256 ^ k := by
  induction k generalizing n with
  | zero => simp [toLE, leNat, Nat.mod_one]
  | succ k ih => rw [toLE, leNat, ih, Nat.pow_succ', Nat.mod_mul, BitVec.toNat_ofNat]

/-- A number that stands between other bytes reads back. -/
theorem leAt_append_toLE (p x : Bytes) (k n : Nat) : leAt (p ++ (toLE k n ++ x)) p.length k = n % 256 ^ k := by
  simp [leAt, slice, List.take_left' (toLE_length k n), toLE_length, leNat_toLE]

/-- The bytes of a request: the command, the address, and of a write its data (R396). -/
def dbgBytes (write : Bool) (w v : Word) : Bytes :=
  if write then 2 :: (toLE 4 w.toNat ++ toLE 4 v.toNat) else 1 :: (toLE 4 w.toNat ++ [])

theorem dbgBytes_write (write : Bool) (w v : Word) : ((dbgBytes write w v).headD 0 == 2) = write := by cases write <;> rfl

theorem dbgBytes_address (write : Bool) (w v : Word) : leAt (dbgBytes write w v) 1 4 = w.toNat := by
  have h (c : Byte) (x : Bytes) : leAt (c :: (toLE 4 w.toNat ++ x)) 1 4 = w.toNat :=
    (leAt_append_toLE [c] x 4 w.toNat).trans (Nat.mod_eq_of_lt w.isLt)
  cases write
  · exact h 1 []
  · exact h 2 _

theorem dbgBytes_data (w v : Word) : wordAt ((dbgBytes true w v).drop 5) 0 = v := by
  have h : leAt ([] ++ (toLE 4 v.toNat ++ [])) 0 4 = v.toNat % 256 ^ 4 := leAt_append_toLE [] [] 4 v.toNat
  rw [List.nil_append, List.append_nil, Nat.mod_eq_of_lt (by exact v.isLt)] at h
  rw [dbgBytes, if_pos rfl, List.drop_succ_cons, List.drop_left' (toLE_length 4 _), wordAt, h, word, BitVec.ofNat_toNat,
    BitVec.setWidth_eq]

/-! ## A request on the link -/

/-- A byte that fails its parity. -/
def badByte (e : Byte × Bool) : Bool := !(e.2 == oddBit e.1.toNat 0 8)

/-- Bytes with their parity bits. -/
def withParity (b : Bytes) : List (Byte × Bool) := b.map (fun x => (x, oddBit x.toNat 0 8))

@[simp] theorem withParity_fst (b : Bytes) : (withParity b).map (·.1) = b := by
  simp [withParity, Function.comp_def]

@[simp] theorem withParity_bad (b : Bytes) : (withParity b).any badByte = false := by
  simp [withParity, badByte]

/-- The answer of a request that has run. -/
def answerOf (x : State × Resp) : State := dbgAnswer x.1 x.2

/-- A command byte that fails parity, or an unknown one, is answered at once (R396, log 63). -/
theorem dbgByte_command_bad {r : DebugReq} {s : State} {e : Byte × Bool} (hs : ported s = true) (hi : s.dbgIn.bytes = [])
    (h : badByte e = true ∨ e.1 ≠ 1 ∧ e.1 ≠ 2) : dbgByte r s e = dbgAnswer s ⟨1, []⟩ := by
  have hc : (!(e.2 == oddBit e.1.toNat 0 8) || (e.1 != 1 && e.1 != 2)) = true := by simpa [badByte] using h
  simp only [dbgByte, hs, hi, hc, List.isEmpty_nil, Bool.not_true, Bool.false_eq_true, if_false, Bool.and_self, if_true]

theorem dbgByte_command {r : DebugReq} {s : State} {e : Byte × Bool} (hs : ported s = true) (hi : s.dbgIn.bytes = [])
    (hg : badByte e = false) (h : e.1 = 1 ∨ e.1 = 2) : dbgByte r s e = withDbgIn s ⟨[e.1], s.dbgIn.bad⟩ := by
  have hc : (e.1 != 1 && e.1 != 2) = false := by rcases h with h | h <;> simp [h]
  have hlen : 1 < dbgLen [e.1] := by unfold dbgLen; split <;> decide
  have hg' : (e.2 == oddBit e.1.toNat 0 8) = true := by simpa [badByte] using hg
  simp only [dbgByte, hs, hi, hg', hc, List.isEmpty_nil, Bool.not_true, Bool.false_eq_true, if_false, Bool.or_self,
    Bool.and_false, Bool.or_false, List.nil_append, List.length_singleton, hlen, if_true]
  rfl

/-- The command byte alone fixes the length. -/
theorem dbgLen_append {b : Bytes} (hb : b ≠ []) (x : Bytes) : dbgLen (b ++ x) = dbgLen b := by
  obtain ⟨c, b, rfl⟩ := List.exists_cons_of_ne_nil hb
  rfl

/-- A later byte joins, or completes the request and runs it. -/
theorem dbgByte_later {r : DebugReq} {s : State} {b : Bytes} {bad : Bool} (hs : ported s = true) (hb : b ≠ [])
    (e : Byte × Bool) : dbgByte r (withDbgIn s ⟨b, bad⟩) e =
      if b.length + 1 < dbgLen b then withDbgIn s ⟨b ++ [e.1], bad || badByte e⟩
      else answerOf (dbgRun (withDbgIn s ⟨b, bad⟩) r (b ++ [e.1]) (bad || badByte e)) := by
  have hs' : ported (withDbgIn s ⟨b, bad⟩) = true := hs
  have hi : (withDbgIn s ⟨b, bad⟩).dbgIn = ⟨b, bad⟩ := rfl
  have he : b.isEmpty = false := by simpa using hb
  simp only [dbgByte, hs', hi, he, dbgLen_append hb, List.length_append, List.length_singleton, Bool.not_true,
    Bool.false_and, Bool.false_eq_true, if_false]
  rfl

/-- The later bytes of a request: once all are there it runs, whatever stood in the receiver. -/
theorem foldl_dbgByte_run {r : DebugReq} {s : State} (hs : ported s = true) {l : List (Byte × Bool)} (hl : l ≠ [])
    {b : Bytes} (hb : b ≠ []) (bad : Bool) (hlen : b.length + l.length = dbgLen b) :
    ∃ i, l.foldl (dbgByte r) (withDbgIn s ⟨b, bad⟩) =
      answerOf (dbgRun (withDbgIn s i) r (b ++ l.map (·.1)) (bad || l.any badByte)) := by
  induction l generalizing b bad with
  | nil => exact absurd rfl hl
  | cons e l ih =>
    rw [List.foldl_cons, dbgByte_later hs hb e]
    simp only [List.length_cons] at hlen
    cases l with
    | nil => exact ⟨⟨b, bad⟩, by simp at hlen; simp [hlen]⟩
    | cons e' l =>
      simp only [List.length_cons] at hlen
      rw [if_pos (by omega)]
      obtain ⟨i, hrun⟩ := ih (by simp) (b := b ++ [e.1]) (by simp) (bad || badByte e)
        (by rw [dbgLen_append hb]; simp; omega)
      exact ⟨i, by rw [hrun]; simp [Bool.or_assoc]⟩

/-- A whole request whose command byte is good runs. -/
theorem dbgFeed_run {r : DebugReq} {s : State} {e : Byte × Bool} {l : List (Byte × Bool)} (hp : r.present = true)
    (hs : ported s = true) (hi : s.dbgIn = ⟨[], false⟩) (hb : r.bytes = e :: l) (hg : badByte e = false)
    (hc : e.1 = 1 ∨ e.1 = 2) (hlen : l.length + 1 = dbgLen [e.1]) :
    ∃ i, dbgFeed r s = answerOf (dbgRun (withDbgIn s i) r (e.1 :: l.map (·.1)) (l.any badByte)) := by
  have hl : l ≠ [] := by
    rintro rfl
    rcases hc with hc | hc <;> simp [hc, dbgLen] at hlen
  have h1 := dbgByte_command (r := r) hs (by rw [hi]) hg hc
  rw [hi] at h1
  obtain ⟨i, hrun⟩ := foldl_dbgByte_run (r := r) hs hl (b := [e.1]) (by simp) false (by simp; omega)
  exact ⟨i, by simpa [dbgFeed, hp, hs, hb, h1] using hrun⟩

theorem exec_debugRead (r : DebugReq) (s : State) : exec (.debugRead r) s = .next (dbgFeed r s) := rfl

theorem exec_debugWrite (r : DebugReq) (d : List (Byte × Bool)) (s : State) :
    exec (.debugWrite r d) s = .next (dbgFeed { r with bytes := r.bytes ++ d } s) := rfl

/-! ## What a whole request does -/

/-- The answer of a request that is refused with a code. -/
def dbgRefusal (write : Bool) (code : Nat) : Resp := ⟨code, if write then [] else zeros 4⟩

/-- The state with one more answer on the link. -/
def dbgAnswered (s : State) (x : Resp) : State := { s with dbg := s.dbg ++ BitVec.ofNat 8 x.err :: x.data }

theorem OnlyRecords.dbg {s t : State} (h : OnlyRecords s t) : t.dbg = s.dbg := by rw [h]

theorem OnlyRecords.dbgIn {s t : State} (h : OnlyRecords s t) : t.dbgIn = s.dbgIn := by rw [h]

/-- An answer empties the receiver, in whatever state it was. -/
theorem answerOf_withDbgIn {t : State} (ht : t.dbgIn = ⟨[], false⟩) (i : DbgIn) (x : Resp) :
    answerOf (withDbgIn t i, x) = dbgAnswered t x := by
  simp only [answerOf, dbgAnswer, dbgAnswered, withDbgIn, ← ht]

theorem dbgRun_error {s : State} {r : DebugReq} {b : Bytes} {bad : Bool} (h : bad = true ∨ leAt b 1 4 % 4 ≠ 0) :
    dbgRun s r b bad = (s, dbgRefusal (b.headD 0 == 2) 1) := by
  have hc : (bad || leAt b 1 4 % 4 != 0) = true := by simpa using h
  simp only [dbgRun, hc, if_true, dbgRefusal]

section Request
variable {s : State} {r : DebugReq} {write : Bool} {w v : Word} (hp : r.present = true) (hs : ported s = true)
  (hi : s.dbgIn = ⟨[], false⟩) (hb : r.bytes = withParity (dbgBytes write w v))
include hp hs hi hb

/-- A whole request whose bytes are good runs. -/
theorem dbgFeed_dbgBytes : ∃ i, dbgFeed r s = answerOf (dbgRun (withDbgIn s i) r (dbgBytes write w v) false) := by
  obtain ⟨c, x, hx, hc, hlen⟩ : ∃ c x, dbgBytes write w v = c :: x ∧ (c = 1 ∨ c = 2) ∧ x.length + 1 = dbgLen [c] := by
    cases write
    · exact ⟨1, _, rfl, .inl rfl, by simp [toLE_length, dbgLen]⟩
    · exact ⟨2, _, rfl, .inr rfl, by simp [toLE_length, dbgLen]⟩
  rw [hx] at hb ⊢
  simpa using dbgFeed_run (e := (c, oddBit c.toNat 0 8)) (l := withParity x) hp hs hi hb (by simp [badByte]) hc
    (by simpa [withParity] using hlen)

/-- An address that is not aligned (R396). -/
theorem dbgFeed_unaligned (h : w.toNat % 4 ≠ 0) : dbgFeed r s = dbgAnswered s (dbgRefusal write 1) := by
  obtain ⟨i, hrun⟩ := dbgFeed_dbgBytes hp hs hi hb
  rw [hrun, dbgRun_error (.inr (by rwa [dbgBytes_address])), dbgBytes_write, answerOf_withDbgIn hi]

/-- A request that R307 refuses. -/
theorem dbgFeed_refused (h : w.toNat % 4 = 0) {t : State} (ht : t.dbgIn = s.dbgIn) {c : Nat}
    (hj : dbgJudge s r w.toNat write = (t, some c)) : dbgFeed r s = dbgAnswered t (dbgRefusal write c) := by
  obtain ⟨i, hrun⟩ := dbgFeed_dbgBytes hp hs hi hb
  have hj' : dbgJudge (withDbgIn s i) r w.toNat write = (withDbgIn t i, some c) := by rw [dbgJudge_withDbgIn, hj]
  rw [hrun, ← answerOf_withDbgIn (ht.trans hi) i]
  simp only [dbgRun, dbgBytes_address, dbgBytes_write, h, hj', bne_self_eq_false, Bool.or_self, Bool.false_eq_true,
    if_false, dbgRefusal]

/-- A read that passes. -/
theorem dbgFeed_read (hw : write = false) (h : w.toNat % 4 = 0) {t : State} (ht : t.dbgIn = s.dbgIn) {x : Resp}
    (hj : dbgJudge s r w.toNat false = (s, none))
    (hx : ∀ i, dbgLoad (withDbgIn s i) r w.toNat = (withDbgIn t i, x)) : dbgFeed r s = dbgAnswered t x := by
  subst hw
  obtain ⟨i, hrun⟩ := dbgFeed_dbgBytes hp hs hi hb
  have hj' : dbgJudge (withDbgIn s i) r w.toNat false = (withDbgIn s i, none) := by rw [dbgJudge_withDbgIn, hj]
  rw [hrun, ← answerOf_withDbgIn (ht.trans hi) i, ← hx i]
  simp only [dbgRun, dbgBytes_address, dbgBytes_write, h, hj', bne_self_eq_false, Bool.or_self, Bool.false_eq_true,
    if_false]

/-- A write that passes. -/
theorem dbgFeed_write (hw : write = true) (h : w.toNat % 4 = 0) {t : State} (ht : t.dbgIn = s.dbgIn) {x : Resp}
    (hj : dbgJudge s r w.toNat true = (s, none))
    (hx : ∀ i, dbgStore (withDbgIn s i) r w.toNat v = (withDbgIn t i, x)) : dbgFeed r s = dbgAnswered t x := by
  subst hw
  obtain ⟨i, hrun⟩ := dbgFeed_dbgBytes hp hs hi hb
  have hj' : dbgJudge (withDbgIn s i) r w.toNat true = (withDbgIn s i, none) := by rw [dbgJudge_withDbgIn, hj]
  rw [hrun, ← answerOf_withDbgIn (ht.trans hi) i, ← hx i]
  simp only [dbgRun, dbgBytes_address, dbgBytes_write, dbgBytes_data, h, hj', bne_self_eq_false, Bool.or_self,
    Bool.false_eq_true, if_false, if_true]

end Request

/-! ## The judgement of a debug address (R317, R319) -/

theorem dbgJudge_locked {s : State} {r : DebugReq} {addr : Nat} {write : Bool} (h : 0x04000000 ≤ addr)
    (hl : dbgLocked s addr = true) :
    dbgJudge s r addr write = (lockedAccess s addr (dbgReq r addr write).master 0 true, some 2) := by
  simp [dbgJudge, h, hl]

/-- Where the address is in no locked region the rules of R307 decide. -/
theorem dbgJudge_eq_judge {s : State} {r : DebugReq} {addr : Nat} {write : Bool}
    (h : addr < 0x04000000 ∨ dbgLocked s addr = false) : dbgJudge s r addr write = judge s (dbgReq r addr write) := by
  have hc : (decide (0x04000000 ≤ addr) && dbgLocked s addr) = false := by
    rcases h with h | h
    · simp [Nat.not_le.mpr h]
    · simp [h]
  simp only [dbgJudge, hc, Bool.false_eq_true, if_false]

/-- The debug gate (R319). -/
theorem judge_denied {s : State} {r : Req} (hl : lockedOff s r = false) (hd : r.debug = true)
    (hp : debugPass s r = false) :
    judge s r = (acLatch { s with ac := { s.ac with dbgDenied := sat32 s.ac.dbgDenied } } 3, some 1) := by
  simp [judge, hl, hd, hp]

/-- A debug access to a locked region counts as one (R318). -/
theorem lockedAccess_dbgLocked (s : State) (addr : Nat) (master : BitVec 16) (func : Nat) :
    (lockedAccess s addr master func true).ac.dbgLocked = sat32 s.ac.dbgLocked := by
  unfold lockedAccess
  dsimp only
  split
  · rw [logReq_ac, acLatch_ac]; rfl
  · rw [acLatch_ac]; rfl

/-- Operand memory of a unit that is not SEALED is in no locked region. -/
theorem dbgLocked_operand {s : State} {o : Nat} (ho : o < 0x800000) (h : tileSealed s (o / 0x40000) = false) :
    dbgLocked s (0x19400000 + o) = false := by
  have hsub : 0x19400000 + o - 0x19400000 = o := by omega
  simp only [dbgLocked, hsub, h, Bool.and_false, Bool.or_false, Bool.or_eq_false_iff, decide_eq_false_iff_not]
  omega

/-! ## Debug reads and writes that pass -/

theorem dbgMemory_operand {s : State} {o : Nat} (ho : o < 0x800000) (h : storedTile s (o / 0x40000) = o / 0x40000)
    (parity : Bool) : dbgMemory s (0x19400000 + o) parity =
      some (if parity then aperturePar s o else s, Memory.readN s.opmem o 4) := by
  have hsub : 0x19400000 + o - 0x19400000 = o := by omega
  have hpos : o / 0x40000 * 0x40000 + o % 0x40000 = o := Nat.div_add_mod' o _
  rw [dbgMemory, if_neg (by omega), if_pos (by omega)]
  simp only [hsub, tileBytes, h, hpos]

theorem aperturePar_withDbgIn (s : State) (i : DbgIn) (o : Nat) :
    aperturePar (withDbgIn s i) o = withDbgIn (aperturePar s o) i := by
  have hl : leafAt (withDbgIn s i) (o / tileBytes) = leafAt s (o / tileBytes) := rfl
  unfold aperturePar
  simp only [hl]
  split <;> rfl

section Operand
variable {s : State} {o : Nat} (ho : o < 0x800000) (h : storedTile s (o / 0x40000) = o / 0x40000)
include ho h

theorem dbgLoad_operand (i : DbgIn) (r : DebugReq) : dbgLoad (withDbgIn s i) r (0x19400000 + o) =
    (withDbgIn (if r.env.parity then aperturePar s o else s) i, ⟨0, Memory.readN s.opmem o 4⟩) := by
  have hm := dbgMemory_operand (s := withDbgIn s i) ho h r.env.parity
  rw [dbgLoad, if_neg (by omega), hm, aperturePar_withDbgIn]
  cases r.env.parity <;> rfl

/-- An internal memory cannot be written (R316). -/
theorem dbgStore_operand (i : DbgIn) (r : DebugReq) (v : Word) :
    dbgStore (withDbgIn s i) r (0x19400000 + o) v = (withDbgIn s i, ⟨1, []⟩) := by
  have hm := dbgMemory_operand (s := withDbgIn s i) ho h false
  rw [dbgStore, if_neg (by omega), hm]
  rfl

end Operand

theorem dbgLoad_txEpoch (s : State) (r : DebugReq) : dbgLoad s r 0x118 = (s, ⟨0, toLE 4 s.tx.epoch.toNat⟩) := rfl

theorem dbgStore_chLen (s : State) (r : DebugReq) (v : Word) :
    dbgStore s r 0x10014 v = ({ s with ch := { s.ch with len := wfld v 0 22 } }, ⟨0, []⟩) := rfl

/-- A later byte that fails parity gets ERROR at the end of the request (R396). -/
theorem dbgFeed_laterBad {s : State} {r : DebugReq} {x : Bytes} (hp : r.present = true) (hs : ported s = true)
    (hi : s.dbgIn = ⟨[], false⟩) (hb : r.bytes.map (·.1) = 1 :: x) (hlen : x.length = 4)
    (hh : r.bytes.head? = some (1, oddBit 1 0 8)) (hbad : ∃ e ∈ r.bytes, e.2 ≠ oddBit e.1.toNat 0 8) :
    dbgFeed r s = dbgAnswered s (dbgRefusal false 1) := by
  obtain ⟨e, l, hl⟩ : ∃ e l, r.bytes = e :: l := by
    cases hr : r.bytes with
    | nil => simp [hr] at hh
    | cons e l => exact ⟨e, l, rfl⟩
  have he : e = (1, oddBit 1 0 8) := by simpa [hl] using hh
  have hbytes : l.map (·.1) = x := (List.cons.inj (by simpa [hl] using hb)).2
  have hany : l.any badByte = true := by
    obtain ⟨y, hy, hne⟩ := hbad
    rw [hl] at hy
    rcases List.mem_cons.mp hy with rfl | hy
    · exact absurd (by rw [he]; rfl) hne
    · exact List.any_eq_true.mpr ⟨y, hy, by simpa [badByte] using hne⟩
  have hlen : l.length = 4 := by rw [← hlen, ← hbytes, List.length_map]
  obtain ⟨i, hrun⟩ := dbgFeed_run hp hs hi hl (by rw [he]; rfl) (by simp [he]) (by rw [hlen, he]; rfl)
  rw [hrun, hany, dbgRun_error (.inl rfl), answerOf_withDbgIn hi, he]
  rfl

/-- Settles O50: a request of each kind, whole on the link, with its judgement and what it reads or writes. -/
theorem debugInterface : Obligations.DebugInterface := by
  rintro s r q d w v addr rfl
  refine ⟨fun h => ?_, fun x b hp hs hi hb => ⟨fun h => ?_, fun hg hx => ?_⟩, fun hp hs hi hb hh hbad => ?_,
    fun hp hs hi hb hq hd => ?_⟩
  · have hf (r' : DebugReq) (hr : r'.present = r.present) : dbgFeed r' s = s := by
      rcases h with h | h <;> simp [dbgFeed, hr, h]
    exact ⟨congrArg _ (hf r rfl), fun d => congrArg Host.Outcome.next (hf _ rfl)⟩
  · have h' : badByte (x, b) = true ∨ (x, b).1 ≠ 1 ∧ (x, b).1 ≠ 2 := by simpa [badByte] using h
    simp [exec_debugRead, dbgFeed, hp, hs, hb, dbgByte_command_bad hs hi h', dbgAnswer]
  · have h := dbgByte_command (r := r) (e := (x, b)) hs hi (by simp [badByte, hg]) hx
    simp [exec_debugRead, dbgFeed, hp, hs, hb, h, withDbgIn]
  · rw [exec_debugRead, dbgFeed_laterBad hp hs hi hb (toLE_length 4 w.toNat) hh hbad]
    rfl
  · have hbr : r.bytes = withParity (dbgBytes false w v) := by rw [hb, dbgBytes]; simp [withParity]
    have hbq : ({ q with bytes := q.bytes ++ d } : DebugReq).bytes = withParity (dbgBytes true w v) := by
      rw [hq, hd]; simp [withParity, dbgBytes]
    have hpq : ({ q with bytes := q.bytes ++ d } : DebugReq).present = true := by rw [hq]; exact hp
    simp only [exec_debugRead, exec_debugWrite]
    refine ⟨fun h => ⟨?_, ?_⟩, fun h4 ha hl => ?_, fun h4 ha hl hpass => ?_, fun hj ha => ?_,
      fun o hj ha ho h4 hsl hst => ⟨fun hpar => ?_, fun x hpar hx => ?_, fun hjw => ?_⟩, fun hj ha => ?_⟩
    · rw [dbgFeed_unaligned hp hs hi hbr h]; rfl
    · rw [dbgFeed_unaligned hpq hs hi hbq h]; rfl
    · have hrec := onlyRecords_lockedAccess s w.toNat (dbgReq r w.toNat false).master 0 true
      refine ⟨_, ?_, ?_, hrec, lockedAccess_lockedCount .., lockedAccess_dbgLocked ..⟩
      · rw [dbgFeed_refused hp hs hi hbr h4 hrec.dbgIn (dbgJudge_locked ha hl), dbgAnswered, hrec.dbg]; rfl
      · rw [dbgFeed_refused hpq hs hi hbq h4 hrec.dbgIn (by rw [dbgJudge_locked ha hl, hq]; rfl), dbgAnswered, hrec.dbg]; rfl
    · have hrec : OnlyRecords s (acLatch { s with ac := { s.ac with dbgDenied := sat32 s.ac.dbgDenied } } 3) :=
        OnlyRecords.trans (t := { s with ac := _ }) rfl (onlyRecords_acLatch ..)
      have hj : dbgJudge s r w.toNat false = (acLatch { s with ac := _ } 3, some 1) :=
        (dbgJudge_eq_judge (.inl ha)).trans (judge_denied hl rfl hpass)
      refine ⟨_, ?_, hrec.of_lb (acLatch_lb ..), by rw [acLatch_ac]⟩
      rw [dbgFeed_refused hp hs hi hbr h4 hrec.dbgIn hj, dbgAnswered, hrec.dbg]
      rfl
    · have hj' : dbgJudge s r w.toNat false = (s, none) := (dbgJudge_eq_judge (.inl (by omega))).trans hj
      rw [dbgFeed_read (t := s) (x := ⟨0, toLE 4 s.tx.epoch.toNat⟩) hp hs hi hbr rfl (by omega) rfl hj'
        (fun i => ha ▸ dbgLoad_txEpoch (withDbgIn s i) r)]
      rfl
    · have hj' : dbgJudge s r w.toNat false = (s, none) :=
        (dbgJudge_eq_judge (.inr (ha ▸ dbgLocked_operand ho hsl))).trans hj
      rw [dbgFeed_read hp hs hi hbr rfl (by omega) rfl hj'
        (fun i => by rw [ha, dbgLoad_operand ho hst, hpar, if_neg Bool.false_ne_true])]
      rfl
    · have hj' : dbgJudge s r w.toNat false = (s, none) :=
        (dbgJudge_eq_judge (.inr (ha ▸ dbgLocked_operand ho hsl))).trans hj
      have hpe : aperturePar s o = { s with
          cnts := s.cnts.set x.uid { getCnt s x.uid with parity := sat32 (getCnt s x.uid).parity } } := by
        simp only [aperturePar, tileBytes, hx]
      rw [dbgFeed_read (t := aperturePar s o) hp hs hi hbr rfl (by omega) (by rw [hpe]) hj'
        (fun i => by rw [ha, dbgLoad_operand ho hst, hpar, if_pos rfl]), hpe]
      rfl
    · have hj' : dbgJudge s { q with bytes := q.bytes ++ d } w.toNat true = (s, none) := by
        rw [dbgJudge_eq_judge (.inr (ha ▸ dbgLocked_operand ho hsl)), hq]
        exact hjw
      rw [dbgFeed_write hpq hs hi hbq rfl (by omega) rfl hj' (fun i => by rw [ha, dbgStore_operand ho hst])]
      rfl
    · have hj' : dbgJudge s { q with bytes := q.bytes ++ d } w.toNat true = (s, none) := by
        rw [dbgJudge_eq_judge (.inl (by omega)), hq]
        exact hj
      rw [dbgFeed_write (t := { s with ch := { s.ch with len := wfld v 0 22 } }) hpq hs hi hbq rfl (by omega) rfl hj'
        (fun i => by rw [ha, dbgStore_chLen]; rfl)]
      rfl

end Sys2Proof.Machine

namespace Sys2Proof.Machine

/-!
# Host claims of a unit

HOST_CLAIM and HOST_RELEASE (R19, R229): the claim as a condition on the state, what an aborted command leaves (R228),
and the operand memory that a release scrub zeroes.
-/

/-! ## Zero-filled operand memory -/

theorem Memory.read_zero (m : List Host.Cell) (a n x : Nat) :
    Memory.read (Memory.zero m a n) x = if a ≤ x ∧ x < a + n then 0 else Memory.read m x := by
  induction m with
  | nil => simp [Memory.zero, Memory.read]
  | cons e m ih =>
    obtain ⟨i, b⟩ := e
    have hz : Memory.zero ((i, b) :: m) a n =
        if i < a ∨ a + n ≤ i then (i, b) :: Memory.zero m a n else Memory.zero m a n := by
      simp [Memory.zero, List.filter_cons]
    rw [hz]
    by_cases hi : i = x
    · subst hi
      split
      · next h => rw [if_neg (by omega)]; simp [Memory.read]
      · next h => rw [ih, if_pos (by omega), if_pos (by omega)]
    · split <;> simp [Memory.read, hi, ih]

/-- Tiles zeroed one after another: a byte of one of them is 0, and any other byte is as it was. -/
theorem Memory.read_foldl_zero {α : Type} (f : α → Nat) (n : Nat) (l : List α) (m : List Host.Cell) (x : Nat) :
    ((∃ r ∈ l, f r ≤ x ∧ x < f r + n) → Memory.read (l.foldl (fun m r => Memory.zero m (f r) n) m) x = 0) ∧
    ((∀ r ∈ l, x < f r ∨ f r + n ≤ x) →
      Memory.read (l.foldl (fun m r => Memory.zero m (f r) n) m) x = Memory.read m x) := by
  induction l generalizing m with
  | nil => simp
  | cons r l ih =>
    obtain ⟨hin, hout⟩ := ih (Memory.zero m (f r) n)
    simp only [List.foldl_cons, List.mem_cons, exists_eq_or_imp, forall_eq_or_imp]
    refine ⟨fun h => ?_, fun ⟨hr, h⟩ => ?_⟩
    · by_cases hl : ∃ r ∈ l, f r ≤ x ∧ x < f r + n
      · exact hin hl
      · have hr := h.resolve_right hl
        rw [hout fun r hr => by by_contra hc; exact hl ⟨r, hr, by omega⟩, Memory.read_zero, if_pos hr]
    · rw [hout h, Memory.read_zero, if_neg (by omega)]

/-! ## The abort of a host command (R228) -/

/-- From s to t at most the units, operand memory and the ports have changed. -/
def OnlyUnits (s t : State) : Prop := t = { s with units := t.units, opmem := t.opmem, ports := t.ports }

theorem OnlyUnits.trans {s t u : State} (h : OnlyUnits s t) (k : OnlyUnits t u) : OnlyUnits s u :=
  Eq.trans k (congrArg (fun x : State => { x with units := u.units, opmem := u.opmem, ports := u.ports }) h)

theorem onlyUnits_foldl_opdClear (uid : Nat) (l : List Nat) (s : State) :
    OnlyUnits s (l.foldl (fun s n => opdClear s uid n) s) := by
  induction l generalizing s with
  | nil => rfl
  | cons n l ih => exact OnlyUnits.trans (t := opdClear s uid n) rfl (ih _)

/-- Slots cleared one after another: they lose VALID and LOADED, and the other units and flags stay. -/
theorem getUni_foldl_opdClear (uid : Nat) (l : List Nat) (s : State) :
    (∀ n ∈ l, n ∉ (getUni (l.foldl (fun s n => opdClear s uid n) s) uid).ar.valid) ∧
    (∀ n, n ∉ (getUni s uid).ar.valid → n ∉ (getUni (l.foldl (fun s n => opdClear s uid n) s) uid).ar.valid) ∧
    ∀ v, v ≠ uid → getUni (l.foldl (fun s n => opdClear s uid n) s) v = getUni s v := by
  induction l generalizing s with
  | nil => simp
  | cons n l ih =>
    obtain ⟨hin, hout, hne⟩ := ih (opdClear s uid n)
    have hv (m : Nat) (h : m = n ∨ m ∉ (getUni s uid).ar.valid) : m ∉ (getUni (opdClear s uid n) uid).ar.valid := by
      simp only [opdClear, getUni_setUni, List.mem_filter, decide_eq_true_eq]
      tauto
    refine ⟨fun m hm => ?_, fun m hm => hout m (hv m (.inr hm)), fun v hne' => (hne v hne').trans ?_⟩
    · rcases List.mem_cons.mp hm with rfl | hm
      · exact hout m (hv m (.inl rfl))
      · exact hin m hm
    · exact getUni_setUni_ne _ _ _ _ hne'

/-- An aborted command: its destinations are INVALID, CARRY is 0, and no command runs. -/
theorem abortCmd_cmd {s : State} {uid st dt : Nat} {c : AtCmd} (hc : (getUni s uid).ar.cmd = some c) :
    let t := abortCmd s uid st dt
    OnlyUnits s t ∧ (∀ n ∈ destSlots c.op c.fl c.d, n ∉ (getUni t uid).ar.valid) ∧
      (∀ v, v ≠ uid → getUni t v = getUni s v) ∧ (getUni t uid).ar.busy = false ∧ (getUni t uid).ar.cmd = none ∧
      (getUni t uid).ar.status = st ∧ (getUni t uid).ar.detail = dt ∧ (getUni t uid).ar.carry = false := by
  obtain ⟨hin, -, hne⟩ := getUni_foldl_opdClear uid (destSlots c.op c.fl c.d) s
  have h : abortCmd s uid st dt = atFail s uid c st dt := by simp only [abortCmd, hc]
  simp only [h, atFail, atEnd, getUni_setUni, and_true]
  exact ⟨(onlyUnits_foldl_opdClear ..).trans rfl, hin, fun v hv => (getUni_setUni_ne _ _ _ _ hv).trans (hne v hv)⟩

theorem abortCmd_none {s : State} {uid st dt : Nat} (hc : (getUni s uid).ar.cmd = none) : abortCmd s uid st dt = s := by
  simp only [abortCmd, hc]

/-! ## Claim and release (R19, R229, R341) -/

theorem unLockW_claim {s : State} {uid : Nat} (hq : quietWrites s = false) : unLockW s uid 0x80000000 = claimW s uid := by
  rw [unLockW, hq]; rfl

theorem unLockW_release {s : State} {uid : Nat} (hq : quietWrites s = false) : unLockW s uid 0 = releaseW s uid := by
  rw [unLockW, hq]; rfl

theorem claimW_of_unitRec {s : State} {uid : Nat} {r : UnitRec} (hr : unitRec s uid = some r) : claimW s uid =
    if r.hostClaim = true ∧ r.parent = none ∧ ownerFree s uid = true ∧ nostart s = false ∧ struck s = false ∧
      claimFenced s uid = false then setUni s uid { getUni s uid with hostHeld := true } else s := by
  simp [claimW, hr, and_assoc]

theorem releaseW_free {s : State} {uid : Nat} (h : (getUni s uid).hostHeld = false) : releaseW s uid = s := by
  simp [releaseW, h]

section Held
variable {s : State} {uid : Nat} {r : UnitRec} (h : (getUni s uid).hostHeld = true) (hr : unitRec s uid = some r)
include h hr

theorem releaseW_tile (hc : r.cls ≠ 2) :
    releaseW s uid = setUni s uid { getUni s uid with hostHeld := false } := by
  simp [releaseW, h, hr, hc]

theorem releaseW_arith (hc : r.cls = 2) : releaseW s uid = setUni (abortCmd s uid stAborted 0x0A09) uid
    { getUni (abortCmd s uid stAborted 0x0A09) uid with
      hostHeld := false, relScrub := true, scrubAt := (abortCmd s uid stAborted 0x0A09).clk.meridian } := by
  simp [releaseW, h, hr, hc]

end Held

/-- Settles O38: the claim and each case of the release, then the end of its scrub. -/
theorem hostClaimAndRelease : Obligations.HostClaimAndRelease := by
  refine ⟨fun s a u r hg hq hr => ?_, fun s u hrun hrel hdue => ?_⟩
  · have hclaim : exec (.hostClaim a u) s = .next (acked (claimW s u.toNat) a) :=
      congrArg _ ((hostWrite_granted s a _ _ hg).trans (by rw [unLockW_claim hq]))
    have hrelease : exec (.hostRelease a u) s = .next (acked (releaseW s u.toNat) a) :=
      congrArg _ ((hostWrite_granted s a _ _ hg).trans (by rw [unLockW_release hq]))
    rw [hclaim, claimW_of_unitRec hr, hrelease]
    refine ⟨rfl, fun h => by rw [releaseW_free h], fun h hc => by rw [releaseW_tile h hr hc],
      fun h hc hcmd => by rw [releaseW_arith h hr hc, abortCmd_none hcmd], fun c h hc hcmd => ?_⟩
    obtain ⟨honly, hdest, hne, hbusy, hcmd', hst, hdt, hcarry⟩ := abortCmd_cmd (st := stAborted) (dt := 0x0A09) hcmd
    refine ⟨_, rfl, ?_⟩
    rw [releaseW_arith h hr hc]
    simp only [getUni_setUni, true_and]
    exact ⟨honly.trans rfl, by rw [honly], hbusy, hcmd', hst, hdt, hcarry, hdest,
      fun v hv => (getUni_setUni_ne _ _ _ _ hv).trans (hne v hv)⟩
  · have hx : exec (.hostReleaseScrubDone u) s = .next (setUni (zeroTiles s u.toNat) u.toNat { getUni s u.toNat with
        relScrub := false, ar := { (getUni s u.toNat).ar with valid := [], loaded := [] } }) :=
      congrArg Host.Outcome.next (if_pos (by simp [hrun, hrel, hdue]))
    have hmem (p : Nat) := Memory.read_foldl_zero (fun r : UnitRec => r.tile * tileBytes) tileBytes (compTiles s u.toNat)
      s.opmem p
    refine ⟨_, hx, rfl, ?_⟩
    simp only [getUni_setUni, true_and]
    refine ⟨fun r hr i hi => (hmem _).1 ⟨r, hr, by omega⟩, fun p hp => (hmem p).2 fun r hr => ?_⟩
    have := hp r hr
    rw [Nat.succ_mul] at this
    exact this

end Sys2Proof.Machine

namespace Sys2Proof.Machine

/-!
# Writes that leave a port, and the record of a chain

A write that the rules grant on a port that can send leaves with its data (R309 to R313, R385). What the end of a record
does besides, to the chain, its Soundings and its drains, touches neither the ports nor a position of the queue (R43).
-/

/-! ## Transactions that leave at once -/

@[simp] theorem getPort_setPort (s : State) (n : Nat) (p : Port) : getPort (setPort s n p) n = p := by
  simp [getPort, setPort]

/-- Nothing of a transaction is refused where the rules grant every piece (R310). -/
theorem wholeRefused_eq_none {s : State} {t : Txn}
    (h : ∀ p ∈ pieces t.addr (t.len + t.rest), (judgeOut s t.func t.write p.2.1).ok = true) : wholeRefused s t = none := by
  simp only [wholeRefused, List.find?_eq_none, List.mem_map, forall_exists_index, and_imp, forall_apply_eq_imp_iff₂]
  intro p hp
  simp [h p hp]

/-- A transaction that owes no entry of a dirty-page log leaves under its verdict. -/
theorem comesToIssue_issued {s : State} {n : Nat} {t : Txn} (ho : portsOpen s = true) (hd : (t.write && !t.paged) = false)
    (hc : portCan (getPort s n) t.write t.addr t.len = true)
    (hj : ∀ p ∈ pieces t.addr (t.len + t.rest), (judgeOut s t.func t.write p.2.1).ok = true) :
    comesToIssue s n t = (sendTxn s n { t with paged := true } (judgeOut s t.func t.write t.addr),
      .issued (judgeOut s t.func t.write t.addr)) := by
  have hw : wholeRefused s { t with paged := true } = none := wholeRefused_eq_none hj
  simp [comesToIssue, ho, dlBefore, hd, hc, hw]

/-- Beats that leave change nothing of a transaction but how many are left. -/
theorem exists_mem_spendBeats {l : List Txn} {x : Txn} (h : x ∈ l) (n : Nat) :
    ∃ k, { x with left := k } ∈ (spendBeats n l).2 := by
  induction l generalizing n with
  | nil => cases h
  | cons t l ih =>
    rcases List.mem_cons.mp h with rfl | h
    · exact ⟨_, List.mem_cons_self ..⟩
    · obtain ⟨k, hk⟩ := ih h (n - min n t.left)
      exact ⟨k, List.mem_cons_of_mem _ hk⟩

/-- What is sent stands among what is outstanding on its port. -/
theorem exists_mem_sendTxn (s : State) (n : Nat) (t : Txn) (v : Verdict) :
    ∃ x ∈ (getPort (sendTxn s n t v) n).out, x.write = t.write ∧ x.addr = t.addr ∧ x.len = t.len ∧ x.func = t.func ∧
      x.data = t.data := by
  simp only [sendTxn, getPort_setPort, sendBeats]
  obtain ⟨k, hk⟩ := exists_mem_spendBeats (List.mem_append_right (getPort s n).out (List.mem_singleton.mpr rfl)) _
  exact ⟨_, hk, rfl, rfl, rfl, rfl, rfl⟩

/-! ## What the end of a record leaves -/

/-- A field that every step of a fold keeps. -/
theorem foldl_keeps {α β : Type} (π : State → β) (f : State → α → State) (h : ∀ t a, π (f t a) = π t) (l : List α)
    (s : State) : π (l.foldl f s) = π s := by
  induction l generalizing s with
  | nil => rfl
  | cons a l ih => exact (ih _).trans (h s a)

/-- The completion queues and the ports. -/
def queuesPorts (s : State) : Tbl Cq × Tbl Port := (s.cqs, s.ports)

theorem OnlyRecords.queuesPorts {s t : State} (h : OnlyRecords s t) : queuesPorts t = queuesPorts s := by rw [h]; rfl

theorem latencySounding_queuesPorts (s : State) (ps : List Nat) (l g fin : Nat) (late : Bool) :
    queuesPorts (latencySounding s ps l g fin late) = queuesPorts s := by
  refine foldl_keeps queuesPorts _ (fun t p => ?_) ps s
  unfold sounding
  (repeat' split) <;> rfl

theorem lateChain_queuesPorts (s : State) (c : Chain) (fin : Nat) : queuesPorts (lateChain s c fin) = queuesPorts s := by
  unfold lateChain
  dsimp only
  split
  · exact foldl_keeps queuesPorts _ (fun _ _ => by rfl) _ s
  · exact (onlyRecords_logReq ..).queuesPorts.trans (foldl_keeps queuesPorts _ (fun _ _ => by rfl) _ s)

theorem drainRing_queuesPorts (s : State) (g : Nat) : queuesPorts (drainRing s g) = queuesPorts s := by
  unfold drainRing
  dsimp only
  split <;> rfl

/-- Soundings, counters and drains of a chain's end. -/
theorem chainEnds_queuesPorts (s : State) (c : Chain) (fin : Nat) (issued : Bool) :
    queuesPorts (chainEnds s c fin issued) = queuesPorts s := by
  unfold chainEnds
  dsimp only
  rw [drainRing_queuesPorts]
  simp only [apply_ite queuesPorts, lateChain_queuesPorts, latencySounding_queuesPorts, ite_self]
  rfl

theorem reap_queuesPorts (s : State) (id : Nat) : queuesPorts (reap s id) = queuesPorts s := by
  unfold reap
  (repeat' split) <;> rfl

theorem drainCq_ports (s : State) (q : Nat) : (drainCq s q).ports = s.ports := by
  unfold drainCq; dsimp only; split <;> rfl

/-- Where a queue stands: records written, reserved and lost (R43, R50). -/
def cqCounts (c : Cq) : Word × Nat × Nat := (c.written, c.reserved, c.dropped)

/-- A drain takes ACTIVE and no position. -/
theorem drainCq_cqCounts (s : State) (q : Nat) : cqCounts (getCq (drainCq s q) q) = cqCounts (getCq s q) := by
  unfold drainCq
  dsimp only
  split
  · rw [getCq_setCq]; rfl
  · rfl

theorem xlateCount_py (s : State) (d : Bytes) (r : DescRes) : ∃ y, xlateCount s d r = { s with py := y } := by
  unfold xlateCount
  split
  · exact ⟨_, rfl⟩
  · exact ⟨s.py, rfl⟩

/-! ## The write of a record (R45, R46) -/

/-- The write of record k of a chain: its bytes, and the slot it goes to. -/
def recordTxn (s : State) (c : Chain) (k addr : Nat) (data : Bytes) : Txn :=
  ⟨0, true, addr, 32, c.func, 0, 0, 0, data, 0, .record c.id k, poolOfDesc c k, s.clk.meridian, false, 0, true, 0⟩

/-- The state in which that write has left, as the queue's operation of this control cycle (R57). -/
def recordSent (s : State) (y : Py) (c : Chain) (q : Cq) (addr : Nat) (data : Bytes) : State :=
  setCq (sendTxn { s with py := y } (c.ring % 8) (recordTxn s c c.issued addr data) (judgeOut s c.func true addr)) c.cq
    { cqWrote q with opAt := some (controlCycle s) }

theorem exists_mem_recordSent (s : State) (y : Py) (c : Chain) (q : Cq) (addr : Nat) (data : Bytes) :
    ∃ x ∈ (getPort (recordSent s y c q addr data) (c.ring % 8)).out,
      x.write = true ∧ x.addr = addr ∧ x.len = 32 ∧ x.func = c.func ∧ x.data = data :=
  exists_mem_sendTxn _ _ (recordTxn s c c.issued addr data) _

/-- The chain after its record, and its end where that was the last one. -/
def afterRecord (s : State) (c : Chain) (fin : Nat) (issued : Bool) : State :=
  let c := recorded s c c.issued fin issued
  if live c then setChain s c else chainEnds (setChain s c) c fin issued

theorem afterRecord_queuesPorts (s : State) (c : Chain) (fin : Nat) (issued : Bool) :
    queuesPorts (afterRecord s c fin issued) = queuesPorts s := by
  unfold afterRecord
  dsimp only
  split
  · rfl
  · rw [chainEnds_queuesPorts]; rfl

section Record
variable {s : State} {c : Chain} {r : DescRes} {q : Cq} {addr : Nat}
  (hc : findChain s c.id = some c) (hq : q = getCq s c.cq) (ha : addr = q.base + 32 * (q.written.toNat % 2 ^ q.size))
  (hup : engineUp s = true) (hblk : blockReq s = false) (hhalt : q.halted = false) (hdl : dlActive s c.func = false)
  (hslot : cqRecordSlot s q = true) (hwait : recordWaits s c c.issued r = false)
  (hport : portReady s (c.ring % 8) addr 32 = true)
  (hok : ∀ p ∈ pieces addr 32, (judgeOut s c.func true p.2.1).ok = true)
include hq hup hblk hhalt hport hok

theorem writeRecord_issued (y : Py) (data : Bytes) :
    writeRecord { s with py := y } c addr c.issued data = (recordSent s y c q addr data, true) := by
  have hcan : portCan (getPort s (c.ring % 8)) true addr 32 = true := by
    simp only [portReady, Bool.and_eq_true] at hport
    exact hport.2
  have hopen : portsOpen s = true := by simp [portsOpen, hup, hblk]
  have hsent := comesToIssue_issued (s := { s with py := y }) (n := c.ring % 8) (t := recordTxn s c c.issued addr data)
    hopen rfl hcan (fun p hp => hok p (by simpa [recordTxn] using hp))
  have hq' : getCq { s with py := y } c.cq = q := hq.symm
  have hcyc (n : Nat) (t : Txn) (v : Verdict) : controlCycle (sendTxn { s with py := y } n t v) = controlCycle s := rfl
  unfold writeRecord
  simp only [recordTxn] at hsent ⊢
  simp only [hq', hhalt, Bool.false_eq_true, if_false, hsent, hcyc]
  rfl

include hc ha hdl hslot hwait

/-- The next record of a chain is written; what follows is the chain's end and the drains. -/
theorem issueRecord_eq {data : Bytes} (hd : data = mkRecord r.status (recordFlags c c.issued r (finishStamp s)) c.ring
      (c.seq + word c.issued) c.accept (finishStamp s) r.detail c.issued (phaseBit q.written q.size) r.result) :
    ∃ y, issueRecord s c c.issued r =
      reap (drainCq (afterRecord (recordSent s y c q addr data) c (finishStamp s) true) c.cq) c.id := by
  obtain ⟨y, hy⟩ := xlateCount_py s (c.descs.getD c.issued []) r
  have hpage : recordPage s c c.issued addr r = some s := by simp [recordPage, hdl]
  have hwrite := writeRecord_issued hq hup hblk hhalt hport hok y data
  refine ⟨y, ?_⟩
  unfold issueRecord
  simp only [← hq, ← ha, hhalt, hpage, hc, hwait, hport, hslot, hy, ← hd, hwrite, Bool.false_eq_true, if_false,
    Bool.and_self, Bool.not_true, Bool.and_false, Bool.or_self]
  rfl

/-- The queue has written one more of the records that were reserved, and the write is outstanding on the ring's port. -/
theorem issueRecord_written {data : Bytes} (hd : data = mkRecord r.status (recordFlags c c.issued r (finishStamp s)) c.ring
      (c.seq + word c.issued) c.accept (finishStamp s) r.detail c.issued (phaseBit q.written q.size) r.result) :
    cqCounts (getCq (issueRecord s c c.issued r) c.cq) = (q.written + 1, q.reserved - 1, q.dropped) ∧
      ∃ x ∈ (getPort (issueRecord s c c.issued r) (c.ring % 8)).out,
        x.write = true ∧ x.addr = addr ∧ x.len = 32 ∧ x.func = c.func ∧ x.data = data := by
  obtain ⟨y, ht⟩ := issueRecord_eq hc hq ha hup hblk hhalt hdl hslot hwait hport hok hd
  obtain ⟨hcqs, hports⟩ := Prod.mk.inj (afterRecord_queuesPorts (recordSent s y c q addr data) c (finishStamp s) true)
  obtain ⟨hcqs', hports'⟩ := Prod.mk.inj ((congrArg queuesPorts ht).trans (reap_queuesPorts ..))
  constructor
  · rw [getCq, hcqs', ← getCq, drainCq_cqCounts, getCq, hcqs]
    exact congrArg cqCounts (getCq_setCq ..)
  · rw [getPort, hports', drainCq_ports, hports]
    exact exists_mem_recordSent ..

end Record

/-- Settles O25: the next record of a chain, executed or not, is written. -/
theorem recordIsWritten : Obligations.RecordIsWritten := by
  intro s id c r q addr hc hid hr hq ha hup hblk hres hhalt hdl hslot hwait hport hok
  subst hid
  obtain ⟨hcounts, x, hx, hwr, hadr, hlen, hfn, hdata⟩ :=
    issueRecord_written hc hq ha hup hblk hhalt hdl hslot hwait hport hok rfl
  simp only [cqCounts, Prod.mk.injEq] at hcounts
  obtain ⟨hw, hrsv, hdrop⟩ := hcounts
  refine ⟨fun hno hnb => ⟨issueRecord s c c.issued r, ?_, hw, hrsv, hdrop, x, hx, hwr, hadr, hlen, hfn, hdata⟩,
    fun hno hlast => ⟨issueRecord s c c.issued r, ?_, hw, hrsv, x, hx, hwr, hadr, hlen, hdata⟩⟩
  · simp [exec, execRecordIssue, hc, nextRes, hr, hup, hblk, hres, hno, hnb]
  · simp [exec, execNoexecRecord, hc, nextRes, hr, hup, hblk, hres, hno, hlast]

end Sys2Proof.Machine

namespace Sys2Proof.Machine

/-!
# Offers of a chain

The offer of the chain at the head of a ring (R68 to R70): what it asks does not depend on the round that it takes, a
refusal counts once in each pool, and an acceptance writes the chain, the positions of its ring and its reservation.
-/

/-! ## What an offer asks -/

/-- The deadline of the chain at the head of ring g (R62). -/
def offerDeadline (s : State) (g q : Nat) (k : ClassRec) : Nat :=
  (newChain s g q k (chainBytes s k (getRing s g).descs)).deadline

/-- Its segments with their latest starts (R66). -/
def offerSegs (s : State) (g q : Nat) (k : ClassRec) : List Seg :=
  latestStarts (mkSegs s k (getRing s g).descs ((getRing s g).sgather.got != [])) (offerDeadline s g q k)
    (16 + (if lastWaits s (((ringOwner s g).map (·.func)).getD 0) (getRing s g).descs then fabricR s else 0))

/-- The pools it visits. -/
def offerPools (s : State) (g q : Nat) (k : ClassRec) : List Nat := ((offerSegs s g q k).map (·.pool)).eraseDups

/-- The chain as it will stand. -/
def offerChain (s : State) (g q : Nat) (k : ClassRec) : Chain :=
  { newChain s g q k (chainBytes s k (getRing s g).descs) with
    segs := offerSegs s g q k, tested := true
    staged := if (getRing s g).sgather.got != [] then some (getRing s g).sgather.bytes else none }

/-- The pools that fail their ledger test (R67, R68). -/
def offerFails (s : State) (g q : Nat) (k : ClassRec) : List Nat :=
  (offerPools s g q k).filter (fun p => !poolTest s (offerSegs s g q k) (offerDeadline s g q k) p)

theorem offer_noResources {s : State} {g q : Nat} {k : ClassRec} {bad : List BadWord}
    (h : resourcesOk s (getCq s q) (getRing s g).descs (offerSegs s g q k) = false) :
    offer s g q k bad = some (refuse s g (offerPools s g q k) (fun x => { x with nores := sat32 x.nores })) := by
  unfold offer
  exact if_pos (by rw [Bool.not_eq_true']; exact h)

theorem offer_failsTest {s : State} {g q : Nat} {k : ClassRec} {bad : List BadWord}
    (h : resourcesOk s (getCq s q) (getRing s g).descs (offerSegs s g q k) = true) (hf : offerFails s g q k ≠ []) :
    offer s g q k bad = some (refuse s g (offerFails s g q k) (fun x => { x with refused := sat32 x.refused })) := by
  unfold offer
  refine (if_neg (by rw [Bool.not_eq_true', Bool.not_eq_false]; exact h)).trans (if_pos ?_)
  rw [Bool.not_eq_true', List.isEmpty_eq_false_iff]
  exact hf

/-- An offer that meets every condition of R68 is taken where its entries find their places. -/
theorem offer_passes {s : State} {g q : Nat} {k : ClassRec}
    (h : resourcesOk s (getCq s q) (getRing s g).descs (offerSegs s g q k) = true) (hf : offerFails s g q k = []) :
    offer s g q k [] = (enqueue (accept s g (offerChain s g q k)) (offerChain s g q k) (offerSegs s g q k)).map Prod.fst := by
  unfold offer
  refine (if_neg (by rw [Bool.not_eq_true', Bool.not_eq_false]; exact h)).trans ((if_neg ?_).trans ?_)
  · rw [Bool.not_eq_true', List.isEmpty_eq_false_iff, not_not]
    exact hf
  · show (match enqueue (accept s g (offerChain s g q k)) (offerChain s g q k) (offerSegs s g q k) with
      | none => none
      | some x => (enqueue (accept s g (offerChain s g q k)) (offerChain s g q k) (offerSegs s g q k)).map Prod.fst) = _
    split
    · next he => rw [he]; rfl
    · rfl

/-! ## The round of an offer (R69) -/

/-- From s to t only the account of rounds has changed: in the pools, and the control cycle of the last offer. -/
def OnlyRounds (s t : State) : Prop :=
  (∃ P A, t = { s with pools := P, ad := A }) ∧
    ∀ x, ∃ o a, getPool t x = { getPool s x with offers := o, offerAt := a }

theorem OnlyRounds.trans {s t u : State} (h : OnlyRounds s t) (k : OnlyRounds t u) : OnlyRounds s u := by
  obtain ⟨⟨P, A, rfl⟩, hp⟩ := h
  obtain ⟨⟨P', A', rfl⟩, kp⟩ := k
  refine ⟨⟨P', A', rfl⟩, fun x => ?_⟩
  obtain ⟨o, a, hx⟩ := hp x
  obtain ⟨o', a', kx⟩ := kp x
  exact ⟨o', a', by rw [kx, hx]⟩

theorem onlyRounds_setPool (s : State) (p : Nat) (o : Tbl Int) (a : Option Nat) :
    OnlyRounds s (setPool s p { getPool s p with offers := o, offerAt := a }) := by
  refine ⟨⟨_, s.ad, rfl⟩, fun x => ?_⟩
  by_cases hx : x = p
  · subst hx; exact ⟨o, a, getPool_setPool ..⟩
  · exact ⟨_, _, getPool_setPool_ne _ _ _ _ hx⟩

theorem onlyRounds_takeRound (s : State) (p : Nat) (ps : List Nat) : OnlyRounds s (takeRound s p ps) := by
  have hfold (l : List Nat) (t : State) :
      OnlyRounds t (l.foldl (fun s q => setPool s q { getPool s q with offerAt := some (controlCycle s) }) t) := by
    induction l generalizing t with
    | nil => exact ⟨⟨t.pools, t.ad, rfl⟩, fun x => ⟨_, _, rfl⟩⟩
    | cons q l ih => exact (onlyRounds_setPool ..).trans (ih _)
  have had (t : State) (A : Ad) : OnlyRounds t { t with ad := A } := ⟨⟨t.pools, A, rfl⟩, fun x => ⟨_, _, rfl⟩⟩
  exact ((onlyRounds_setPool ..).trans (had _ _)).trans (hfold ..)

section Rounds
variable {s t : State} (h : OnlyRounds s t)
include h

theorem OnlyRounds.getRing (g : Nat) : getRing t g = getRing s g := by
  obtain ⟨⟨P, A, rfl⟩, -⟩ := h; rfl

theorem OnlyRounds.getCq (q : Nat) : getCq t q = getCq s q := by
  obtain ⟨⟨P, A, rfl⟩, -⟩ := h; rfl

theorem OnlyRounds.offerSegs (g q : Nat) (k : ClassRec) : offerSegs t g q k = offerSegs s g q k := by
  obtain ⟨⟨P, A, rfl⟩, -⟩ := h; rfl

theorem OnlyRounds.offerPools (g q : Nat) (k : ClassRec) : offerPools t g q k = offerPools s g q k := by
  obtain ⟨⟨P, A, rfl⟩, -⟩ := h; rfl

theorem OnlyRounds.offerChain (g q : Nat) (k : ClassRec) : offerChain t g q k = offerChain s g q k := by
  obtain ⟨⟨P, A, rfl⟩, -⟩ := h; rfl

theorem OnlyRounds.offerFails (g q : Nat) (k : ClassRec) : offerFails t g q k = offerFails s g q k := by
  obtain ⟨⟨P, A, rfl⟩, -⟩ := h; rfl

/-- A round takes no room (R86). -/
theorem OnlyRounds.resourcesOk (q : Cq) (l : List Bytes) (segs : List Seg) :
    resourcesOk t q l segs = resourcesOk s q l segs := by
  have hroom (p : Nat) : iqRoom (getPool t p) = iqRoom (getPool s p) := by
    obtain ⟨o, a, hp⟩ := h.2 p
    rw [hp]; rfl
  have hscr : scratchFree t = scratchFree s := by obtain ⟨⟨P, A, rfl⟩, -⟩ := h; rfl
  simp only [Machine.resourcesOk, hroom, hscr]

end Rounds

/-! ## Refusals (R68, R70) -/

theorem nodup_eraseDups {α : Type} [BEq α] [LawfulBEq α] (l : List α) : l.eraseDups.Nodup := by
  induction hn : l.length using Nat.strong_induction_on generalizing l with
  | _ n ih =>
    cases l with
    | nil => simp
    | cons a l =>
      rw [List.eraseDups_cons, List.nodup_cons, List.mem_eraseDups]
      have hlen := List.length_filter_le (fun b => !b == a) l
      exact ⟨by simp, ih _ (by simp at hn; omega) _ rfl⟩

/-- A count in each of some pools, each once. -/
theorem getPool_foldl_setPool (f : Pool → Pool) (l : List Nat) (hl : l.Nodup) (s : State) (p : Nat) :
    getPool (l.foldl (fun s p => setPool s p (f (getPool s p))) s) p = if p ∈ l then f (getPool s p) else getPool s p := by
  induction l generalizing s with
  | nil => simp
  | cons x l ih =>
    obtain ⟨hx, hl⟩ := List.nodup_cons.mp hl
    rw [List.foldl_cons, ih hl]
    by_cases hp : p = x
    · subst hp; simp [hx]
    · simp [hp, getPool_setPool_ne _ _ _ _ hp]

/-- What a refused offer changes: the counts of the pools, and that the ring waits to offer again. -/
theorem refuse_eq (s : State) (g : Nat) (ps : List Nat) (hps : ps.Nodup) (f : Pool → Pool) :
    (∃ R P, refuse s g ps f = { s with rings := R, pools := P }) ∧
    getRing (refuse s g ps f) g =
      { getRing s g with fetch := .refused s.clk.meridian ps, offerAt := some s.clk.meridian, descs := [] } ∧
    (∀ m, m ≠ g → getRing (refuse s g ps f) m = getRing s m) ∧
    ∀ p, getPool (refuse s g ps f) p = if p ∈ ps then f (getPool s p) else getPool s p := by
  have hfold (l : List Nat) (t : State) : ∃ P, l.foldl (fun s p => setPool s p (f (getPool s p))) t = { t with pools := P } := by
    induction l generalizing t with
    | nil => exact ⟨t.pools, rfl⟩
    | cons x l ih => exact ih (setPool t x (f (getPool t x)))
  have hpool := getPool_foldl_setPool f ps hps s
  unfold refuse
  obtain ⟨P, hP⟩ := hfold ps s
  rw [hP] at hpool ⊢
  exact ⟨⟨_, P, rfl⟩, getRing_setRing .., fun m hm => getRing_setRing_ne _ _ _ _ hm, hpool⟩

/-- The same behind the round of the offer. -/
theorem refuse_onlyRounds {s t : State} (h : OnlyRounds s t) (g : Nat) (ps : List Nat) (hps : ps.Nodup) (f : Pool → Pool) :
    let u := refuse t g ps f
    u = { s with rings := u.rings, pools := u.pools, ad := u.ad } ∧
    getRing u g = { getRing s g with fetch := .refused s.clk.meridian ps, offerAt := some s.clk.meridian, descs := [] } ∧
    (∀ m, m ≠ g → getRing u m = getRing s m) ∧
    ∀ p, ∃ o a, getPool u p = if p ∈ ps then f { getPool s p with offers := o, offerAt := a }
      else { getPool s p with offers := o, offerAt := a } := by
  obtain ⟨⟨R, P, hRP⟩, hring, hne, hpool⟩ := refuse_eq t g ps hps f
  obtain ⟨⟨P', A, ht⟩, hp⟩ := h
  refine ⟨by rw [hRP, ht], by rw [hring, ht]; rfl, fun m hm => by rw [hne m hm, ht]; rfl, fun p => ?_⟩
  obtain ⟨o, a, hx⟩ := hp p
  exact ⟨o, a, by rw [hpool, hx]⟩

/-! ## Acceptance (R12, R43, R84) -/

/-- What an acceptance has written once the Soundings and the famine clock have seen it. -/
theorem famineClock_depthSounding (s : State) (g : Nat) : let t := famineClock (depthSounding s g) g
    t.chains = s.chains ∧ t.nextId = s.nextId ∧ t.cqs = s.cqs ∧
      (getRing t g).accepted = (getRing s g).accepted ∧ (getRing t g).posted = (getRing s g).posted ∧
      ∀ m, m ≠ g → getRing t m = getRing s m := by
  have hs : ∃ x, depthSounding s g = { s with sd := x } := by
    unfold depthSounding sounding
    dsimp only
    split
    · exact ⟨_, rfl⟩
    · split <;> exact ⟨_, rfl⟩
  have hf (t : State) : ∃ a n, famineClock t g = setRing t g { getRing t g with famineAt := a, faminePart := n } := by
    unfold famineClock
    dsimp only
    split <;> exact ⟨_, _, rfl⟩
  obtain ⟨x, hx⟩ := hs
  obtain ⟨a, n, ha⟩ := hf { s with sd := x }
  simp only [hx, ha, getRing_setRing, setRing_chains, setRing_nextId, setRing_cqs, true_and]
  exact ⟨rfl, rfl, fun m hm => getRing_setRing_ne _ _ _ _ hm⟩

/-- The entries of a chain go into the queues of its pools and nowhere else. -/
theorem enqueue_pools {s t : State} {c : Chain} {l : List Seg} {m : List (Nat × IqEntry)}
    (h : enqueue s c l = some (t, m)) : ∃ P, t = { s with pools := P } := by
  induction l generalizing s t m with
  | nil => cases h; exact ⟨s.pools, rfl⟩
  | cons g l ih =>
    rw [enqueue, Option.bind_eq_some_iff] at h
    obtain ⟨x, -, hx⟩ := h
    rw [Option.map_eq_some_iff] at hx
    obtain ⟨⟨t', m'⟩, he, hy⟩ := hx
    obtain ⟨P, hP⟩ := ih he
    exact ⟨P, by cases hy; exact hP⟩

/-- The chain stands, its ring has moved by its length, and so has the reservation of its queue. -/
def acceptedChain (s : State) (g : Nat) (c : Chain) : State :=
  let t := setRing { setChain s c with
    nextId := s.nextId + 1, ad := { s.ad with sliceAt := s.ad.sliceAt.set (g % 16) (controlCycle s) } } g
    { getRing s g with
      accepted := (getRing s g).accepted + word c.descs.length, fetch := .idle, descs := [], sgather := .none
      sfault := false, offerAt := none }
  setCq t c.cq { getCq s c.cq with reserved := (getCq s c.cq).reserved + c.descs.length }

/-- The pools of a chain count its acceptance. -/
def countAccepted (s : State) (l : List Seg) : State :=
  l.foldl (fun s x => setPool s x.pool { getPool s x.pool with accepted := sat32 (getPool s x.pool).accepted }) s

theorem countAccepted_pools (l : List Seg) (s : State) : ∃ P, countAccepted s l = { s with pools := P } := by
  induction l generalizing s with
  | nil => exact ⟨s.pools, rfl⟩
  | cons x l ih => exact ih (setPool s x.pool _)

theorem accept_eq (s : State) (g : Nat) (c : Chain) :
    accept s g c = famineClock (depthSounding (countAccepted (acceptedChain s g c) c.segs) g) g := rfl

/-- An acceptance (R12, R43). -/
theorem accept_written (s : State) (g : Nat) (c : Chain) : let t := accept s g c
    findChain t c.id = some c ∧ t.nextId = s.nextId + 1 ∧
      (getRing t g).accepted = (getRing s g).accepted + word c.descs.length ∧ (getRing t g).posted = (getRing s g).posted ∧
      (getCq t c.cq).reserved = (getCq s c.cq).reserved + c.descs.length ∧
      ∀ m, m ≠ g → getRing t m = getRing s m := by
  obtain ⟨P, hP⟩ := countAccepted_pools c.segs (acceptedChain s g c)
  obtain ⟨hch, hid, hcq, hacc, hpost, hring⟩ := famineClock_depthSounding { acceptedChain s g c with pools := P } g
  rw [accept_eq, hP]
  have hr : getRing { acceptedChain s g c with pools := P } g = _ := getRing_setRing _ g _
  rw [hr] at hacc hpost
  refine ⟨?_, hid, hacc, hpost, ?_, fun m hm => (hring m hm).trans (getRing_setRing_ne _ _ _ _ hm)⟩
  · rw [findChain, hch]
    exact Tbl.find_set_same _ _ _
  · rw [getCq, hcq]
    exact congrArg Cq.reserved (getCq_setCq _ c.cq _)

/-! ## ADMISSION_OFFER and REOFFER_TIMER -/

/-- An offer whose turn it is takes its round (R69). -/
theorem exec_admissionOffer {s : State} {g : BitVec 16} {k : ClassRec} {q : Nat} {bad : List BadWord}
    (hk : ringClass s g.toNat = some k) (hq : ringCq s g.toNat = some q) (ho : canOffer s g.toNat = true)
    (hd : direct s k (getRing s g.toNat) = false) (ht : poolTurn s ((headPools s g.toNat).headD 64) = true)
    (hp : (headPools s g.toNat).all (fun x => !tookOffer s x) = true)
    (hw : (swrr (getPool s ((headPools s g.toNat).headD 64)).offers (offerCand s ((headPools s g.toNat).headD 64))).1 =
      some g.toNat) :
    exec (.admissionOffer ⟨g, bad⟩) s =
      .next ((offer (takeRound s ((headPools s g.toNat).headD 64) (headPools s g.toNat)) g.toNat q k bad).getD s) := by
  simp only [exec, execAdmissionOffer, hk, hq, ho, hd, ht, hp, hw, Bool.not_true, Bool.false_eq_true, if_false, Bool.and_self,
    beq_self_eq_true, if_true]

/-- A refused offer is made again when its time has come (R70). -/
theorem exec_reofferTimer {s : State} {g : BitVec 16} {since : Nat} {ps : List Nat}
    (hf : (getRing s g.toNat).fetch = .refused since ps) : exec (.reofferTimer g) s = .next (
      if sliceUp s g.toNat && (decide (since + 1024 ≤ s.clk.meridian) || since == 0) &&
          (getRing s g.toNat).offerAt.all (fun k => decide (k + 256 ≤ s.clk.meridian)) then
        setRing s g.toNat { getRing s g.toNat with fetch := .idle, descs := [] }
      else s) := by
  simp only [exec, execReofferTimer, hf]

/-! ## The outcomes of an offer behind its round -/

section Outcomes
variable {s t : State} {g q : Nat} {k : ClassRec} (hr : OnlyRounds s t)
include hr

/-- Without room the offer is refused, and AD_POOL_NORES counts in the pools of the chain. -/
theorem offer_countsNores {bad : List BadWord}
    (h : resourcesOk s (getCq s q) (getRing s g).descs (offerSegs s g q k) = false) :
    let u := (offer t g q k bad).getD s
    u = { s with rings := u.rings, pools := u.pools, ad := u.ad } ∧
    getRing u g = { getRing s g with
      fetch := .refused s.clk.meridian (offerPools s g q k), offerAt := some s.clk.meridian, descs := [] } ∧
    (∀ m, m ≠ g → getRing u m = getRing s m) ∧
    ∀ p ∈ offerPools s g q k, (getPool u p).nores = sat32 (getPool s p).nores ∧
      (getPool u p).refused = (getPool s p).refused := by
  rw [offer_noResources (by rw [hr.resourcesOk, hr.getCq, hr.getRing, hr.offerSegs, h]), hr.offerPools, Option.getD_some]
  obtain ⟨hu, hring, hne, hpool⟩ := refuse_onlyRounds hr g (offerPools s g q k) (nodup_eraseDups _)
    (fun x => { x with nores := sat32 x.nores })
  refine ⟨hu, hring, hne, fun p hp => ?_⟩
  obtain ⟨o, a, hx⟩ := hpool p
  rw [hx, if_pos hp]
  exact ⟨rfl, rfl⟩

/-- A pool whose ledger test fails refuses the offer, and AD_POOL_REFUSED counts in each such pool. -/
theorem offer_countsRefused {bad : List BadWord}
    (h : resourcesOk s (getCq s q) (getRing s g).descs (offerSegs s g q k) = true)
    (hfail : ∃ p ∈ offerPools s g q k, poolTest s (offerSegs s g q k) (offerDeadline s g q k) p = false) :
    let u := (offer t g q k bad).getD s
    u = { s with rings := u.rings, pools := u.pools, ad := u.ad } ∧
    (getRing u g).accepted = (getRing s g).accepted ∧ (∀ m, m ≠ g → getRing u m = getRing s m) ∧
    ∀ p ∈ offerPools s g q k, (getPool u p).nores = (getPool s p).nores ∧ (getPool u p).refused =
      (if poolTest s (offerSegs s g q k) (offerDeadline s g q k) p then (getPool s p).refused
        else sat32 (getPool s p).refused) := by
  have hno : offerFails s g q k ≠ [] := by
    obtain ⟨p, hp, hpt⟩ := hfail
    exact List.ne_nil_of_mem (List.mem_filter.mpr ⟨hp, by rw [hpt]; rfl⟩)
  rw [offer_failsTest (by rw [hr.resourcesOk, hr.getCq, hr.getRing, hr.offerSegs, h]) (by rwa [hr.offerFails]),
    hr.offerFails, Option.getD_some]
  obtain ⟨hu, hring, hne, hpool⟩ := refuse_onlyRounds hr g (offerFails s g q k) ((nodup_eraseDups _).filter _)
    (fun x => { x with refused := sat32 x.refused })
  refine ⟨hu, by rw [hring], hne, fun p hp => ?_⟩
  obtain ⟨o, a, hx⟩ := hpool p
  rw [hx]
  simp only [offerFails, List.mem_filter, hp, true_and, Bool.not_eq_true']
  cases poolTest s (offerSegs s g q k) (offerDeadline s g q k) p <;> exact ⟨rfl, rfl⟩

/-- An offer that every pool passes goes to the places of its entries. -/
theorem offer_onlyRounds_passes (h : resourcesOk s (getCq s q) (getRing s g).descs (offerSegs s g q k) = true)
    (hpass : ∀ p ∈ offerPools s g q k, poolTest s (offerSegs s g q k) (offerDeadline s g q k) p = true) :
    offer t g q k [] = (enqueue (accept t g (offerChain s g q k)) (offerChain s g q k) (offerSegs s g q k)).map Prod.fst := by
  have hnone : offerFails t g q k = [] := by
    rw [hr.offerFails]
    exact List.filter_eq_nil_iff.mpr fun p hp => by simp [hpass p hp]
  rw [offer_passes (by rw [hr.resourcesOk, hr.getCq, hr.getRing, hr.offerSegs, h]) hnone, hr.offerChain, hr.offerSegs]

/-- The chain of an accepted offer stands, and its ring and its queue have moved by its length. -/
theorem enqueue_accept_written {x : State} {m : List (Nat × IqEntry)}
    (he : enqueue (accept t g (offerChain s g q k)) (offerChain s g q k) (offerSegs s g q k) = some (x, m)) :
    findChain x s.nextId = some (offerChain s g q k) ∧ x.nextId = s.nextId + 1 ∧
      (getRing x g).accepted = (getRing s g).accepted + word (getRing s g).descs.length ∧
      (getRing x g).posted = (getRing s g).posted ∧
      (getCq x q).reserved = (getCq s q).reserved + (getRing s g).descs.length ∧
      ∀ n, n ≠ g → getRing x n = getRing s n := by
  obtain ⟨hch, hid, hacc, hpost, hrsv, hne⟩ := accept_written t g (offerChain s g q k)
  obtain ⟨P, rfl⟩ := enqueue_pools he
  rw [hr.getRing] at hacc hpost
  refine ⟨hch, ?_, hacc, hpost, ?_, fun n hn => (hne n hn).trans (hr.getRing n)⟩
  · obtain ⟨⟨P, A, rfl⟩, -⟩ := hr; exact hid
  · rw [← hr.getCq]; exact hrsv

end Outcomes

/-- Settles O24: the offer by its outcome, and the timer by its two conditions. -/
theorem admissionRule : Obligations.AdmissionRule := by
  refine ⟨?_, fun s g since ps hup hf => ?_⟩
  · rintro s g k q r d segs ps hk hq rfl ho hdir ht hp hw hd hs hps
    obtain rfl : d = offerDeadline s g.toNat q k := hd
    obtain rfl : segs = offerSegs s g.toNat q k := hs
    obtain rfl : ps = offerPools s g.toNat q k := hps
    have hr := onlyRounds_takeRound s ((headPools s g.toNat).headD 64) (headPools s g.toNat)
    rw [exec_admissionOffer hk hq ho hdir ht hp hw]
    refine ⟨fun h => ⟨_, rfl, offer_countsNores hr h⟩, fun h hfail => ⟨_, rfl, offer_countsRefused hr h hfail⟩, ?_⟩
    intro c0 hc0 h hpass
    obtain rfl : c0 = offerChain s g.toNat q k := hc0
    rw [offer_onlyRounds_passes hr h hpass]
    refine ⟨fun he => by rw [he]; rfl, fun he => ?_⟩
    obtain ⟨⟨x, m⟩, he⟩ := Option.ne_none_iff_exists'.mp he
    obtain ⟨hch, hid, hacc, hpost, hrsv, hne⟩ := enqueue_accept_written hr he
    rw [he]
    exact ⟨x, _, rfl, hch, rfl, rfl, rfl, rfl, rfl, rfl, hid, hacc, hpost, hrsv, hne⟩
  · rw [exec_reofferTimer hf]
    refine ⟨fun hdue hlast => ?_, fun hs hdue => ?_, fun k hk hlast => ?_⟩
    · rw [if_pos]
      cases hk : (getRing s g.toNat).offerAt with
      | none => simpa [hup, or_comm] using hdue
      | some k => simpa [hup, hlast k hk, or_comm] using hdue
    · rw [if_neg]
      simp [hs, hdue]
    · rw [if_neg]
      simp [hk, hlast]

end Sys2Proof.Machine

namespace Sys2Proof.Machine

/-!
# The load of a descriptor

How a descriptor that failed leaves its unit (R39, R415), what a poisoned one leaves of its context (R94, R142), and the
loads that end without the context store: the reads that a load issues touch ports and records alone.
-/

/-! ## The end of a failed descriptor -/

/-- Units, chains, completion queues and contexts. -/
def jobStores (s : State) : Tbl Uni × Tbl Chain × Tbl Cq × Sc := (s.units, s.chains, s.cqs, s.sc)

theorem countKv_jobStores (s : State) (status : Nat) : jobStores (countKv s status) = jobStores s := by
  unfold countKv
  split
  · rfl
  · split <;> rfl

theorem countHelm_jobStores (s : State) (uid : Nat) (e : DescEnd) (ran : Bool) :
    jobStores (countHelm s uid e ran) = jobStores s := by
  unfold countHelm
  split <;> rfl

theorem setHalf_jobStores (s : State) (uid : Nat) (b : Bytes) : jobStores (setHalf s uid b) = jobStores s := by
  unfold setHalf
  split <;> rfl

theorem countEnd_jobStores (s : State) (uid cls func : Nat) (j : Job) (e : DescEnd) (ran : Bool) :
    jobStores (countEnd (dropDesc s j) uid cls func e ran) =
      jobStores (setUni s uid (lastEnd (getUni s uid) cls func e)) := rfl

/-- A chain after a descriptor that failed: the descriptors after it are SKIPPED (R39). -/
def failedChain (c : Chain) (r : DescRes) : Chain :=
  { c with
    results := c.results ++ [r] ++ List.replicate (c.descs.length - (c.results.length + 1)) (skipRes r.status)
    segs := c.segs.map (fun g => { g with st := .done }) }

theorem addResult_failed (s : State) (c : Chain) {r : DescRes} (h : r.status ≠ 0) :
    jobStores (addResult s c r) = jobStores (setChain s (failedChain c r)) := by
  unfold addResult
  simp only [if_neg h, List.length_append, List.length_singleton]
  exact foldl_keeps jobStores _ (fun _ _ => by rfl) _ _

/-- What a release changes of a unit: it has no job and is free of its scheduler; what it last showed stays (R18). -/
theorem release_unit (s : State) (uid : Nat) : (getUni (release s uid) uid).job = none ∧
    (getUni (release s uid) uid).sched = false ∧
    (getUni (release s uid) uid).lastStatus = (getUni s uid).lastStatus := by
  have hwake (t : State) (p : Nat) : getUni (wakeRings t p) uid = getUni t uid := rfl
  have hscrub (t : State) : getUni (scrubUnit t uid) uid = scrubKey (getUni t uid) := getUni_setUni t uid _
  unfold release
  dsimp only
  rw [hwake]
  split
  · simp
  · simp [hscrub, scrubKey]

theorem release_chains (s : State) (uid : Nat) :
    ((release s uid).chains, (release s uid).cqs, (release s uid).sc) = (s.chains, s.cqs, s.sc) := by
  unfold release
  dsimp only
  split <;> rfl

/-- The result that a descriptor's end adds to its chain. -/
def DescEnd.res (e : DescEnd) (j : Job) : DescRes :=
  ⟨e.status, e.detail, e.flags, padTo 8 e.result, j.waits, false, none, e.notBefore, false⟩

/-- A descriptor that fails ends its chain and leaves its unit; without a context of its own the store stays (R39, R106). -/
theorem endDesc_failed_eq {s : State} {uid : Nat} {e : DescEnd} {j : Job} {c : Chain} (hj : (getUni s uid).job = some j)
    (hc : findChain s j.chain = some c) (he : e.status ≠ 0) : ∃ (t : State) (cls : Nat), endDesc s uid e = release t uid ∧
      t.units = (setUni s uid (lastEnd (getUni s uid) cls c.func e)).units ∧
      t.chains = (setChain s (failedChain c (e.res j))).chains ∧ t.cqs = s.cqs ∧ (j.ctxRef = none → t.sc = s.sc) := by
  have hmore (b : Bool) : (e.status == 0 && b) = false := by simp [he]
  have hadd (x : State) := addResult_failed x c (r := e.res j) he
  unfold endDesc
  simp only [hj, hc, hmore, he, Bool.false_and, Bool.false_eq_true, if_false]
  generalize ((unitRec s uid).map (·.cls)).getD 0 = cls
  generalize hs1 : setHalf (countHelm _ _ _ _) uid [] = s1
  have h1 : jobStores s1 = jobStores (setUni s uid (lastEnd (getUni s uid) cls c.func e)) := by
    rw [← hs1, setHalf_jobStores, countHelm_jobStores, countKv_jobStores, countEnd_jobStores]
  simp only [jobStores, Prod.mk.injEq] at h1 hadd
  obtain ⟨hu, hch, hq, hsc⟩ := h1
  have hset (x : State) (h : x.chains = s.chains) :
      (setChain x (failedChain c (e.res j))).chains = (setChain s (failedChain c (e.res j))).chains :=
    congrArg (fun t => Tbl.set t c.id _) h
  refine ⟨_, cls, rfl, ?_⟩
  split
  case h_1 r k hr hk =>
    obtain ⟨au, ach, aq, -⟩ := hadd (writeBack s1 uid r k)
    exact ⟨au.trans hu, ach.trans (hset _ hch), aq.trans hq, fun h => by simp [h] at hr⟩
  case h_2 =>
    obtain ⟨au, ach, aq, asc⟩ := hadd s1
    exact ⟨au.trans hu, ach.trans (hset _ hch), aq.trans hq, fun _ => asc.trans hsc⟩

/-- The outcome of a descriptor that fails, on its chain and on its unit (R18, R39). -/
theorem endDesc_failed {s : State} {uid : Nat} {e : DescEnd} {j : Job} {c : Chain} (hj : (getUni s uid).job = some j)
    (hc : findChain s j.chain = some c) (he : e.status ≠ 0) :
    findChain (endDesc s uid e) c.id = some (failedChain c (e.res j)) ∧ (getUni (endDesc s uid e) uid).job = none ∧
      (getUni (endDesc s uid e) uid).sched = false ∧ (getUni (endDesc s uid e) uid).lastStatus = e.status ∧
      (endDesc s uid e).cqs = s.cqs ∧ (j.ctxRef = none → (endDesc s uid e).sc = s.sc) := by
  obtain ⟨t, cls, ht, hu, hch, hq, hsc⟩ := endDesc_failed_eq hj hc he
  obtain ⟨hjob, hsched, hlast⟩ := release_unit t uid
  have hrel := release_chains t uid
  simp only [Prod.mk.injEq] at hrel
  obtain ⟨rch, rq, rsc⟩ := hrel
  have hshow : (getUni t uid).lastStatus = e.status := by
    rw [getUni, hu]; exact congrArg Uni.lastStatus (getUni_setUni s uid _)
  rw [ht]
  refine ⟨?_, hjob, hsched, hlast.trans hshow, rq.trans hq, fun h => rsc.trans (hsc h)⟩
  rw [findChain, rch, hch]
  exact Tbl.find_set_same ..

theorem failedChain_segs (c : Chain) (r : DescRes) : ∀ g ∈ (failedChain c r).segs, g.st = .done := by
  intro g hg
  obtain ⟨h, -, rfl⟩ := List.mem_map.mp hg
  rfl

/-- The error register of a unit holds no job. -/
theorem commandErr_keeps (s : State) (uid op status detail : Nat) :
    (getUni (commandErr s uid op status detail) uid).job = (getUni s uid).job ∧
      (commandErr s uid op status detail).chains = s.chains ∧ (commandErr s uid op status detail).cqs = s.cqs := by
  unfold commandErr
  split
  · exact ⟨by rw [getUni_setUni], rfl, rfl⟩
  · exact ⟨rfl, rfl, rfl⟩

/-- A failed load waits for the end of its load stage (R415). -/
theorem loadStageEnd_before {s : State} {u : BitVec 12} {j : Job} {st dt due : Nat} (hj : (getUni s u.toNat).job = some j)
    (hp : j.phase = .failed st dt due) (hdue : s.clk.meridian < due) : exec (.loadStageEnd u) s = .next s := by
  have hlt : decide (due ≤ s.clk.meridian) = false := by simpa using hdue
  change execLoadStageEnd u s = _
  simp [execLoadStageEnd, hj, hp, hlt]

/-- At the end of the load stage the descriptor ends with the status of its load (R39, R415). -/
theorem loadStageEnd_due {s : State} {u : BitVec 12} {j : Job} {c : Chain} {st dt due : Nat} (ho : engineUp s = true)
    (hj : (getUni s u.toNat).job = some j) (hp : j.phase = .failed st dt due) (hc : findChain s j.chain = some c)
    (hst : st ≠ 0) (hdue : due ≤ s.clk.meridian) : ∃ t, exec (.loadStageEnd u) s = .next t ∧
      findChain t c.id = some (failedChain c ⟨st, dt, 0, zeros 8, j.waits, false, none, due + 16, false⟩) ∧
      (getUni t u.toNat).job = none ∧ (getUni t u.toNat).sched = false ∧ (getUni t u.toNat).lastStatus = st ∧
      t.cqs = s.cqs := by
  have hrun : ∃ x, exec (.loadStageEnd u) s = .next (endDesc x u.toNat ⟨st, dt, 0, [], failedCtx j st dt, due + 16⟩) ∧
      (getUni x u.toNat).job = some j ∧ x.chains = s.chains ∧ x.cqs = s.cqs := by
    obtain ⟨ej, ec, eq⟩ := commandErr_keeps s u.toNat 5 st dt
    change ∃ x, execLoadStageEnd u s = _ ∧ _
    simp only [execLoadStageEnd, hj, hp, ho, Bool.true_and, decide_eq_true hdue, if_true]
    split
    · exact ⟨_, rfl, ej.trans hj, ec, eq⟩
    · exact ⟨s, rfl, hj, rfl, rfl⟩
  obtain ⟨x, hx, hxj, hxc, hxq⟩ := hrun
  obtain ⟨h1, h2, h3, h4, h5, -⟩ := endDesc_failed (e := ⟨st, dt, 0, [], failedCtx j st dt, due + 16⟩) hxj
    (show x.chains.find j.chain = some c by rw [hxc]; exact hc) hst
  exact ⟨_, hx, h1, h2, h3, h4, h5.trans hxq⟩

/-! ## A poisoned entry (R94, R142) -/

/-- A unit that keeps no context has none to let go. -/
theorem letGo_none (s : State) (uid : Nat) {j : Job} (n : Option CtxRef) (hr : j.ctxRef = none) (hd : j.dirty = false) :
    letGo s uid j n = (s, j) := by
  have hj : { j with ctxRef := none, dirty := false } = j := by cases j; cases hr; cases hd; rfl
  simp [letGo, hr, hj]

/-- A predicate that no value has at a key finds the same in the table with another value there. -/
theorem Tbl.any_set {α : Type} (t : Tbl α) {k : Nat} (x : α) {p : Nat × α → Bool} (hp : ∀ y, p (k, y) = false) :
    (t.set k x).any p = t.any p := by
  induction t with
  | nil => simp [Tbl.set, hp]
  | cons e t ih =>
    obtain ⟨i, y⟩ := e
    unfold Tbl.set
    split
    · simp [hp]
    · split
      · next hik => simp [hik, hp]
      · simp [ih]

/-- What a unit itself holds does not keep it from a context (R106). -/
theorem ctxHeld_setUni (s : State) (uid : Nat) (x : Uni) (r : CtxRef) : ctxHeld (setUni s uid x) uid r = ctxHeld s uid r :=
  congrArg (s.sc.wb.any (fun w => w.uid != uid && ctxOverlap w.ref r) || ·) (Tbl.any_set s.units x (by simp))

/-- What is stored in a context that is not FREE is read back; its extension lies in the next cell (R108). -/
theorem ctxGet_ctxPut (s : State) (r : CtxRef) {x : Ctx} (hx : x.st ≠ 0) : ctxGet (ctxPut s r x) r = x := by
  unfold ctxPut ctxGet
  by_cases hc : r.compact = true
  · simp [hc, hx]
  · by_cases hw : r.wide = true
    · simp [hc, hw, hx, Tbl.get_set_ne]
    · simp [hc, hw, hx]

/-- A context is stored in the context store alone. -/
theorem ctxPut_sc (s : State) (r : CtxRef) (x : Ctx) : ∃ S, ctxPut s r x = { s with sc := S } := by
  unfold ctxPut
  split <;> exact ⟨_, rfl⟩

theorem ownWriteBack_sc (s : State) (uid : Nat) (r : CtxRef) : ∃ S, ownWriteBack s uid r = { s with sc := S } := by
  unfold ownWriteBack
  split
  · exact ctxPut_sc ..
  · exact ⟨s.sc, rfl⟩

/-- Without a write-back under way the store stays. -/
theorem ownWriteBack_none {s : State} {uid : Nat} {r : CtxRef} (h : s.sc.wb = []) : ownWriteBack s uid r = s := by
  simp [ownWriteBack, h]

/-- The context that a poisoned descriptor names, on a unit that may look at it: TAINTED where it was OPEN and its own
(R142). -/
def taintNamed (s : State) (uid : Nat) (r : CtxRef) (kind func : Nat) : State :=
  let s := ownWriteBack s uid r
  if (ctxGet s r).st = 1 ∧ (ctxGet s r).kind = kind ∧ (ctxGet s r).owner = func then
    ctxPut s r { ctxGet s r with st := 2, cause := stPoison }
  else s

theorem taintNamed_sc (s : State) (uid : Nat) (r : CtxRef) (kind func : Nat) :
    ∃ S, taintNamed s uid r kind func = { s with sc := S } := by
  obtain ⟨S, hS⟩ := ownWriteBack_sc s uid r
  unfold taintNamed
  simp only [hS]
  split
  · obtain ⟨S', hS'⟩ := ctxPut_sc { s with sc := S } r { ctxGet { s with sc := S } r with st := 2, cause := stPoison }
    exact ⟨S', hS'⟩
  · exact ⟨S, rfl⟩

theorem ctxGet_taintNamed {s : State} {uid : Nat} {r : CtxRef} {kind func : Nat} (hw : s.sc.wb = [])
    (hst : (ctxGet s r).st = 1) (hk : (ctxGet s r).kind = kind) (hf : (ctxGet s r).owner = func) :
    ctxGet (taintNamed s uid r kind func) r = { ctxGet s r with st := 2, cause := 9 } := by
  simp only [taintNamed, ownWriteBack_none hw, hst, hk, hf, and_self, if_true]
  exact ctxGet_ctxPut _ _ (Nat.succ_ne_zero 1)

/-- A poisoned descriptor ends POISON; of the context it names only the store can have changed before (R94, R142). -/
theorem poisoned_eq {s : State} {uid : Nat} {j : Job} {c : Chain} {d : Bytes}
    (hr : j.ctxRef = none) (hd : j.dirty = false) (hdd : d = c.descs.getD j.idx []) : ∃ x,
      poisoned s uid j c = endDesc x uid ⟨9, 0, 0, [], none, j.from_ + 4⟩ ∧ (getUni x uid).job = some j ∧
      x.chains = s.chains ∧ (dCtx d = noCtx → x.sc = s.sc) ∧
      (∀ r, dCtx d ≠ noCtx → ctxNamed s c.func d = some r → s.sc.ready = true → ctxFilling s r = false →
        ctxHeld s uid r = false → s.sc.wb = [] → (ctxGet s r).st = 1 → (ctxGet s r).kind = hKind d →
        (ctxGet s r).owner = c.func → ctxGet x r = { ctxGet s r with st := 2, cause := 9 }) := by
  have hj1 : (getUni (setUni s uid { getUni s uid with job := some j }) uid).job = some j := by rw [getUni_setUni]
  have hheld := ctxHeld_setUni s uid { getUni s uid with job := some j }
  unfold poisoned
  simp only [letGo_none s uid _ hr hd, hd, Bool.false_eq_true, if_false, ← hdd]
  by_cases hno : dCtx d = noCtx
  · exact ⟨_, by rw [if_pos hno]; rfl, hj1, rfl, fun _ => rfl, fun _ h => absurd hno h⟩
  · rw [if_neg hno]
    cases hn : ctxNamed s c.func d with
    | none => exact ⟨_, rfl, hj1, rfl, fun _ => rfl, fun _ _ h => nomatch h⟩
    | some r =>
      simp only [hheld]
      split
      next hbar =>
        refine ⟨_, rfl, hj1, rfl, fun _ => rfl, fun r' _ h hready hfill hh => ?_⟩
        obtain rfl := Option.some.inj h
        have hfill1 : ctxFilling (setUni s uid { getUni s uid with job := some j }) r = false := hfill
        simp [hready, hfill1, hh] at hbar
      next =>
        obtain ⟨S, hS⟩ := taintNamed_sc (setUni s uid { getUni s uid with job := some j }) uid r (hKind d) c.func
        refine ⟨taintNamed (setUni s uid { getUni s uid with job := some j }) uid r (hKind d) c.func, rfl, ?_, ?_,
          fun h => absurd h hno, fun r' _ h _ _ _ hw hst hk hf => ?_⟩
        · rw [hS]; exact hj1
        · rw [hS]; rfl
        · obtain rfl := Option.some.inj h
          exact ctxGet_taintNamed hw hst hk hf

/-- A poisoned entry is not executed: its descriptor ends POISON (R94). -/
theorem descriptorLoad_poisoned {s : State} {u : BitVec 12} {env : LoadEnv} {j : Job} {c : Chain} {d : Bytes}
    (ho : engineUp s = true) (hj : (getUni s u.toNat).job = some j) (hp : j.phase = .claimed)
    (hc : findChain s j.chain = some c) (hr : j.ctxRef = none) (hd : j.dirty = false) (hdd : d = c.descs.getD j.idx [])
    (hbad : j.poison.contains j.idx = true) : ∃ t, exec (.descriptorLoad u env) s = .next t ∧
      findChain t c.id = some (failedChain c ⟨9, 0, 0, zeros 8, j.waits, false, none, j.from_ + 4, false⟩) ∧
      (dCtx d = noCtx → t.sc = s.sc) ∧
      (∀ r, dCtx d ≠ noCtx → ctxNamed s c.func d = some r → s.sc.ready = true → ctxFilling s r = false →
        ctxHeld s u.toNat r = false → s.sc.wb = [] → (ctxGet s r).st = 1 → (ctxGet s r).kind = hKind d →
        (ctxGet s r).owner = c.func → ctxGet t r = { ctxGet s r with st := 2, cause := 9 }) := by
  obtain ⟨x, hx, hxj, hxc, hno, htaint⟩ := poisoned_eq (s := s) (uid := u.toNat) (c := c) hr hd hdd
  obtain ⟨h1, -, -, -, -, hsc⟩ := endDesc_failed (e := ⟨9, 0, 0, [], none, j.from_ + 4⟩) hxj
    (show x.chains.find j.chain = some c by rw [hxc]; exact hc) (Nat.succ_ne_zero 8)
  have hget (r : CtxRef) : ctxGet (endDesc x u.toNat ⟨9, 0, 0, [], none, j.from_ + 4⟩) r = ctxGet x r := by
    rw [ctxGet, hsc hr, ctxGet]
  refine ⟨_, ?_, h1, fun h => (hsc hr).trans (hno h), fun r => by rw [hget]; exact htaint r⟩
  change execDescriptorLoad u env s = _
  have hphase : (j.phase != .claimed) = false := by rw [hp]; rfl
  simp only [execDescriptorLoad, hj, hc, ho, hphase, hbad, hx, Bool.not_true, Bool.or_self, Bool.false_eq_true,
    if_false, if_true]

/-! ## The reads of a load -/

/-- From s to t at most the ports and the records of refusals have changed. -/
def OnlyIO (s t : State) : Prop :=
  t = { s with ports := t.ports, ac := t.ac, lb := t.lb, nv := t.nv, lane0 := t.lane0, lane1 := t.lane1 }

theorem OnlyIO.refl (s : State) : OnlyIO s s := rfl

theorem OnlyIO.trans {s t u : State} (h : OnlyIO s t) (k : OnlyIO t u) : OnlyIO s u :=
  Eq.trans k (congrArg (fun x : State =>
    { x with ports := u.ports, ac := u.ac, lb := u.lb, nv := u.nv, lane0 := u.lane0, lane1 := u.lane1 }) h)

theorem OnlyIO.stores {s t : State} (h : OnlyIO s t) : t.kv = s.kv ∧ t.sc = s.sc ∧ t.units = s.units := by
  rw [h]; exact ⟨rfl, rfl, rfl⟩

theorem OnlyRecords.onlyIO {s t : State} (h : OnlyRecords s t) : OnlyIO s t :=
  Eq.trans h (by rw [show s.ports = t.ports from (congrArg State.ports h).symm])

theorem onlyIO_setPort (s : State) (n : Nat) (p : Port) : OnlyIO s (setPort s n p) := rfl

theorem onlyRecords_outViolation (s : State) (addr : Nat) (info : Word) (rule : Nat) :
    OnlyRecords s (outViolation s addr info rule) := by
  unfold outViolation
  dsimp only
  split
  · rfl
  · exact OnlyRecords.trans (t := { s with ac := _ }) rfl (onlyRecords_acLatch ..)

/-- A read owes no entry of a dirty-page log. -/
theorem onlyIO_comesToIssue (s : State) (n : Nat) {t : Txn} (ht : t.write = false) : OnlyIO s (comesToIssue s n t).1 := by
  unfold comesToIssue
  simp only [dlBefore, ht, Bool.false_and, Bool.false_eq_true, if_false]
  split
  · exact .refl s
  · split
    · exact .refl s
    · split
      · exact (onlyRecords_outViolation ..).onlyIO
      · exact onlyIO_setPort ..

/-- What has not been able to leave waits at its port. -/
def queueWait (n : Nat) (x : State × Issue) : State × Issue :=
  match x with
  | (s, .waits t) => (setPort s n { getPort s n with sendQ := (getPort s n).sendQ ++ [t] }, .waits t)
  | x => x

theorem issueTxn_eq (s : State) (n : Nat) (t : Txn) :
    issueTxn s n t = queueWait n (if (getPort s n).sendQ.isEmpty then comesToIssue s n t else (s, .waits t)) := rfl

theorem onlyIO_queueWait {s : State} (n : Nat) {x : State × Issue} (h : OnlyIO s x.1) : OnlyIO s (queueWait n x).1 := by
  obtain ⟨s1, i⟩ := x
  cases i with
  | waits t => exact OnlyIO.trans h (onlyIO_setPort ..)
  | issued v => exact h
  | refused => exact h

theorem onlyIO_issueTxn (s : State) (n : Nat) {t : Txn} (ht : t.write = false) : OnlyIO s (issueTxn s n t).1 := by
  rw [issueTxn_eq]
  refine onlyIO_queueWait n ?_
  split
  · exact onlyIO_comesToIssue s n ht
  · exact .refl s

theorem onlyIO_issueAll (s : State) (port func : Nat) (who : Origin) (pools : List Nat) (l : List (Nat × Nat × Nat)) :
    OnlyIO s (issueAll s port func false [] who pools l).1 := by
  induction l generalizing s with
  | nil => exact .refl s
  | cons p l ih =>
    obtain ⟨o, a, n⟩ := p
    unfold issueAll
    have hone : OnlyIO s (issueOne s port func false a n o [] who pools).1 := onlyIO_issueTxn s port rfl
    simp only [Bool.false_eq_true, if_false]
    generalize issueOne s port func false a n o [] who pools = x at hone
    obtain ⟨s1, b⟩ := x
    cases b with
    | true => exact hone.trans (ih s1)
    | false => exact hone

/-- A read that the rules grant goes out or waits at its port: it is never refused (R310). -/
theorem issueTxn_granted {s : State} {n : Nat} {t : Txn} (ht : t.write = false)
    (hj : ∀ p, (judgeOut s t.func false p).ok = true) :
    ∃ P, (issueTxn s n t).1 = { s with ports := P } ∧ ((issueTxn s n t).2 != .refused) = true := by
  have hcome : ∃ P i, comesToIssue s n t = ({ s with ports := P }, i) ∧ (i != .refused) = true := by
    by_cases ho : portsOpen s = true
    · by_cases hp : portCan (getPort s n) t.write t.addr t.len = true
      · exact ⟨_, _, comesToIssue_issued ho (by simp [ht]) hp (by rw [ht]; exact fun p _ => hj p.2.1), rfl⟩
      · refine ⟨s.ports, .waits { t with paged := true }, ?_, rfl⟩
        rw [ht, Bool.not_eq_true] at hp
        simp [comesToIssue, ho, dlBefore, ht, hp]
    · exact ⟨s.ports, .waits t, by simp [comesToIssue, ho], rfl⟩
  have hput (x : State × Issue) (hx : ∃ P i, x = ({ s with ports := P }, i) ∧ (i != .refused) = true) :
      ∃ P, (queueWait n x).1 = { s with ports := P } ∧ ((queueWait n x).2 != .refused) = true := by
    obtain ⟨P, i, rfl, hi⟩ := hx
    cases i with
    | waits t1 => exact ⟨_, rfl, rfl⟩
    | issued v => exact ⟨P, rfl, rfl⟩
    | refused => cases hi
  rw [issueTxn_eq]
  split
  · exact hput _ hcome
  · exact hput _ ⟨s.ports, _, rfl, rfl⟩

theorem issueAll_granted (s : State) {port func : Nat} {who : Origin} {pools : List Nat} (l : List (Nat × Nat × Nat))
    (hj : ∀ p, (judgeOut s func false p).ok = true) :
    ∃ P, issueAll s port func false [] who pools l = ({ s with ports := P }, l.length, none) := by
  induction l generalizing s with
  | nil => exact ⟨s.ports, rfl⟩
  | cons p l ih =>
    obtain ⟨o, a, n⟩ := p
    obtain ⟨P, hP, hok⟩ := issueTxn_granted (s := s) (n := port)
      (t := ⟨0, false, a, n, func, 0, 0, 0, [], o, who, pools, s.clk.meridian, false, 0, false, 0⟩) rfl hj
    have hone : issueOne s port func false a n o [] who pools = ({ s with ports := P }, true) :=
      Prod.ext hP hok
    obtain ⟨P', hP'⟩ := ih { s with ports := P } hj
    exact ⟨P', by simp [issueAll, hone, hP']⟩

/-- A read that every rule grants has all its pieces out (R10, R309). -/
theorem startRead_granted {s : State} {port func addr len : Nat} {who : Origin} {pools : List Nat}
    (hj : ∀ p, (judgeOut s func false p).ok = true) :
    ∃ P, startRead s port func addr len who pools = ({ s with ports := P }, ⟨(pieces addr len).length, [], none⟩) := by
  obtain ⟨P, hP⟩ := issueAll_granted (port := port) (who := who) (pools := pools) s (pieces addr len) hj
  exact ⟨P, by rw [startRead, hP]⟩

/-- A range of bytes has a piece. -/
theorem pieces_ne_nil {addr len : Nat} (h : len ≠ 0) : (pieces addr len).length ≠ 0 := by
  have hn : 0 < cdiv (addr % 4096 + len) 4096 := by unfold cdiv; omega
  have hmem : (0, addr, min (addr + len) ((addr / 4096 + 0 + 1) * 4096) - addr) ∈ pieces addr len := by
    refine List.mem_filterMap.mpr ⟨0, List.mem_range.mpr hn, ?_⟩
    have hlo : max addr ((addr / 4096 + 0) * 4096) = addr := by omega
    have hlt : addr < min (addr + len) ((addr / 4096 + 0 + 1) * 4096) := by omega
    simp only [hlo, if_pos hlt, Nat.sub_self]
  exact Nat.ne_of_gt (List.length_pos_of_mem hmem)

/-! ## The steps of a load that needs no store -/

/-- The unit shows the operation; its Helm's data half and the bytes that no rule states are all that moves besides (R143). -/
theorem beginOp_eq (s : State) (uid : Nat) (d : Bytes) : ∃ H F, beginOp s uid d =
    { setUni s uid { getUni s uid with op := dOpcode d, active := true } with helms := H, free := F } := by
  have hhalf (t : State) (b : Bytes) : ∃ H, setHalf t uid b = { t with helms := H } := by
    unfold setHalf
    split
    · exact ⟨_, rfl⟩
    · exact ⟨t.helms, rfl⟩
  unfold beginOp
  dsimp only
  generalize setUni s uid { getUni s uid with op := dOpcode d, active := true } = s1
  split
  next h _ =>
    generalize hs2 : setHelm s1 h _ = s2
    obtain ⟨H, hH⟩ := hhalf s2 (freeBytes s1 16384)
    rw [hH, ← hs2]
    exact ⟨H, _, rfl⟩
  next => exact ⟨s1.helms, s1.free, rfl⟩

/-- A descriptor without a context goes on with the absent one (R105). -/
theorem loadCtx_absent {uid func : Nat} {d : Bytes} {bad : List Nat} {s : State} {j : Job} (hr : j.ctxRef = none)
    (hd : j.dirty = false) (hno : dCtx d = noCtx) :
    loadCtx uid func d bad s j = ⟨s, { j with ctx := ctxAbsent, act := 0, local_ := 0 }, none⟩ := by
  simp only [loadCtx, letGo_none s uid _ hr hd, if_pos hno]

/-- A context cannot be loaded before the store is READY (R105). -/
theorem loadCtx_notReady {uid func : Nat} {d : Bytes} {bad : List Nat} {s : State} {j : Job} (hr : j.ctxRef = none)
    (hd : j.dirty = false) (hctx : dCtx d ≠ noCtx) (hready : s.sc.ready = false) :
    loadCtx uid func d bad s j = loadFail s { j with act := hAct d, local_ := hLocal d } 13 0x0F0A := by
  simp only [loadCtx, letGo_none s uid _ hr hd, if_neg hctx, hready, Bool.not_false, Bool.true_or, if_true]
  rfl

/-- After a failed context step nothing more is loaded (R105). -/
theorem loadAll_of_failed {uid func : Nat} {d : Bytes} {env : LoadEnv} {s s1 : State} {j j1 : Job} {st dt : Nat}
    (h : loadCtx uid func d env.ctxBad s j = loadFail s1 j1 st dt) :
    loadAll uid func d env s j = loadFail s1 j1 st dt := by
  unfold loadAll
  rw [h]
  rfl

/-- Without a context no reservation of a digest fails (R109). -/
theorem loadReserve_digest {d : Bytes} (h2 : dFamily d = 2) (cnt : Nat) (s : State) {j : Job} (hr : j.ctxRef = none) :
    ∃ k, loadReserve d cnt s j = ⟨s, { j with ctx := k }, none⟩ := by
  have hsome : ∃ k, hashReserve d false j.ctx = some k := by
    unfold hashReserve
    split
    · exact ⟨_, rfl⟩
    · exact ⟨_, if_neg (by simp)⟩
  obtain ⟨k, hk⟩ := hsome
  exact ⟨k, by simp only [loadReserve, h2, hr, Option.isSome_none, hk]⟩

/-- A digest without key and context asks nothing of vault and contexts: its load passes (R105). -/
theorem loadAll_digest {uid func : Nat} {d : Bytes} {env : LoadEnv} {s : State} {j : Job} (h2 : dFamily d = 2)
    (hkdf : hIsKdf d = false) (hkey : dNoKey d = true) (hno : dCtx d = noCtx) (hpre : hashPre d ctxAbsent = none)
    (hr : j.ctxRef = none) (hd : j.dirty = false) :
    ∃ k, loadAll uid func d env s j = ⟨s, { j with ctx := k, act := 0, local_ := 0, key := none }, none⟩ := by
  obtain ⟨k, hk⟩ := loadReserve_digest h2 0 s (j := { j with ctx := ctxAbsent, act := 0, local_ := 0, key := none }) hr
  refine ⟨k, ?_⟩
  have hform (c : Ctx) : famPre s d c = hashPre d c := by simp only [famPre, h2]
  have htgt : tgtOf d = none := by simp [tgtOf, h2, hkdf]
  have hask : keyAsk func d = none := by simp [keyAsk, hkey]
  have hask2 : keyAsk2 func d = none := by simp [keyAsk2, h2]
  have hdraw : drawOf s uid d = none := by simp [drawOf, h2]
  unfold loadAll
  rw [loadCtx_absent hr hd hno]
  simp [LoadRes.next, loadCheck, hform, hpre, loadTarget, htgt, loadPolicy, h2, loadKey, hask, loadKey2, hask2, loadCount,
    loadValue, hkdf, loadDraw, hdraw, hk, loadUnit]

/-- A descriptor whose input is on its way waits for it (R10). -/
theorem tryExec_waits {s : State} {uid : Nat} {j : Job} (hj : (getUni s uid).job = some j) (hp : j.phase = .input)
    (he : j.gather.err = none) (hn : j.gather.need ≠ 0) : tryExec s uid = s := by
  simp [tryExec, hj, hp, he, hn]

theorem exec_descriptorLoad {s : State} {u : BitVec 12} {env : LoadEnv} {j : Job} {c : Chain} (ho : engineUp s = true)
    (hj : (getUni s u.toNat).job = some j) (hp : j.phase = .claimed) (hc : findChain s j.chain = some c)
    (hok : j.poison.contains j.idx = false) : exec (.descriptorLoad u env) s = .next (loadDesc s u.toNat env j c) := by
  have hphase : (j.phase != .claimed) = false := by rw [hp]; rfl
  change execDescriptorLoad u env s = _
  simp only [execDescriptorLoad, hj, hc, ho, hphase, hok, Bool.not_true, Bool.or_self, Bool.false_eq_true, if_false]

/-- The load of a digest without key and context: the unit shows it and reads its input (R10, R105). -/
theorem loadDesc_digest {s : State} {uid : Nat} {env : LoadEnv} {j : Job} {c : Chain} {d : Bytes} (hr : j.ctxRef = none)
    (hd : j.dirty = false) (hdd : d = c.descs.getD j.idx []) (h2 : dFamily d = 2) (hkdf : hIsKdf d = false)
    (hkey : dNoKey d = true) (hno : dCtx d = noCtx) (hpre : hashPre d ctxAbsent = none) (hlen : dLen d ≠ 0)
    (hscr : dSrcScr d = false) (hst : c.staged = none) (hout : ∀ p, (judgeOut s c.func false p).ok = true) :
    ∃ (t : State) (j' : Job), loadDesc s uid env j c = t ∧ (getUni t uid).job = some j' ∧ j'.phase = .input ∧
      j'.gather = ⟨(pieces (dSrc d) (dLen d)).length, [], none⟩ ∧ j'.key = none ∧ j'.ctxRef = none ∧ j'.idx = j.idx ∧
      (getUni t uid).op = dOpcode d ∧ (getUni t uid).active = true ∧ t.kv = s.kv ∧ t.sc = s.sc ∧ t.chains = s.chains ∧
      ∀ v, v ≠ uid → getUni t v = getUni s v := by
  obtain ⟨H, F, hbegin⟩ := beginOp_eq s uid d
  unfold loadDesc
  simp only [← hdd, hbegin]
  generalize hs1 : setUni s uid { getUni s uid with op := dOpcode d, active := true } = s1
  have hu1 : getUni s1 uid = { getUni s uid with op := dOpcode d, active := true } := by rw [← hs1, getUni_setUni]
  have hv1 (v : Nat) (hv : v ≠ uid) : getUni s1 v = getUni s v := by rw [← hs1, getUni_setUni_ne _ _ _ _ hv]
  have hout1 (p : Nat) : (judgeOut { s1 with helms := H, free := F } c.func false p).ok = true := by
    rw [← hs1]; exact hout p
  obtain ⟨P, hread⟩ := startRead_granted (port := c.ring % 8) (addr := dSrc d) (len := dLen d) (who := .input c.id j.idx)
    (pools := poolOfDesc c j.idx) hout1
  rw [if_pos ⟨hlen, hscr, hst⟩, hread]
  generalize hs2 : ({ s1 with helms := H, free := F, ports := P } : State) = s2
  have hu2 (v : Nat) : getUni s2 v = getUni s1 v := by rw [← hs2]; rfl
  obtain ⟨k, hload⟩ := loadAll_digest (uid := uid) (func := c.func) (env := env) (s := s2) (j := { j with
    check := ((unitRec s1 uid).map (·.check)).getD 0, action := ((unitRec s1 uid).map (·.action)).getD 0
    retryMax := ((unitRec s1 uid).map (·.retryMax)).getD 0, epoch := s1.tx.epoch
    gather := ⟨(pieces (dSrc d) (dLen d)).length, [], none⟩ }) h2 hkdf hkey hno hpre hr hd
  generalize hx : loadAll _ _ _ _ _ _ = x
  obtain rfl : x = _ := hx.symm.trans hload
  dsimp only
  rw [tryExec_waits (congrArg Uni.job (getUni_setUni ..)) rfl rfl (pieces_ne_nil hlen)]
  refine ⟨_, _, rfl, congrArg Uni.job (getUni_setUni ..), rfl, rfl, rfl, hr, rfl, ?_, ?_, ?_, ?_, ?_, fun v hv => ?_⟩
  · rw [getUni_setUni, hu2, hu1]
  · rw [getUni_setUni, hu2, hu1]
  · rw [← hs2, ← hs1]; rfl
  · rw [← hs2, ← hs1]; rfl
  · rw [← hs2, ← hs1]; rfl
  · rw [getUni_setUni_ne _ _ _ _ hv, hu2, hv1 v hv]

/-- The load of a descriptor whose context cannot be looked at: the unit holds it until its load stage ends (R105, R415). -/
theorem loadDesc_notReady {s : State} {uid : Nat} {env : LoadEnv} {j : Job} {c : Chain} {d : Bytes} (hr : j.ctxRef = none)
    (hd : j.dirty = false) (hdd : d = c.descs.getD j.idx []) (hctx : dCtx d ≠ noCtx) (hready : s.sc.ready = false) :
    ∃ (t : State) (j' : Job), loadDesc s uid env j c = t ∧ (getUni t uid).job = some j' ∧
      j'.phase = .failed 13 0x0F0A (j.from_ + loadSpan s c j d) ∧ j'.idx = j.idx ∧ (getUni t uid).op = dOpcode d ∧
      t.kv = s.kv ∧ t.sc = s.sc := by
  obtain ⟨H, F, hbegin⟩ := beginOp_eq s uid d
  unfold loadDesc
  simp only [← hdd, hbegin]
  generalize hs1 : setUni s uid { getUni s uid with op := dOpcode d, active := true } = s1
  have hu1 : getUni s1 uid = { getUni s uid with op := dOpcode d, active := true } := by rw [← hs1, getUni_setUni]
  have hread : OnlyIO { s1 with helms := H, free := F } (if dLen d ≠ 0 ∧ dSrcScr d = false ∧ c.staged = none then
      startRead { s1 with helms := H, free := F } (c.ring % 8) c.func (dSrc d) (dLen d) (.input c.id j.idx)
        (poolOfDesc c j.idx)
    else ({ s1 with helms := H, free := F }, .none)).1 := by
    split
    · exact onlyIO_issueAll ..
    · exact .refl _
  generalize (if dLen d ≠ 0 ∧ dSrcScr d = false ∧ c.staged = none then _ else _ : State × Gather) = r at hread ⊢
  obtain ⟨s2, g⟩ := r
  obtain ⟨hkv, hsc, hunits⟩ := hread.stores
  have hu2 : getUni s2 uid = getUni s1 uid := congrArg (fun t : Tbl Uni => t.get .init uid) hunits
  have hkv1 : s1.kv = s.kv := by rw [← hs1]; rfl
  have hsc1 : s1.sc = s.sc := by rw [← hs1]; rfl
  have hready2 : s2.sc.ready = false := (congrArg Sc.ready (hsc.trans hsc1)).trans hready
  have hload (j2 : Job) (a : j2.ctxRef = none) (b : j2.dirty = false) :=
    loadAll_of_failed (env := env) (loadCtx_notReady (uid := uid) (func := c.func) (bad := env.ctxBad) a b hctx hready2)
  rw [hload _ (by exact hr) (by exact hd)]
  dsimp only [loadFail]
  refine ⟨_, _, rfl, congrArg Uni.job (getUni_setUni ..), ?_, rfl, ?_, hkv.trans hkv1, hsc.trans hsc1⟩
  · rw [← hs1]; rfl
  · rw [getUni_setUni]; exact congrArg Uni.op (hu2.trans hu1)

/-- Settles O27: a failed descriptor ends by `endDesc_failed`, with its context by `poisoned_eq` where its entry was poisoned; a
digest passes its load by `loadAll_digest`, and the reads of a load leave all stores by `onlyIO_issueAll`. -/
theorem descriptorLoadRule : Obligations.DescriptorLoadRule := by
  unfold Obligations.DescriptorLoadRule
  refine ⟨fun s u env j c d ho hj hp hc hid hr hd hdd => ⟨fun hbad => ?_, ?_, ?_⟩,
    fun s u j c st dt due ho hj hp hc hid hst => ⟨loadStageEnd_before hj hp, fun hdue => ?_⟩⟩
  · obtain ⟨t, ht, hchain, hsc, htaint⟩ := descriptorLoad_poisoned (env := env) ho hj hp hc hr hd hdd hbad
    exact ⟨t, _, ht, hchain, rfl, hsc, htaint⟩
  · intro hok h2 hkdf hkey hno hpre hlen hscr hst hout
    have hpre2 : hashPre d ctxAbsent = none := by simpa only [famPre, h2] using hpre
    obtain ⟨t, j', ht, h⟩ := loadDesc_digest (uid := u.toNat) (env := env) hr hd hdd h2 hkdf hkey hno hpre2 hlen hscr hst hout
    exact ⟨t, j', (exec_descriptorLoad ho hj hp hc hok).trans (congrArg _ ht), h⟩
  · intro hok hctx hready
    obtain ⟨t, j', ht, h⟩ := loadDesc_notReady (uid := u.toNat) (env := env) hr hd hdd hctx hready
    exact ⟨t, j', (exec_descriptorLoad ho hj hp hc hok).trans (congrArg _ ht), h⟩
  · obtain ⟨t, ht, hchain, hjob, hsched, hlast, hq⟩ := loadStageEnd_due ho hj hp hc hst hdue
    exact ⟨t, _, ht, hchain, rfl, rfl, failedChain_segs c _, hjob, hsched, hlast, hq⟩

end Sys2Proof.Machine

namespace Sys2Proof.Machine

/-!
# Ring registers

DOORBELL, RING_ENABLE and RING_DISABLE (R41, R48, R49): a granted write reaches the ring that it names, and what follows
it, the famine clock, the drain and the depth Soundings, touches no other ring.
-/

/-! ## The ring that a granted write names (R26, R58) -/

theorem hostWrite_onRing {s : State} {a : Access} {g : BitVec 16} {o n : Nat} (f : State → Nat → State)
    (h : granted s a true (ringAt a g.toNat o) = true) (hn : ringNamed s a.func.toNat g.toNat = some n) :
    hostWrite s a (ringAt a g.toNat o) (fun s => onRing s a g f) = acked (f s n) a := by
  rw [hostWrite_granted _ _ _ _ h]
  simp only [onRing, hn]

theorem exec_doorbell {s : State} {a : Access} {g : BitVec 16} {v : Word} {n : Nat}
    (h : granted s a true (ringAt a g.toNat 0xC) = true) (hn : ringNamed s a.func.toNat g.toNat = some n) :
    exec (.doorbell a g v) s = .next (acked (rgDoorbell s n v) a) :=
  congrArg _ (hostWrite_onRing (fun s n => rgDoorbell s n v) h hn)

theorem exec_ringEnable {s : State} {a : Access} {g : BitVec 16} {v : Word} {n : Nat}
    (h : granted s a true (ringAt a g.toNat 8) = true) (hn : ringNamed s a.func.toNat g.toNat = some n) :
    exec (.ringEnable a g v) s = .next (acked (rgCfg s n (v ||| 0x80)) a) :=
  congrArg _ (hostWrite_onRing (fun s n => rgCfg s n (v ||| 0x80)) h hn)

theorem exec_ringDisable {s : State} {a : Access} {g : BitVec 16} {v : Word} {n : Nat}
    (h : granted s a true (ringAt a g.toNat 8) = true) (hn : ringNamed s a.func.toNat g.toNat = some n) :
    exec (.ringDisable a g v) s = .next (acked (rgCfg s n (v &&& 0xFFFFFF7F)) a) :=
  congrArg _ (hostWrite_onRing (fun s n => rgCfg s n (v &&& 0xFFFFFF7F)) h hn)

/-! ## A configuration word with ENABLE set or cleared (R58, R59) -/

theorem wfld_eq_extract (w : Word) (lo len : Nat) : wfld w lo len = (w.extractLsb' lo len).toNat := by
  simp [wfld, fld, Nat.shiftRight_eq_div_pow]

theorem wbit_setEnable (v : Word) : wbit (v ||| 0x80) 7 = true := by
  rw [wbit, BitVec.getLsbD_or, Bool.or_eq_true]; exact .inr rfl

theorem wbit_clearEnable (v : Word) : wbit (v &&& 0xFFFFFF7F) 7 = false := by
  rw [wbit, BitVec.getLsbD_and, Bool.and_eq_false_iff]; exact .inr rfl

theorem wfld_or {v m : Word} {lo len : Nat} (h : m.extractLsb' lo len = 0) : wfld (v ||| m) lo len = wfld v lo len := by
  rw [wfld_eq_extract, wfld_eq_extract, BitVec.extractLsb'_or, h]
  exact congrArg BitVec.toNat BitVec.or_zero

theorem wfld_and {v m : Word} {lo len : Nat} (h : m.extractLsb' lo len = .allOnes len) :
    wfld (v &&& m) lo len = wfld v lo len := by
  rw [wfld_eq_extract, wfld_eq_extract, BitVec.extractLsb'_and, h, BitVec.and_allOnes]

/-- ENABLE is no bit of SIZE. -/
theorem wfld_size_setEnable (v : Word) : wfld (v ||| 0x80) 0 5 = wfld v 0 5 := wfld_or rfl

theorem wfld_size_clearEnable (v : Word) : wfld (v &&& 0xFFFFFF7F) 0 5 = wfld v 0 5 := wfld_and rfl

/-- ENABLE is no bit of VECTOR. -/
theorem wfld_vector_setEnable (v : Word) : wfld (v ||| 0x80) 12 4 = wfld v 12 4 := wfld_or rfl

theorem wfld_vector_clearEnable (v : Word) : wfld (v &&& 0xFFFFFF7F) 12 4 = wfld v 12 4 := wfld_and rfl

/-! ## What the registers of one ring may change -/

/-- From s to t at most ring g has changed. -/
def OnlyRing (g : Nat) (s t : State) : Prop :=
  t = { s with rings := t.rings } ∧ ∀ m, m ≠ g → getRing t m = getRing s m

theorem OnlyRing.refl (g : Nat) (s : State) : OnlyRing g s s := ⟨rfl, fun _ _ => rfl⟩

theorem OnlyRing.trans {g : Nat} {s t u : State} (h : OnlyRing g s t) (k : OnlyRing g t u) : OnlyRing g s u := by
  obtain ⟨hst, hsm⟩ := h
  obtain ⟨htu, htm⟩ := k
  exact ⟨htu.trans (congrArg (fun x : State => { x with rings := u.rings }) hst), fun m hm => (htm m hm).trans (hsm m hm)⟩

theorem onlyRing_setRing (s : State) (g : Nat) (r : Ring) : OnlyRing g s (setRing s g r) :=
  ⟨rfl, fun m hm => getRing_setRing_ne s g m r hm⟩

@[simp] theorem getRing_acked (s : State) (a : Access) (m : Nat) : getRing (acked s a) m = getRing s m :=
  congrArg (fun t : Tbl Ring => t.get .init m) (acked_rings s a)

/-- The ring with its famine clock started or stopped (R77, R356). -/
def famineClocked (s : State) (g : Nat) (r : Ring) : Ring :=
  { r with
    famineAt := if inFamine s g then some (r.famineAt.getD s.clk.meridian) else none
    faminePart := if inFamine s g then r.faminePart else famineTime s r }

theorem famineClock_eq (s : State) (g : Nat) : famineClock s g = setRing s g (famineClocked s g (getRing s g)) := by
  unfold famineClock famineClocked famineTime
  cases inFamine s g <;> rfl

theorem onlyRing_famineClock (s : State) (g : Nat) : OnlyRing g s (famineClock s g) := by
  rw [famineClock_eq]; exact onlyRing_setRing ..

/-- Famine is a matter of the positions and the bucket of a ring, not of its clock (R77). -/
theorem inFamine_congr {s t : State} {g : Nat} (hchart : t.chart = s.chart) (hclk : t.clk = s.clk) {a : Option Nat} {p : Nat}
    (hr : getRing t g = { getRing s g with famineAt := a, faminePart := p }) : inFamine t g = inFamine s g := by
  have hclass : ringClass t g = ringClass s g := by simp only [ringClass, ringBind, classRec, hchart]
  have hbucket : bucketNow t g = bucketNow s g := by unfold bucketNow; rw [hr, hclk, hclass]
  simp only [inFamine, hbucket, hr]

@[simp] theorem inFamine_acked (s : State) (a : Access) (g : Nat) : inFamine (acked s a) g = inFamine s g :=
  inFamine_congr (acked_chart s a) (acked_clk s a) (getRing_acked s a g)

theorem inFamine_famineClock (s : State) (g : Nat) : inFamine (famineClock s g) g = inFamine s g := by
  rw [famineClock_eq]
  exact inFamine_congr rfl rfl (getRing_setRing ..)

/-- A depth is compared in the Soundings alone (R356). -/
theorem depthSounding_eq (s : State) (g : Nat) : depthSounding s g = { s with sd := (depthSounding s g).sd } := by
  unfold depthSounding sounding
  dsimp only
  (repeat' split) <;> rfl

/-- The comparison reads the positions of the ring and no other bit of it (R356). -/
theorem depthSounding_sd_congr {s t : State} {g : Nat} (hsd : t.sd = s.sd) (hp : (getRing t g).posted = (getRing s g).posted)
    (ha : (getRing t g).accepted = (getRing s g).accepted) : (depthSounding t g).sd = (depthSounding s g).sd := by
  simp only [depthSounding, sounding, apply_ite State.sd, hsd, hp, ha]

@[simp] theorem getRing_depthSounding (s : State) (g m : Nat) : getRing (depthSounding s g) m = getRing s m := by
  rw [depthSounding_eq]; rfl

@[simp] theorem depthSounding_clk (s : State) (g : Nat) : (depthSounding s g).clk = s.clk := by rw [depthSounding_eq]

theorem getRing_famineClock (s : State) (g : Nat) : getRing (famineClock s g) g = famineClocked s g (getRing s g) := by
  rw [famineClock_eq, getRing_setRing]

/-- A write to a ring with what follows it: its depth is compared and its famine clock is set, on the ring as written
(R77, R356). -/
theorem famineClock_depthSounding_setRing (s : State) (g : Nat) (r : Ring) :
    let t := famineClock (depthSounding (setRing s g r) g) g
    t = { s with rings := t.rings, sd := t.sd } ∧
      getRing t g = { r with
        famineAt := if inFamine t g then some (r.famineAt.getD s.clk.meridian) else none
        faminePart := if inFamine t g then r.faminePart else famineTime s r } ∧
      t.sd = (depthSounding { s with rings := t.rings } g).sd ∧ ∀ m, m ≠ g → getRing t m = getRing s m := by
  intro t
  obtain ⟨ht, hne⟩ := onlyRing_famineClock (depthSounding (setRing s g r) g) g
  have hsd : t.sd = (depthSounding (setRing s g r) g).sd := (congrArg State.sd ht :)
  have hring : getRing t g = famineClocked (depthSounding (setRing s g r) g) g r := by
    rw [getRing_famineClock, getRing_depthSounding, getRing_setRing]
  refine ⟨?_, ?_, ?_, fun m hm => ?_⟩
  · rw [hsd]
    exact ht.trans (congrArg (fun x : State => { x with rings := t.rings }) (depthSounding_eq (setRing s g r) g))
  · rw [hring, famineClocked, ← inFamine_famineClock, depthSounding_clk]
    simp only [famineTime, depthSounding_clk, setRing_clk]
    rfl
  · rw [hsd]
    refine depthSounding_sd_congr rfl ?_ ?_
    · exact (congrArg Ring.posted (getRing_setRing s g r)).trans (congrArg Ring.posted hring).symm
    · exact (congrArg Ring.accepted (getRing_setRing s g r)).trans (congrArg Ring.accepted hring).symm
  · rw [hne m hm, getRing_depthSounding, getRing_setRing_ne _ _ _ _ hm]

/-! ## DOORBELL (R41) -/

theorem rgDoorbell_ignored {s : State} {g : Nat} {v : Word}
    (h : (getRing s g).enable = false ∨ wfld v 0 17 = 0 ∨ ringResetting s g = true) : rgDoorbell s g v = s := by
  rcases h with h | h | h <;> simp [rgDoorbell, h]

section Doorbell
variable {s : State} {g : Nat} {v : Word} (he : (getRing s g).enable = true) (hv : wfld v 0 17 ≠ 0)
  (hr : ringResetting s g = false)
include he hv hr

theorem rgDoorbell_refused (h : posDiff (getRing s g).credit (getRing s g).posted < (wfld v 0 17 : Int)) :
    rgDoorbell s g v = depthSounding (setRing s g { getRing s g with dbRefused := true }) g := by
  simp [rgDoorbell, he, hv, hr, h]

theorem rgDoorbell_posted (h : (wfld v 0 17 : Int) ≤ posDiff (getRing s g).credit (getRing s g).posted) :
    rgDoorbell s g v = famineClock (depthSounding
      (setRing s g { getRing s g with posted := (getRing s g).posted + word (wfld v 0 17) }) g) g := by
  simp [rgDoorbell, he, hv, hr, h]

end Doorbell

/-- Settles O9: the doorbell sets a bit or a position of its ring, and the Soundings and the famine clock that follow it
read the positions that it leaves. -/
theorem doorbellWholeOrNot : Obligations.DoorbellWholeOrNot := by
  unfold Obligations.DoorbellWholeOrNot
  intro s a g v n hg hn
  rw [exec_doorbell hg hn]
  refine ⟨fun h => by rw [rgDoorbell_ignored h], fun he hv hr hlt => ?_, fun he hv hr hle => ?_⟩
  · rw [rgDoorbell_refused he hv hr hlt]
    refine ⟨_, rfl, ?_, ?_⟩
    · rw [acked_sd, ← depthSounding_eq]
    · rw [acked_sd]
      exact depthSounding_sd_congr rfl (by rw [getRing_setRing]) (by rw [getRing_setRing])
  · rw [rgDoorbell_posted he hv hr hle]
    obtain ⟨hframe, hring, hsd, hne⟩ := famineClock_depthSounding_setRing s n
      { getRing s n with posted := (getRing s n).posted + word (wfld v 0 17) }
    refine ⟨_, rfl, ?_, ?_, ?_, fun m hm => ?_⟩
    · rw [acked_rings, acked_sd, ← hframe]
    · rw [getRing_acked, inFamine_acked]; exact hring
    · rw [acked_sd, acked_rings, ← hsd]
    · rw [getRing_acked, hne m hm]

/-! ## RG_CFG with ENABLE 1 (R48) -/

/-- The ring with the SIZE of a configuration word, which an ACTIVE ring does not take. -/
def sizedRing (r : Ring) (v : Word) : Ring := if r.active then r else { r with size := wfld v 0 5 }

theorem sizedRing_enable (r : Ring) (v : Word) : (sizedRing r v).enable = r.enable := by unfold sizedRing; split <;> rfl

theorem rgCfg_resetting {s : State} {g : Nat} {v : Word} (h : ringResetting s g = true) : rgCfg s g v = s := if_pos h

/-- What refuses an enable (R48, R267, R328, R380). -/
theorem rgRefuses_iff (s : State) (g : Nat) (r : Ring) : rgRefuses s g r = true ↔
    quietWrites s = true ∨ failedStart s = true ∨ r.size < 6 ∨ 16 < r.size ∨ r.active = true ∨
      ∀ q, ringCq s g = some q → (getCq s q).enable = false := by
  unfold rgRefuses
  cases ringCq s g <;> simp [or_assoc]

/-- The ring as an enable leaves it, with its first credit out of the full bucket (R75). -/
def enabledRing (s : State) (g : Nat) (r : Ring) : Ring :=
  let burst := ((ringClass s g).map (·.burst)).getD 0
  let first := min burst (2 ^ r.size)
  { r with
    enable := true, active := true, posted := 0, accepted := 0, credit := word first, halted := false
    bucket := (burst - first) * tokenUnit, bucketAt := s.clk.meridian, tickAt := none, fetch := .idle, fgather := .none
    descs := [], sgather := .none, sfault := false, readyAt := 0, offerAt := none }

section Cfg
variable {s : State} {g : Nat} {v : Word} {r : Ring} (hs : r = sizedRing (getRing s g) v)
  (hreset : ringResetting s g = false)
include hs hreset

/-- The first steps of a write of RG_CFG. -/
theorem rgCfg_eq : rgCfg s g v =
    if wbit v 7 then
      if r.enable then s
      else if rgRefuses s g r then setRing s g { r with enRefused := true }
      else famineClock (setRing s g (enabledRing s g r)) g
    else if !r.enable then setRing s g r
    else famineClock (drainRing (setRing (forget s (fun o => o == .fetch g || o == .stage g)) g { r with
      enable := false, fetch := .idle, fgather := .none, descs := [], sgather := .none, sfault := false
      offerAt := none }) g) g := by
  rw [hs]
  exact if_neg (by simp [hreset])

theorem rgCfg_enabledAlready (hb : wbit v 7 = true) (he : r.enable = true) : rgCfg s g v = s := by
  rw [rgCfg_eq hs hreset, if_pos hb, if_pos he]

theorem rgCfg_refused (hb : wbit v 7 = true) (he : r.enable = false) (h : rgRefuses s g r = true) :
    rgCfg s g v = setRing s g { r with enRefused := true } := by
  rw [rgCfg_eq hs hreset, if_pos hb, if_neg (by simp [he]), if_pos h]

theorem rgCfg_enabled (hb : wbit v 7 = true) (he : r.enable = false) (h : rgRefuses s g r = false) :
    rgCfg s g v = famineClock (setRing s g (enabledRing s g r)) g := by
  rw [rgCfg_eq hs hreset, if_pos hb, if_neg (by simp [he]), if_neg (by simp [h])]

theorem rgCfg_disabledAlready (hb : wbit v 7 = false) (he : r.enable = false) : rgCfg s g v = setRing s g r := by
  rw [rgCfg_eq hs hreset, if_neg (by simp [hb]), if_pos (by simp [he])]

/-- A disable stops admission, drops what the slice holds of the ring and drains it (R49). -/
theorem rgCfg_disabled (hb : wbit v 7 = false) (he : r.enable = true) : rgCfg s g v =
    famineClock (drainRing (setRing (forget s (fun o => o == .fetch g || o == .stage g)) g { r with
      enable := false, fetch := .idle, fgather := .none, descs := [], sgather := .none, sfault := false
      offerAt := none }) g) g := by
  rw [rgCfg_eq hs hreset, if_neg (by simp [hb]), if_neg (by simp [he])]

end Cfg

/-- Settles O10: the cases of a write of RG_CFG with ENABLE 1; the famine clock that follows an enable changes the clock of
the ring alone. -/
theorem ringEnableRule : Obligations.RingEnableRule := by
  unfold Obligations.RingEnableRule
  intro s a g v n r hg hn hr
  have hb := wbit_setEnable v
  replace hr : r = sizedRing (getRing s n) (v ||| 0x80) := by rw [hr, sizedRing, wfld_size_setEnable]
  rw [exec_ringEnable hg hn]
  refine ⟨fun h => ?_, fun hreset he h => ?_, fun q burst hreset he hq hf h6 h16 hact hcq hcqe hburst => ?_⟩
  · by_cases hreset : ringResetting s n = true
    · rw [rgCfg_resetting hreset]
    · rw [rgCfg_enabledAlready hr (by simpa using hreset) hb (h.resolve_left hreset)]
  · rw [rgCfg_refused hr hreset hb he ((rgRefuses_iff s n r).mpr h)]
  · have hok : rgRefuses s n r = false := by simp [rgRefuses, hq, hf, h6, h16, hact, hcq, hcqe]
    rw [rgCfg_enabled hr hreset hb he hok]
    obtain ⟨hframe, hne⟩ := onlyRing_famineClock (setRing s n (enabledRing s n r)) n
    have hring : getRing (famineClock (setRing s n (enabledRing s n r)) n) n =
        famineClocked (setRing s n (enabledRing s n r)) n (enabledRing s n r) := by
      rw [getRing_famineClock, getRing_setRing]
    refine ⟨_, rfl, ?_⟩
    simp only [getRing_acked, hring, acked_rings, hburst]
    refine ⟨congrArg (acked · a) hframe, rfl, rfl, rfl, rfl, rfl, rfl, rfl, rfl, rfl, rfl, fun m hm => ?_⟩
    rw [hne m hm, getRing_setRing_ne _ _ _ _ hm]

/-! ## RG_CFG with ENABLE 0 (R49) -/

theorem onlyRing_drainRing (s : State) (g : Nat) : OnlyRing g s (drainRing s g) := by
  unfold drainRing
  dsimp only
  split
  · exact onlyRing_setRing ..
  · exact .refl ..

/-- A chain of the ring is outstanding. -/
def ringOwes (s : State) (g : Nat) : Bool := s.chains.any (fun e => e.2.ring == g && live e.2)

/-- ACTIVE of a disabled ring lasts while a chain of it is outstanding (R49). -/
theorem getRing_drainRing {s : State} {g : Nat} (h : (getRing s g).enable = false) :
    getRing (drainRing s g) g = { getRing s g with active := (getRing s g).active && ringOwes s g } := by
  have hcond : (!(getRing s g).enable && (getRing s g).active && s.chains.all (fun e => e.2.ring != g || !live e.2)) =
      ((getRing s g).active && !ringOwes s g) := by
    simp [h, ringOwes, List.not_any_eq_all_not, bne]
  unfold drainRing
  dsimp only
  rw [hcond]
  split
  · next hd =>
    obtain ⟨-, howes⟩ : (getRing s g).active = true ∧ ringOwes s g = false := by simpa using hd
    rw [getRing_setRing, howes, Bool.and_false]
  · next hd =>
    have hkeep : ((getRing s g).active && ringOwes s g) = (getRing s g).active := by
      rw [Bool.and_eq_left_iff_imp]
      exact fun ha => by simpa [ha] using hd
    rw [hkeep]

/-- The end of a disable: the ring drains and its famine clock stops (R49, R77). -/
theorem famineClock_drainRing {s : State} {g : Nat} (h : (getRing s g).enable = false) :
    OnlyRing g s (famineClock (drainRing s g) g) ∧ getRing (famineClock (drainRing s g) g) g =
      famineClocked (drainRing s g) g { getRing s g with active := (getRing s g).active && ringOwes s g } :=
  ⟨(onlyRing_drainRing s g).trans (onlyRing_famineClock (drainRing s g) g), by
    rw [getRing_famineClock, getRing_drainRing h]⟩

/-- Settles O11: a disable is a write to the ring, its drain and its famine clock. -/
theorem ringDisableRule : Obligations.RingDisableRule := by
  unfold Obligations.RingDisableRule
  intro s a g v n r hg hn hr
  have hb := wbit_clearEnable v
  replace hr : r = sizedRing (getRing s n) (v &&& 0xFFFFFF7F) := by rw [hr, sizedRing, wfld_size_clearEnable]
  rw [exec_ringDisable hg hn]
  refine ⟨fun h => by rw [rgCfg_resetting h], fun hreset he => by rw [rgCfg_disabledAlready hr hreset hb he],
    fun hreset he => ?_⟩
  rw [rgCfg_disabled hr hreset hb he]
  generalize hr1 : ({ r with
    enable := false, fetch := .idle, fgather := .none, descs := [], sgather := .none, sfault := false
    offerAt := none } : Ring) = r1
  generalize hs1 : setRing (forget s (fun o => o == .fetch n || o == .stage n)) n r1 = s1
  have hframe1 : s1 = { s with rings := s1.rings, ports := s1.ports } := by rw [← hs1]; rfl
  have hring1 : getRing s1 n = r1 := by rw [← hs1, getRing_setRing]
  have hne1 (m : Nat) (hm : m ≠ n) : getRing s1 m = getRing s m := by rw [← hs1, getRing_setRing_ne _ _ _ _ hm]; rfl
  have howes : ringOwes s1 n = ringOwes s n := by rw [hframe1]; rfl
  obtain ⟨⟨hframe, hne⟩, hring⟩ := famineClock_drainRing (s := s1) (g := n) (by rw [hring1, ← hr1])
  rw [hring1, howes] at hring
  generalize famineClock (drainRing s1 n) n = t at *
  have hports : t.ports = s1.ports := by rw [hframe]
  refine ⟨_, rfl, ?_⟩
  simp only [getRing_acked, hring, acked_rings, acked_ports, ← hr1]
  refine ⟨?_, rfl, rfl, rfl, rfl, rfl, rfl, rfl, rfl, ?_, fun m hm => (hne m hm).trans (hne1 m hm)⟩
  · rw [hports]
    exact congrArg (acked · a) (hframe.trans (congrArg (fun x : State => { x with rings := t.rings }) hframe1))
  · simp [famineClocked, ringOwes]

end Sys2Proof.Machine

namespace Sys2Proof.Machine

/-!
# Queue registers

CQ_ENABLE, CQ_DISABLE, CQ_GRANT and the Waypoint commands as a granted write takes them (R44, R48, R49, R57, R59), and
the registers of notices (R51, R52).
-/

/-! ## The queue that a granted write names (R26, R59) -/

theorem hostWrite_onCq {s : State} {a : Access} {q : BitVec 16} {o n : Nat} (f : State → Nat → State)
    (h : granted s a true (cqAt a q.toNat o) = true) (hn : cqNamed s a.func.toNat q.toNat = some n) :
    hostWrite s a (cqAt a q.toNat o) (fun s => onCq s a q f) = acked (f s n) a := by
  rw [hostWrite_granted _ _ _ _ h]
  simp only [onCq, hn]

section Named
variable {s : State} {a : Access} {q : BitVec 16} {v : Word} {n : Nat} (hn : cqNamed s a.func.toNat q.toNat = some n)
include hn

theorem exec_cqEnable (h : granted s a true (cqAt a q.toNat 8) = true) :
    exec (.cqEnable a q v) s = .next (acked (cqCfg s n (v ||| 0x80)) a) :=
  congrArg _ (hostWrite_onCq (fun s n => cqCfg s n (v ||| 0x80)) h hn)

theorem exec_cqDisable (h : granted s a true (cqAt a q.toNat 8) = true) :
    exec (.cqDisable a q v) s = .next (acked (cqCfg s n (v &&& 0xFFFFFF7F)) a) :=
  congrArg _ (hostWrite_onCq (fun s n => cqCfg s n (v &&& 0xFFFFFF7F)) h hn)

theorem exec_cqGrant (h : granted s a true (cqAt a q.toNat 0x10) = true) :
    exec (.cqGrant a q v) s = .next (acked (cqGrantW s n v) a) :=
  congrArg _ (hostWrite_onCq (fun s n => cqGrantW s n v) h hn)

theorem exec_waypointSet (h : granted s a true (cqAt a q.toNat 0x28) = true) :
    exec (.waypointSet a q) s = .next (acked (cqWpCmd s n 1) a) :=
  congrArg _ (hostWrite_onCq (fun s n => cqWpCmd s n 1) h hn)

theorem exec_waypointRewind (h : granted s a true (cqAt a q.toNat 0x28) = true) :
    exec (.waypointRewind a q) s = .next (acked (cqWpCmd s n 2) a) :=
  congrArg _ (hostWrite_onCq (fun s n => cqWpCmd s n 2) h hn)

theorem exec_waypointClear (h : granted s a true (cqAt a q.toNat 0x28) = true) :
    exec (.waypointClear a q) s = .next (acked (cqWpCmd s n 3) a) :=
  congrArg _ (hostWrite_onCq (fun s n => cqWpCmd s n 3) h hn)

end Named

/-! ## CQ_CFG (R48, R49, R291) -/

/-- The queue with VECTOR and, unless it is ACTIVE, SIZE of a configuration word. -/
def configuredCq (c : Cq) (v : Word) : Cq :=
  { c with vector := wfld v 12 4, size := if c.active then c.size else wfld v 0 5 }

theorem configuredCq_eq (c : Cq) (v : Word) : configuredCq c v =
    if c.active then { c with vector := wfld v 12 4 } else { c with vector := wfld v 12 4, size := wfld v 0 5 } := by
  by_cases h : c.active = true <;> simp [configuredCq, h]

/-- ENABLE is no bit of what a configuration word stores. -/
theorem configuredCq_setEnable (c : Cq) (v : Word) : configuredCq c (v ||| 0x80) = configuredCq c v := by
  rw [configuredCq, wfld_vector_setEnable, wfld_size_setEnable, configuredCq]

theorem configuredCq_clearEnable (c : Cq) (v : Word) : configuredCq c (v &&& 0xFFFFFF7F) = configuredCq c v := by
  rw [configuredCq, wfld_vector_clearEnable, wfld_size_clearEnable, configuredCq]

/-- VECTOR is not below the owner's VECTORS (R291). -/
def vectorBeyond (s : State) (q : Nat) (v : Word) : Bool := (cqOwner s q).any (fun f => decide (f.vectors ≤ wfld v 12 4))

/-- What refuses the enable of a queue (R48, R267, R328, R380); one that no function owns is always refused. -/
def cqRefuses (s : State) (q : Nat) (c : Cq) : Bool :=
  quietWrites s || failedStart s || c.size < 6 || 16 < c.size || c.active || (cqOwner s q).isNone

/-- The queue as an enable leaves it. -/
def enabledCq (c : Cq) : Cq :=
  { c with
    enable := true, active := true, granted := 0, written := 0, reserved := 0, halted := false, wpValid := false
    noteN := 0, opAt := none, ops := [] }

theorem vectorBeyond_setEnable (s : State) (q : Nat) (v : Word) : vectorBeyond s q (v ||| 0x80) = vectorBeyond s q v := by
  rw [vectorBeyond, wfld_vector_setEnable, vectorBeyond]

theorem vectorBeyond_clearEnable (s : State) (q : Nat) (v : Word) :
    vectorBeyond s q (v &&& 0xFFFFFF7F) = vectorBeyond s q v := by
  rw [vectorBeyond, wfld_vector_clearEnable, vectorBeyond]

theorem vectorBeyond_owned {s : State} {q : Nat} {v : Word} {f : FuncRec} (h : cqOwner s q = some f) :
    vectorBeyond s q v = decide (f.vectors ≤ wfld v 12 4) := by rw [vectorBeyond, h]; rfl

theorem vectorBeyond_unowned {s : State} {q : Nat} {v : Word} (h : cqOwner s q = none) : vectorBeyond s q v = false := by
  rw [vectorBeyond, h]; rfl

theorem cqRefuses_owned {s : State} {q : Nat} {c : Cq} {f : FuncRec} (h : cqOwner s q = some f) : cqRefuses s q c = true ↔
    quietWrites s = true ∨ failedStart s = true ∨ c.size < 6 ∨ 16 < c.size ∨ c.active = true := by
  simp [cqRefuses, h, or_assoc]

theorem cqRefuses_unowned {s : State} {q : Nat} {c : Cq} (h : cqOwner s q = none) : cqRefuses s q c = true := by
  simp [cqRefuses, h]

/-- A write of CQ_CFG, step by step. -/
theorem cqCfg_eq {s : State} {q : Nat} {v : Word} {c : Cq} (hc : c = configuredCq (getCq s q) v) : cqCfg s q v =
    if cqResetting s q || vectorBeyond s q v then s
    else if wbit v 7 then
      if c.enable then setCq s q c
      else if cqRefuses s q c then setCq s q { c with enRefused := true }
      else setCq s q (enabledCq c)
    else if !c.enable then setCq s q c
    else if (boundRings s q).any (fun g => (getRing s g).active) then setCq s q c
    else drainCq (setCq s q { c with enable := false }) q := by
  rw [configuredCq_eq] at hc
  subst hc
  unfold cqCfg vectorBeyond cqRefuses
  cases cqOwner s q <;> rfl

theorem cqCfg_ignored {s : State} {q : Nat} {v : Word} (h : cqResetting s q = true ∨ vectorBeyond s q v = true) :
    cqCfg s q v = s := by
  rw [cqCfg_eq rfl, if_pos (by simpa using h)]

section Cfg
variable {s : State} {q : Nat} {v : Word} {c : Cq} (hc : c = configuredCq (getCq s q) v) (hr : cqResetting s q = false)
  (hv : vectorBeyond s q v = false)
include hc hr hv

/-- A write of ENABLE as it stands stores VECTOR and SIZE. -/
theorem cqCfg_stores (h : wbit v 7 = c.enable) : cqCfg s q v = setCq s q c := by
  rw [cqCfg_eq hc, hr, hv, h]
  cases c.enable <;> rfl

theorem cqCfg_enables (hb : wbit v 7 = true) (he : c.enable = false) :
    cqCfg s q v = setCq s q (if cqRefuses s q c then { c with enRefused := true } else enabledCq c) := by
  rw [cqCfg_eq hc, hr, hv, hb, he]
  cases cqRefuses s q c <;> rfl

theorem cqCfg_bound (hb : wbit v 7 = false) (he : c.enable = true)
    (ha : (boundRings s q).any (fun g => (getRing s g).active) = true) : cqCfg s q v = setCq s q c := by
  rw [cqCfg_eq hc, hr, hv, hb, he, ha]
  rfl

theorem cqCfg_disables (hb : wbit v 7 = false) (he : c.enable = true)
    (ha : (boundRings s q).any (fun g => (getRing s g).active) = false) :
    cqCfg s q v = drainCq (setCq s q { c with enable := false }) q := by
  rw [cqCfg_eq hc, hr, hv, hb, he, ha]
  rfl

end Cfg

/-- A drain of a disabled queue: ACTIVE lasts while a record is reserved (R49). -/
theorem getCq_drainCq {s : State} {q : Nat} (h : (getCq s q).enable = false) :
    getCq (drainCq s q) q = { getCq s q with active := (getCq s q).active && (getCq s q).reserved != 0 } := by
  unfold drainCq
  dsimp only
  split
  · next hd =>
    obtain ⟨-, hres⟩ : (getCq s q).active = true ∧ (getCq s q).reserved = 0 := by simpa [h] using hd
    rw [getCq_setCq, hres, bne_self_eq_false, Bool.and_false]
  · next hd =>
    have hkeep : ((getCq s q).active && (getCq s q).reserved != 0) = (getCq s q).active := by
      rw [Bool.and_eq_left_iff_imp]
      exact fun ha => by simpa [h, ha] using hd
    rw [hkeep]

theorem drainCq_eq (s : State) (q : Nat) :
    drainCq s q = { s with cqs := (drainCq s q).cqs } ∧ ∀ m, m ≠ q → getCq (drainCq s q) m = getCq s m := by
  unfold drainCq
  dsimp only
  split
  · exact ⟨rfl, fun m hm => getCq_setCq_ne _ _ _ _ hm⟩
  · exact ⟨rfl, fun _ _ => rfl⟩

/-! ## Operations of a queue (R44, R54, R57) -/

theorem cqGrantW_ignored {s : State} {q : Nat} {v : Word} (h : (getCq s q).active = false ∨ cqResetting s q = true) :
    cqGrantW s q v = s := if_pos (by simpa using h)

section Grant
variable {s : State} {q : Nat} {v : Word} (ha : (getCq s q).active = true) (hr : cqResetting s q = false)
include ha hr

/-- A grant that finds the operation of the control cycle free is applied at once (R44). -/
theorem cqGrantW_applied (hs : cqSlot s (getCq s q) = true) (ho : (getCq s q).ops = []) :
    cqGrantW s q v = setCq s q { cqGrant (wfld v 0 17) (getCq s q) with opAt := some (controlCycle s) } := by
  simp [cqGrantW, cqOp, CqOp.run, ha, hr, hs, ho]

/-- A grant behind another operation waits (R57). -/
theorem cqGrantW_waits (h : cqSlot s (getCq s q) = false ∨ (getCq s q).ops ≠ []) :
    cqGrantW s q v = setCq s q { getCq s q with
      ops := (getCq s q).ops ++ [(.grant (wfld v 0 17), controlCycle s)] } := by
  have hno : (cqSlot s (getCq s q) && (getCq s q).ops.isEmpty) = false := by
    rcases h with h | h <;> simp [h]
  simp [cqGrantW, cqOp, ha, hr, hno]

end Grant

theorem cqWpCmd_ignored {s : State} {q op : Nat} (h : cqResetting s q = true ∨ wpBusy (getCq s q) = true) :
    cqWpCmd s q op = s := if_pos (by simp [h])

/-- A Waypoint command waits with the M of its write (R57). -/
theorem cqWpCmd_waits {s : State} {q op : Nat} (hr : cqResetting s q = false) (hb : wpBusy (getCq s q) = false)
    (ho : op ≠ 0) : cqWpCmd s q op = setCq s q { getCq s q with
      ops := (getCq s q).ops ++ [(.waypoint op (wpPosWord (getCq s q)), controlCycle s)] } := by
  simp [cqWpCmd, cqOp, hr, hb, ho]

/-- Settles O13: a grant of an ACTIVE queue with the operation of the control cycle free is applied at once. -/
theorem cqGrantWholeOrNot : Obligations.CqGrantWholeOrNot := by
  unfold Obligations.CqGrantWholeOrNot
  intro s a q v n hg hn hr
  rw [exec_cqGrant hn hg]
  refine ⟨fun ha => by rw [cqGrantW_ignored (.inl ha)], fun ha hs ho => ?_⟩
  rw [cqGrantW_applied ha hr hs ho, cqGrant]
  split <;> rfl

/-! ## Notices of vectors and queues (R51, R52) -/

/-- A write of CQ_NV_CTL of a function that is there and in no reset (R52). -/
theorem nvHold_taken {s : State} {f k : Nat} {v : Word} (hr : fnResetting s f = false)
    (hf : f = 0 ∨ (funcRec s f).isSome = true) : nvHold s f k v =
    if wbit v 0 then setNv s f k { getNv s f k with hold := true }
    else if (getNv s f k).pend then emitNotice (setNv s f k { getNv s f k with hold := false, pend := false }) f k
    else setNv s f k { getNv s f k with hold := false, pend := false } := by
  have hno : (fnResetting s f || (f != 0 && (funcRec s f).isNone)) = false := by
    rw [hr, Bool.false_or, Bool.and_eq_false_iff]
    exact hf.imp (by simp) (by simp)
  unfold nvHold
  rw [hno]
  rfl

/-- The notice of a queue that is not halted, whose owner is in no reset (R50, R51). -/
theorem cqNotice_sent {s : State} {q : Nat} {f : FuncRec} (hq : cqOwner s q = some f) (hh : (getCq s q).halted = false)
    (hr : fnResetting s f.func = false) :
    cqNotice s q = sendNotice (setCq s q { getCq s q with noteN := 0, noteAt := 0 }) f.func (getCq s q).vector := by
  have hq' : cqOwner (setCq s q { getCq s q with noteN := 0, noteAt := 0 }) q = some f := hq
  have hno : ((getCq s q).halted || fnResetting s f.func) = false := by rw [hh, hr]; rfl
  unfold cqNotice
  dsimp only
  rw [hq']
  exact if_neg (ne_true_of_eq_false hno)

/-- The coalescing time has run out (R51). -/
theorem exec_noticeCoalTimer {s : State} {q : BitVec 16} (hu : engineUp s = true) (hn : (getCq s q.toNat).noteN ≠ 0)
    (ht : (getCq s q.toNat).coalTime ≠ 0)
    (hdue : (getCq s q.toNat).noteAt + (getCq s q.toNat).coalTime * 3000 ≤ s.clk.meridian) :
    exec (.noticeCoalTimer q) s = .next (cqNotice s q.toNat) :=
  congrArg _ (if_pos (by simp [hu, hn, ht, hdue]))

/-- Settles O16: each write and each timer is one branch of the meaning it names. -/
theorem noticeHoldAndCoalescing : Obligations.NoticeHoldAndCoalescing := by
  unfold Obligations.NoticeHoldAndCoalescing
  refine ⟨fun s a k v hg hr hf => ?_, fun s q f hu hn ht hdue hq hh hr => ?_⟩
  · have hwrite : exec (.noticeHoldWrite a k v) s = .next (acked (nvHold s a.func.toNat k.toNat v) a) :=
      congrArg _ (hostWrite_granted _ _ _ _ hg)
    rw [hwrite, nvHold_taken hr hf]
  · exact (exec_noticeCoalTimer hu hn ht hdue).trans (congrArg _ (cqNotice_sent hq hh hr))

end Sys2Proof.Machine

namespace Sys2Proof.Machine

/-!
# The end of a control cycle

What a root cycle that ends a control cycle does to the completion queues: nothing but the turn of the operations that
wait (R57). Its samples, its scrubs, the commands that it judges again and what leaves the block touch no queue.
-/

/-! ## What leaves the completion queues -/

@[simp] theorem ite_cqs (c : Prop) [Decidable c] (a b : State) : (if c then a else b).cqs = if c then a.cqs else b.cqs :=
  apply_ite ..

theorem OnlyRecords.cqs {s t : State} (h : OnlyRecords s t) : t.cqs = s.cqs := by rw [h]

@[simp] theorem iqSample_cqs (s : State) (p : Nat) : (iqSample s p).cqs = s.cqs := by
  simp [iqSample, iqMessage, (onlyRecords_pfNotice ..).cqs]

@[simp] theorem famineSample_cqs (s : State) (p : Nat) : (famineSample s p).cqs = s.cqs := rfl

@[simp] theorem famineClock_cqs (s : State) (g : Nat) : (famineClock s g).cqs = s.cqs := by rw [famineClock_eq]; rfl

@[simp] theorem hostTakes_cqs (s : State) : (hostTakes s).cqs = s.cqs := rfl

@[simp] theorem keyScrubs_cqs (s : State) : (keyScrubs s).cqs = s.cqs := by simp [keyScrubs]

/-- A draw changes the vault and the counter of free values. -/
@[simp] theorem drbgDraw_cqs (s : State) (k n : Nat) : (drbgDraw s k n).1.cqs = s.cqs := by
  unfold drbgDraw
  dsimp only
  split <;> rfl

theorem lodeDraw_cqs {s : State} {x : State × Bytes} (h : lodeDraw s = some x) : x.1.cqs = s.cqs := by
  unfold lodeDraw at h
  split at h
  · cases h; exact drbgDraw_cqs ..
  · split at h
    · cases h; exact drbgDraw_cqs ..
    · cases h

@[simp] theorem trimSteps_cqs (s : State) (l : List FuseStep) : (trimSteps s l).1.cqs = s.cqs := by
  induction l generalizing s with
  | nil => rfl
  | cons x l ih =>
    cases x with
    | bits n b => unfold trimSteps; split <;> simp [ih]
    | erase n t => unfold trimSteps; split <;> simp [ih]
    | draw n k =>
      unfold trimSteps
      split
      · next hx => split <;> simp [ih, lodeDraw_cqs hx]
      · rfl

@[simp] theorem fuseResume_cqs (s : State) : (fuseResume s).cqs = s.cqs := by
  unfold fuseResume
  split
  · unfold fuseBegin; split <;> simp
  · rfl

theorem scStart_cqs (s : State) (op kind i : Nat) : (scStart s op kind i).cqs = s.cqs := by
  have hput (r : CtxRef) (c : Ctx) : (ctxPut s r c).cqs = s.cqs := by obtain ⟨S, hS⟩ := ctxPut_sc s r c; rw [hS]
  simp [scStart, scApply, scResult, hput]

@[simp] theorem scWaiting_cqs (s : State) : (scWaiting s).cqs = s.cqs := by
  unfold scWaiting
  split
  · rw [ite_cqs, scStart_cqs, ite_self]
  · rfl

theorem putSlot_cqs (s : State) (i : Nat) (attr : Word) (key pubh : Bytes) : (putSlot s i attr key pubh).cqs = s.cqs := by
  unfold putSlot
  split
  · rfl
  · dsimp only
    split
    · rfl
    · exact foldl_keeps State.cqs _ (fun _ _ => by rfl) _ (setSlot s i _)

theorem kvGenerate_cqs (s : State) (c : KvCmd) : (kvGenerate s c).cqs = s.cqs := by
  unfold kvGenerate
  split
  · rfl
  · simp [kvResult, kvDraw, putSlot_cqs]

@[simp] theorem kvRedraw_cqs (s : State) : (kvRedraw s).cqs = s.cqs := by
  unfold kvRedraw
  split
  · rw [ite_cqs, kvGenerate_cqs, ite_self]
  · rfl

@[simp] theorem chartPhase_cqs (s : State) : (chartPhase s).cqs = s.cqs := by simp [chartPhase]

@[simp] theorem countCycle_cqs (s : State) : (countCycle s).cqs = s.cqs :=
  foldl_keeps State.cqs _ (fun _ _ => by rfl) _ s

/-! ## The turn of the queues (R57) -/

/-- The samples of the pools read the clocks. -/
theorem samplePools_keeps (l : List Nat) (s : State) :
    let t := l.foldl (fun s p => famineSample (iqSample s p) p) s
    t.cqs = s.cqs ∧ controlCycle t = controlCycle s := by
  have hclk (s : State) (p : Nat) : (famineSample (iqSample s p) p).clk = s.clk := by
    have hp (t : State) (c : BitVec 5) : (pfNotice t c).clk = t.clk := by rw [onlyRecords_pfNotice t c]
    simp [famineSample, iqSample, iqMessage, apply_ite State.clk, hp]
  refine ⟨foldl_keeps State.cqs _ (fun t p => by simp) l s, ?_⟩
  unfold controlCycle
  rw [foldl_keeps State.clk _ hclk l s]

theorem controlEdge_cqs (s : State) : (controlEdge s).cqs = s.cqs.mapVal (fun _ c => cqTurn (controlCycle s) c) := by
  obtain ⟨hcqs, hnow⟩ := samplePools_keeps (s.pools.map (·.1)) s
  simp only [controlEdge, ite_cqs, chartPhase_cqs, kvRedraw_cqs, scWaiting_cqs, hostTakes_cqs, keyScrubs_cqs,
    fuseResume_cqs, ite_self]
  rw [foldl_keeps State.cqs famineClock famineClock_cqs]
  simp only [hcqs, hnow]

theorem Tbl.get_mapVal {α : Type} (t : Tbl α) {f : Nat → α → α} {d : α} {k : Nat} (hd : f k d = d) :
    (t.mapVal f).get d k = f k (t.get d k) := by
  induction t with
  | nil => exact hd.symm
  | cons e t ih =>
    obtain ⟨i, x⟩ := e
    simp only [Tbl.mapVal, List.map_cons, Tbl.get] at ih ⊢
    split
    · next h => rw [h]
    · exact ih

theorem Tbl.get_of_forall {α : Type} {t : Tbl α} {p : α → Prop} {d : α} (h : ∀ e ∈ t, p e.2) (hd : p d) (k : Nat) :
    p (t.get d k) := by
  induction t with
  | nil => exact hd
  | cons e t ih =>
    obtain ⟨i, x⟩ := e
    unfold Tbl.get
    split
    · exact h _ (List.mem_cons_self ..)
    · exact ih fun e he => h e (List.mem_cons_of_mem _ he)

/-- Nothing leaves where nothing waits. -/
theorem leave_quiet {s : State} (hp : ∀ e ∈ s.ports, e.2.sendQ = []) (h0 : s.lane0.waiting = [])
    (h1 : s.lane1.waiting = []) : leave s = s := by
  have hpump (n : Nat) : pump s n = s := by
    have hq : (getPort s n).sendQ = [] := Tbl.get_of_forall (p := fun x : Port => x.sendQ = []) hp rfl n
    rw [pump, hq]
    rfl
  have hlane (odd : Bool) : flushLane s odd = s := by
    have hl : (getLane s odd).waiting = [] := by cases odd <;> assumption
    unfold flushLane
    simp only [hl]
  rw [leave, List.foldl_fixed' hpump, flushLanes, hlane, hlane]

/-- The root cycle that ends a quiet control cycle gives every queue its turn. -/
theorem step_edgeQuiet {s : State} (h : edgeQuiet s = true) :
    ∃ t, step s = .next t ∧ ∀ n, getCq t n = cqTurn (controlCycle s) (getCq s n) := by
  simp only [edgeQuiet, Bool.and_eq_true, List.isEmpty_iff, beq_iff_eq, List.all_eq_true] at h
  obtain ⟨⟨⟨⟨⟨⟨⟨hpend, hpow⟩, hlock⟩, hmod⟩, hrst⟩, hports⟩, h0⟩, h1⟩ := h
  refine ⟨_, step_of_pending_nil hpend, fun n => ?_⟩
  have hcycle : rootCycle s = countCycle (controlEdge s) := by
    simp [rootCycle, hpow, hlock, leave_quiet hports h0 h1, hmod, cycleEdge, hrst]
  rw [hcycle, getCq, countCycle_cqs, controlEdge_cqs]
  exact Tbl.get_mapVal s.cqs rfl

/-- The one operation that waits is applied in its turn. -/
theorem cqTurn_one {c : Cq} {o : CqOp} {at_ now : Nat} (hops : c.ops = [(o, at_)]) (hs : c.opAt ≠ some now) :
    cqTurn now c = { o.run c with opAt := some now, ops := [] } := by
  simp [cqTurn, hops, hs]

theorem step_edgeQuiet_one {s : State} {n at_ : Nat} {o : CqOp} (h : edgeQuiet s = true)
    (hs : cqSlot s (getCq s n) = true) (hops : (getCq s n).ops = [(o, at_)]) :
    ∃ t, step s = .next t ∧ getCq t n = { o.run (getCq s n) with opAt := some (controlCycle s), ops := [] } := by
  obtain ⟨t, ht, hcq⟩ := step_edgeQuiet h
  exact ⟨t, ht, (hcq n).trans (cqTurn_one hops (by simpa [cqSlot] using hs))⟩

/-- Settles O12: the cases of a write of CQ_CFG and of CQ_GRANT; a grant that waits alone is applied in its turn. -/
theorem completionQueueRule : Obligations.CompletionQueueRule := by
  unfold Obligations.CompletionQueueRule
  refine ⟨⟨fun s a q v n f c hg hn hf hc => ?_, fun s a q v n c hg hn hf hr he hc => ?_⟩,
    fun s a q v n hg hn => ?_, fun s n k at_ hq hs ha hops => ?_⟩
  · have hset := hc.trans (configuredCq_setEnable (getCq s n) v).symm
    have hclr := hc.trans (configuredCq_clearEnable (getCq s n) v).symm
    have hvset := (vectorBeyond_setEnable s n v).trans (vectorBeyond_owned hf)
    have hvclr := (vectorBeyond_clearEnable s n v).trans (vectorBeyond_owned hf)
    rw [exec_cqEnable hn hg, exec_cqDisable hn hg]
    refine ⟨fun h => ?_, fun hr hv he => ?_, fun hr hv he => ?_, fun hr hv he hb => ?_, fun hr hv he hb => ?_⟩
    · rw [cqCfg_ignored (h.imp_right fun hv => hvset.trans (decide_eq_true hv)),
        cqCfg_ignored (h.imp_right fun hv => hvclr.trans (decide_eq_true hv))]
      exact ⟨rfl, rfl⟩
    all_goals rw [decide_eq_false (Nat.not_le.mpr hv)] at hvset hvclr
    · rw [cqCfg_stores hset hr hvset ((wbit_setEnable v).trans he.symm)]
    · rw [cqCfg_stores hclr hr hvclr ((wbit_clearEnable v).trans he.symm), cqCfg_enables hset hr hvset (wbit_setEnable v) he,
        if_congr (cqRefuses_owned hf) rfl rfl]
      exact ⟨rfl, rfl⟩
    · rw [cqCfg_bound hclr hr hvclr (wbit_clearEnable v) he hb]
    · rw [cqCfg_disables hclr hr hvclr (wbit_clearEnable v) he hb]
      obtain ⟨hframe, hne⟩ := drainCq_eq (setCq s n { c with enable := false }) n
      refine ⟨_, rfl, hframe, ?_, fun m hm => (hne m hm).trans (getCq_setCq_ne _ _ _ _ hm)⟩
      rw [getCq_drainCq (by rw [getCq_setCq]), getCq_setCq]
  · have hset := hc.trans (configuredCq_setEnable (getCq s n) v).symm
    have hclr := hc.trans (configuredCq_clearEnable (getCq s n) v).symm
    have hvset := (vectorBeyond_setEnable s n v).trans (vectorBeyond_unowned hf)
    have hvclr := (vectorBeyond_clearEnable s n v).trans (vectorBeyond_unowned hf)
    have hce : c.enable = false := by rw [hc]; exact he
    rw [exec_cqEnable hn hg, exec_cqDisable hn hg, cqCfg_enables hset hr hvset (wbit_setEnable v) hce,
      if_pos (cqRefuses_unowned hf), cqCfg_stores hclr hr hvclr ((wbit_clearEnable v).trans hce.symm)]
    exact ⟨rfl, rfl⟩
  · rw [exec_cqGrant hn hg]
    exact ⟨fun hr => by rw [cqGrantW_ignored (.inr hr)], fun hr ha hw => by rw [cqGrantW_waits ha hr hw]⟩
  · obtain ⟨t, ht, hcq⟩ := step_edgeQuiet_one hq hs hops
    refine ⟨t, ht, hcq.trans ?_⟩
    simp only [CqOp.run, ha, if_true, cqGrant]
    split <;> rfl

/-- Settles O14: a SET waits for the turn of its queue, in which `wpSet` judges it. -/
theorem waypointSetRule : Obligations.WaypointSetRule := by
  unfold Obligations.WaypointSetRule
  refine ⟨fun s a q n hg hn => ?_, fun s n at_ m hq hs hops => ?_⟩
  · rw [exec_waypointSet hn hg]
    exact ⟨fun h => by rw [cqWpCmd_ignored h], fun hr hb => by rw [cqWpCmd_waits hr hb (by decide)]⟩
  · obtain ⟨t, ht, hcq⟩ := step_edgeQuiet_one hq hs hops
    refine ⟨t, ht, hcq.trans ?_⟩
    simp only [CqOp.run, wpSet, if_true]
    split <;> rfl

/-- Settles O15: REWIND and CLEAR wait as SET does; the turn of the queue applies the table of `wpRewind`. -/
theorem waypointRewindAndClear : Obligations.WaypointRewindAndClear := by
  unfold Obligations.WaypointRewindAndClear
  refine ⟨fun s a q n hg hn => ?_, fun s n at_ m c hq hc hs => ?_⟩
  · rw [exec_waypointRewind hn hg, exec_waypointClear hn hg]
    refine ⟨fun h => ?_, fun hr hb => ?_⟩
    · rw [cqWpCmd_ignored h, cqWpCmd_ignored h]
      exact ⟨rfl, rfl⟩
    · rw [cqWpCmd_waits hr hb (by decide), cqWpCmd_waits hr hb (by decide)]
      exact ⟨rfl, rfl⟩
  · subst hc
    refine ⟨fun hops => ?_, fun hops => ?_⟩
    · exact step_edgeQuiet_one hq hs hops
    · obtain ⟨t, ht, hcq⟩ := step_edgeQuiet_one hq hs hops
      have hrun : (CqOp.waypoint 2 m).run (getCq s n) = wpRewind (getCq s n) := rfl
      rw [hrun] at hcq
      refine ⟨t, ht, fun hv => ?_, fun hv hlt => ?_, fun hv hle => ?_⟩
      · rw [hcq, wpRewind, hv]; rfl
      · rw [hcq, wpRewind, hv, if_neg (by decide), if_pos hlt]
      · rw [hcq, wpRewind, hv, if_neg (by decide), if_neg (not_lt.mpr hle)]; rfl

end Sys2Proof.Machine

namespace Sys2Proof.Machine

/-!
# The fetch of a chain

CHAIN_FETCH (R33, R50) reads the posted descriptors piece by piece (R309). A read goes out or waits at its port, or the
rules refuse it and count a violation (R310, R313); on a port with room for every piece each comes to issue at once, so
that a piece which the rules refuse is found (R386).
-/

/-! ## Pieces lie in one page (R309) -/

/-- The piece is its own only piece. -/
def OnePage (p : Nat × Nat × Nat) : Prop := pieces p.2.1 p.2.2 = [(0, p.2.1, p.2.2)]

theorem pieces_onePage {a n : Nat} (hn : 0 < n) (h : a % 4096 + n ≤ 4096) : pieces a n = [(0, a, n)] := by
  have hone : cdiv (a % 4096 + n) 4096 = 1 := by unfold cdiv; omega
  have hlo : max a (a / 4096 * 4096) = a := by omega
  have hhi : min (a + n) ((a / 4096 + 1) * 4096) = a + n := by omega
  rw [pieces, hone, List.range_one, List.filterMap_cons, List.filterMap_nil]
  simp only [Nat.add_zero, hlo, hhi]
  rw [if_pos (by omega), Nat.sub_self, Nat.add_sub_cancel_left]

theorem OnePage.start {p x : Nat × Nat × Nat} (h : OnePage p) (hx : x ∈ pieces p.2.1 p.2.2) : x.2.1 = p.2.1 := by
  rw [OnePage] at h
  rw [h, List.mem_singleton] at hx
  rw [hx]

theorem onePage_of_mem_pieces {addr len : Nat} {p : Nat × Nat × Nat} (h : p ∈ pieces addr len) : OnePage p := by
  obtain ⟨i, -, hi⟩ := List.mem_filterMap.mp h
  dsimp only at hi
  split at hi
  · next hlt =>
    cases hi
    refine pieces_onePage (?_ : 0 < _) ?_ <;> dsimp only <;> omega
  · cases hi

theorem onePage_of_mem_fetchPieces {r : Ring} {n : Nat} {p : Nat × Nat × Nat} (h : p ∈ fetchPieces r n) : OnePage p := by
  rcases List.mem_append.mp h with h | h
  · exact onePage_of_mem_pieces h
  · obtain ⟨x, hx, rfl⟩ := List.mem_map.mp h
    exact (onePage_of_mem_pieces hx : OnePage x)

/-! ## What becomes of a read (R310, R386) -/

/-- The read of one piece, as it comes to issue. -/
def readOf (s : State) (func : Nat) (who : Origin) (pools : List Nat) (p : Nat × Nat × Nat) : Txn :=
  ⟨0, false, p.2.1, p.2.2, func, 0, 0, 0, [], p.1, who, pools, s.clk.meridian, false, 0, true, 0⟩

/-- A port takes a read at once: it issues, nothing waits there, and it has room. -/
def TakesRead (s : State) (port : Nat) (p : Nat × Nat × Nat) : Prop :=
  portsOpen s = true ∧ (getPort s port).sendQ = [] ∧ portCan (getPort s port) false p.2.1 p.2.2 = true

theorem comesToIssue_refused {s : State} {n : Nat} {t e : Txn} (ho : portsOpen s = true) (hd : (t.write && !t.paged) = false)
    (hc : portCan (getPort s n) t.write t.addr t.len = true) (hw : wholeRefused s { t with paged := true } = some e) :
    comesToIssue s n t = (refuseTxn s n e (judgeOut s e.func e.write e.addr), .refused) := by
  simp [comesToIssue, ho, dlBefore, hd, hc, hw]

/-- A read waits while its port does not issue or has no room for it. -/
theorem comesToIssue_waits {s : State} {n : Nat} {t : Txn} (ht : t.write = false)
    (h : portsOpen s = false ∨ portCan (getPort s n) t.write t.addr t.len = false) :
    ∃ x, comesToIssue s n t = (s, .waits x) := by
  by_cases ho : portsOpen s = true
  · have hc := h.resolve_left (ne_false_of_eq_true ho)
    rw [ht] at hc
    exact ⟨{ t with paged := true }, by simp [comesToIssue, ho, dlBefore, ht, hc]⟩
  · exact ⟨t, by simp [comesToIssue, ho]⟩

section Read
variable {s : State} {port func : Nat} {who : Origin} {pools : List Nat} {p : Nat × Nat × Nat}

/-- Where nothing waits at the port a read comes to issue at once. -/
theorem issueOne_comesToIssue {x : State × Issue} (hq : (getPort s port).sendQ = [])
    (hx : comesToIssue s port { readOf s func who pools p with paged := false } = x) :
    issueOne s port func false p.2.1 p.2.2 p.1 [] who pools = ((queueWait port x).1, (queueWait port x).2 != .refused) := by
  unfold issueOne
  rw [issueTxn_eq, hq]
  exact congrArg (fun x : State × Issue => ((queueWait port x).1, (queueWait port x).2 != .refused)) hx

/-- A read that its port does not take at once waits there. -/
theorem issueOne_waits (h : ¬ TakesRead s port p) :
    ∃ P, issueOne s port func false p.2.1 p.2.2 p.1 [] who pools = ({ s with ports := P }, true) := by
  by_cases hq : (getPort s port).sendQ = []
  · have hno : portsOpen s = false ∨ portCan (getPort s port) false p.2.1 p.2.2 = false := by
      simpa [TakesRead, hq, imp_iff_not_or] using h
    obtain ⟨x, hx⟩ := comesToIssue_waits (t := { readOf s func who pools p with paged := false }) rfl hno
    exact ⟨_, issueOne_comesToIssue hq hx⟩
  · unfold issueOne
    rw [issueTxn_eq, if_neg (by simpa using hq)]
    exact ⟨_, rfl⟩

/-- A read that its port takes goes out where the rules grant it. -/
theorem issueOne_sent (h1 : OnePage p) (h : TakesRead s port p) (hj : (judgeOut s func false p.2.1).ok = true) :
    issueOne s port func false p.2.1 p.2.2 p.1 [] who pools =
      (sendTxn s port (readOf s func who pools p) (judgeOut s func false p.2.1), true) := by
  obtain ⟨ho, hq, hc⟩ := h
  exact issueOne_comesToIssue hq (comesToIssue_issued ho rfl hc fun x hx => by rw [h1.start hx]; exact hj)

/-- A read that its port takes is refused, and a violation counted, where the rules do not grant it (R312, R313). -/
theorem issueOne_refused (h1 : OnePage p) (h : TakesRead s port p) (hj : (judgeOut s func false p.2.1).ok = false) :
    issueOne s port func false p.2.1 p.2.2 p.1 [] who pools =
      (refuseTxn s port (readOf s func who pools p) (judgeOut s func false p.2.1), false) := by
  obtain ⟨ho, hq, hc⟩ := h
  have hw : wholeRefused s (readOf s func who pools p) = some (readOf s func who pools p) := by
    rw [OnePage] at h1
    simp [wholeRefused, readOf, h1, hj]
  exact issueOne_comesToIssue hq (comesToIssue_refused ho rfl hc hw)

/-- A read in one page goes out or waits, or the rules refuse it. -/
theorem issueOne_read (h1 : OnePage p) :
    (∃ P, issueOne s port func false p.2.1 p.2.2 p.1 [] who pools = ({ s with ports := P }, true)) ∨
    (judgeOut s func false p.2.1).ok = false ∧
      ∃ t v, issueOne s port func false p.2.1 p.2.2 p.1 [] who pools = (refuseTxn s port t v, false) := by
  by_cases h : TakesRead s port p
  · cases hj : (judgeOut s func false p.2.1).ok with
    | true => exact .inl ⟨_, issueOne_sent h1 h hj⟩
    | false => exact .inr ⟨rfl, _, _, issueOne_refused h1 h hj⟩
  · exact .inl (issueOne_waits h)

end Read

/-! ## What becomes of the reads of a fetch -/

section Cons
variable {s t : State} {port func : Nat} {who : Origin} {pools : List Nat} {p : Nat × Nat × Nat} {l : List (Nat × Nat × Nat)}

theorem issueAll_cons_issued (h : issueOne s port func false p.2.1 p.2.2 p.1 [] who pools = (t, true)) :
    issueAll s port func false [] who pools (p :: l) =
      let x := issueAll t port func false [] who pools l
      (x.1, x.2.1 + 1, x.2.2) := by
  obtain ⟨o, a, n⟩ := p
  simp only [issueAll, Bool.false_eq_true, if_false, h]

theorem issueAll_cons_refused (h : issueOne s port func false p.2.1 p.2.2 p.1 [] who pools = (t, false)) :
    issueAll s port func false [] who pools (p :: l) = (t, 0, some p.1) := by
  obtain ⟨o, a, n⟩ := p
  simp only [issueAll, Bool.false_eq_true, if_false, h]

end Cons

/-- Reads in one page each go out or wait, up to the first that is refused (R312). -/
theorem issueAll_read (s : State) {port func : Nat} {who : Origin} {pools : List Nat} (l : List (Nat × Nat × Nat))
    (h1 : ∀ p ∈ l, OnePage p) :
    (∃ P, issueAll s port func false [] who pools l = ({ s with ports := P }, l.length, none)) ∨
    (∃ p ∈ l, (judgeOut s func false p.2.1).ok = false) ∧ ∃ P n k t v,
      issueAll s port func false [] who pools l = (refuseTxn { s with ports := P } port t v, n, some k) := by
  induction l generalizing s with
  | nil => exact .inl ⟨s.ports, rfl⟩
  | cons p l ih =>
    have hp : OnePage p := h1 p (List.mem_cons_self ..)
    have hl : ∀ x ∈ l, OnePage x := fun x hx => h1 x (List.mem_cons_of_mem _ hx)
    rcases issueOne_read (s := s) (port := port) (func := func) (who := who) (pools := pools) hp with
      ⟨P, hone⟩ | ⟨hj, t, v, hone⟩
    · rw [issueAll_cons_issued hone]
      rcases ih { s with ports := P } hl with ⟨P', hall⟩ | ⟨⟨x, hx, hj⟩, P', n, k, t, v, hall⟩
      · exact .inl ⟨P', by rw [hall]; rfl⟩
      · exact .inr ⟨⟨x, List.mem_cons_of_mem _ hx, hj⟩, P', n + 1, k, t, v, by rw [hall]⟩
    · exact .inr ⟨⟨p, List.mem_cons_self .., hj⟩, s.ports, 0, p.1, t, v, issueAll_cons_refused hone⟩

/-! ## A port with room for every piece (R386) -/

/-- The port issues, nothing waits there, and credits, tags and buffer are there for every piece. -/
structure RoomFor (s : State) (port : Nat) (l : List (Nat × Nat × Nat)) : Prop where
  opened : portsOpen s = true
  sendQ : (getPort s port).sendQ = []
  credits : l.length ≤ (getPort s port).reqCrd
  tags : (getPort s port).out.length + l.length ≤ 1024
  buffer : beatsOut (getPort s port) + (l.map (fun p => beats p.2.1 p.2.2)).sum ≤ 1024

/-- Fewer transactions than tags leave one free. -/
theorem freeTag_isSome {p : Port} (h : p.out.length < 1024) : (freeTag p).isSome = true := by
  rw [Option.isSome_iff_ne_none]
  intro hno
  have htaken : ∀ t ∈ List.range 1024, t ∈ p.out.map (·.tag) := by
    simpa [freeTag, List.find?_eq_none] using hno
  have hle := (List.nodup_range.subperm htaken).length_le
  simp only [List.length_range, List.length_map] at hle
  omega

theorem RoomFor.takesRead {s : State} {port : Nat} {p : Nat × Nat × Nat} {l : List (Nat × Nat × Nat)}
    (h : RoomFor s port (p :: l)) : TakesRead s port p := by
  obtain ⟨ho, hq, hc, ht, hb⟩ := h
  simp only [List.length_cons, List.map_cons, List.sum_cons] at hc ht hb
  refine ⟨ho, hq, ?_⟩
  simp only [portCan, freeTag_isSome (show (getPort s port).out.length < 1024 by omega), Bool.true_and, Bool.false_or,
    Bool.and_eq_true, decide_eq_true_eq]
  omega

/-- Beats that leave change nothing of the transactions but how many are left of each. -/
theorem map_spendBeats {β : Type} {f : Txn → β} (hf : ∀ t k, f { t with left := k } = f t) (n : Nat) (l : List Txn) :
    (spendBeats n l).2.map f = l.map f := by
  induction l generalizing n with
  | nil => rfl
  | cons t l ih => rw [spendBeats, List.map_cons, List.map_cons, hf, ih]

theorem RoomFor.sent {s : State} {port : Nat} {p : Nat × Nat × Nat} {l : List (Nat × Nat × Nat)} {t : Txn} {v : Verdict}
    (h : RoomFor s port (p :: l)) (ht : t.write = false) (ha : t.addr = p.2.1) (hn : t.len = p.2.2) :
    RoomFor (sendTxn s port t v) port l := by
  obtain ⟨ho, hq, hc, htag, hb⟩ := h
  simp only [List.length_cons, List.map_cons, List.sum_cons] at hc htag hb
  have hlen (n : Nat) (l : List Txn) : (spendBeats n l).2.length = l.length := by
    simpa using congrArg List.length (map_spendBeats (f := fun _ => ()) (fun _ _ => rfl) n l)
  refine ⟨ho, ?_, ?_, ?_, ?_⟩
  · rw [sendTxn, getPort_setPort]; exact hq
  · simp only [sendTxn, getPort_setPort, sendBeats]; omega
  · simp only [sendTxn, getPort_setPort, sendBeats, hlen, List.length_append, List.length_singleton]; omega
  · simp only [sendTxn, getPort_setPort, sendBeats, beatsOut]
    rw [map_spendBeats (fun _ _ => rfl)]
    simp only [List.map_append, List.map_cons, List.map_nil, List.sum_append, List.sum_cons, List.sum_nil, ht, ha, hn,
      Bool.false_eq_true, if_false]
    unfold beatsOut at hb
    omega

/-- A piece that the rules refuse is found where the port has room for every piece. -/
theorem issueAll_refused {s : State} {port func : Nat} {who : Origin} {pools : List Nat} {l : List (Nat × Nat × Nat)}
    (h1 : ∀ p ∈ l, OnePage p) (hr : RoomFor s port l) (hj : ∃ p ∈ l, (judgeOut s func false p.2.1).ok = false) :
    (issueAll s port func false [] who pools l).2.2.isSome = true := by
  induction l generalizing s with
  | nil => obtain ⟨p, hp, -⟩ := hj; cases hp
  | cons p l ih =>
    have hp : OnePage p := h1 p (List.mem_cons_self ..)
    cases hok : (judgeOut s func false p.2.1).ok with
    | false => rw [issueAll_cons_refused (issueOne_refused hp hr.takesRead hok)]; rfl
    | true =>
      rw [issueAll_cons_issued (issueOne_sent hp hr.takesRead hok)]
      obtain ⟨x, hx, hxj⟩ := hj
      rcases List.mem_cons.mp hx with rfl | hx
      · rw [hok] at hxj; cases hxj
      · exact ih (fun y hy => h1 y (List.mem_cons_of_mem _ hy)) (hr.sent rfl rfl rfl) ⟨x, hx, hxj⟩

/-! ## CHAIN_FETCH -/

/-- A refusal counts a violation, and may latch the notice of it (R313). -/
theorem refuseTxn_eq (s : State) (n : Nat) (t : Txn) (v : Verdict) : ∃ A N L0 L1,
    refuseTxn s n t v = { s with ac := A, nv := N, lane0 := L0, lane1 := L1 } ∧ A.ovCount = sat32 s.ac.ovCount := by
  have hrec : OnlyRecords s (refuseTxn s n t v) := onlyRecords_outViolation ..
  have hkept : (refuseTxn s n t v).lb = s.lb ∧ (refuseTxn s n t v).ac.ovCount = sat32 s.ac.ovCount := by
    unfold refuseTxn outViolation
    dsimp only
    split
    · exact ⟨rfl, rfl⟩
    · rw [acLatch_lb, acLatch_ac]
      exact ⟨rfl, rfl⟩
  exact ⟨_, _, _, _, hrec.of_lb hkept.1, hkept.2⟩

/-- The fetch of a working slice with an idle ring and descriptors posted beyond those it holds (R33, R50). -/
theorem exec_chainFetch {s : State} {g : BitVec 16} {f : Nat} {l : List (Nat × Nat × Nat)}
    {x : State × Nat × Option Nat} (hup : sliceUp s g.toNat = true) (hidle : (getRing s g.toNat).fetch = .idle)
    (hlen : (getRing s g.toNat).descs.length < fetchable (getRing s g.toNat))
    (hf : f = ((ringOwner s g.toNat).map (·.func)).getD 0)
    (hl : l = fetchPieces (getRing s g.toNat) (fetchable (getRing s g.toNat)))
    (hx : issueAll s (g.toNat % 8) f false [] (.fetch g.toNat) [] l = x) : exec (.chainFetch g) s = .next (
      if x.2.2.isSome then fetchFault x.1 g.toNat
      else setRing x.1 g.toNat
        { getRing x.1 g.toNat with fetch := .reading, fgather := ⟨x.2.1, [], none⟩, descs := [] }) := by
  subst hf hl hx
  have hnowait : ((getRing s g.toNat).fetch == Fetch.stageWait) = false := by rw [hidle]; rfl
  have hdo : (sliceUp s g.toNat && (getRing s g.toNat).fetch == .idle &&
      decide ((getRing s g.toNat).descs.length < fetchable (getRing s g.toNat))) = true := by
    simp [hup, hidle, hlen]
  refine congrArg _ ((if_neg ?_).trans (if_pos hdo))
  rw [hnowait, Bool.and_false]
  decide

/-- Settles O23: the pieces of the fetch lie in one page each, so the ring either waits for all of them or one is refused. -/
theorem chainFetchReads : Obligations.ChainFetchReads := by
  unfold Obligations.ChainFetchReads
  intro s g r f l hup hr hidle hlen hf hl
  subst hr
  have h1 : ∀ p ∈ l, OnePage p := fun p hp => onePage_of_mem_fetchPieces (hl ▸ hp)
  have hopen : portsOpen s = true := by
    simp only [sliceUp, Bool.and_eq_true] at hup
    simp only [portsOpen, hup, Bool.and_self]
  rcases issueAll_read s (port := g.toNat % 8) (func := f) (who := .fetch g.toNat) (pools := []) l h1 with
    ⟨P, hx⟩ | ⟨⟨p, hp, hj⟩, P, n, k, t, v, hx⟩
  · rw [exec_chainFetch hup hidle hlen hf hl hx]
    refine ⟨_, rfl, rfl, fun m hm => getRing_setRing_ne _ _ _ _ hm, fun _ => ⟨getRing_setRing .., rfl⟩,
      fun hq hc ht hb hj => ?_⟩
    have hsome := issueAll_refused (who := .fetch g.toNat) (pools := []) h1 ⟨hopen, hq, hc, ht, hb⟩ hj
    rw [hx] at hsome
    cases hsome
  · rw [exec_chainFetch hup hidle hlen hf hl hx]
    obtain ⟨A, N, L0, L1, hu, hcount⟩ := refuseTxn_eq { s with ports := P } (g.toNat % 8) t v
    rw [hu]
    refine ⟨_, rfl, rfl, fun m hm => getRing_setRing_ne _ _ _ _ hm, fun hall => ?_, fun _ _ _ _ _ => ⟨?_, hcount⟩⟩
    · rw [hall p hp] at hj
      cases hj
    · exact getRing_setRing ..

end Sys2Proof.Machine

namespace Sys2Proof.Machine

/-!
# Credits and famine

CREDIT_TICK hands a ring a reserved token or the excess credit of a pool (R75, R76); FAMINE_NOTICE_CLEAR restarts the
famine notice of a pool (R77); FAMINE_TIME_UNIT counts 4,096 root cycles of a ring's famine (R356).
-/

/-! ## A write to a ring and its famine clock (R77, R356) -/

theorem getRing_famineClock_setRing (s : State) (g : Nat) (r : Ring) :
    getRing (famineClock (setRing s g r) g) g = famineClocked (setRing s g r) g r := by
  rw [getRing_famineClock, getRing_setRing]

theorem onlyRing_famineClock_setRing (s : State) (g : Nat) (r : Ring) :
    OnlyRing g s (famineClock (setRing s g r) g) :=
  (onlyRing_setRing ..).trans (onlyRing_famineClock ..)

/-! ## CREDIT_TICK by its cases -/

theorem exec_creditTick {s : State} (g : BitVec 16) (h : running s = true) :
    exec (.creditTick g) s = .next (creditTick s g.toNat) :=
  congrArg _ (if_pos h)

theorem creditTick_noRoom {s : State} {g : Nat} (h : (getRing s g).enable = false ∨ creditRoom (getRing s g) = false) :
    creditTick s g = s := by
  rcases h with h | h <;> simp [creditTick, h]

/-- Ring g with one more credit, and its bucket settled at b (R75). -/
def credited (s : State) (g b : Nat) (tick : Option Nat) : Ring :=
  { getRing s g with bucket := b, bucketAt := s.clk.meridian, credit := (getRing s g).credit + 1, tickAt := tick }

/-- The round of pool p is over: it has handed out its excess credit of this control cycle (R76). -/
def handedOut (s : State) (p : Nat) : Pool :=
  { getPool s p with excess := (swrr (getPool s p).excess (excessCand s p)).2, excessAt := some (controlCycle s) }

section Tick
variable {s : State} {g : Nat} (he : (getRing s g).enable = true) (hr : creditRoom (getRing s g) = true)
include he hr

theorem creditTick_taken (hb : tokenUnit ≤ bucketNow s g) (ht : (getRing s g).tickAt = some (controlCycle s)) :
    creditTick s g = s := by
  simp [creditTick, he, hr, hb, ht]

theorem creditTick_reserved (hb : tokenUnit ≤ bucketNow s g) (ht : (getRing s g).tickAt ≠ some (controlCycle s)) :
    creditTick s g =
      famineClock (setRing s g (credited s g (bucketNow s g - tokenUnit) (some (controlCycle s)))) g := by
  simp [creditTick, he, hr, hb, ht, credited]

theorem creditTick_noExcess (hb : bucketNow s g < tokenUnit) (h : excessOk s g = false ∨ excessPool s g = none) :
    creditTick s g = s := by
  rcases h with h | h <;> simp [creditTick, he, hr, Nat.not_le.mpr hb, h]

theorem creditTick_excess (hb : bucketNow s g < tokenUnit) (ho : excessOk s g = true) {p : Nat}
    (hp : excessPool s g = some p) : creditTick s g =
      famineClock (setRing (setPool s p (handedOut s p)) g (credited s g (bucketNow s g) (getRing s g).tickAt)) g := by
  simp [creditTick, he, hr, Nat.not_le.mpr hb, ho, hp, credited, handedOut]

/-- Excess credit asks for EXCESS of the class, and SPARE in each of its pools (R76). -/
theorem excessOk_eq (hb : bucketNow s g < tokenUnit) {k : ClassRec} (hk : ringClass s g = some k) :
    excessOk s g = (k.excess && (classPools k).all (inSpare s)) := by
  simp [excessOk, he, hr, hb, hk]

end Tick

/-- The pool that hands out an excess credit is one of the class, has handed out none, and takes the ring in its round. -/
theorem excessPool_spec {s : State} {g p : Nat} {k : ClassRec} (hk : ringClass s g = some k)
    (h : excessPool s g = some p) : p ∈ classPools k ∧ (getPool s p).excessAt ≠ some (controlCycle s) ∧
      (swrr (getPool s p).excess (excessCand s p)).1 = some g := by
  simpa [namesPool, hk, and_assoc] using List.find?_some h

/-! ## FAMINE_NOTICE_CLEAR and FAMINE_TIME_UNIT -/

theorem exec_famineNoticeClear {s : State} {a : Access} {p : BitVec 6} {v : Word}
    (h : granted s a true (mgmtAt a (0x21034 + p.toNat * 0x40)) = true) :
    exec (.famineNoticeClear a p v) s = .next (acked (famineNoticeW s p.toNat v) a) :=
  congrArg _ (hostWrite_granted _ _ _ _ h)

/-- One more unit of famine in the record of ring g, which saturates in 30 bits (R356). -/
def famineCounted (g : Nat) (sd : Sd) : Sd :=
  let x := sd.rings.get .init g
  { sd with rings := sd.rings.set g { x with famine := min (x.famine + 1) (2 ^ 30 - 1) } }

theorem exec_famineTimeUnit {s : State} (g : BitVec 16) (h : running s = true) : exec (.famineTimeUnit g) s = .next (
    if 4096 ≤ famineTime s (getRing s g.toNat) then
      sounding (setRing s g.toNat (famineTaken (getRing s g.toNat))) 1 (famineCounted g.toNat)
    else s) :=
  congrArg _ (if_congr (by simp [h]) rfl rfl)

/-- An area of the Soundings that is not frozen and not being cleared takes every update (R358, R359). -/
theorem sounding_open {s : State} {i : Nat} (f : Sd → Sd) (hf : s.sd.frozen = false)
    (hc : s.sd.clearing.getLsbD i = false) : sounding s i f = { s with sd := f s.sd } := by
  unfold sounding
  split
  · next h => rw [h]
  · simp [hf, hc]

/-- A unit that is taken out of the famine of a ring leaves 4,096 root cycles less to count. -/
theorem famineTime_famineTaken {s : State} {r : Ring} (h : 4096 ≤ famineTime s r) :
    famineTime s (famineTaken r) + 4096 = famineTime s r := by
  unfold famineTime famineTaken at *
  by_cases hp : 4096 ≤ r.faminePart
  · simp only [hp, if_true]
    omega
  · cases ht : r.famineAt with
    | none => simp only [ht] at h; omega
    | some t =>
      simp only [ht] at h
      simp only [hp, if_false, Option.map_some]
      omega

theorem famineTaken_eq (r : Ring) :
    famineTaken r = { r with famineAt := (famineTaken r).famineAt, faminePart := (famineTaken r).faminePart } := by
  unfold famineTaken
  split <;> rfl

/-- Settles O17: the cases of CREDIT_TICK, each with the famine clock that follows a credit; the pool of an excess credit
is the one that `excessPool` finds. -/
theorem creditAndFamine : Obligations.CreditAndFamine := by
  unfold Obligations.CreditAndFamine
  refine ⟨fun s g r hrun hr => ?_, fun s g r k hrun hr he hroom hb hk => ?_, fun s a p v h => ?_,
    fun s g hrun hf hc => ⟨fun h => ?_, fun h => ?_⟩⟩
  · subst hr
    rw [exec_creditTick g hrun]
    refine ⟨fun h => ?_, fun he hroom ht hb => ?_⟩
    · rw [← or_assoc] at h
      rcases h with h | ⟨ht, hb⟩
      · rw [creditTick_noRoom h]
      · by_cases h : (getRing s g.toNat).enable = true ∧ creditRoom (getRing s g.toNat) = true
        · obtain ⟨he, hroom⟩ := h
          rw [creditTick_taken he hroom hb ht]
        · rw [creditTick_noRoom (by simpa [imp_iff_not_or] using h)]
    · rw [creditTick_reserved he hroom hb ht]
      obtain ⟨hframe, hne⟩ := onlyRing_famineClock_setRing s g.toNat
        (credited s g.toNat (bucketNow s g.toNat - tokenUnit) (some (controlCycle s)))
      refine ⟨_, rfl, hframe, ?_⟩
      rw [getRing_famineClock_setRing]
      exact ⟨rfl, rfl, rfl, rfl, rfl, hne⟩
  · subst hr
    rw [exec_creditTick g hrun]
    have hok := excessOk_eq he hroom hb hk
    refine ⟨fun h => ?_, fun hx hsp => ⟨fun hp => ?_, fun p hp => ?_⟩⟩
    · rw [creditTick_noExcess he hroom hb]
      rcases h with h | ⟨p, hp, hsp⟩ | h
      · exact .inl (by rw [hok, h, Bool.false_and])
      · have hall : (classPools k).all (inSpare s) = false := List.all_eq_false.mpr ⟨p, hp, by simp [hsp]⟩
        exact .inl (by rw [hok, hall, Bool.and_false])
      · refine .inr (Option.eq_none_iff_forall_ne_some.mpr fun p hp => ?_)
        obtain ⟨hmem, hat, -⟩ := excessPool_spec hk hp
        exact hat (h p hmem)
    · rw [creditTick_noExcess he hroom hb (.inr hp)]
    · obtain ⟨hmem, hat, hround⟩ := excessPool_spec hk hp
      have hok : excessOk s g.toNat = true := by rw [hok, hx, List.all_eq_true.mpr hsp, Bool.and_self]
      rw [creditTick_excess he hroom hb hok hp]
      obtain ⟨hframe, hne⟩ := onlyRing_famineClock_setRing (setPool s p (handedOut s p)) g.toNat
        (credited s g.toNat (bucketNow s g.toNat) (getRing s g.toNat).tickAt)
      have hpools := congrArg State.pools hframe
      refine ⟨hmem, hat, hround, _, rfl, ?_, ?_⟩
      · exact hframe.trans (by rw [hpools]; rfl)
      · have hget (q : Nat) := congrArg (fun t : Tbl Pool => t.get .init q) hpools
        rw [getRing_famineClock_setRing]
        exact ⟨rfl, rfl, rfl, rfl, rfl, (hget p).trans (getPool_setPool ..), hne,
          fun q hq => (hget q).trans (getPool_setPool_ne _ _ _ _ hq)⟩
  · rw [exec_famineNoticeClear h]
    rfl
  · rw [exec_famineTimeUnit g hrun, if_neg (Nat.not_le.mpr h)]
  · rw [exec_famineTimeUnit g hrun, if_pos h]
    exact ⟨famineTaken (getRing s g.toNat), congrArg _ (sounding_open (famineCounted g.toNat) hf hc), famineTaken_eq _,
      famineTime_famineTaken h⟩

end Sys2Proof.Machine

namespace Sys2Proof.Machine

/-!
# The claim of a unit

SCHEDULER_SELECT (R72, R84, R119): the claim frees the entries of its segment and changes one unit, which it scrubs first
where the key is another function's; behind it the units whose kept key is not for their next segment are scrubbed.
-/

/-! ## Scrubs of key registers (R119) -/

theorem getUni_scrubUnit (s : State) (u v : Nat) :
    getUni (scrubUnit s u) v = if v = u then scrubKey (getUni s v) else getUni s v := by
  have hset : getUni (scrubUnit s u) v = getUni (setUni s u (scrubKey (getUni s u))) v := rfl
  rw [hset]
  split
  · next h => rw [h, getUni_setUni]
  · next h => exact getUni_setUni_ne _ _ _ _ h

theorem getUni_foldl_scrubUnit (l : List Nat) (s : State) (v : Nat) :
    getUni (l.foldl scrubUnit s) v = if v ∈ l then scrubKey (getUni s v) else getUni s v := by
  induction l generalizing s with
  | nil => rfl
  | cons u l ih =>
    rw [List.foldl_cons, ih, getUni_scrubUnit]
    by_cases hv : v = u <;> by_cases hl : v ∈ l <;> simp [hv, hl, scrubKey]

/-- A unit stays, or nobody uses it and the key that it kept is scrubbed. -/
theorem getUni_dropKept (s : State) (v : Nat) : getUni (dropKept s) v = getUni s v ∨
    keepsTile (getUni s v) = true ∧ getUni (dropKept s) v = scrubKey (getUni s v) := by
  unfold dropKept
  rw [getUni_foldl_scrubUnit]
  split
  · next h =>
    simp only [List.mem_filter, Bool.and_eq_true] at h
    obtain ⟨-, hkeeps, -⟩ := h
    exact .inr ⟨hkeeps, rfl⟩
  · exact .inl rfl

theorem keepsTile_unused {x : Uni} (h : keepsTile x = true) : x.job = none ∧ x.sched = false := by
  simp only [keepsTile, Bool.and_eq_true, Bool.not_eq_true', Option.isNone_iff_eq_none] at h
  obtain ⟨⟨⟨hjob, hsched⟩, -⟩, -⟩ := h
  exact ⟨hjob, hsched⟩

/-- The queues of the pools, the rings and the completion queues. -/
def queueStores (s : State) : Tbl Pool × Tbl Ring × Tbl Cq := (s.pools, s.rings, s.cqs)

theorem dropKept_queueStores (s : State) : queueStores (dropKept s) = queueStores s :=
  foldl_keeps queueStores _ (fun _ _ => by rfl) _ s

/-! ## The claim (R84) -/

/-- The state in which the segment runs and its entries have left the queue, before a unit is claimed. -/
def segTaken (s : State) (c : Chain) (i : Nat) (g : Seg) : State :=
  freeSeg (setChain (claimRead s g.pool (segEntries s c.id g))
    { c with segs := c.segs.mapIdx (fun k x => if k = i then { x with st := .running } else x) }) c g

theorem claimRead_pools (s : State) (p : Nat) (l : List IqEntry) : ∃ P, claimRead s p l = { s with pools := P } := by
  unfold claimRead
  dsimp only
  split
  · exact ⟨s.pools, rfl⟩
  · exact ⟨_, rfl⟩

theorem segTaken_eq (s : State) (c : Chain) (i : Nat) (g : Seg) :
    ∃ C P, segTaken s c i g = { s with chains := C, pools := P } := by
  obtain ⟨P, hP⟩ := claimRead_pools s g.pool (segEntries s c.id g)
  unfold segTaken
  rw [hP]
  exact ⟨_, _, rfl⟩

theorem getUni_segTaken (s : State) (c : Chain) (i : Nat) (g : Seg) (v : Nat) :
    getUni (segTaken s c i g) v = getUni s v := by
  obtain ⟨C, P, h⟩ := segTaken_eq s c i g
  rw [h]
  rfl

theorem queue_segTaken (s : State) (c : Chain) (i : Nat) (g : Seg) : ∀ e ∈ (getPool (segTaken s c i g) g.pool).queue,
    e.chain = c.id → ¬(g.first ≤ e.idx ∧ e.idx < g.first + g.count) := by
  intro e he hc
  have hq : (getPool (segTaken s c i g) g.pool).queue = _ := congrArg Pool.queue (getPool_setPool ..)
  rw [hq] at he
  have hout := (List.mem_filter.mp he).2
  simp [hc] at hout
  omega

/-- The state in which what unit u keeps for a function other than that of chain c has been scrubbed (R119). -/
def keptScrubbed (s : State) (c : Chain) (u : Nat) : State :=
  if keepsTile (getUni s u) && keptFor (getUni s u) != c.func then scrubUnit s u else s

theorem keptScrubbed_eq (s : State) (c : Chain) (u : Nat) :
    ∃ U N, keptScrubbed s c u = { s with units := U, cnts := N } := by
  unfold keptScrubbed
  split
  · exact ⟨_, _, rfl⟩
  · exact ⟨s.units, s.cnts, rfl⟩

theorem getUni_keptScrubbed_ne (s : State) (c : Chain) {u v : Nat} (h : v ≠ u) :
    getUni (keptScrubbed s c u) v = getUni s v := by
  unfold keptScrubbed
  split
  · rw [getUni_scrubUnit, if_neg h]
  · rfl

theorem chooseUnit_free {s : State} {p func u : Nat} {d : Bytes} (h : chooseUnit s p func d = some u) :
    unitFree s u = true := by
  unfold chooseUnit at h
  dsimp only at h
  split at h
  · next hf => cases h; exact (List.mem_filter.mp (List.mem_of_find?_eq_some hf)).2
  · exact (List.mem_filter.mp (List.mem_of_head? h)).2

/-- A free unit keeps its key only where it is a key of the function that claims it (R72, R119). -/
theorem key_keptScrubbed {s : State} {u : Nat} (c : Chain) (h : unitFree s u = true) :
    (getUni (keptScrubbed s c u) u).key =
      if (getUni s u).key.any (fun k => k.own != c.func) then none else (getUni s u).key := by
  simp only [unitFree, Bool.and_eq_true, beq_iff_eq, Bool.not_eq_true', Option.isNone_iff_eq_none] at h
  obtain ⟨⟨⟨⟨-, -⟩, hvault⟩, hsched⟩, hjob⟩ := h
  unfold keptScrubbed
  cases hk : (getUni s u).key with
  | none => split <;> simp [getUni_scrubUnit, scrubKey, hk]
  | some k =>
    have hkeeps : keepsTile (getUni s u) = true := by simp [keepsTile, hjob, hsched, hvault, hk]
    have hfor : keptFor (getUni s u) = k.own := by simp [keptFor, hk]
    by_cases ho : k.own = c.func <;> simp [hkeeps, hfor, ho, getUni_scrubUnit, scrubKey, hk]

/-- Unit x as it is claimed for segment g, which is segment i of chain c. -/
def unitClaimed (s : State) (c : Chain) (i : Nat) (g : Seg) (poison : List Nat) (x : Uni) : Uni :=
  { x with
    st := 1, sched := true, lockPool := g.pool, lockFunc := c.func, until_ := s.clk.meridian + g.occ,
    job := some (claimJob c i g s.clk.meridian poison s.tx.epoch) }

/-- A claim whose entries show no parity error. -/
theorem claim_eq (s : State) (c : Chain) (i : Nat) (g : Seg) (u : Nat) : ∃ poison, claim s c i g u [] =
    setUni (keptScrubbed (segTaken s c i g) c u) u
      (unitClaimed (keptScrubbed (segTaken s c i g) c u) c i g poison
        (getUni (keptScrubbed (segTaken s c i g) c u) u)) :=
  ⟨_, rfl⟩

theorem claim_unit (s : State) (c : Chain) (i : Nat) (g : Seg) {u : Nat} (h : unitFree s u = true) :
    ∃ poison x, getUni (claim s c i g u []) u = unitClaimed s c i g poison x ∧
      x.key = if (getUni s u).key.any (fun k => k.own != c.func) then none else (getUni s u).key := by
  obtain ⟨poison, hclaim⟩ := claim_eq s c i g u
  obtain ⟨C, P, hseg⟩ := segTaken_eq s c i g
  refine ⟨poison, getUni (keptScrubbed (segTaken s c i g) c u) u, ?_, ?_⟩
  · obtain ⟨U, N, hkept⟩ := keptScrubbed_eq (segTaken s c i g) c u
    rw [hclaim, getUni_setUni, hkept, hseg]
    rfl
  · rw [hseg]
    exact key_keptScrubbed (s := { s with chains := C, pools := P }) c h

theorem claim_units_ne (s : State) (c : Chain) (i : Nat) (g : Seg) {u v : Nat} (h : v ≠ u) :
    getUni (claim s c i g u []) v = getUni s v := by
  obtain ⟨poison, hclaim⟩ := claim_eq s c i g u
  rw [hclaim, getUni_setUni_ne _ _ _ _ h, getUni_keptScrubbed_ne _ _ h, getUni_segTaken]

theorem claim_queueStores (s : State) (c : Chain) (i : Nat) (g : Seg) (u : Nat) :
    queueStores (claim s c i g u []) = ((segTaken s c i g).pools, s.rings, s.cqs) := by
  obtain ⟨poison, hclaim⟩ := claim_eq s c i g u
  obtain ⟨U, N, hkept⟩ := keptScrubbed_eq (segTaken s c i g) c u
  obtain ⟨C, P, hseg⟩ := segTaken_eq s c i g
  rw [hclaim, hkept, hseg]
  rfl

/-! ## SCHEDULER_SELECT (R72) -/

theorem exec_schedulerSelect_held {s : State} {p : BitVec 6} {bad : List BadWord}
    (h : nostart s = true ∨ offersBegun s = true ∨ nextSeg s p.toNat = none) :
    exec (.schedulerSelect p bad) s = .next s := by
  rcases h with h | h | h <;> simp [exec, execSchedulerSelect, h]

section Select
variable {s : State} {p : BitVec 6} {bad : List BadWord} {c : Chain} {i : Nat} {g : Seg}
  (hnext : nextSeg s p.toNat = some (c, i)) (hg : c.segs[i]? = some g)
include hnext hg

theorem exec_schedulerSelect_noUnit (h : chooseUnit s p.toNat c.func (c.descs.getD g.first []) = none ∨
    bankBusy s (getPool s g.pool) (segEntries s c.id g) = true) : exec (.schedulerSelect p bad) s = .next s := by
  rcases h with h | h
  · simp only [exec, execSchedulerSelect, hnext, hg, h, ite_self]
  · simp only [exec, execSchedulerSelect, hnext, hg, h, if_true]
    cases chooseUnit s p.toNat c.func (c.descs.getD g.first []) <;> simp

theorem exec_schedulerSelect_claims {u : Nat} (hup : engineUp s = true) (hns : nostart s = false)
    (hoff : offersBegun s = false) (hbank : bankBusy s (getPool s g.pool) (segEntries s c.id g) = false)
    (hu : chooseUnit s p.toNat c.func (c.descs.getD g.first []) = some u) :
    exec (.schedulerSelect p bad) s = .next (dropKept (claim s c i g u bad)) := by
  simp only [exec, execSchedulerSelect, hup, hns, hoff, hnext, hg, hu, hbank, Bool.not_true, Bool.or_self,
    Bool.false_eq_true, if_false]

end Select

/-- Settles O26: the claim changes the chosen unit and the queue of its pool; the scrubs behind it leave a unit with a
job. -/
theorem schedulerClaims : Obligations.SchedulerClaims := by
  unfold Obligations.SchedulerClaims
  refine fun s p => ⟨exec_schedulerSelect_held, fun c i g hnext hg => exec_schedulerSelect_noUnit hnext hg,
    fun c i g u hup hns hoff hnext hg hbank hu => ?_⟩
  obtain ⟨poison, x, hclaim, hkey⟩ := claim_unit s c i g (chooseUnit_free hu)
  have hunit : getUni (dropKept (claim s c i g u [])) u = unitClaimed s c i g poison x := by
    rcases getUni_dropKept (claim s c i g u []) u with h | ⟨hkeeps, -⟩
    · exact h.trans hclaim
    · have hjob := (keepsTile_unused hkeeps).1
      rw [hclaim] at hjob
      cases hjob
  have hstores := (dropKept_queueStores _).trans (claim_queueStores s c i g u)
  simp only [queueStores, Prod.mk.injEq] at hstores
  obtain ⟨hpools, hrings, hcqs⟩ := hstores
  refine ⟨_, exec_schedulerSelect_claims hnext hg hup hns hoff hbank hu, ?_⟩
  rw [hunit]
  refine ⟨rfl, rfl, rfl, rfl, rfl, hkey, ⟨_, rfl, rfl, rfl, rfl, rfl⟩, fun v hv => ?_, ?_, hrings, hcqs⟩
  · have h := getUni_dropKept (claim s c i g u []) v
    rw [claim_units_ne s c i g hv] at h
    exact h.imp_right fun ⟨hkeeps, hscrub⟩ => ⟨keepsTile_unused hkeeps, hscrub⟩
  · rw [getPool, hpools]
    exact queue_segTaken s c i g

end Sys2Proof.Machine

namespace Sys2Proof.Machine

/-!
# Neither what leaves nor the end of a control cycle moves a clock

What waits at the ports and in the notice lanes leaves, descriptors end behind it, and the end of a control cycle samples,
scrubs and judges again: none of it writes a register of the clocks. One lemma per function, in the order of the model, by
unfolding it and by the lemmas of the functions it calls.
-/

/-! ## Branches, pairs and folds -/

@[simp] theorem ite_clk (c : Prop) [Decidable c] (a b : State) :
    (if c then a else b).clk = if c then a.clk else b.clk := apply_ite ..

theorem OnlyRecords.clk {s t : State} (h : OnlyRecords s t) : t.clk = s.clk := by rw [h]

/-- The state that a match on a pair names has the clocks of the pair's state. -/
theorem fst_clk {α : Type} {x : State × α} {t : State} {r : α} (h : x = (t, r)) : t.clk = x.1.clk := by
  rw [h]

@[simp] theorem foldl_clk {α : Type} (f : State → α → State) (l : List α) (s : State)
    (h : ∀ t x, (f t x).clk = t.clk) : (l.foldl f s).clk = s.clk :=
  foldl_keeps State.clk f h l s

/-! ## Machine/Ops.lean -/

@[simp] theorem flushLane_clk (s odd) : (flushLane s odd).clk = s.clk := (onlyRecords_flushLane ..).clk

@[simp] theorem sendNotice_clk (s f k) : (sendNotice s f k).clk = s.clk := (onlyRecords_sendNotice ..).clk

@[simp] theorem pfNotice_clk (s cfg) : (pfNotice s cfg).clk = s.clk := (onlyRecords_pfNotice ..).clk

@[simp] theorem lbLatch_clk (s i) : (lbLatch s i).clk = s.clk := (onlyRecords_lbLatch ..).clk

@[simp] theorem writeSlot_clk (s) : (writeSlot s).clk = s.clk := by
  simp only [writeSlot]; (repeat' split) <;> simp

@[simp] theorem lbRoom_clk (n s) : (lbRoom n s).clk = s.clk := by
  induction n generalizing s with
  | zero => rfl
  | succ n ih => unfold lbRoom; split <;> simp [ih]

@[simp] theorem lbAppend_clk (s type pin exempt data) :
    (lbAppend s type pin exempt data).clk = s.clk := by simp [lbAppend]

@[simp] theorem logReq_clk (s type pin exempt data) : (logReq s type pin exempt data).clk = s.clk := by simp [logReq]

@[simp] theorem sendTxn_clk (s n t v) : (sendTxn s n t v).clk = s.clk := rfl

@[simp] theorem refuseTxn_clk (s n t v) : (refuseTxn s n t v).clk = s.clk := (onlyRecords_outViolation ..).clk

@[simp] theorem setDl_clk (s f d) : (setDl s f d).clk = s.clk := rfl

theorem dlPage_clk {s f n page who pools t} (h : dlPage s f n page who pools = some t) : t.clk = s.clk := by
  simp only [dlPage] at h
  (repeat' split at h) <;> simp at h <;> simp [← h]

theorem dlBefore_clk {s n x t} (h : dlBefore s n x = some t) : t.clk = s.clk := by
  unfold dlBefore at h
  split at h
  · exact dlPage_clk h
  · cases h; rfl

@[simp] theorem comesToIssue_clk (s n t) : (comesToIssue s n t).1.clk = s.clk := by
  unfold comesToIssue
  split
  · rfl
  · split
    · rfl
    next u hu =>
      have h := dlBefore_clk hu
      simp only
      (repeat' split) <;> simp [h]

@[simp] theorem issueTxn_clk (s n t) : (issueTxn s n t).1.clk = s.clk := by
  have h : (if (getPort s n).sendQ.isEmpty then comesToIssue s n t else (s, .waits t)).1.clk = s.clk := by
    split <;> simp
  simp only [issueTxn]
  split
  · next hx => exact (fst_clk hx).trans h
  · exact h

@[simp] theorem issueOne_clk (s port func write addr len off data who pools) :
    (issueOne s port func write addr len off data who pools).1.clk = s.clk := by simp [issueOne]

@[simp] theorem issueAll_clk (s port func write data who pools l) :
    (issueAll s port func write data who pools l).1.clk = s.clk := by
  induction l generalizing s with
  | nil => rfl
  | cons p r ih =>
    unfold issueAll
    split <;> (next hx => simp [ih, fst_clk hx])

@[simp] theorem dropQueued_clk (s p) : (dropQueued s p).clk = s.clk := rfl

/-! ## Machine/Ledger.lean -/

@[simp] theorem famineSample_clk (s p) : (famineSample s p).clk = s.clk := rfl

@[simp] theorem famineClock_clk (s g) : (famineClock s g).clk = s.clk := by simp [famineClock]

/-! ## Machine/JobEnd.lean -/

@[simp] theorem ctxPut_clk (s r c) : (ctxPut s r c).clk = s.clk := by simp [ctxPut]

@[simp] theorem scrubUnit_clk (s uid) : (scrubUnit s uid).clk = s.clk := rfl

@[simp] theorem wakeRings_clk (s p) : (wakeRings s p).clk = s.clk := rfl

@[simp] theorem release_clk (s uid) : (release s uid).clk = s.clk := by simp [release]

@[simp] theorem iqMessage_clk (s rose) : (iqMessage s rose).clk = s.clk := by simp [iqMessage]

@[simp] theorem iqSample_clk (s p) : (iqSample s p).clk = s.clk := by simp [iqSample]

@[simp] theorem addResult_clk (s c r) : (addResult s c r).clk = s.clk := by
  unfold addResult
  dsimp only
  split
  · rfl
  · exact foldl_clk _ _ _ fun _ _ => by rfl

@[simp] theorem commandErr_clk (s uid op status detail) :
    (commandErr s uid op status detail).clk = s.clk := by simp [commandErr]

@[simp] theorem countEnd_clk (s uid cls func e ran) : (countEnd s uid cls func e ran).clk = s.clk := rfl

@[simp] theorem countKv_clk (s status) : (countKv s status).clk = s.clk := by simp [countKv]

@[simp] theorem countHelm_clk (s uid e ran) : (countHelm s uid e ran).clk = s.clk := by
  unfold countHelm; split <;> simp

@[simp] theorem setHalf_clk (s uid b) : (setHalf s uid b).clk = s.clk := by
  unfold setHalf; split <;> simp

@[simp] theorem dropDesc_clk (s j) : (dropDesc s j).clk = s.clk := rfl

@[simp] theorem writeBack_clk (s u r c) : (writeBack s u r c).clk = s.clk := rfl

@[simp] theorem endDesc_clk (s uid e) : (endDesc s uid e).clk = s.clk := by
  simp only [endDesc]; (repeat' split) <;> simp

@[simp] theorem abortSlots_clk (s uid) : (abortSlots s uid).clk = s.clk := by simp [abortSlots]

@[simp] theorem abortService_clk (s uid) : (abortService s uid).clk = s.clk := by simp [abortService]

@[simp] theorem abortUnit_clk (s uid) : (abortUnit s uid).clk = s.clk := by simp [abortUnit]

@[simp] theorem abortRecord_clk (s uid status detail) : (abortRecord s uid status detail).clk = s.clk := by
  simp only [abortRecord]; (repeat' split) <;> simp

/-! ## Machine/KeySlots.lean -/

@[simp] theorem putSlot_clk (s i attr key pubh) : (putSlot s i attr key pubh).clk = s.clk := by
  unfold putSlot
  split
  · rfl
  · dsimp only
    split
    · rfl
    · exact foldl_clk _ _ _ fun _ _ => rfl

@[simp] theorem slotParity_clk (s i) : (slotParity s i).clk = s.clk := by simp [slotParity]

/-! ## Machine/Admission.lean -/

@[simp] theorem fetchFault_clk (s g) : (fetchFault s g).clk = s.clk := rfl

@[simp] theorem stageFault_clk (s g) : (stageFault s g).clk = s.clk := rfl

/-! ## Machine/Drbg.lean -/

@[simp] theorem setDrbg_clk (s k d) : (setDrbg s k d).clk = s.clk := rfl

@[simp] theorem drbgSeed_clk (s k) : (drbgSeed s k).clk = s.clk := rfl

@[simp] theorem drbgDraw_clk (s k n) : (drbgDraw s k n).1.clk = s.clk := by simp [drbgDraw]

/-! ## Machine/Execute.lean -/

@[simp] theorem pinFailure_clk (s f) : (pinFailure s f).clk = s.clk := by
  simp only [pinFailure]; (repeat' split) <;> simp

@[simp] theorem payCount_clk (s f d status detail) : (payCount s f d status detail).clk = s.clk := by simp [payCount]

@[simp] theorem helmCount_clk (s p) : (helmCount s p).clk = s.clk := rfl

@[simp] theorem clearSlots_clk (s uid) : (clearSlots s uid).clk = s.clk := rfl

@[simp] theorem complete_clk (s uid j c status detail flags result) :
    (complete s uid j c status detail flags result).clk = s.clk := by simp [complete]

@[simp] theorem finish_clk (s uid) : (finish s uid).clk = s.clk := by
  simp only [finish]; (repeat' split) <;> simp

@[simp] theorem failRun_clk (s uid status detail) : (failRun s uid status detail).clk = s.clk := by
  unfold failRun; split <;> simp

@[simp] theorem drained_clk (s uid) : (drained s uid).clk = s.clk := by
  unfold drained; split <;> simp

@[simp] theorem startExec_clk (s uid) : (startExec s uid).clk = s.clk := by
  simp only [startExec]; (repeat' split) <;> simp

@[simp] theorem tryExec_clk (s uid) : (tryExec s uid).clk = s.clk := by
  unfold tryExec; split <;> simp

@[simp] theorem outIssued_clk (s id idx v) : (outIssued s id idx v).clk = s.clk := by simp [outIssued]

/-! ## Machine/Rings.lean -/

@[simp] theorem cqNotice_clk (s q) : (cqNotice s q).clk = s.clk := by
  simp only [cqNotice]; (repeat' split) <;> simp

@[simp] theorem coalCheck_clk (s q) : (coalCheck s q).clk = s.clk := by simp [coalCheck]

@[simp] theorem cqNoticeable_clk (s q) : (cqNoticeable s q).clk = s.clk := by simp [cqNoticeable]

/-! ## Machine/Records.lean -/

@[simp] theorem reap_clk (s id) : (reap s id).clk = s.clk := by
  unfold reap; split <;> simp

@[simp] theorem stopLater_clk (s id uid) : (stopLater s id uid).clk = s.clk := by
  simp only [stopLater]; (repeat' split) <;> simp

@[simp] theorem taintLate_clk (s func d) : (taintLate s func d).clk = s.clk := by
  unfold taintLate; split <;> simp

@[simp] theorem failWriting_clk (s uid j) : (failWriting s uid j).clk = s.clk := by simp [failWriting]

@[simp] theorem outputFailed_clk (s id idx) : (outputFailed s id idx).clk = s.clk := by
  unfold outputFailed
  split
  · rfl
  · split
    · simp
    · split
      · split <;> simp
      · refine foldl_clk _ _ _ fun t u => ?_
        (repeat' split) <;> simp

@[simp] theorem outRefused_clk (s id idx) : (outRefused s id idx).clk = s.clk := by simp [outRefused]

/-! ## Machine/LifeCycle.lean -/

theorem lodeDraw_clk {s x} (h : lodeDraw s = some x) : x.1.clk = s.clk := by
  unfold lodeDraw at h
  (repeat' split at h) <;> cases h <;> simp

@[simp] theorem trimSteps_clk (s l) : (trimSteps s l).1.clk = s.clk := by
  induction l generalizing s with
  | nil => rfl
  | cons x r ih =>
    cases x with
    | bits n l => unfold trimSteps; split <;> simp [ih]
    | erase n t => unfold trimSteps; split <;> simp [ih]
    | draw n k =>
      unfold trimSteps
      split
      · next hx => split <;> simp [ih, lodeDraw_clk hx]
      · rfl

@[simp] theorem fuseBegin_clk (s) : (fuseBegin s).clk = s.clk := by
  unfold fuseBegin; split <;> simp

@[simp] theorem fuseResume_clk (s) : (fuseResume s).clk = s.clk := by
  unfold fuseResume; split <;> simp

/-! ## Machine/Vault.lean -/

@[simp] theorem kvResult_clk (s n) : (kvResult s n).clk = s.clk := rfl

@[simp] theorem kvFound_clk (s i bad) : (kvFound s i bad).clk = s.clk := by simp [kvFound]

@[simp] theorem kvWrote_clk (s c) : (kvWrote s c).clk = s.clk := rfl

@[simp] theorem kvStore_clk (s c out) : (kvStore s c out).clk = s.clk := by simp [kvStore]

@[simp] theorem kvWritten_clk (s k n ok) : (kvWritten s k n ok).clk = s.clk := by
  unfold kvWritten; split <;> simp

@[simp] theorem kvDraw_clk (s c attr) : (kvDraw s c attr).clk = s.clk := by simp [kvDraw]

@[simp] theorem kvGenerate_clk (s c) : (kvGenerate s c).clk = s.clk := by
  unfold kvGenerate; split <;> simp

@[simp] theorem kvRedraw_clk (s) : (kvRedraw s).clk = s.clk := by
  unfold kvRedraw; split <;> simp

@[simp] theorem kvUnwrapped_clk (s c b) : (kvUnwrapped s c b).clk = s.clk := by
  simp only [kvUnwrapped]; (repeat' split) <;> simp

@[simp] theorem kvAttested_clk (s c challenge) : (kvAttested s c challenge).clk = s.clk := by
  unfold kvAttested; split <;> simp

@[simp] theorem kvRead_clk (s) : (kvRead s).clk = s.clk := by
  unfold kvRead; split <;> simp

/-! ## Machine/Chart.lean -/

@[simp] theorem chartPhase_clk (s) : (chartPhase s).clk = s.clk := by simp [chartPhase]

/-! ## Machine/Completion.lean -/

@[simp] theorem inputStep_clk (s id idx f) : (inputStep s id idx f).clk = s.clk := by
  unfold inputStep; split <;> simp

@[simp] theorem loadStep_clk (s uid f) : (loadStep s uid f).clk = s.clk := rfl

@[simp] theorem kvStep_clk (s f) : (kvStep s f).clk = s.clk := by simp [kvStep]

@[simp] theorem reapOf_clk (s o) : (reapOf s o).clk = s.clk := by
  unfold reapOf; split <;> simp

@[simp] theorem recordDone_clk (s id idx ok) : (recordDone s id idx ok).clk = s.clk := by
  unfold recordDone; split <;> simp

@[simp] theorem logFailed_clk (s vf) : (logFailed s vf).clk = s.clk := rfl

@[simp] theorem storeDone_clk (s uid k ok) : (storeDone s uid k ok).clk = s.clk := rfl

@[simp] theorem writingDone_clk (s id idx) : (writingDone s id idx).clk = s.clk := by
  unfold writingDone; (repeat' split) <;> simp

@[simp] theorem txnIssued_clk (s t v) : (txnIssued s t v).clk = s.clk := by
  unfold txnIssued; split <;> simp

@[simp] theorem txnRefused_clk (s t) : (txnRefused s t).clk = s.clk := by
  unfold txnRefused; split <;> simp

@[simp] theorem pumpN_clk (n s port) : (pumpN n s port).clk = s.clk := by
  induction n generalizing s with
  | zero => rfl
  | succ n ih =>
    simp only [pumpN]
    split
    · rfl
    · split
      · simp [ih]
      · split <;> (next hx => simp [ih, fst_clk hx])

@[simp] theorem pump_clk (s port) : (pump s port).clk = s.clk := by simp [pump]

/-! ## Machine/Contexts.lean -/

@[simp] theorem scResult_clk (s n) : (scResult s n).clk = s.clk := rfl

@[simp] theorem scApply_clk (s op r) : (scApply s op r).clk = s.clk := by simp [scApply]

@[simp] theorem scStart_clk (s op kind i) : (scStart s op kind i).clk = s.clk := by simp [scStart]

@[simp] theorem scWaiting_clk (s) : (scWaiting s).clk = s.clk := by
  unfold scWaiting; split <;> simp

@[simp] theorem keyScrubs_clk (s) : (keyScrubs s).clk = s.clk := by simp [keyScrubs]

/-! ## Machine/Functions.lean -/

@[simp] theorem hostTakes_clk (s) : (hostTakes s).clk = s.clk := rfl

/-! ## Machine/Control.lean -/

@[simp] theorem controlEdge_clk (s) : (controlEdge s).clk = s.clk := by simp [controlEdge]

@[simp] theorem leave_clk (s) : (leave s).clk = s.clk := by simp [leave, flushLanes]

/-! ## The end of a root cycle -/

theorem cycleEdge_clk (s : State) : (cycleEdge s).clk = s.clk := by
  unfold cycleEdge
  split
  · exact controlEdge_clk s
  · rfl

end Sys2Proof.Machine

namespace Sys2Proof.Machine

/-!
# The root cycle

On an empty queue a root cycle passes (log entry 1). In a reset nothing leaves the ports and lanes (R376); what every
root cycle counts are the Meridian, the busy time of units with those below them (R18, R20) and the time of pools in
fallback (R98).
-/

/-! ## The branches of a root cycle (R369) -/

theorem rootCycle_unpowered {s : State} (h : powered s = false) : rootCycle s = s := by
  simp [rootCycle, h]

theorem rootCycle_locked {s : State} (hp : powered s = true) (hl : s.clk.lock = true) :
    rootCycle s = countCycle (if s.clk.meridian % 4 = 3 then cycleEdge (leave s) else leave s) := by
  simp [rootCycle, hp, hl]

theorem rootCycle_onRef {s : State} (hp : powered s = true) (hl : s.clk.lock = false) (hr : onRef s = true) :
    rootCycle s = { cycleEdge (leave s) with clk := { s.clk with slow := s.clk.slow + 1 } } := by
  simp [rootCycle, hp, hl, hr, cycleEdge_clk]

theorem rootCycle_noClock {s : State} (hl : s.clk.lock = false) (hr : onRef s = false) : rootCycle s = s := by
  simp [rootCycle, hl, hr]

/-! ## In a reset nothing leaves (R376) -/

theorem running_inReset {s : State} (h : s.pw.rstLeft ≠ 0) : running s = false := by
  simp [running, active, h]

theorem portsOpen_inReset {s : State} (h : s.pw.rstLeft ≠ 0) : portsOpen s = false := by
  simp [portsOpen, engineUp, running_inReset h]

theorem laneUp_inReset {s : State} (h : s.pw.rstLeft ≠ 0) : laneUp s = false := by
  simp [laneUp, ported, active, h]

/-- A port that does not issue keeps what waits there. -/
theorem pumpN_closed {s : State} (h : portsOpen s = false) (n port : Nat) :
    ∃ P, pumpN n s port = { s with ports := P } := by
  cases n with
  | zero => exact ⟨s.ports, rfl⟩
  | succ n =>
    unfold pumpN
    dsimp only
    split
    · exact ⟨s.ports, rfl⟩
    · next t r _ =>
      have hlost : outputLost s t = none := by
        unfold outputLost
        split <;> simp [h]
      have hwaits : comesToIssue (setPort s port { getPort s port with sendQ := r }) port t =
          (setPort s port { getPort s port with sendQ := r }, .waits t) :=
        if_pos (congrArg (! ·) h)
      simp only [hlost, hwaits]
      exact ⟨_, rfl⟩

theorem foldl_pump_closed {s : State} (h : portsOpen s = false) (l : List Nat) :
    ∃ P, l.foldl pump s = { s with ports := P } := by
  induction l generalizing s with
  | nil => exact ⟨s.ports, rfl⟩
  | cons n l ih =>
    obtain ⟨P, hP⟩ := pumpN_closed h (getPort s n).sendQ.length n
    obtain ⟨Q, hQ⟩ := ih (s := { s with ports := P }) h
    exact ⟨Q, (congrArg (fun t => l.foldl pump t) hP).trans hQ⟩

theorem flushLane_down {s : State} (h : laneUp s = false) (odd : Bool) : flushLane s odd = s := by
  unfold flushLane
  dsimp only
  split
  · rw [if_pos (.inr (.inl h))]
  · rfl

theorem leave_inReset {s : State} (h : s.pw.rstLeft ≠ 0) : ∃ P, leave s = { s with ports := P } := by
  obtain ⟨P, hP⟩ := foldl_pump_closed (portsOpen_inReset h) (s.ports.map (·.1))
  have hl : laneUp { s with ports := P } = false := laneUp_inReset (s := { s with ports := P }) h
  exact ⟨P, by rw [leave, hP, flushLanes, flushLane_down hl, flushLane_down hl]⟩

/-- The end of a control cycle of a reset counts it, and may grant the credits of the ports again (R376, R389). -/
theorem cycleEdge_leave_inReset {s : State} (h : s.pw.rstLeft ≠ 0) :
    ∃ P, cycleEdge (leave s) = { s with pw := { s.pw with rstLeft := s.pw.rstLeft - 1 }, ports := P } := by
  obtain ⟨P, hP⟩ := leave_inReset h
  rw [hP]
  exact ⟨_, if_neg h⟩

/-! ## What a root cycle counts (R18, R20, R78, R98) -/

/-- The units whose busy time a root cycle counts. -/
def busyUnits (s : State) : List Nat := ((s.units.map (·.1)).eraseDups).filter (fun u => (getUni s u).st == 1)

/-- One more root cycle of busy time. -/
def Counts.tick (c : Counts) : Counts := { c with busy := (c.busy + 1) % 2 ^ 64 }

/-- Counts f for each unit of a list, as often as it stands there. -/
def tallied (f : Counts → Counts) (l : List Nat) (t : Tbl Counts) : Tbl Counts :=
  l.foldl (fun t v => t.set v (f (t.get .init v))) t

theorem get_tallied (f : Counts → Counts) (l : List Nat) (t : Tbl Counts) (w : Nat) :
    (tallied f l t).get .init w = f^[l.count w] (t.get .init w) := by
  induction l generalizing t with
  | nil => rfl
  | cons v l ih =>
    refine (ih _).trans ?_
    by_cases h : v = w
    · rw [h, List.count_cons_self, Function.iterate_succ_apply, Tbl.get_set_same]
    · rw [List.count_cons_of_ne h, Tbl.get_set_ne _ _ _ _ _ (Ne.symm h)]

theorem foldl_count_eq (f : Counts → Counts) (l : List Nat) (s : State) : l.foldl (fun s u => count s u f) s =
    { s with cnts := tallied f (l.flatMap (treeOf s.chart.units 9)) s.cnts } := by
  induction l generalizing s with
  | nil => rfl
  | cons u l ih =>
    rw [List.foldl_cons, ih, List.flatMap_cons, tallied, tallied, List.foldl_append]
    rfl

theorem countCycle_eq (s : State) : countCycle s = { s with
    clk := { s.clk with meridian := s.clk.meridian + 1 }
    cnts := tallied Counts.tick ((busyUnits s).flatMap (treeOf s.chart.units 9)) s.cnts
    pools := s.pools.mapVal (fun _ x => if x.fallback then { x with fbTime := (x.fbTime + 1) % 2 ^ 64 } else x) } :=
  congrArg (fun t : State => { t with
    clk := { t.clk with meridian := t.clk.meridian + 1 }
    pools := t.pools.mapVal (fun _ x => if x.fallback then { x with fbTime := (x.fbTime + 1) % 2 ^ 64 } else x) })
    (foldl_count_eq Counts.tick (busyUnits s) s)

theorem Tbl.get_of_notMem {α : Type} {t : Tbl α} {k : Nat} (h : k ∉ t.map (·.1)) (d : α) : t.get d k = d := by
  induction t with
  | nil => rfl
  | cons e t ih =>
    obtain ⟨i, x⟩ := e
    simp only [List.map_cons, List.mem_cons, not_or] at h
    obtain ⟨hi, ht⟩ := h
    rw [Tbl.get, if_neg (Ne.symm hi), ih ht]

theorem mem_busyUnits {s : State} {u : Nat} : u ∈ busyUnits s ↔ (getUni s u).st = 1 := by
  simp only [busyUnits, List.mem_filter, List.mem_eraseDups, beq_iff_eq, and_iff_right_iff_imp]
  intro h
  by_contra hmem
  rw [getUni, Tbl.get_of_notMem hmem] at h
  cases h

theorem nodup_busyUnits (s : State) : (busyUnits s).Nodup := (nodup_eraseDups _).filter _

section Busy
variable {s : State} {w : Nat}

/-- A unit below no BUSY one counts nothing. -/
theorem getCnt_countCycle_idle (h : ∀ v, (getUni s v).st = 1 → w ∉ treeOf s.chart.units 9 v) :
    getCnt (countCycle s) w = getCnt s w := by
  have hcount : ((busyUnits s).flatMap (treeOf s.chart.units 9)).count w = 0 := by
    simpa [List.count_eq_zero, mem_busyUnits] using h
  rw [countCycle_eq, getCnt, get_tallied, hcount]
  rfl

/-- A unit below one BUSY unit alone, where it stands once, counts one root cycle. -/
theorem getCnt_countCycle_busy {u : Nat} (hu : (getUni s u).st = 1) (hnd : (treeOf s.chart.units 9 u).Nodup)
    (hw : w ∈ treeOf s.chart.units 9 u) (h : ∀ v, (getUni s v).st = 1 → v ≠ u → w ∉ treeOf s.chart.units 9 v) :
    getCnt (countCycle s) w = (getCnt s w).tick := by
  have hperm := (List.perm_cons_erase (mem_busyUnits.mpr hu)).flatMap_right (treeOf s.chart.units 9)
  have hrest : (((busyUnits s).erase u).flatMap (treeOf s.chart.units 9)).count w = 0 := by
    simp only [List.count_eq_zero, List.mem_flatMap, not_exists, not_and, (nodup_busyUnits s).mem_erase_iff]
    exact fun v ⟨hv, hb⟩ => h v (mem_busyUnits.mp hb) hv
  have hcount : ((busyUnits s).flatMap (treeOf s.chart.units 9)).count w = 1 := by
    rw [hperm.count_eq, List.flatMap_cons, List.count_append, List.count_eq_one_of_mem hnd hw, hrest]
  rw [countCycle_eq, getCnt, get_tallied, hcount]
  rfl

end Busy

theorem getPool_countCycle (s : State) (p : Nat) : getPool (countCycle s) p = { getPool s p with
    fbTime := if (getPool s p).fallback then ((getPool s p).fbTime + 1) % 2 ^ 64 else (getPool s p).fbTime } := by
  rw [countCycle_eq, getPool, Tbl.get_mapVal s.pools rfl]
  change (if (getPool s p).fallback then _ else getPool s p) = _
  split <;> rfl

/-! ## The clocks of a root cycle -/

theorem rootCycle_clk_locked {s : State} (hp : powered s = true) (hl : s.clk.lock = true) :
    (rootCycle s).clk = { s.clk with meridian := s.clk.meridian + 1 } := by
  rw [rootCycle_locked hp hl, countCycle_eq]
  simp [cycleEdge_clk]

/-- A root cycle that ends a control cycle of a reset. -/
theorem rootCycle_inReset {s : State} (hp : powered s = true) (h : s.pw.rstLeft ≠ 0)
    (hc : (s.clk.lock = true ∧ s.clk.meridian % 4 = 3) ∨ (s.clk.lock = false ∧ onRef s = true)) :
    let t := rootCycle s
    t.pw = { s.pw with rstLeft := s.pw.rstLeft - 1 } ∧ t.rings = s.rings ∧ t.cqs = s.cqs ∧ t.chains = s.chains := by
  obtain ⟨P, hP⟩ := cycleEdge_leave_inReset h
  rcases hc with ⟨hl, hm⟩ | ⟨hl, hr⟩
  · rw [rootCycle_locked hp hl, if_pos hm, hP, countCycle_eq]
    exact ⟨rfl, rfl, rfl, rfl⟩
  · rw [rootCycle_onRef hp hl hr, hP]
    exact ⟨rfl, rfl, rfl, rfl⟩

/-- Settles O2: the branches of a root cycle; the one that ends no control cycle, with nothing that waits, only counts. -/
theorem emptyQueueLetsTimePass : Obligations.EmptyQueueLetsTimePass := by
  unfold Obligations.EmptyQueueLetsTimePass
  refine fun s hpend => ⟨rootCycle s, step_of_pending_nil hpend, rootCycle_unpowered, rootCycle_clk_locked,
    fun hp hl hr => by rw [rootCycle_onRef hp hl hr], fun _ hl hr => rootCycle_noClock hl hr, rootCycle_inReset,
    fun hp hl hm hports h0 h1 => ?_⟩
  have hcycle : rootCycle s = countCycle s := by
    rw [rootCycle_locked hp hl, if_neg hm, leave_quiet hports h0 h1]
  rw [hcycle]
  exact ⟨by rw [countCycle_eq], fun u w hu hnd hw h => getCnt_countCycle_busy hu hnd hw h,
    fun w h => getCnt_countCycle_idle h, getPool_countCycle s⟩

end Sys2Proof.Machine

namespace Sys2Proof.Machine

/-!
# Moves between the places of an internal queue

IQ_ENTRY_MOVE (R87, R88). A move renames nothing: it gives one entry of the queue another place and index. A batch of
moves is described by how many entries the head gained; the moves of a control cycle are a swap of the banks, a batch
into the head and a batch out of the tail.
-/

/-! ## The entries by name -/

/-- What names an entry: its chain, its descriptor and whether it is the staged input. -/
def entryName (e : IqEntry) : Nat × Nat × Bool := (e.chain, e.idx, e.stage)

/-- What an entry carries from place to place: its name and its poison tag. -/
def entryLoad (e : IqEntry) : Nat × Nat × Bool × Bool := (e.chain, e.idx, e.stage, e.poison)

theorem sameEntry_iff {a b : IqEntry} : sameEntry a b = true ↔ entryName a = entryName b := by
  simp [sameEntry, entryName, and_assoc]

/-- Equal loads in equal order are equal names in equal order. -/
theorem names_of_loads {l m : List IqEntry} (h : l.map entryLoad = m.map entryLoad) :
    l.map entryName = m.map entryName := by
  have hproj := congrArg (List.map (fun x => (x.1, x.2.1, x.2.2.1))) h
  rw [List.map_map, List.map_map] at hproj
  exact hproj

theorem mem_of_nextEntry {s : State} {l : List IqEntry} {e : IqEntry} (h : nextEntry s l = some e) : e ∈ l := by
  induction l using List.reverseRecOn generalizing e with
  | nil => cases h
  | append_singleton l a ih =>
    rw [nextEntry, List.foldl_append, List.foldl_cons, List.foldl_nil, ← nextEntry] at h
    cases hbest : nextEntry s l with
    | none =>
      rw [hbest] at h
      cases h
      simp
    | some b =>
      rw [hbest] at h
      dsimp only at h
      split at h
      · cases h
        simp
      · exact List.mem_append_left _ (ih (hbest.trans h))

/-! ## One move -/

/-- The entry of a pool's queue that moves is the only one of its name. -/
theorem moveEntry_queue (s : State) (place : Nat) {x : Pool} {e : IqEntry}
    (hnames : (x.queue.map entryName).Nodup) (he : e ∈ x.queue) :
    ∃ l m, x.queue = l ++ e :: m ∧
      (moveEntry s place x e).queue = l ++ { e with place := place, loc := freeLoc x place } :: m := by
  obtain ⟨l, m, hq⟩ := List.append_of_mem he
  refine ⟨l, m, hq, ?_⟩
  rw [hq, List.map_append, List.map_cons, List.nodup_middle, List.nodup_cons] at hnames
  have hstay : ∀ k : List IqEntry, (∀ y ∈ k, y ∈ l ++ m) →
      k.map (fun y => if sameEntry y e then { y with place := place, loc := freeLoc x place } else y) = k := by
    refine fun k hk => (List.map_congr_left fun y hy => if_neg fun hs => hnames.1 ?_).trans (List.map_id k)
    rw [← List.map_append, ← sameEntry_iff.mp hs]
    exact List.mem_map_of_mem (hk y hy)
  change x.queue.map _ = _
  rw [hq, List.map_append, List.map_cons, hstay l (by simp +contextual), hstay m (by simp +contextual),
    if_pos (sameEntry_iff.mpr rfl)]

/-- The other entries stay as they are. -/
theorem mem_moveEntry_of_ne (s : State) (place : Nat) {x : Pool} {e y : IqEntry}
    (hnames : (x.queue.map entryName).Nodup) (he : e ∈ x.queue) (hy : y ∈ x.queue) (hne : y ≠ e) :
    y ∈ (moveEntry s place x e).queue := by
  obtain ⟨l, m, hq, hmove⟩ := moveEntry_queue s place hnames he
  simp only [hq, List.mem_append, List.mem_cons, hne, false_or] at hy
  rw [hmove, List.mem_append, List.mem_cons]
  exact hy.imp_right .inr

/-! ## What moves leave, and what the head gains -/

/-- From x to y nothing has changed but the queue, the banks, the middle store and the account of the control cycle. -/
def OnlyMoves (x y : Pool) : Prop :=
  y = { x with
    queue := y.queue, fillBank := y.fillBank, mid := y.mid, moveAt := y.moveAt, moved := y.moved, bankRd := y.bankRd
    bankWr := y.bankWr }

theorem OnlyMoves.trans {x y z : Pool} (h : OnlyMoves x y) (k : OnlyMoves y z) : OnlyMoves x z :=
  Eq.trans k (congrArg (fun y : Pool => { y with
    queue := z.queue, fillBank := z.fillBank, mid := z.mid, moveAt := z.moveAt, moved := z.moved, bankRd := z.bankRd
    bankWr := z.bankWr }) h)

/-- Moves of one control cycle that bring n entries into the head: no entry is lost and none of the head leaves it. -/
structure HeadGains (x y : Pool) (n : Nat) : Prop where
  only : OnlyMoves x y
  loads : y.queue.map entryLoad = x.queue.map entryLoad
  stays : ∀ e ∈ x.queue, e.place = 0 → e ∈ y.queue
  head : placeCount y 0 = placeCount x 0 + n
  moved : y.moved = x.moved + n

theorem HeadGains.refl (x : Pool) : HeadGains x x 0 := ⟨rfl, rfl, fun _ h _ => h, rfl, rfl⟩

theorem HeadGains.trans {x y z : Pool} {n m : Nat} (h : HeadGains x y n) (k : HeadGains y z m) :
    HeadGains x z (n + m) where
  only := h.only.trans k.only
  loads := k.loads.trans h.loads
  stays e he hp := k.stays e (h.stays e he hp) hp
  head := by rw [k.head, h.head, Nat.add_assoc]
  moved := by rw [k.moved, h.moved, Nat.add_assoc]

theorem HeadGains.nodup {x y : Pool} {n : Nat} (h : HeadGains x y n) (hnames : (x.queue.map entryName).Nodup) :
    (y.queue.map entryName).Nodup := names_of_loads h.loads ▸ hnames

/-- What the head gains by the move of one entry to a place, where what enters the head comes from behind the tail. -/
theorem headGains_moveEntry (s : State) {place : Nat} {x : Pool} {e : IqEntry}
    (hnames : (x.queue.map entryName).Nodup) (he : e ∈ x.queue) (hne : e.place ≠ 0) (hp : place = 0 ↔ 2 ≤ e.place) :
    HeadGains x (moveEntry s place x e) (if place = 0 then 1 else 0) := by
  obtain ⟨l, m, hq, hmove⟩ := moveEntry_queue s place hnames he
  refine ⟨rfl, by simp [hq, hmove, entryLoad],
    fun y hy hy0 => mem_moveEntry_of_ne s place hnames he hy fun h => hne (h ▸ hy0), ?_, ?_⟩
  · rw [placeCount, placeCount, hmove, hq]
    by_cases h0 : place = 0
    · simp [hne, h0]
      omega
    · simp [hne, h0]
  · by_cases h0 : place = 0 <;> simp [moveEntry, ← hp, h0]

/-- A batch of moves to one place. -/
theorem headGains_foldl_moveEntry (s : State) {place : Nat} {l : List IqEntry} :
    ∀ {x : Pool}, (x.queue.map entryName).Nodup → l.Nodup → l ⊆ x.queue →
    (∀ e ∈ l, e.place ≠ 0 ∧ (place = 0 ↔ 2 ≤ e.place)) →
    HeadGains x (l.foldl (moveEntry s place) x) (if place = 0 then l.length else 0) := by
  induction l with
  | nil => intro x _ _ _ _; simpa using HeadGains.refl x
  | cons e l ih =>
    intro x hnames hl hsub hplace
    obtain ⟨hel, hl⟩ := List.nodup_cons.mp hl
    obtain ⟨he, hsub⟩ := List.cons_subset.mp hsub
    obtain ⟨⟨hne, hp⟩, hplace⟩ := List.forall_mem_cons.mp hplace
    have hfirst := headGains_moveEntry s hnames he hne hp
    have hkept : l ⊆ (moveEntry s place x e).queue := fun y hy =>
      mem_moveEntry_of_ne s place hnames he (hsub hy) fun h => hel (h ▸ hy)
    have hrest := ih (hfirst.nodup hnames) hl hkept hplace
    have hgain : (if place = 0 then (e :: l).length else 0) =
        (if place = 0 then 1 else 0) + if place = 0 then l.length else 0 := by
      split <;> simp [Nat.add_comm]
    exact hgain ▸ hfirst.trans hrest

/-! ## The bodies that move -/

theorem body_sublist (x : Pool) (e : IqEntry) : (body x e).Sublist x.queue := List.filter_sublist

theorem place_of_mem_body {x : Pool} {e y : IqEntry} (h : y ∈ body x e) : y.place = e.place := by
  simp only [body, List.mem_filter, Bool.and_eq_true, beq_iff_eq] at h
  exact h.2.2

theorem two_le_place_of_supplies {x : Pool} {e : IqEntry} (h : supplies x e = true) : 2 ≤ e.place := by
  simp only [supplies, drainPlace, Bool.or_eq_true, beq_iff_eq] at h
  rcases h with h | h
  · omega
  · repeat' split at h
    all_goals simp at h; omega

theorem spillPlace_ge (x : Pool) : 2 ≤ spillPlace x := by
  unfold spillPlace fillPlace
  repeat' split
  all_goals decide

/-- What the head takes lies behind the tail, fits into the head and into its two entries of the control cycle. -/
theorem headNext_spec (s : State) (x : Pool) : (headNext s x).Sublist x.queue ∧ (∀ e ∈ headNext s x, 2 ≤ e.place) ∧
    (headNext s x).length ≤ 64 - placeCount x 0 ∧ (headNext s x).length ≤ 2 - x.moved := by
  unfold headNext
  dsimp only
  split
  · next e he =>
    split
    · next h =>
      obtain ⟨hroom, htwo, -⟩ := h
      have hsup := (List.mem_filter.mp (mem_of_nextEntry he)).2
      refine ⟨body_sublist x e, fun y hy => ?_, hroom.trans ?_, by omega⟩
      · exact place_of_mem_body hy ▸ two_le_place_of_supplies hsup
      · unfold placeRoom
        split
        · exact Nat.zero_le _
        · exact Nat.le_refl _
    · simp
  · simp

theorem spillNext_spec (x : Pool) : (spillNext x).Sublist x.queue ∧ ∀ e ∈ spillNext x, e.place = 1 := by
  unfold spillNext
  cases hf : ((x.queue.filter (·.place == 1)).map (body x)).find?
      (fun b => decide (b.length ≤ placeRoom x (spillPlace x))) with
  | none => simp
  | some b =>
    obtain ⟨e, he, rfl⟩ := List.mem_map.mp (List.mem_of_find?_eq_some hf)
    have hp : e.place = 1 := by simpa using (List.mem_filter.mp he).2
    exact ⟨body_sublist x e, fun y hy => (place_of_mem_body hy).trans hp⟩

theorem headGains_headNext (s : State) {x : Pool} (hnames : (x.queue.map entryName).Nodup) :
    HeadGains x ((headNext s x).foldl (moveEntry s 0) x) (headNext s x).length := by
  obtain ⟨hsub, hplace, -, -⟩ := headNext_spec s x
  exact headGains_foldl_moveEntry s hnames (hnames.of_map.sublist hsub) hsub.subset
    fun e he => ⟨by have := hplace e he; omega, by simpa using hplace e he⟩

theorem headGains_spillNext (s : State) {place : Nat} (hp : 2 ≤ place) {x : Pool}
    (hnames : (x.queue.map entryName).Nodup) : HeadGains x ((spillNext x).foldl (moveEntry s place) x) 0 := by
  obtain ⟨hsub, hplace⟩ := spillNext_spec x
  have h0 : place ≠ 0 := by omega
  simpa [h0] using headGains_foldl_moveEntry s (place := place) hnames (hnames.of_map.sublist hsub) hsub.subset
    fun e he => by simp [hplace e he, h0]

/-! ## The moves of a control cycle -/

/-- Over all moves of a control cycle the head takes at most two entries, and those that it has room for (R87). -/
theorem headGains_drawn (s : State) {x : Pool} (hnames : (x.queue.map entryName).Nodup) :
    ∃ n, n ≤ 2 - x.moved ∧ n ≤ 64 - placeCount x 0 ∧ HeadGains x ((drawn s x).foldl (moveEntry s 0) x) n := by
  obtain ⟨-, -, hroom, htwo⟩ := headNext_spec s x
  have hfirst := headGains_headNext s hnames
  unfold drawn
  dsimp only
  split
  · exact ⟨_, htwo, hroom, by simpa using hfirst⟩
  · obtain ⟨-, -, hroom', htwo'⟩ := headNext_spec s ((headNext s x).foldl (moveEntry s 0) x)
    rw [hfirst.head] at hroom'
    rw [hfirst.moved] at htwo'
    refine ⟨_, ?_, ?_, List.foldl_append ▸ hfirst.trans (headGains_headNext s (hfirst.nodup hnames))⟩ <;> omega

/-- What spills from the tail brings nothing into the head (R88). -/
theorem headGains_spilled (s : State) {x : Pool} (hnames : (x.queue.map entryName).Nodup) :
    HeadGains x ((spilled s x).foldl (moveEntry s (spillPlace x)) x) 0 := by
  have hfirst := headGains_spillNext s (spillPlace_ge x) hnames
  unfold spilled
  dsimp only
  rw [List.foldl_append]
  split
  · split
    · exact hfirst.trans (headGains_spillNext s (spillPlace_ge x) (hfirst.nodup hnames))
    · exact hfirst
  · exact hfirst

theorem headGains_swapBanks (s : State) (x : Pool) : HeadGains x (swapBanks s x) 0 := by
  unfold swapBanks
  dsimp only
  split
  · exact ⟨rfl, rfl, fun _ h _ => h, rfl, rfl⟩
  · exact .refl x

/-- The account of a control cycle begins at nothing, or is the one that runs. -/
theorem thisCycle_spec (s : State) (x : Pool) : OnlyMoves x (thisCycle s x) ∧ (thisCycle s x).queue = x.queue ∧
    (x.moved ≤ 2 → (thisCycle s x).moved ≤ 2) := by
  unfold thisCycle
  split
  · exact ⟨rfl, rfl, id⟩
  · exact ⟨rfl, rfl, fun _ => Nat.zero_le 2⟩

/-- The pool after a control cycle of moves in which no word is in error. -/
def movedPool (s : State) (x : Pool) : Pool :=
  let x := swapBanks s (thisCycle s x)
  let y := (drawn s x).foldl (moveEntry s 0) x
  (spilled s y).foldl (moveEntry s (spillPlace y)) y

theorem iqMove_nil (s : State) (p : Nat) :
    getPool (iqMove s p []) p = movedPool s (getPool s p) ∧ iqMove s p [] = { s with pools := (iqMove s p []).pools } ∧
      ∀ m, m ≠ p → getPool (iqMove s p []) m = getPool s m := by
  refine ⟨?_, rfl, fun m hm => ?_⟩
  · simp only [iqMove, parityErrors, List.foldl_nil, List.filterMap_nil, getPool_setPool]
    rfl
  · simp [iqMove, parityErrors, getPool_setPool_ne _ _ _ _ hm]

/-- A control cycle of moves behind the account of that cycle. -/
theorem headGains_movedPool (s : State) {x : Pool} (hnames : (x.queue.map entryName).Nodup) :
    ∃ n, n ≤ 2 - (thisCycle s x).moved ∧ n ≤ 64 - placeCount x 0 ∧ HeadGains (thisCycle s x) (movedPool s x) n := by
  obtain ⟨-, hqueue, -⟩ := thisCycle_spec s x
  have hswap := headGains_swapBanks s (thisCycle s x)
  have hnames' := hswap.nodup (hqueue ▸ hnames)
  obtain ⟨n, htwo, hroom, hdrawn⟩ := headGains_drawn s hnames'
  have hcount : placeCount (thisCycle s x) 0 = placeCount x 0 := by rw [placeCount, hqueue]; rfl
  rw [hswap.moved] at htwo
  rw [hswap.head, hcount] at hroom
  have hall := (hswap.trans hdrawn).trans (headGains_spilled s (hdrawn.nodup hnames'))
  exact ⟨n, htwo, hroom, by simpa [movedPool] using hall⟩

/-- Settles O18: the moves of one control cycle are a batch into the head of at most two entries and one out of the
tail. -/
theorem iqMoveKeepsEntries : Obligations.IqMoveKeepsEntries := by
  unfold Obligations.IqMoveKeepsEntries
  intro s p hup hrec hnames
  obtain ⟨hpool, hstate, hothers⟩ := iqMove_nil s p.toNat
  obtain ⟨honly, hqueue, hmoved⟩ := thisCycle_spec s (getPool s p.toNat)
  obtain ⟨n, htwo, hroom, hgain⟩ := headGains_movedPool s (x := getPool s p.toNat) hnames
  have hcount : placeCount (movedPool s (getPool s p.toNat)) 0 = placeCount (getPool s p.toNat) 0 + n := by
    rw [hgain.head, placeCount, hqueue]; rfl
  refine ⟨iqMove s p.toNat [], by simp [exec, execIqEntryMove, hup, hrec], hstate, hothers, ?_⟩
  rw [hpool]
  refine ⟨honly.trans hgain.only, fun h => ?_, hqueue ▸ hgain.loads, hqueue ▸ hgain.stays, ?_, ?_⟩
  · have := hmoved h
    rw [hgain.moved]
    omega
  · omega
  · omega

end Sys2Proof.Machine

namespace Sys2Proof.Machine

/-!
# Storm intervals, shares and notices of the pools

STORM_INTERVAL (R90), RESHARE_LAYOUT (R92) and IQ_NOTICE_CLEAR (R95) change registers of pools, and the first of them the
interval that the storm counts belong to.
-/

/-! ## STORM_INTERVAL (R90) -/

theorem exec_stormInterval_within {s : State} (h : s.clk.meridian / 2 ^ 22 ≤ s.iq.stormIv) :
    exec .stormInterval s = .next s := by
  simp [exec, execStormInterval, show ¬s.iq.stormIv < s.clk.meridian / 4194304 by omega]

theorem exec_stormInterval_passed {s : State} (hup : active s = true) (h : s.iq.stormIv < s.clk.meridian / 2 ^ 22) :
    exec .stormInterval s = .next { s with
      iq := { s.iq with stormIv := s.clk.meridian / 2 ^ 22 }
      pools := s.pools.mapVal (fun _ x => { x with stormCount := 0 }) } :=
  congrArg Host.Outcome.next (if_pos (by simp only [hup, h, decide_true, Bool.and_self]))

/-! ## RESHARE_LAYOUT (R92) -/

/-- The share that the Chart in force gives a pool. -/
def chartShare (s : State) (p : Nat) : Nat := ((poolRec s p).map (·.share)).getD 0

/-- Pool y is pool x laid out with a share of n at time t. -/
structure LaidOut (n t : Nat) (x y : Pool) : Prop where
  share : y.share = n
  reshare : y.reshare = false
  cause : y.cause = if n = 0 then 1 else 3
  queue : y.queue = x.queue
  hold : y.hold = x.hold
  scrub : n ≠ 0 → x.hold = false → y.scrub = true ∧ y.scrubAt = t

theorem LaidOut.trans {n t : Nat} {x y z : Pool} (h : LaidOut n t x y) (k : LaidOut n t y z) : LaidOut n t x z where
  share := k.share
  reshare := k.reshare
  cause := k.cause
  queue := k.queue.trans h.queue
  hold := k.hold.trans h.hold
  scrub hn hh := k.scrub hn (h.hold.trans hh)

theorem getPool_startScrub (s : State) (p : Nat) : getPool (startScrub s p) p =
    { zeroedNow s (getPool s p) with scrub := true, scrubAt := s.clk.meridian } := getPool_setPool ..

theorem layPool_keeps (s : State) (p : Nat) : layPool s p = { s with pools := (layPool s p).pools } ∧
    ∀ m, m ≠ p → getPool (layPool s p) m = getPool s m := by
  unfold layPool
  dsimp only
  split
  · exact ⟨rfl, fun m hm => (getPool_setPool_ne _ _ _ _ hm).trans (getPool_setPool_ne _ _ _ _ hm)⟩
  · exact ⟨rfl, fun m hm => getPool_setPool_ne _ _ _ _ hm⟩

theorem laidOut_layPool (s : State) (p : Nat) :
    LaidOut (chartShare s p) s.clk.meridian (getPool s p) (getPool (layPool s p) p) := by
  unfold layPool chartShare
  dsimp only
  split
  · rw [getPool_startScrub, getPool_setPool]
    exact ⟨rfl, rfl, rfl, rfl, rfl, fun _ _ => ⟨rfl, rfl⟩⟩
  · next h =>
    rw [getPool_setPool]
    exact ⟨rfl, rfl, rfl, rfl, rfl, fun hs hh => absurd ⟨hs, by simp [hh]⟩ h⟩

/-- A layout of some pools, which may name one twice. -/
theorem layPools_spec (l : List Nat) (s : State) :
    l.foldl layPool s = { s with pools := (l.foldl layPool s).pools } ∧
    (∀ p, p ∉ l → getPool (l.foldl layPool s) p = getPool s p) ∧
    ∀ p ∈ l, LaidOut (chartShare s p) s.clk.meridian (getPool s p) (getPool (l.foldl layPool s) p) := by
  induction l generalizing s with
  | nil => exact ⟨rfl, fun _ _ => rfl, fun _ h => absurd h List.not_mem_nil⟩
  | cons a l ih =>
    obtain ⟨hstate, hother⟩ := layPool_keeps s a
    obtain ⟨ihstate, ihother, ihlaid⟩ := ih (layPool s a)
    have hshare (p : Nat) : chartShare (layPool s a) p = chartShare s p := by rw [hstate]; rfl
    have hnow : (layPool s a).clk = s.clk := by rw [hstate]
    rw [List.foldl_cons]
    refine ⟨ihstate.trans (by rw [hstate]), fun p hp => ?_, fun p hp => ?_⟩
    · obtain ⟨hpa, hpl⟩ := not_or.mp (List.mem_cons.not.mp hp)
      rw [ihother p hpl, hother p hpa]
    · by_cases hl : p ∈ l
      · have hlaid := ihlaid p hl
        rw [hshare, hnow] at hlaid
        by_cases hpa : p = a
        · subst hpa
          exact (laidOut_layPool s p).trans hlaid
        · rwa [hother p hpa] at hlaid
      · obtain rfl : p = a := (List.mem_cons.mp hp).resolve_right hl
        rw [ihother p hl]
        exact laidOut_layPool s p

/-- The pools whose share has changed. -/
def resharedPools (s : State) : List Nat := (s.pools.filter (·.2.reshare)).map (·.1)

theorem mem_resharedPools {s : State} {p : Nat} : p ∈ resharedPools s ↔ ∃ e ∈ s.pools, e.1 = p ∧ e.2.reshare = true := by
  simp only [resharedPools, List.mem_map, List.mem_filter]
  exact exists_congr fun e => ⟨fun ⟨⟨hm, hr⟩, hp⟩ => ⟨hm, hp, hr⟩, fun ⟨hm, hp, hr⟩ => ⟨⟨hm, hr⟩, hp⟩⟩

theorem exec_reshareLayout_loading {s : State} (h : s.ch.state = 1) : exec .reshareLayout s = .next s := by
  simp [exec, execReshareLayout, h]

theorem exec_reshareLayout_empty {s : State} (hup : engineUp s = true) (h : s.ch.state ≠ 1)
    (hempty : ∀ e ∈ s.pools, e.2.reshare = true → midEmpty e.2 = true) :
    exec .reshareLayout s = .next ((resharedPools s).foldl layPool s) := by
  have hall : s.pools.all (fun e => !e.2.reshare || midEmpty e.2) = true := by
    simpa only [List.all_eq_true, Bool.or_eq_true, Bool.not_eq_true', or_iff_not_imp_left, Bool.not_eq_false] using hempty
  unfold exec execReshareLayout
  simp [hup, h, hall, resharedPools]

/-! ## IQ_NOTICE_CLEAR (R95, R96) -/

theorem iqNoticeW_eq (s : State) (p : Nat) (v : Word) : iqNoticeW s p v = setPool s p
    (if wbit v 0 then
      { getPool s p with
        crossed := false, crossCount := 0, peak := (getPool s p).level,
        fbEntered := (getPool s p).fbEntered && !wbit v 1 }
    else { getPool s p with fbEntered := (getPool s p).fbEntered && !wbit v 1 }) := by
  unfold iqNoticeW w1c
  cases wbit v 0 <;> rfl

/-- Settles O19: a new storm interval clears the storm counts, a layout is a layout of each reshared pool, and the clear
of a notice restarts the peak. -/
theorem stormReshareAndNotices : Obligations.StormReshareAndNotices := by
  unfold Obligations.StormReshareAndNotices
  refine ⟨fun s hup => ⟨exec_stormInterval_within, fun h => ⟨_, exec_stormInterval_passed hup h, rfl,
    fun p => by rw [getPool, Tbl.get_mapVal s.pools rfl]; rfl⟩⟩, fun s _ => exec_reshareLayout_loading,
    fun s hup hload hempty => ?_, fun s a p v h => ?_⟩
  · obtain ⟨hstate, hother, hlaid⟩ := layPools_spec (resharedPools s) s
    refine ⟨_, exec_reshareLayout_empty hup hload hempty, hstate, fun p hp => hother p fun hmem => ?_, fun p share hp hs => ?_⟩
    · obtain ⟨e, he, hep, hre⟩ := mem_resharedPools.mp hmem
      exact absurd hre (by simp [hp e he hep])
    · obtain ⟨hshare, hre, hcause, hqueue, -, hscrub⟩ := hlaid p (mem_resharedPools.mpr hp)
      subst hs
      exact ⟨hshare, hre, hcause, hqueue, hscrub⟩
  · simp only [exec, execIqNoticeClear, hostWrite_granted _ _ _ _ h, iqNoticeW_eq]

end Sys2Proof.Machine

namespace Sys2Proof.Machine

/-!
# The return procedure and HOLD_FALLBACK

IQ_RETURN_START, IQ_RETURN_END and RETRY_SCRUB (R91), IQ_HOLD_FALLBACK (R89, R91): registers of one pool, and with the
first entry into fallback after READY the notice of R96 and its record.
-/

/-! ## The return procedure (R91) -/

/-- Where no scrub runs nothing is zeroed. -/
theorem zeroedNow_of_idle (s : State) {x : Pool} (h : x.scrub = false) : zeroedNow s x = x := by
  have hrun : scrubRun s x = 0 := by simp [scrubRun, h]
  simp [zeroedNow, hrun]

/-- Two tile cycles for each entry after its start a scrub has zeroed the whole share. -/
theorem scrubRun_of_ended {s : State} {x : Pool} (hs : x.scrub = true)
    (ht : x.scrubAt + 4096 * x.share ≤ s.clk.meridian) : scrubRun s x = 1024 * x.share := by
  rw [scrubRun, if_pos hs]
  omega

theorem midEmpty_of_forall {x : Pool} (h : ∀ e ∈ x.queue, e.place ≠ 2) : midEmpty x = true := by
  simpa [midEmpty, placeCount] using h

/-- Nothing is zeroed before the scrub that starts here. -/
theorem exec_iqReturnStart {s : State} {p : BitVec 6} (hup : engineUp s = true) (hf : (getPool s p.toNat).fallback = true)
    (hempty : midEmpty (getPool s p.toNat) = true) (hh : (getPool s p.toNat).hold = false)
    (hs : (getPool s p.toNat).scrub = false) (hr : (getPool s p.toNat).reshare = false)
    (hc : (getPool s p.toNat).cause = 2 ∨ (getPool s p.toNat).cause = 3 ∨ (getPool s p.toNat).cause = 6) :
    exec (.iqReturnStart p) s =
      .next (setPool s p.toNat { getPool s p.toNat with scrub := true, scrubAt := s.clk.meridian }) := by
  have hcause : ((getPool s p.toNat).cause == 2 || (getPool s p.toNat).cause == 3 ||
      ((getPool s p.toNat).cause == 4 && s.ch.state == 2) || (getPool s p.toNat).cause == 6) = true := by
    rcases hc with h | h | h <;> simp [h]
  simp [exec, execIqReturnStart, startScrub, hup, hf, hempty, hh, hs, hr, hcause, zeroedNow_of_idle s hs]

theorem exec_iqReturnEnd {s : State} {p : BitVec 6} (ok : Bool) (hup : engineUp s = true)
    (hs : (getPool s p.toNat).scrub = true)
    (ht : (getPool s p.toNat).scrubAt + 4096 * (getPool s p.toNat).share ≤ s.clk.meridian) :
    exec (.iqReturnEnd p ok) s = .next (
      if ok then setPool s p.toNat { zeroedNow s (getPool s p.toNat) with scrub := false, fallback := false, cause := 0 }
      else fbLog (setPool s p.toNat { zeroedNow s (getPool s p.toNat) with scrub := false, cause := 5 }) p.toNat) := by
  simp [exec, execIqReturnEnd, hup, hs, ht]

theorem retryScrubW_eq (s : State) (p : Nat) (v : Word) : retryScrubW s p v =
    if wbit v 0 = true ∧ (getPool s p).fallback = true ∧ (getPool s p).cause = 5 ∧ (getPool s p).hold = false then
      setPool s p { zeroedNow s (getPool s p) with scrub := true, scrubAt := s.clk.meridian } else s := by
  simp only [retryScrubW, Bool.and_eq_true, beq_iff_eq, Bool.not_eq_true', and_assoc]
  rfl

/-! ## An entry into fallback (R89, R96) -/

theorem onlyRecords_iqMessage (s : State) (rose : Bool) : OnlyRecords s (iqMessage s rose) := by
  unfold iqMessage
  split
  · exact onlyRecords_pfNotice ..
  · exact .refl s

@[simp] theorem iqMessage_ac (s : State) (rose : Bool) : (iqMessage s rose).ac = s.ac := by
  unfold iqMessage
  split <;> simp

/-- The notice and the record of an entry leave everything but the Logbook, the vectors and the lanes. -/
theorem fbLog_iqMessage (s : State) (rose : Bool) (p : Nat) :
    let t := fbLog (iqMessage s rose) p
    t = { s with lb := t.lb, nv := t.nv, lane0 := t.lane0, lane1 := t.lane1 } := by
  have hac : (fbLog (iqMessage s rose) p).ac = s.ac := (logReq_ac ..).trans (iqMessage_ac ..)
  exact Eq.trans ((onlyRecords_iqMessage s rose).trans (onlyRecords_logReq ..)) (by rw [← hac])

/-- A pool enters fallback with CAUSE HELD: its notice bit latches on an entry after READY. -/
theorem enterFallback_held (s : State) (p : Nat) :
    let t := enterFallback s p 6
    getPool t p = { zeroedNow s (getPool s p) with
      fallback := true, cause := 6, scrub := false
      fbEntered := (getPool s p).fbEntered || (!(getPool s p).fallback && s.pw.ready) } ∧
    (∀ m, m ≠ p → getPool t m = getPool s m) ∧
    t = { s with pools := t.pools, lb := t.lb, nv := t.nv, lane0 := t.lane0, lane1 := t.lane1 } := by
  unfold enterFallback
  dsimp only
  split
  · next h =>
    have hlatch : (!(getPool s p).fallback && s.pw.ready) = false := by simpa [Bool.or_eq_true, or_iff_not_imp_left] using h
    rw [hlatch, Bool.or_false]
    exact ⟨getPool_setPool .., fun m hm => getPool_setPool_ne _ _ _ _ hm, rfl⟩
  · next h =>
    have hlatch : (!(getPool s p).fallback && s.pw.ready) = true := by simpa using h
    rw [hlatch, Bool.or_true, fbLog_iqMessage]
    refine ⟨?_, fun m hm => ?_, rfl⟩
    · refine (getPool_setPool ..).trans ?_
      rw [getPool_setPool]
    · exact (getPool_setPool_ne _ _ _ _ hm).trans (getPool_setPool_ne _ _ _ _ hm)

/-! ## HOLD_FALLBACK (R89, R91) -/

theorem iqHoldW_of_bitOnly {s : State} {p : Nat} {v : Word} (h : (poolRec s p).isSome = false ∨ wbit v 0 = false ∨
    (getPool s p).fallback = true ∧ (getPool s p).scrub = false) :
    iqHoldW s p v = setPool s p { getPool s p with hold := wbit v 0 } := by
  unfold iqHoldW
  rcases h with h | h | ⟨hf, hs⟩
  · simp only [Option.isSome_eq_false_iff] at h
    simp [h]
  · simp [h]
  · simp [hf, hs]

theorem iqHoldW_of_enters {s : State} {p : Nat} {v : Word} (hrec : (poolRec s p).isSome = true) (hv : wbit v 0 = true)
    (h : (getPool s p).fallback = false ∨ (getPool s p).scrub = true) :
    iqHoldW s p v = enterFallback (setPool s p { getPool s p with hold := true }) p 6 := by
  have hnone : (poolRec s p).isNone = false := by simpa using hrec
  unfold iqHoldW
  simp only [hnone, hv, Bool.false_eq_true, if_false, Bool.true_and]
  rw [if_pos (by simpa using h)]

/-- A hold of a pool that is out of fallback or in its scrub. -/
theorem iqHoldW_enters {s : State} {p : Nat} {v : Word} (hrec : (poolRec s p).isSome = true) (hv : wbit v 0 = true)
    (h : (getPool s p).fallback = false ∨ (getPool s p).scrub = true) :
    let t := iqHoldW s p v
    getPool t p = { zeroedNow s (getPool s p) with
      hold := true, fallback := true, cause := 6, scrub := false
      fbEntered := (getPool s p).fbEntered || (!(getPool s p).fallback && s.pw.ready) } ∧
    (∀ m, m ≠ p → getPool t m = getPool s m) ∧
    t = { s with pools := t.pools, lb := t.lb, nv := t.nv, lane0 := t.lane0, lane1 := t.lane1 } := by
  rw [iqHoldW_of_enters hrec hv h]
  obtain ⟨hpool, hother, hstate⟩ := enterFallback_held (setPool s p { getPool s p with hold := true }) p
  rw [getPool_setPool] at hpool
  exact ⟨hpool, fun m hm => (hother m hm).trans (getPool_setPool_ne _ _ _ _ hm), hstate⟩

theorem getPool_acked (s : State) (a : Access) (m : Nat) : getPool (acked s a) m = getPool s m := by
  rw [getPool, acked_pools, getPool]

/-- Settles O20: the return procedure by its commands, and a hold by whether it brings the pool into fallback. -/
theorem returnAndFallback : Obligations.ReturnAndFallback := by
  unfold Obligations.ReturnAndFallback
  refine ⟨⟨fun s p hup hf hempty => exec_iqReturnStart hup hf (midEmpty_of_forall hempty), fun s p hup hs ht => ?_,
    fun s a p v h => ?_⟩, fun s a p v h => ?_⟩
  · rw [exec_iqReturnEnd true hup hs ht, exec_iqReturnEnd false hup hs ht, zeroedNow, scrubRun_of_ended hs ht]
    exact ⟨rfl, rfl⟩
  · simp only [exec, execRetryScrub, hostWrite_granted _ _ _ _ h, retryScrubW_eq]
  · have hexec : exec (.iqHoldFallback a p v) s = .next (acked (iqHoldW s p.toNat v) a) :=
      congrArg _ (hostWrite_granted _ _ _ _ h)
    rw [hexec]
    refine ⟨fun hbit => by rw [iqHoldW_of_bitOnly hbit], fun hrec hv hin => ?_⟩
    obtain ⟨hpool, hother, hstate⟩ := iqHoldW_enters hrec hv hin
    refine ⟨_, rfl, by rw [getPool_acked, hpool], fun m hm => by rw [getPool_acked, hother m hm], ?_⟩
    simp only [acked_pools, acked_lb, acked_nv, acked_lane0, acked_lane1]
    exact congrArg (acked · a) hstate

end Sys2Proof.Machine

namespace Sys2Proof.Machine

/-!
# The context store as a whole

SC_ERASE_ALL and the end of its scrub (R115), and the end of a write-back (R106).
-/

/-! ## SC_ERASE_ALL (R115) -/

theorem exec_scEraseAll {s : State} {a : Access} (v : Word) (h : granted s a true (mgmtAt a 0x40014) = true) :
    exec (.scEraseAll a v) s = .next (acked (scEraseW s v) a) :=
  congrArg _ (hostWrite_granted _ _ _ _ h)

theorem scEraseW_zero {s : State} {v : Word} (hv : wbit v 0 = false) : scEraseW s v = s := by
  simp [scEraseW, hv]

theorem scEraseW_refused {s : State} {v : Word} (hv : wbit v 0 = true)
    (h : (∃ e ∈ s.rings, e.2.active = true) ∨ ∃ e ∈ s.units, e.2.st = 1) :
    scEraseW s v = { s with sc := { s.sc with eraseRefused := true } } := by
  have hbusy : (s.rings.any (fun e => e.2.active) || s.units.any (fun e => e.2.st == 1)) = true := by
    simpa only [Bool.or_eq_true, List.any_eq_true, beq_iff_eq] using h
  simp [scEraseW, hv, hbusy]

theorem scEraseW_taken {s : State} {v : Word} (hv : wbit v 0 = true) (hrings : ∀ e ∈ s.rings, e.2.active = false)
    (hunits : ∀ e ∈ s.units, e.2.st ≠ 1) :
    scEraseW s v = { eraseCtx s with sc := { (eraseCtx s).sc with eraseCmd := true } } := by
  have hr : s.rings.any (fun e => e.2.active) = false := List.any_eq_false.mpr fun e he => by simp [hrings e he]
  have hu : s.units.any (fun e => e.2.st == 1) = false := List.any_eq_false.mpr fun e he => by simp [hunits e he]
  simp [scEraseW, hv, hr, hu]

/-! ## CONTEXT_SCRUB_DONE (R115, R347) -/

/-- A draw changes the instances and the counter of free values (R203). -/
theorem drbgDraw_state (s : State) (k n : Nat) :
    let t := (drbgDraw s k n).1
    t = { s with free := t.free, kv := { s.kv with drbg := t.kv.drbg } } := by
  unfold drbgDraw
  dsimp only
  split <;> rfl

theorem ctxScrubbed_state (s : State) :
    let t := ctxScrubbed s
    t = { s with sc := t.sc, free := t.free, kv := { s.kv with drbg := t.kv.drbg } } :=
  congrArg (fun x : State => { x with sc := (ctxScrubbed s).sc }) (drbgDraw_state s 0 32)

theorem ctxGet_ctxScrubbed (s : State) (r : CtxRef) : ctxGet (ctxScrubbed s) r = .free := by
  unfold ctxGet
  split <;> rfl

theorem ctxScrubbed_eraseDone (s : State) : (ctxScrubbed s).sc.eraseDone = (s.sc.eraseDone || s.sc.eraseCmd) := by
  have hsc : (drbgDraw s 0 32).1.sc = s.sc := by rw [drbgDraw_state s 0 32]
  rw [ctxScrubbed, hsc]

theorem exec_contextScrubDone_waits {s : State} {since : Nat} (hs : s.sc.scrubAt = some since)
    (h : s.clk.meridian < since + 393216 ∨ drbgUp s 0 = false ∨ maskable s = false) :
    exec .contextScrubDone s = .next s := by
  simp only [exec, execContextScrubDone, hs]
  rw [if_neg]
  rcases h with h | h | h <;> simp [h]

theorem exec_contextScrubDone_ends {s : State} {since : Nat} (hup : engineUp s = true) (hs : s.sc.scrubAt = some since)
    (ht : since + 393216 ≤ s.clk.meridian) (hd : drbgUp s 0 = true) (hm : maskable s = true) :
    exec .contextScrubDone s = .next (ctxScrubbed s) := by
  simp [exec, execContextScrubDone, hs, hup, ht, hd, hm]

/-! ## CONTEXT_WRITEBACK_DONE (R106) -/

theorem scWaiting_none {s : State} (h : s.sc.cmd = none) : scWaiting s = s := by
  simp [scWaiting, h]

@[simp] theorem ctxPut_wb (s : State) (r : CtxRef) (c : Ctx) : (ctxPut s r c).sc.wb = s.sc.wb := by
  unfold ctxPut
  split <;> rfl

@[simp] theorem ctxPut_cmd (s : State) (r : CtxRef) (c : Ctx) : (ctxPut s r c).sc.cmd = s.sc.cmd := by
  unfold ctxPut
  split <;> rfl

/-- A compact context lies outside the standard table (R108). -/
theorem ctxPut_std {r : CtxRef} (h : r.compact = true) (s : State) (c : Ctx) : (ctxPut s r c).sc.std = s.sc.std := by
  rw [ctxPut, if_pos h]

/-- A standard or wide context lies outside the compact table (R108). -/
theorem ctxPut_cmp {r : CtxRef} (h : r.compact = false) (s : State) (c : Ctx) : (ctxPut s r c).sc.cmp = s.sc.cmp := by
  rw [ctxPut, if_neg (by simp [h])]

theorem wbStore_none {s : State} {compact : Bool} {i : Nat}
    (h : ∀ w ∈ s.sc.wb, ¬(w.ref.compact = compact ∧ w.ref.idx = i)) : wbStore s compact i = s := by
  have hfind : s.sc.wb.find? (fun w => w.ref.compact == compact && w.ref.idx == i) = none :=
    List.find?_eq_none.mpr fun w hw => by simpa using h w hw
  rw [wbStore, hfind]

theorem wbStore_found {s : State} {compact : Bool} {i : Nat} {w : WriteBack}
    (h : s.sc.wb.find? (fun w => w.ref.compact == compact && w.ref.idx == i) = some w) :
    wbStore s compact i = ctxPut { s with sc := { s.sc with wb := s.sc.wb.erase w } } w.ref w.ctx := by
  rw [wbStore, h]

theorem wbStore_cmd (s : State) (compact : Bool) (i : Nat) : (wbStore s compact i).sc.cmd = s.sc.cmd := by
  unfold wbStore
  split
  · exact ctxPut_cmd ..
  · rfl

/-- With no command waiting the end of a write-back is its store alone. -/
theorem exec_contextWritebackDone {s : State} (compact : Bool) (idx : BitVec 21) (hup : engineUp s = true)
    (hc : s.sc.cmd = none) : exec (.contextWritebackDone compact idx) s = .next (wbStore s compact idx.toNat) := by
  simp only [exec, execContextWritebackDone, hup, if_true, scWaiting_none ((wbStore_cmd ..).trans hc)]

/-- Settles O21: the three cases of the erase; the scrub ends or waits; a write-back that ends is a store of its context. -/
theorem contextEraseRule : Obligations.ContextEraseRule := by
  unfold Obligations.ContextEraseRule
  refine ⟨fun s a v h => ?_, fun s since hup hs => ⟨exec_contextScrubDone_waits hs, fun ht hd hm => ?_⟩,
    fun s compact idx hup hc => ?_⟩
  · rw [exec_scEraseAll v h]
    refine ⟨fun hv => by rw [scEraseW_zero hv], fun hv hbusy => by rw [scEraseW_refused hv hbusy],
      fun hv hrings hunits => ?_⟩
    rw [scEraseW_taken hv hrings hunits]
    rfl
  · exact ⟨_, exec_contextScrubDone_ends hup hs ht hd hm, ctxScrubbed_state s, ctxGet_ctxScrubbed s, rfl, rfl, rfl, rfl,
      ctxScrubbed_eraseDone s⟩
  · rw [exec_contextWritebackDone compact idx hup hc]
    refine ⟨fun hnone => by rw [wbStore_none hnone], fun w hw => ⟨_, rfl, ?_⟩⟩
    have hcompact : w.ref.compact = compact := by
      have hmatch := List.find?_some hw
      simp only [Bool.and_eq_true, beq_iff_eq] at hmatch
      exact hmatch.1
    rw [wbStore_found hw]
    obtain ⟨S, hS⟩ := ctxPut_sc { s with sc := { s.sc with wb := s.sc.wb.erase w } } w.ref w.ctx
    exact ⟨by rw [hS], ctxPut_wb .., ctxGet_ctxPut _ _, fun h => ctxPut_std (hcompact.trans h) ..,
      fun h => ctxPut_cmp (hcompact.trans h) ..⟩

end Sys2Proof.Machine

namespace Sys2Proof.Machine

/-!
# Context commands

SC_PEEK, SC_SEAL, SC_UNSEAL and SC_FREE (R116, R300): a granted write of SC_CMD that nothing ignores or delays starts its
command at once on the context that SC_IDX names.
-/

/-! ## The write of SC_CMD -/

/-- OP and KIND of the written command are read back. -/
theorem wfld_scCmd {op : Nat} (hop : op < 8) (kind : BitVec 2) :
    wfld (word (op + 8 * kind.toNat)) 0 3 = op ∧ wfld (word (op + 8 * kind.toNat)) 3 2 = kind.toNat := by
  have hkind := kind.isLt
  simp only [wfld, fld, word, BitVec.toNat_ofNat]
  omega

/-- A write of SC_CMD is granted, and nothing makes the interface ignore or delay its command (R116, R341). -/
structure ScTakes (s : State) (a : Access) : Prop where
  grant : granted s a true (mgmtAt a 0x40040) = true
  started : failedStart s = false
  loud : quietWrites s = false
  idle : s.sc.busy = false
  go : nostart s = false

section Takes
variable {s : State} {a : Access} (ht : ScTakes s a) (kind : BitVec 2)
include ht

theorem hostWrite_scCmd {op : Nat} (h1 : 1 ≤ op) (h4 : op ≤ 4) :
    hostWrite s a (mgmtAt a 0x40040) (fun s => scCmd s (word (op + 8 * kind.toNat))) =
      acked (scStart s op kind.toNat s.sc.idx.toNat) a := by
  have h0 : op ≠ 0 := by omega
  have hno : ¬ 4 < op := by omega
  obtain ⟨hop, hkind⟩ := wfld_scCmd (show op < 8 by omega) kind
  rw [hostWrite_granted _ _ _ _ ht.grant]
  simp [scCmd, hop, hkind, ht.started, ht.loud, ht.idle, ht.go, h0, hno]

theorem exec_scPeek : exec (.scPeek a kind) s = .next (acked (scStart s 1 kind.toNat s.sc.idx.toNat) a) :=
  congrArg _ (hostWrite_scCmd ht kind (by decide) (by decide))

theorem exec_scSeal : exec (.scSeal a kind) s = .next (acked (scStart s 2 kind.toNat s.sc.idx.toNat) a) :=
  congrArg _ (hostWrite_scCmd ht kind (by decide) (by decide))

theorem exec_scUnseal : exec (.scUnseal a kind) s = .next (acked (scStart s 3 kind.toNat s.sc.idx.toNat) a) :=
  congrArg _ (hostWrite_scCmd ht kind (by decide) (by decide))

theorem exec_scFree : exec (.scFree a kind) s = .next (acked (scStart s 4 kind.toNat s.sc.idx.toNat) a) :=
  congrArg _ (hostWrite_scCmd ht kind (by decide) (by decide))

theorem exec_scCommand {c : Instr}
    (hc : c = .scPeek a kind ∨ c = .scSeal a kind ∨ c = .scUnseal a kind ∨ c = .scFree a kind) :
    ∃ op, exec c s = .next (acked (scStart s op kind.toNat s.sc.idx.toNat) a) := by
  rcases hc with rfl | rfl | rfl | rfl
  · exact ⟨1, exec_scPeek ht kind⟩
  · exact ⟨2, exec_scSeal ht kind⟩
  · exact ⟨3, exec_scUnseal ht kind⟩
  · exact ⟨4, exec_scFree ht kind⟩

end Takes

/-! ## The refusals in their order (R116, R300) -/

/-- The contexts of a kind. -/
def kindTotal (s : State) (kind : Nat) : Nat := if kind = 1 then cmpTotal s else stdTotal s

/-- A command that passes every refusal: its context can be looked at. -/
structure ScNamed (s : State) (kind i : Nat) : Prop where
  kind_lt : kind < 2
  inRange : i < kindTotal s kind
  ready : s.sc.ready = true
  settled : ctxResetting s (kind == 1) i = false
  ownCell : kind = 0 → (s.sc.std.get .free i).kind ≠ 3

section Start
variable {s : State} (op : Nat) {kind i : Nat}

theorem scStart_badKind (hk : 2 ≤ kind) : scStart s op kind i = scResult s 3 := by
  simp [scStart, hk]

/-- With KIND good the index is judged next. -/
theorem scStart_outOfRange (hk : kind < 2) (hi : kindTotal s kind ≤ i) : scStart s op kind i = scResult s 2 := by
  have hkind : ¬ 2 ≤ kind := by omega
  simp only [kindTotal] at hi
  simp [scStart, hkind, hi]

theorem scStart_notReady (hk : kind < 2) (hi : i < kindTotal s kind)
    (h : s.sc.ready = false ∨ ctxResetting s (kind == 1) i = true) : scStart s op kind i = scResult s 4 := by
  have hkind : ¬ 2 ≤ kind := by omega
  simp only [kindTotal] at hi
  simp [scStart, hkind, hi, h]

theorem scStart_extension (hi : i < kindTotal s 0) (hr : s.sc.ready = true) (hreset : ctxResetting s false i = false)
    (hext : (s.sc.std.get .free i).kind = 3) : scStart s op 0 i = scResult s 3 := by
  have hrange : i < stdTotal s := hi
  simp [scStart, hrange, hr, hreset, hext]

/-- Past the refusals a SEAL or FREE of a held context waits, and every other command has its effect. -/
theorem scStart_named (h : ScNamed s kind i) : scStart s op kind i =
    if (op == 2 || op == 4) && ctxHeld s noUnit (scRef s (kind == 1) i) then
      { s with sc := { s.sc with busy := true, cmd := some (op, kind, i), cmdWaits := true } }
    else scApply s op (scRef s (kind == 1) i) := by
  obtain ⟨hk, hi, hr, hreset, hown⟩ := h
  have hkind : ¬ 2 ≤ kind := by omega
  have hcell : (!(kind == 1) && (s.sc.std.get .free i).kind == 3) = false := by
    rcases Nat.le_one_iff_eq_zero_or_eq_one.mp (Nat.lt_succ_iff.mp hk) with rfl | rfl
    · simpa using hown rfl
    · rfl
  simp only [kindTotal] at hi
  simp [scStart, hkind, hi, hr, hreset, hcell]

theorem scStart_unheld (h : ScNamed s kind i) (hheld : ctxHeld s noUnit (scRef s (kind == 1) i) = false) :
    scStart s op kind i = scApply s op (scRef s (kind == 1) i) := by
  rw [scStart_named op h, hheld, Bool.and_false]
  rfl

theorem scStart_held {op : Nat} (hop : op = 2 ∨ op = 4) (h : ScNamed s kind i)
    (hheld : ctxHeld s noUnit (scRef s (kind == 1) i) = true) : scStart s op kind i =
      { s with sc := { s.sc with busy := true, cmd := some (op, kind, i), cmdWaits := true } } := by
  rw [scStart_named op h, hheld, Bool.and_true]
  exact if_pos (by simpa using hop)

end Start

/-- Settles O22: each command starts at once, with the first refusal that applies, its wait for a holder, or its effect. -/
theorem contextCommands : Obligations.ContextCommands := by
  unfold Obligations.ContextCommands
  refine ⟨fun s a kind r c hg hf hq hb hn hk hr hc hi hready hreset hown hheld => ?_,
    fun s a kind c n hcmd hg hf hq hb hn htotal => ?_,
    fun s a kind hg hf hq hb hn hk hi hready hreset hown hheld => ?_⟩
  · subst hr hc
    have ht : ScTakes s a := ⟨hg, hf, hq, hb, hn⟩
    have hnamed : ScNamed s kind.toNat s.sc.idx.toNat := ⟨hk, hi, hready, hreset, hown⟩
    rw [exec_scPeek ht, exec_scSeal ht, exec_scUnseal ht, exec_scFree ht]
    simp only [scStart_unheld _ hnamed hheld]
    exact ⟨rfl, rfl, rfl, rfl⟩
  · obtain ⟨op, hexec⟩ := exec_scCommand ⟨hg, hf, hq, hb, hn⟩ kind hcmd
    subst htotal
    rw [hexec]
    refine ⟨fun hk => by rw [scStart_badKind op hk], fun hk hi => by rw [scStart_outOfRange op hk hi],
      fun hk hi h => by rw [scStart_notReady op hk hi h], fun hk hi hready hreset hext => ?_⟩
    rw [hk] at hi ⊢
    rw [scStart_extension op hi hready hreset hext]
  · have ht : ScTakes s a := ⟨hg, hf, hq, hb, hn⟩
    have hnamed : ScNamed s kind.toNat s.sc.idx.toNat := ⟨hk, hi, hready, hreset, hown⟩
    rw [exec_scFree ht, exec_scSeal ht, scStart_held (.inr rfl) hnamed hheld, scStart_held (.inl rfl) hnamed hheld]
    exact ⟨rfl, rfl⟩

end Sys2Proof.Machine

namespace Sys2Proof.Machine

/-!
# The blocks of a unit

EXECUTE_BLOCK_DONE (R136, R138, R143): a block with nothing to compare or that agrees is released, and one that disagrees
is computed again while its unit's retry limit allows.
-/

/-! ## What counts (R20) -/

/-- Each unit that stands once among a unit and those below it counts once. -/
theorem getCnt_count (f : Counts → Counts) {s : State} {u w : Nat} (hnd : (treeOf s.chart.units 9 u).Nodup)
    (hw : w ∈ treeOf s.chart.units 9 u) : getCnt (count s u f) w = f (getCnt s w) := by
  refine (get_tallied f _ s.cnts w).trans ?_
  rw [List.count_eq_one_of_mem hnd hw]
  rfl

theorem count_eq (s : State) (u : Nat) (f : Counts → Counts) : ∃ N, count s u f = { s with cnts := N } := ⟨_, rfl⟩

/-- An attempt that failed and the one that follows it count in each unit alike (R138). -/
theorem count_retry {s : State} {u : Nat} (hnd : (treeOf s.chart.units 9 u).Nodup) :
    ∃ N, count (countMismatch s u) u (fun c => { c with retry := sat32 c.retry }) = { s with cnts := N } ∧
      ∀ w ∈ treeOf s.chart.units 9 u, N.get .init w =
        { getCnt s w with mismatch := sat32 (getCnt s w).mismatch, retry := sat32 (getCnt s w).retry } := by
  obtain ⟨M, hM⟩ := count_eq s u (fun c => { c with mismatch := sat32 c.mismatch })
  obtain ⟨N, hN⟩ := count_eq { s with cnts := M } u (fun c => { c with retry := sat32 c.retry })
  rw [countMismatch, hM]
  refine ⟨N, hN, fun w hw => ?_⟩
  have hmismatch := getCnt_count (fun c => { c with mismatch := sat32 c.mismatch }) hnd hw
  have hretry := getCnt_count (s := { s with cnts := M }) (fun c => { c with retry := sat32 c.retry }) hnd hw
  rw [hM] at hmismatch
  rw [hN, hmismatch] at hretry
  exact hretry

/-- A void bound changes the chains and the count of the void bounds (R73). -/
theorem voidUnit_eq (s : State) (hit : Chain → Bool) : ∃ C A, voidUnit s hit = { s with chains := C, ad := A } :=
  ⟨_, _, rfl⟩

/-! ## Compared units (R136, R137) -/

theorem checkFlag_eq_zero {j : Job} : checkFlag j = 0 ↔ j.check ≠ 1 ∧ j.check ≠ 2 := by
  unfold checkFlag
  split
  · simp [flDual, *]
  · split <;> simp [flInverse, *]

/-! ## The computed block -/

/-- The comparison decides where nothing stops the descriptor, no operand is bad and no slot is LOADED. -/
theorem exec_executeBlockDone {s : State} {u : BitVec 12} {env : BlockEnv} {j : Job} {c : Chain} {b : PlanBlock}
    (hup : engineUp s = true) (hj : (getUni s u.toNat).job = some j) (hc : findChain s j.chain = some c)
    (hb : j.plan.blocks[j.blk]? = some b) (hphase : j.phase = .exec) (hstop : j.stop = none) (hpar : env.parity = false)
    (hloaded : (getUni s u.toNat).ar.loaded = []) :
    exec (.executeBlockDone u env) s = .next (if !env.agree && checkFlag j != 0 && b.count != 0
      then mismatch s u.toNat j b else swapThen s u.toNat j c env.swapBad b) := by
  have hreads : loadedReads s u.toNat env.loadedReads.toNat = s := by simp [loadedReads, hloaded]
  change execExecuteBlockDone u env s = _
  simp [execExecuteBlockDone, hj, hc, hb, hup, hphase, hstop, hpar, hreads]

theorem swapThen_of_not_swap {b : PlanBlock} (h : b.swap = false) (s : State) (uid : Nat) (j : Job) (c : Chain) (bad : Bool) :
    swapThen s uid j c bad b = releaseBlock s uid j c b := by
  simp [swapThen, h]

/-- A block that puts out nothing and is not the last counts, and the next block begins (R143). -/
theorem releaseBlock_silent {s : State} {uid : Nat} {j : Job} {c : Chain} {b : PlanBlock} (hj : (getUni s uid).job = some j)
    (hout : b.out = []) (hkey : b.key = none) (htile : b.tile = none) (hcmd : b.cmd = none)
    (hnext : j.blk + 1 < j.plan.blocks.length) :
    releaseBlock s uid j c b = count (setUni s uid { getUni s uid with job := some { j with blk := j.blk + 1, tries := 0 } })
      uid (fun k => { k with blocks := (k.blocks + b.count) % 2 ^ 64 }) := by
  simp [releaseBlock, hj, hout, hkey, htile, hcmd, hnext]

/-- A block that disagrees is computed again (R138): both events count and the next attempt begins; of the chains and of
admission only the bounds that it makes void change (R73). -/
theorem mismatch_retry {s : State} {uid : Nat} {j : Job} (b : PlanBlock) (haction : j.action ≠ 0) (htries : j.tries < j.retryMax)
    (hcls : ((unitRec s uid).map (·.cls)).getD 0 ≠ 2) (hnd : (treeOf s.chart.units 9 uid).Nodup) :
    ∃ N C A, mismatch s uid j b = { s with
        units := s.units.set uid { getUni s uid with job := some { j with tries := j.tries + 1 } }
        cnts := N, chains := C, ad := A } ∧
      ∀ w ∈ treeOf s.chart.units 9 uid, N.get .init w =
        { getCnt s w with mismatch := sat32 (getCnt s w).mismatch, retry := sat32 (getCnt s w).retry } := by
  obtain ⟨N, hN, hcnt⟩ := count_retry hnd
  obtain ⟨C, A, hvoid⟩ := voidUnit_eq (setUni { s with cnts := N } uid
    { getUni s uid with job := some { j with tries := j.tries + 1 } }) (visits [(getUni s uid).lockPool])
  have hunit : getUni (countMismatch s uid) uid = getUni s uid := rfl
  refine ⟨N, C, A, ?_, hcnt⟩
  simp only [mismatch, if_neg haction, if_pos htries, if_neg hcls, hunit, hN]
  exact hvoid

/-- Settles O28: the comparison decides between the release of the block and its next attempt. -/
theorem blockDoneOrRetried : Obligations.BlockDoneOrRetried := by
  unfold Obligations.BlockDoneOrRetried
  intro s u env j c b x hup hx hj hc hb hphase hstop hpar hloaded
  subst hx
  rw [exec_executeBlockDone hup hj hc hb hphase hstop hpar hloaded]
  refine ⟨fun hagree hout hswap hkey htile hcmd hnext => ?_, fun hagree hcheck haction hcount htries hcls hnd => ?_⟩
  · have hrelease : (!env.agree && checkFlag j != 0 && b.count != 0) = false := by
      rcases hagree with h | h | h
      · simp [h]
      · simp [checkFlag_eq_zero.mpr (show j.check ≠ 1 ∧ j.check ≠ 2 by omega)]
      · simp [h]
    simp only [hrelease, Bool.false_eq_true, if_false, swapThen_of_not_swap hswap,
      releaseBlock_silent hj hout hkey htile hcmd hnext]
  · have hflag : checkFlag j ≠ 0 := fun h => by have := checkFlag_eq_zero.mp h; omega
    have hretry : (!env.agree && checkFlag j != 0 && b.count != 0) = true := by simp [hagree, hflag, hcount]
    obtain ⟨N, C, A, heq, hcnt⟩ := mismatch_retry b haction htries hcls hnd
    rw [if_pos hretry, heq]
    exact ⟨_, rfl, hcnt, congrArg Uni.job (getUni_setUni ..), fun v hv => getUni_setUni_ne _ _ _ _ hv, rfl⟩

end Sys2Proof.Machine

namespace Sys2Proof.Machine

/-!
# Intervals of failures and of locked accesses, and the notices of both

PIN_FAIL_INTERVAL and LOCKED_LOG_INTERVAL begin an interval when Meridian bits [31:0] pass 0 (R184, R318);
PY_NOTICE_CLEAR and AC_NOTICE_CLEAR are W1C writes (R183, R313).
-/

/-! ## Intervals of 2^32 root cycles (R184, R318) -/

theorem exec_pinFailInterval_within {s : State} (h : s.clk.meridian / 2 ^ 32 ≤ s.py.iv) :
    exec .pinFailInterval s = .next s :=
  congrArg Host.Outcome.next (if_neg (by simp only [Bool.and_eq_true, decide_eq_true_eq]; omega))

/-- The counts of a function in a new interval: the failures of the interval restart at 0. -/
def pinRestarted (x : Fn) : Fn := { x with pinIv := 0 }

theorem exec_pinFailInterval_passed {s : State} (hup : active s = true) (h : s.py.iv < s.clk.meridian / 2 ^ 32) :
    exec .pinFailInterval s = .next { s with
      py := { s.py with iv := s.clk.meridian / 2 ^ 32 }
      fns := s.fns.mapVal fun _ => pinRestarted } :=
  congrArg Host.Outcome.next (if_pos (by simp only [hup, h, decide_true, Bool.and_self]))

/-- A function without an entry has counted no failure, so the restart holds for every function. -/
theorem getFn_pinIv_restarted (s : State) (py : Py) (f : Nat) :
    getFn { s with py := py, fns := s.fns.mapVal fun _ => pinRestarted } f = pinRestarted (getFn s f) :=
  Tbl.get_mapVal (f := fun _ => pinRestarted) s.fns rfl

theorem exec_lockedLogInterval_passed {s : State} (hup : active s = true) (h : s.ac.lockIv < s.clk.meridian / 2 ^ 32) :
    exec .lockedLogInterval s = .next { s with ac := { s.ac with
      lockIv := s.clk.meridian / 2 ^ 32
      lockPrev := if s.clk.meridian / 2 ^ 32 = s.ac.lockIv + 1 then s.ac.lockCur else 0
      lockCur := 0
      lockSeen := false } } :=
  congrArg Host.Outcome.next (if_pos (by simp only [hup, h, decide_true, Bool.and_self]))

/-! ## Notices (R183, R313) -/

theorem exec_pyNoticeClear {s : State} {a : Access} {v : Word} (h : granted s a true (mgmtAt a 0x60020) = true) :
    exec (.pyNoticeClear a v) s = .next (acked (pyNoticeW s v) a) :=
  congrArg _ (hostWrite_granted _ _ _ _ h)

theorem exec_acNoticeClear {s : State} {a : Access} {v : Word} (h : granted s a true (mgmtAt a 0x400008) = true) :
    exec (.acNoticeClear a v) s = .next (acked (acNoticeW s v) a) :=
  congrArg _ (hostWrite_granted _ _ _ _ h)

/-- AC_NOTICE is W1C: a bit stays unless the write names it. -/
theorem acNoticeW_notice_getLsbD (s : State) (v : Word) {n : Nat} (hn : n < 5) :
    (acNoticeW s v).ac.notice.getLsbD n = (s.ac.notice.getLsbD n && !v.getLsbD n) := by
  simp [acNoticeW, hn]

/-- Settles O30: each interval is one branch of its meaning, and each clear is the write of its register. -/
theorem noticesAndIntervals : Obligations.NoticesAndIntervals := by
  unfold Obligations.NoticesAndIntervals
  refine ⟨⟨fun s hup => ⟨exec_pinFailInterval_within, fun h => ?_⟩, fun s a v h => ?_⟩,
    fun s a v h => ?_, fun s n hup hn h => ?_⟩
  · exact ⟨_, exec_pinFailInterval_passed hup h, rfl, getFn_pinIv_restarted s _⟩
  · exact exec_pyNoticeClear h
  · exact ⟨acNoticeW s v, exec_acNoticeClear h, rfl, fun n => acNoticeW_notice_getLsbD s v⟩
  · subst hn
    exact exec_lockedLogInterval_passed hup h

end Sys2Proof.Machine

namespace Sys2Proof.Machine

/-!
# Vault commands as they are written

A granted write of KV_CMD that nothing ignores or delays starts its command at once (R206). A command that ends changes
BUSY, RESULT and the command alone (R209), and a parity error found in a slot changes its mark and KV_PARITY (R193).
-/

/-! ## The write of KV_CMD -/

/-- The command that a write of v starts: the operand registers as they stand. -/
def vaultCmd (s : State) (v : Word) (bad kekBad : Bool) : KvCmd :=
  ⟨wfld v 0 4, wbit v 4, wfld v 8 4, wfld v 16 7, s.kv.idx.toNat, s.kv.fnSel.toNat, s.kv.attr, s.kv.kek, s.kv.src, s.kv.dst,
    s.kv.len.toNat, s.kv.dlen.toNat, .none, 0, false, 0, false, bad, kekBad⟩

/-- OP, TYPE and KLEN of a GENERATE are read back. -/
theorem wfld_generate (ktype : BitVec 4) (klen : BitVec 7) :
    let v := word (3 + 2 ^ 8 * ktype.toNat + 2 ^ 16 * klen.toNat)
    wfld v 0 4 = 3 ∧ wfld v 8 4 = ktype.toNat ∧ wfld v 16 7 = klen.toNat := by
  have ht := ktype.isLt
  have hl := klen.isLt
  simp only [wfld, fld, word, BitVec.toNat_ofNat]
  omega

/-- OP and WRAPPER of a command on a blob are read back. -/
theorem wfld_blobOp {op : Nat} (hop : op < 16) (kek : Bool) :
    wfld (word (op + 16 * b2n kek)) 0 4 = op ∧ wbit (word (op + 16 * b2n kek)) 4 = kek := by
  simp only [wfld, fld, wbit, word, BitVec.toNat_ofNat, BitVec.getLsbD_ofNat, Nat.testBit_eq_decide_div_mod_eq]
  cases kek
  · simp only [b2n, Bool.false_eq_true, if_false]
    exact ⟨by omega, by simp; omega⟩
  · simp only [b2n, if_true]
    exact ⟨by omega, by simp; omega⟩

/-- A granted write of an operation that exists starts its command (R206). -/
theorem hostWrite_kvCmd {s : State} {a : Access} {v : Word} {bad kekBad : Bool} (h : kvTakes s a = true)
    (hop : wfld v 0 4 ≠ 0) (h8 : wfld v 0 4 ≤ 8) : hostWrite s a (kvCmdAt a) (fun s => kvCmdW s v bad kekBad) =
      acked (kvStart s (vaultCmd s v bad kekBad)) a := by
  simp only [kvTakes, Bool.and_eq_true, Bool.not_eq_true'] at h
  obtain ⟨⟨⟨⟨⟨hgrant, hstarted⟩, hloud⟩, hidle⟩, hunstruck⟩, hgo⟩ := h
  have hop8 : ¬ 8 < wfld v 0 4 := by omega
  rw [hostWrite_granted _ _ _ _ hgrant]
  simp [kvCmdW, vaultCmd, hstarted, hloud, hidle, hunstruck, hgo, hop, hop8]

/-! ## The state of a command that runs -/

/-- A command runs: BUSY, the command, and OUTLEN. -/
def kvRuns (s : State) (c : KvCmd) (outLen : Nat) : State :=
  { s with kv := { s.kv with busy := true, cmd := some c, outLen := outLen } }

theorem kvResult_kvRuns (s : State) (c : KvCmd) (outLen n : Nat) : kvResult (kvRuns s c outLen) n =
    { s with kv := { s.kv with result := n, cmd := none, busy := false, outLen := outLen } } := rfl

@[simp] theorem getSlot_setSlot (s : State) (i : Nat) (x : Slot) : getSlot (setSlot s i x) i = x := by
  simp [getSlot, setSlot]

theorem getSlot_setSlot_ne (s : State) {i m : Nat} (x : Slot) (h : m ≠ i) : getSlot (setSlot s i x) m = getSlot s m := by
  simp [getSlot, setSlot, Tbl.get_set_ne _ _ _ _ _ h]

/-- A parity error that nobody has counted yet is counted and marked (R193). -/
theorem kvFound_eq (s : State) (i : Nat) (bad : Bool) : kvFound s i bad =
    if bad = true ∧ (getSlot s i).badSeen = false then
      setSlot { s with kv := { s.kv with parity := sat32 s.kv.parity } } i { getSlot s i with badSeen := true }
    else s := by
  unfold kvFound slotParity
  cases bad <;> cases h : (getSlot s i).badSeen <;> simp [h]

/-- A parity error is found in the same way while a command runs. -/
theorem kvFound_kvRuns (s : State) (c : KvCmd) (outLen i : Nat) (bad : Bool) :
    kvFound (kvRuns s c outLen) i bad = kvRuns (kvFound s i bad) c outLen := by
  have hget : getSlot (kvRuns s c outLen) i = getSlot s i := rfl
  rw [kvFound_eq, kvFound_eq, hget]
  split <;> rfl

/-- A slot in which a parity error was looked for: only its mark can differ. -/
theorem getSlot_kvFound (s : State) (i : Nat) (bad : Bool) :
    ∃ seen, getSlot (kvFound s i bad) i = { getSlot s i with badSeen := seen } := by
  rw [kvFound_eq]
  split
  · exact ⟨true, getSlot_setSlot ..⟩
  · exact ⟨_, rfl⟩

theorem getSlot_kvFound_ne (s : State) {i m : Nat} (bad : Bool) (h : m ≠ i) : getSlot (kvFound s i bad) m = getSlot s m := by
  rw [kvFound_eq]
  split
  · exact getSlot_setSlot_ne _ _ h
  · rfl

/-- A parity error that is found changes the slots and KV_PARITY alone. -/
theorem kvFound_state (s : State) (i : Nat) (bad : Bool) :
    ∃ S n, kvFound s i bad = { s with kv := { s.kv with slots := S, parity := n } } := by
  rw [kvFound_eq]
  split
  · exact ⟨_, _, rfl⟩
  · exact ⟨s.kv.slots, s.kv.parity, rfl⟩

theorem kvFound_outLen (s : State) (i : Nat) (bad : Bool) : (kvFound s i bad).kv.outLen = s.kv.outLen := by
  obtain ⟨S, n, h⟩ := kvFound_state s i bad
  rw [h]

/-! ## The start of each command -/

section Start
variable {s : State} {c : KvCmd}

theorem not_isNone_of_holder {i : Nat} (h : (kvHolder s i).isSome = true) : ¬ (kvHolder s i).isNone = true := by
  simpa [Option.isSome_iff_ne_none] using h

/-- A slot in no range, or in that of a function in reset (R300). -/
theorem kvStart_peek_outside (hop : c.op = 1) (h : kvHolder s c.idx = none) :
    kvStart s c = kvResult (kvRuns s c s.kv.outLen) 1 := by
  rw [kvStart, hop]
  exact if_pos (Option.isNone_iff_eq_none.mpr h)

theorem kvStart_peek (hop : c.op = 1) (h : (kvHolder s c.idx).isSome = true) :
    kvStart s c = kvResult (kvPeek (kvFound (kvRuns s c s.kv.outLen) c.idx c.bad) c.idx) 0 := by
  rw [kvStart, hop]
  exact if_neg (not_isNone_of_holder h)

theorem kvStart_erase_extension (hop : c.op = 2) (h : (kvHolder s c.idx).isSome = true) (hk : (getSlot s c.idx).kind = 3) :
    kvStart s c = kvResult (kvRuns s c s.kv.outLen) 2 := by
  rw [kvStart, hop]
  exact (if_neg (not_isNone_of_holder h)).trans (if_pos hk)

theorem kvStart_erase (hop : c.op = 2) (h : (kvHolder s c.idx).isSome = true) (hk : (getSlot s c.idx).kind ≠ 3) :
    kvStart s c = kvResult (eraseSlots (kvRuns s c s.kv.outLen) (eraseSet s c.idx)) 0 := by
  rw [kvStart, hop]
  exact (if_neg (not_isNone_of_holder h)).trans (if_neg hk)

theorem kvStart_generate (hop : c.op = 3) : kvStart s c = kvGenerate (kvRuns s c s.kv.outLen) c := by
  rw [kvStart, hop]; rfl

theorem kvStart_unwrap (hop : c.op = 4) (h : kvWritable s c.idx = none) :
    kvStart s c = kvFetch (kvRuns s c s.kv.outLen) c c.len := by
  have hw : kvWritable (kvRuns s c s.kv.outLen) c.idx = none := h
  simp only [kvRuns] at hw
  rw [kvStart, hop]
  simp [hw, kvRuns]

theorem kvStart_wrap (hop : c.op = 5) : kvStart s c = kvWrap (kvRuns s c 0) c := by
  rw [kvStart, hop]; rfl

theorem kvStart_attest (hop : c.op = 6) : kvStart s c = kvAttest (kvRuns s c 0) c := by
  rw [kvStart, hop]; rfl

theorem kvStart_eraseFn (hop : c.op = 7) :
    kvStart s c = kvResult (eraseFn (kvRuns s c s.kv.outLen) c.func) 0 := by
  rw [kvStart, hop]; rfl

theorem kvStart_eraseAll (hop : c.op = 8) : kvStart s c = eraseVault (kvRuns s c s.kv.outLen) := by
  rw [kvStart, hop]; rfl

end Start

end Sys2Proof.Machine

namespace Sys2Proof.Machine

/-!
# What an erase of slots leaves

KV_ERASE, KV_ERASE_FN and KV_ERASE_ALL (R195, R207, R208). An erase writes the slots first and then reaches the units. What
it does to a unit can end a descriptor; the vault keeps all but its counts of revoked and stale references, and a unit
loses its key register or keeps it as it is.
-/

/-! ## What the end of a descriptor does to vault and key registers -/

/-- The vault without its counts of revoked and stale references (R210). -/
def vaultStore (s : State) : Kv := { s.kv with revoked := 0, stale := 0 }

/-- From s to t the vault has kept its store, the clocks stand, and each unit has kept or lost its key register. -/
structure OnlyForgets (s t : State) : Prop where
  vault : vaultStore t = vaultStore s
  clk : t.clk = s.clk
  keys : ∀ u, (getUni t u).key = none ∨ (getUni t u).key = (getUni s u).key

namespace OnlyForgets

theorem refl (s : State) : OnlyForgets s s := ⟨rfl, rfl, fun _ => .inr rfl⟩

theorem trans {s t u : State} (h : OnlyForgets s t) (k : OnlyForgets t u) : OnlyForgets s u where
  vault := k.vault.trans h.vault
  clk := k.clk.trans h.clk
  keys v := (k.keys v).elim .inl fun hv => by rw [hv]; exact h.keys v

theorem ite {s a b : State} {c : Prop} [Decidable c] (ha : OnlyForgets s a) (hb : OnlyForgets s b) :
    OnlyForgets s (if c then a else b) := by
  split
  · exact ha
  · exact hb

/-- Operations that keep or drop, one after another. -/
theorem foldl {α : Type} {f : State → α → State} (hf : ∀ s a, OnlyForgets s (f s a)) (l : List α) (s : State) :
    OnlyForgets s (l.foldl f s) := by
  induction l generalizing s with
  | nil => exact refl s
  | cons a l ih => exact (hf s a).trans (ih _)

section After
variable {s t : State} (h : OnlyForgets s t)
include h

/-- An operation that leaves vault, clocks and units. -/
theorem same {u : State} (hv : vaultStore u = vaultStore t := by rfl) (hc : u.clk = t.clk := by rfl)
    (hu : u.units = t.units := by rfl) : OnlyForgets s u := h.trans ⟨hv, hc, fun v => .inr (by rw [getUni, hu]; rfl)⟩

theorem setUni {u : Nat} {x : Uni} (hx : x.key = none ∨ x.key = (getUni t u).key) : OnlyForgets s (setUni t u x) := by
  refine h.trans ⟨rfl, rfl, fun v => ?_⟩
  by_cases hv : v = u
  · rw [hv, getUni_setUni]; exact hx
  · rw [getUni_setUni_ne _ _ _ _ hv]; exact .inr rfl

theorem sameKey {u : Nat} {x : Uni} (hx : x.key = (getUni t u).key := by rfl) : OnlyForgets s (Machine.setUni t u x) :=
  h.setUni (.inr hx)

theorem scrubUnit (u : Nat) : OnlyForgets s (scrubUnit t u) :=
  (h.setUni (u := u) (x := scrubKey (getUni t u)) (.inl rfl)).same

theorem wakeRings (p : Nat) : OnlyForgets s (wakeRings t p) := h.same

theorem release (u : Nat) : OnlyForgets s (release t u) := by
  unfold Machine.release
  dsimp only
  split
  · exact h.sameKey.wakeRings _
  · exact (h.sameKey.scrubUnit u).wakeRings _

theorem setHalf (u : Nat) (b : Bytes) : OnlyForgets s (setHalf t u b) := by
  unfold Machine.setHalf
  split
  · exact h.same
  · exact h

theorem countHelm (u : Nat) (e : DescEnd) (ran : Bool) : OnlyForgets s (countHelm t u e ran) := by
  unfold Machine.countHelm
  split
  · exact h.same
  · exact h

theorem countKv (status : Nat) : OnlyForgets s (countKv t status) :=
  ite h.same (ite h.same h)

theorem countEnd (u cls func : Nat) (e : DescEnd) (ran : Bool) : OnlyForgets s (countEnd t u cls func e ran) :=
  (h.sameKey (u := u) (x := lastEnd (getUni t u) cls func e)).same

theorem addResult (c : Chain) (r : DescRes) : OnlyForgets s (addResult t c r) := by
  have hfree (x : State) (g : Seg) : OnlyForgets x (freeSeg x c g) := (refl x).same
  refine ite h.same (OnlyForgets.trans ?_ (foldl hfree ..))
  exact h.same

/-- The counters and the Helm at the end of a descriptor. -/
theorem descCounted (j : Job) (u cls func : Nat) (e : DescEnd) (ran : Bool) : OnlyForgets s
    (Machine.countHelm (Machine.countKv (Machine.countEnd (dropDesc t j) u cls func e ran) e.status) u e ran) :=
  (((h.same (u := dropDesc t j) rfl rfl rfl).countEnd ..).countKv ..).countHelm ..

theorem endDesc (u : Nat) (e : DescEnd) : OnlyForgets s (endDesc t u e) := by
  unfold Machine.endDesc
  dsimp only
  split
  · exact h
  next j _ =>
  split
  · exact h.release u
  next c _ =>
  generalize hs1 : Machine.setHalf _ u [] = s1
  have h1 : OnlyForgets s s1 := hs1 ▸ (h.descCounted j u _ c.func e _).setHalf u []
  generalize hs2 : Machine.addResult _ c _ = s2
  have h2 : OnlyForgets s s2 := by
    rw [← hs2]
    refine OnlyForgets.addResult ?_ ..
    split
    · exact ite h1 (h1.same)
    · exact h1
  split
  · exact (ite (h2.scrubUnit u) h2).sameKey
  · refine OnlyForgets.release (ite ?_ h2) u
    split
    · exact h2.same
    · exact h2

theorem abortService (u : Nat) : OnlyForgets s (abortService t u) := by
  have hslots : OnlyForgets s (abortSlots t u) := by
    unfold abortSlots
    exact OnlyForgets.setHalf (OnlyForgets.sameKey h.same) u []
  exact hslots.sameKey

theorem abortUnit (u : Nat) : OnlyForgets s (abortUnit t u) := ite (h.abortService u) (h.release u)

theorem abortRecord (u status detail : Nat) : OnlyForgets s (abortRecord t u status detail) := by
  unfold Machine.abortRecord
  dsimp only
  split
  · exact h
  next j _ =>
  split
  · exact h.abortUnit u
  next c _ => exact ((h.descCounted j u 2 c.func _ true).addResult ..).abortUnit u

end After

end OnlyForgets

/-! ## An erase reaches the units (R195) -/

/-- The unit after its key register was judged: a copy of an erased slot is scrubbed. -/
def keyReached (s : State) (p : Nat → Bool) (u : Nat) : State :=
  if holdsSlot p (getUni s u).key then scrubUnit s u else s

theorem key_keyReached {s : State} {p : Nat → Bool} {u : Nat} {k : KeyReg} (h : (getUni (keyReached s p u) u).key = some k) :
    p k.slot = false := by
  unfold keyReached at h
  split at h
  · rw [getUni_scrubUnit, if_pos rfl] at h; cases h
  · next hk => simpa [holdsSlot, h] using hk

/-- What follows the scrub is about the job of the unit. -/
theorem onlyForgets_reachUnit (s : State) (p : Nat → Bool) (u : Nat) : OnlyForgets (keyReached s p u) (reachUnit s p u) := by
  have h := OnlyForgets.refl (keyReached s p u)
  unfold reachUnit
  rw [← keyReached]
  dsimp only
  generalize keyReached s p u = s1 at h
  split
  · exact h
  · refine .ite h.sameKey (.ite (.ite (h.sameKey.abortRecord ..) h.sameKey) (.ite (h.sameKey.endDesc ..) (.ite ?_ h.sameKey)))
    exact h.sameKey.sameKey (by rw [getUni_setUni])

theorem OnlyForgets.reachUnit (s : State) (p : Nat → Bool) (u : Nat) : OnlyForgets s (reachUnit s p u) :=
  (OnlyForgets.ite ((OnlyForgets.refl s).scrubUnit u) (.refl s)).trans (onlyForgets_reachUnit s p u)

/-- Once an erase has reached a unit, its key register holds no copy of an erased slot. -/
theorem key_foldl_reachUnit {p : Nat → Bool} {l : List Nat} {s : State} {u : Nat} {k : KeyReg} (hu : u ∈ l)
    (hk : (getUni (l.foldl (fun s u => reachUnit s p u) s) u).key = some k) : p k.slot = false := by
  induction l generalizing s with
  | nil => cases hu
  | cons v l ih =>
    rcases List.mem_cons.mp hu with rfl | hu
    · have hrest := OnlyForgets.foldl (fun s u => OnlyForgets.reachUnit s p u) l (reachUnit s p u)
      have hall := ((onlyForgets_reachUnit s p u).trans hrest).keys u
      rw [← List.foldl_cons, hk] at hall
      exact key_keyReached (hall.resolve_left nofun).symm
    · exact ih hu hk

/-! ## The slots after an erase (R195) -/

/-- The slots that satisfy p are EMPTY. -/
def slotsErased (s : State) (p : Nat → Bool) : State :=
  { s with kv := { s.kv with slots := s.kv.slots.mapVal (fun i x => if p i then x.erased else x) } }

theorem onlyForgets_eraseWhere (s : State) (p : Nat → Bool) : OnlyForgets (slotsErased s p) (eraseWhere s p) :=
  OnlyForgets.foldl (fun s u => OnlyForgets.reachUnit s p u) ..

theorem getSlot_slotsErased (s : State) (p : Nat → Bool) (i : Nat) :
    getSlot (slotsErased s p) i = if p i then (getSlot s i).erased else getSlot s i :=
  Tbl.get_mapVal (f := fun i x => if p i then Slot.erased x else x) s.kv.slots (by split <;> rfl)

/-- The slots are part of what an operation that only forgets keeps. -/
theorem OnlyForgets.getSlot {s t : State} (h : OnlyForgets s t) (i : Nat) : getSlot t i = getSlot s i := by
  have hslots := congrArg Kv.slots h.vault
  exact congrArg (fun x : Tbl Slot => x.get .empty i) hslots

theorem OnlyForgets.busy {s t : State} (h : OnlyForgets s t) : t.kv.busy = s.kv.busy := by
  have hbusy := congrArg Kv.busy h.vault
  exact hbusy

theorem getSlot_eraseWhere (s : State) (p : Nat → Bool) (i : Nat) :
    getSlot (eraseWhere s p) i = if p i then (getSlot s i).erased else getSlot s i :=
  ((onlyForgets_eraseWhere s p).getSlot i).trans (getSlot_slotsErased s p i)

theorem getSlot_eraseWhere_erased {s : State} {p : Nat → Bool} {i : Nat} (h : p i = true) :
    getSlot (eraseWhere s p) i = (getSlot s i).erased := by
  rw [getSlot_eraseWhere, if_pos h]

theorem getSlot_eraseWhere_kept {s : State} {p : Nat → Bool} {i : Nat} (h : p i = false) :
    getSlot (eraseWhere s p) i = getSlot s i := by
  rw [getSlot_eraseWhere, h]; rfl

theorem key_eraseWhere {s : State} {p : Nat → Bool} {u : Nat} {k : KeyReg} (hu : u ∈ unitIds s)
    (hk : (getUni (eraseWhere s p) u).key = some k) : p k.slot = false := key_foldl_reachUnit hu hk

section Slots
variable {s : State} {l : List Nat}

theorem getSlot_eraseSlots_mem {i : Nat} (h : i ∈ l) : getSlot (eraseSlots s l) i = (getSlot s i).erased :=
  getSlot_eraseWhere_erased (List.contains_iff_mem.mpr h)

theorem getSlot_eraseSlots_notMem {i : Nat} (h : i ∉ l) : getSlot (eraseSlots s l) i = getSlot s i :=
  getSlot_eraseWhere_kept (by simpa using h)

theorem key_eraseSlots {u : Nat} {k : KeyReg} (hu : u ∈ unitIds s) (hk : (getUni (eraseSlots s l) u).key = some k) :
    k.slot ∉ l := by
  simpa using key_eraseWhere hu hk

end Slots

/-! ## KV_PEEK and KV_ERASE -/

@[simp] theorem getSlot_acked (s : State) (a : Access) (i : Nat) : getSlot (acked s a) i = getSlot s i := by
  simp [getSlot]

@[simp] theorem getUni_acked (s : State) (a : Access) (u : Nat) : getUni (acked s a) u = getUni s u := by
  simp [getUni]

theorem exec_kvPeek {s : State} {a : Access} (bad kekBad : Bool) (h : kvTakes s a = true) :
    exec (.kvPeek ⟨a, bad, kekBad⟩) s = .next (acked (kvStart s (vaultCmd s 1 bad false)) a) :=
  congrArg _ (hostWrite_kvCmd h (by decide) (by decide))

theorem exec_kvErase {s : State} {a : Access} (h : kvTakes s a = true) :
    exec (.kvErase a) s = .next (acked (kvStart s (vaultCmd s 2 false false)) a) :=
  congrArg _ (hostWrite_kvCmd h (by decide) (by decide))

/-- A slot is copied into the KV_PEEK registers, which do not show the mark of a parity error (R206). -/
theorem kvPeek_ends (s : State) (c : KvCmd) (i : Nat) (bad : Bool) {x : Slot} (hx : x = getSlot s i) :
    kvResult (kvPeek (kvFound (kvRuns s c s.kv.outLen) i bad) i) 0 = { kvFound s i bad with kv := { (kvFound s i bad).kv with
      peekSlot := word (x.gen + 2 ^ 16 * x.own + 2 ^ 30 * x.kind), peekAttr := x.attr,
      peekKlen := word (x.klen + 2 ^ 16 * (if x.kind = 2 then x.ref else 0)), peekKcv := word (leNat x.kcv),
      peekInv := word x.invcnt, result := 0, cmd := none, busy := false } } := by
  obtain ⟨seen, hs⟩ := getSlot_kvFound s i bad
  have hget : getSlot (kvRuns (kvFound s i bad) c (kvFound s i bad).kv.outLen) i = { x with badSeen := seen } := by
    rw [hx]; exact hs
  rw [kvFound_kvRuns, ← kvFound_outLen s i bad, kvPeek, hget]
  rfl

/-- Settles O31: a parity error is found by `kvFound_eq`; an erase writes the slots by `getSlot_eraseWhere` and reaches the key
registers by `key_eraseWhere`. -/
theorem kvPeekAndErase : Obligations.KvPeekAndErase := by
  unfold Obligations.KvPeekAndErase
  refine ⟨fun s t a bad kekBad x ht hx htt => ?_, fun s a ht hin => ⟨fun hk => ?_, fun hk => ?_⟩⟩
  · obtain rfl : t = kvFound s s.kv.idx.toNat bad := by rw [htt, kvFound_eq, hx]
    rw [exec_kvPeek bad kekBad ht]
    refine ⟨fun h => ?_, fun h => ?_⟩
    · rw [kvStart_peek_outside rfl h]; rfl
    · rw [kvStart_peek rfl h]
      exact congrArg (fun t => Host.Outcome.next (acked t a)) (kvPeek_ends s _ _ bad hx)
  · rw [exec_kvErase ht, kvStart_erase_extension rfl hin hk]; rfl
  · rw [exec_kvErase ht, kvStart_erase rfl hin hk]
    refine ⟨_, rfl, by simp [kvResult], by simp [kvResult], fun i hi => ?_, fun i hi => ?_, fun u hu k hkey => ?_⟩
    · have hx := getSlot_eraseSlots_mem (s := kvRuns s (vaultCmd s 2 false false) s.kv.outLen) hi
      rw [getSlot_acked]
      exact hx ▸ ⟨rfl, rfl, rfl, rfl⟩
    · rw [getSlot_acked]
      exact getSlot_eraseSlots_notMem (s := kvRuns s (vaultCmd s 2 false false) s.kv.outLen) hi
    · rw [getUni_acked] at hkey
      exact key_eraseSlots (s := kvRuns s (vaultCmd s 2 false false) s.kv.outLen) hu hkey

end Sys2Proof.Machine

namespace Sys2Proof.Machine

/-!
# Erases of a function and of the whole vault, and the scrub

KV_ERASE_FN and KV_ERASE_ALL (R207, R208), the end of the vault scrub that an erase starts (R204, R205) and the public key
of the key service unit (R187).
-/

/-! ## KV_ERASE_FN (R207) -/

theorem exec_kvEraseFn {s : State} {a : Access} (h : kvTakes s a = true) :
    exec (.kvEraseFn a) s = .next (acked (kvStart s (vaultCmd s 7 false false)) a) :=
  congrArg _ (hostWrite_kvCmd h (by decide) (by decide))

/-- An entry read from a table stands in it, or is the default. -/
theorem Tbl.get_mem {α : Type} (t : Tbl α) (d : α) (k : Nat) : (k, t.get d k) ∈ t ∨ t.get d k = d := by
  induction t with
  | nil => exact .inr rfl
  | cons e t ih =>
    obtain ⟨i, x⟩ := e
    unfold Tbl.get
    split
    · next h => exact .inl (h ▸ List.mem_cons_self ..)
    · exact ih.imp_left (List.mem_cons_of_mem _)

/-- The scrub of a function's keys reaches every unit (R207). -/
theorem key_scrubOwner {s : State} {f u : Nat} {k : KeyReg} (hk : (getUni (scrubOwner s f) u).key = some k) : k.own ≠ f := by
  rintro rfl
  rw [scrubOwner, getUni_foldl_scrubUnit] at hk
  split at hk
  · cases hk
  · next hu =>
    rcases Tbl.get_mem s.units .init u with hmem | hinit
    · exact hu (List.mem_map.mpr ⟨_, List.mem_filter.mpr ⟨hmem, by rw [getUni] at hk; simp [hk]⟩, rfl⟩)
    · rw [getUni, hinit] at hk; cases hk

theorem getSlot_eraseFn (s : State) (f i : Nat) :
    getSlot (eraseFn s f) i = if ownsSlot s f i then (getSlot s i).erased else getSlot s i :=
  ((OnlyForgets.foldl (fun x u => (OnlyForgets.refl x).scrubUnit u) ..).getSlot i).trans (getSlot_eraseWhere ..)

/-! ## KV_ERASE_ALL (R208) -/

theorem exec_kvEraseAll {s : State} {a : Access} (h : kvTakes s a = true) :
    exec (.kvEraseAll a) s = .next (acked (kvStart s (vaultCmd s 8 false false)) a) :=
  congrArg _ (hostWrite_kvCmd h (by decide) (by decide))

/-- No slot is readable any more, and the scrub runs from this moment. -/
theorem eraseVault_spec (s : State) : (∀ i, (getSlot (eraseVault s) i).kind = 0) ∧ (eraseVault s).kv.kvlt = none ∧
    (eraseVault s).kv.ready = false ∧ (eraseVault s).kv.erasing = true ∧
    (eraseVault s).kv.scrubAt = some s.clk.meridian ∧ (eraseVault s).kv.busy = s.kv.busy := by
  have h := onlyForgets_eraseWhere s (fun _ => true)
  refine ⟨fun i => ?_, rfl, rfl, rfl, ?_, h.busy⟩
  · have hi : getSlot (eraseVault s) i = getSlot (eraseWhere s (fun _ => true)) i := rfl
    rw [hi, getSlot_eraseWhere_erased rfl]; rfl
  · exact congrArg (fun c : Clk => some c.meridian) h.clk

/-! ## VAULT_SCRUB_DONE (R204, R205, R208) -/

section Scrub
variable {s : State} {since : Nat} (hs : s.kv.scrubAt = some since)
include hs

theorem exec_vaultScrubDone_waits (h : s.clk.meridian < since + 32768 ∨ maskable s = false) :
    exec .vaultScrubDone s = .next s := by
  change execVaultScrubDone s = _
  simp only [execVaultScrubDone, hs]
  rw [if_neg]
  rcases h with h | h <;> simp [h]

theorem exec_vaultScrubDone_ends (hup : engineUp s = true) (ht : since + 32768 ≤ s.clk.meridian) (hm : maskable s = true) :
    exec .vaultScrubDone s = .next (if drbgUp s 0 then vaultScrubbed s else vaultStarved s) := by
  change execVaultScrubDone s = _
  simp [execVaultScrubDone, hs, hup, ht, hm]

end Scrub

/-- The end of an ERASE_ALL changes BUSY, RESULT and the command. -/
theorem eraseAllEnds_eq (s : State) (n : Nat) : eraseAllEnds s n =
    if s.kv.cmd.any (fun c => c.op == 8 && !c.held) then { s with kv := { s.kv with busy := false, result := n, cmd := none } }
    else s := rfl

/-- A new K_VLT stands and the slots are as they were; an ERASE_ALL that waited is DONE. -/
theorem vaultScrubbed_spec (s : State) : let t := vaultScrubbed s
    t = { s with kv := t.kv, free := t.free } ∧ t.kv.kvlt.isSome = true ∧ t.kv.ready = true ∧ t.kv.erasing = false ∧
      t.kv.scrubAt = none ∧ t.kv.slots = s.kv.slots ∧
      (s.kv.cmd.any (fun c => c.op == 8 && !c.held) = true → t.kv.busy = false ∧ t.kv.result = 0) := by
  have hdraw := drbgDraw_state s 0 32
  have hcmd : (drbgDraw s 0 32).1.kv.cmd = s.kv.cmd := by rw [hdraw]
  have hslots : (drbgDraw s 0 32).1.kv.slots = s.kv.slots := by rw [hdraw]
  simp only [vaultScrubbed, eraseAllEnds_eq, hcmd]
  split
  · exact ⟨by rw [hdraw], rfl, rfl, rfl, rfl, hslots, fun _ => ⟨rfl, rfl⟩⟩
  · next h => exact ⟨by rw [hdraw], rfl, rfl, rfl, rfl, hslots, fun h' => absurd h' h⟩

/-! ## ATT_PUBKEY_DONE (R187) -/

theorem exec_attPubkeyDone {s : State} {d k : Nat} (hup : engineUp s = true) (hd : s.kv.dAtt = some d)
    (hk : s.chart.ksu = some k) (hno : s.kv.attValid = false) (hv : (getUni s k).vault = true) :
    exec .attPubkeyDone s = .next (setUni { s with kv := { s.kv with
      attValid := true, attPub := point384 (Config.ecPub 1 d) } } k { getUni s k with vault := false }) := by
  change execAttPubkeyDone s = _
  simp [execAttPubkeyDone, hup, hd, hk, hno, hv]

/-- Settles O34: the erases by `getSlot_eraseFn`, `key_scrubOwner` and `eraseVault_spec`, the end of the scrub by
`vaultScrubbed_spec`. -/
theorem vaultEraseAndScrub : Obligations.VaultEraseAndScrub := by
  unfold Obligations.VaultEraseAndScrub
  refine ⟨fun s a ht => ⟨?_, ?_⟩, fun s since hup hs => ⟨exec_vaultScrubDone_waits hs, fun hdue hm hd => ?_,
    fun hdue hm hd => ?_⟩, fun s d k hup hd hk hno hv => exec_attPubkeyDone hup hd hk hno hv⟩
  · have hslot := getSlot_eraseFn (kvRuns s (vaultCmd s 7 false false) s.kv.outLen) s.kv.fnSel.toNat
    rw [exec_kvEraseFn ht, kvStart_eraseFn rfl]
    refine ⟨_, rfl, by simp [kvResult], by simp [kvResult], fun i hi => ?_, fun i hi => ?_, fun u k hkey => ?_⟩
    · rw [getSlot_acked]
      have hx := (hslot i).trans (if_pos hi)
      exact hx ▸ ⟨rfl, rfl, rfl⟩
    · rw [getSlot_acked]
      exact (hslot i).trans (if_neg (ne_true_of_eq_false hi))
    · rw [getUni_acked] at hkey
      exact key_scrubOwner hkey
  · obtain ⟨hslots, hmask, hready, herasing, hat, hbusy⟩ := eraseVault_spec (kvRuns s (vaultCmd s 8 false false) s.kv.outLen)
    rw [exec_kvEraseAll ht, kvStart_eraseAll rfl]
    refine ⟨_, rfl, fun i => ?_, ?_⟩
    · rw [getSlot_acked]; exact hslots i
    · rw [acked_kv]; exact ⟨hmask, hready, herasing, hat, hbusy⟩
  · rw [exec_vaultScrubDone_ends hs hup hdue hm, if_pos hd]
    exact ⟨_, rfl, vaultScrubbed_spec s⟩
  · rw [exec_vaultScrubDone_ends hs hup hdue hm, if_neg (ne_true_of_eq_false hd)]
    rfl

end Sys2Proof.Machine

namespace Sys2Proof.Machine

/-!
# Random numbers: reseeds, health failures and drawn keys

DRBG_RESEED and ENTROPY_HEALTH_FAIL (R203, R204) and KV_GENERATE (R199). A health failure is an alarm of source ENTROPY;
whatever the alarm does, the failure stays counted and the source stays latched (R348).
-/

/-! ## DRBG_RESEED (R203) -/

theorem drbgFresh_iff (s : State) (k : Nat) :
    drbgFresh s k = true ↔ (drbgOf s k).reqs < 2 ^ 20 ∧ s.clk.meridian < (drbgOf s k).at_ + 2 ^ 32 := decide_eq_true_iff

theorem exec_drbgReseed {s : State} (k : BitVec 3) (hup : engineUp s = true) (hh : s.kv.healthFail = false)
    (h5 : 5 ≤ s.pw.step) (h15 : s.pw.step < 15) : exec (.drbgReseed k) s =
      .next (if (drbgOf s k.toNat).seeded && drbgFresh s k.toNat then s else drbgSeed s k.toNat) := by
  change execDrbgReseed k s = _
  cases h : (drbgOf s k.toNat).seeded && drbgFresh s k.toNat <;> simp [execDrbgReseed, hup, hh, h5, h15, h]

/-! ## What an alarm leaves (R345 to R348) -/

/-- The latched sources, and what a health failure has set (R204, R210). -/
def alarmMarks (s : State) : BitVec 12 × Bool × Nat := (s.bn.latch, s.kv.healthFail, s.kv.drbgFail)

theorem ite_alarmMarks {c : Prop} [Decidable c] {a b : State} {m : BitVec 12 × Bool × Nat} (ha : alarmMarks a = m)
    (hb : alarmMarks b = m) : alarmMarks (if c then a else b) = m := by
  split
  · exact ha
  · exact hb

theorem OnlyRecords.alarmMarks {s t : State} (h : OnlyRecords s t) : alarmMarks t = alarmMarks s := by rw [h]; rfl

theorem abortCmd_alarmMarks (s : State) (u st dt : Nat) : alarmMarks (abortCmd s u st dt) = alarmMarks s := by
  cases hc : (getUni s u).ar.cmd with
  | none => rw [abortCmd_none hc]
  | some c => rw [(abortCmd_cmd (st := st) (dt := dt) hc).1]; rfl

theorem setHalf_alarmMarks (s : State) (u : Nat) (b : Bytes) : alarmMarks (setHalf s u b) = alarmMarks s := by
  unfold setHalf
  split <;> rfl

theorem stopUnit_alarmMarks (s : State) (u : Nat) : alarmMarks (stopUnit s u) = alarmMarks s := by
  unfold stopUnit
  dsimp only
  split
  · rfl
  · split
    · exact setHalf_alarmMarks ..
    · rfl

theorem alarmCmd_alarmMarks (s : State) (u : Nat) : alarmMarks (alarmCmd s u) = alarmMarks s := by
  unfold alarmCmd
  split
  · exact abortCmd_alarmMarks ..
  · rfl

theorem zeroize_alarmMarks (s : State) : alarmMarks (zeroize s) = alarmMarks s :=
  foldl_keeps alarmMarks _ (fun _ _ => by rfl) _ (eraseCtx s)

theorem alarmStop_alarmMarks (s : State) : alarmMarks (alarmStop s) = alarmMarks s :=
  (foldl_keeps alarmMarks _ alarmCmd_alarmMarks ..).trans (foldl_keeps alarmMarks _ stopUnit_alarmMarks ..)

/-- The erase sequence clears keys and stops jobs (R205). -/
theorem startErase_alarmMarks (s : State) (src : BitVec 12) : alarmMarks (startErase s src) = alarmMarks s := by
  have h : alarmMarks (zeroize (alarmStop s)) = alarmMarks s := (zeroize_alarmMarks _).trans (alarmStop_alarmMarks s)
  unfold startErase
  split
  · split
    · rfl
    · exact h
  · exact h

theorem soundAlarms_alarmMarks (s : State) (m : BitVec 12) : alarmMarks (soundAlarms s m) = alarmMarks s := by
  unfold soundAlarms
  split
  · refine foldl_keeps alarmMarks _ (fun t n => ?_) ..
    unfold sounding
    split
    · rfl
    · split <;> rfl
  · rfl

/-! ## The Logbook writer leaves the latched sources -/

theorem lbLatch_alarmMarks (s : State) (i : Nat) : alarmMarks (lbLatch s i) = alarmMarks s := (onlyRecords_lbLatch ..).alarmMarks

theorem writeSlot_alarmMarks (s : State) : alarmMarks (writeSlot s) = alarmMarks s := by
  unfold writeSlot
  split
  · rfl
  · dsimp only
    split
    · split
      · exact lbLatch_alarmMarks ..
      · rfl
    · generalize hs1 : (if overrun s then lbLatch _ 0 else _) = s1
      have h1 : alarmMarks s1 = alarmMarks s := hs1 ▸ ite_alarmMarks (lbLatch_alarmMarks ..) rfl
      split
      · exact ite_alarmMarks h1 h1
      · exact h1

theorem lbRoom_alarmMarks (n : Nat) (s : State) : alarmMarks (lbRoom n s) = alarmMarks s := by
  induction n generalizing s with
  | zero => rfl
  | succ n ih =>
    unfold lbRoom
    split
    · rfl
    · exact (ih _).trans (writeSlot_alarmMarks s)

theorem logReq_alarmMarks (s : State) (type : Nat) (pin exempt : Bool) (data : Bytes) :
    alarmMarks (logReq s type pin exempt data) = alarmMarks s := by
  cases exempt with
  | false => exact (onlyRecords_logReq ..).alarmMarks
  | true => exact lbRoom_alarmMarks 2 s

theorem alarmRecord_alarmMarks (s : State) (src : BitVec 12) (act : Nat) : alarmMarks (alarmRecord s src act) = alarmMarks s := by
  unfold alarmRecord
  dsimp only
  split
  · rfl
  · split
    · rfl
    · exact logReq_alarmMarks ..

theorem bnLatch_alarmMarks (s : State) (i : Nat) : alarmMarks (bnLatch s i) = alarmMarks s := by
  unfold bnLatch
  split
  · rfl
  · exact (onlyRecords_pfNotice ..).alarmMarks

/-! ## The report of an alarm -/

/-- A report latches the sources that are new, and nothing else of what is marked changes. -/
theorem alarmReport_alarmMarks (s : State) (src : BitVec 12) : alarmMarks (alarmReport s src) =
    if s.bn.vsbRst = true ∨ newSources s src = 0 then alarmMarks s
    else (s.bn.latch ||| newSources s src, s.kv.healthFail, s.kv.drbgFail) := by
  unfold alarmReport
  extract_lets start
  split
  · next h => rw [if_pos (.inl h)]
  next hv =>
  split
  · next h => rw [if_pos (.inr (by simpa using h))]; rfl
  next s1 all act _ s2 held _ s3 s4 _ s5 s6 s7 _ h =>
  have hnew : ¬ (s.bn.vsbRst = true ∨ newSources s src = 0) := by simpa [hv] using h
  rw [if_neg hnew]
  have h4 : alarmMarks s4 = (s.bn.latch ||| newSources s src, s.kv.healthFail, s.kv.drbgFail) := soundAlarms_alarmMarks s3 start
  have h5 : alarmMarks s5 = _ := ite_alarmMarks h4 h4
  have h6 : alarmMarks s6 = _ := ite_alarmMarks ((startErase_alarmMarks s5 all).trans h5) h5
  exact (bnLatch_alarmMarks ..).trans ((alarmRecord_alarmMarks s6 all act).trans h6)

theorem newSources_getLsbD (s : State) (src : BitVec 12) {n : Nat} (hn : n < 12) : (newSources s src).getLsbD n =
    (src.getLsbD n && !(s.bn.active.getLsbD n && levelMask.getLsbD n) &&
      !(decide (s.bn.alarmAt = some s.bn.btime) && s.bn.alarmSrc.getLsbD n)) := by
  unfold newSources
  split
  · next h => simp only [h, BitVec.getLsbD_and, BitVec.getLsbD_not, hn, decide_true, Bool.true_and]
  · next h =>
      have hzero : (0 : BitVec 12).getLsbD n = false := BitVec.getLsbD_zero
      simp only [h, BitVec.getLsbD_and, BitVec.getLsbD_not, hn, hzero, decide_true, decide_false, Bool.true_and,
        Bool.false_and]

/-- ENTROPY is an event source: it is new unless it has reported in this Binnacle cycle (R343, R348). -/
theorem newSources_entropy {s : State} (h : s.bn.alarmAt ≠ some s.bn.btime ∨ s.bn.alarmSrc.getLsbD 10 = false) :
    (newSources s 0x400).getLsbD 10 = true := by
  have hlevel : levelMask.getLsbD 10 = false := by decide
  have hsrc : (0x400 : BitVec 12).getLsbD 10 = true := by decide
  rw [newSources_getLsbD s _ (by decide), hlevel, hsrc]
  rcases h with h | h
  · simp [h]
  · rw [h]; simp

/-- A health failure as it is counted, before its alarm (R204). -/
def healthFailed (s : State) : State := { s with kv := { s.kv with healthFail := true, drbgFail := sat32 s.kv.drbgFail } }

theorem exec_entropyHealthFail {s : State} (hup : engineUp s = true) :
    exec .entropyHealthFail s = .next (alarmReport (healthFailed s) 0x400) := congrArg Host.Outcome.next (if_pos hup)

/-- A health failure stays set and counted whatever its alarm does, and a new one is latched (R204, R348). -/
theorem entropyHealthFail_marks (s : State) : let t := alarmReport (healthFailed s) 0x400
    t.kv.healthFail = true ∧ t.kv.drbgFail = sat32 s.kv.drbgFail ∧ (s.bn.vsbRst = false →
      (s.bn.alarmAt ≠ some s.bn.btime ∨ s.bn.alarmSrc.getLsbD 10 = false) → t.bn.latch.getLsbD 10 = true) := by
  have hmarks := alarmReport_alarmMarks (healthFailed s) 0x400
  dsimp only
  split at hmarks
  · next hold =>
    simp only [alarmMarks, Prod.mk.injEq] at hmarks
    obtain ⟨-, hfail, hcount⟩ := hmarks
    refine ⟨hfail, hcount, fun hv h => ?_⟩
    have hnew : newSources (healthFailed s) 0x400 = 0 := hold.resolve_left (ne_true_of_eq_false hv)
    have hbit := newSources_entropy (s := healthFailed s) h
    rw [hnew] at hbit
    cases hbit
  · simp only [alarmMarks, Prod.mk.injEq] at hmarks
    obtain ⟨hlatch, hfail, hcount⟩ := hmarks
    refine ⟨hfail, hcount, fun _ h => ?_⟩
    rw [hlatch, BitVec.getLsbD_or, newSources_entropy (s := healthFailed s) h, Bool.or_true]

/-! ## KV_GENERATE (R199) -/

theorem exec_kvGenerate {s : State} {a : Access} (ktype : BitVec 4) (klen : BitVec 7) (h : kvTakes s a = true) :
    ∃ c, exec (.kvGenerate a ktype klen) s = .next (acked (kvGenerate (kvRuns s c s.kv.outLen) c) a) ∧ c.idx = s.kv.idx.toNat ∧
      c.attr = s.kv.attr ∧ c.ktype = ktype.toNat ∧ c.klen = klen.toNat := by
  obtain ⟨hop, htype, hlen⟩ := wfld_generate ktype klen
  exact ⟨vaultCmd s _ false false, (congrArg _ (hostWrite_kvCmd h (by rw [hop]; decide) (by rw [hop]; decide))).trans
    (by rw [kvStart_generate hop]), rfl, rfl, htype, hlen⟩

theorem atType_mkAttr {e u t : Nat} (he : e < 16) (hu : u < 512) (ht : t < 16) (o x : Bool) : atType (mkAttr e u t o x) = t := by
  simp only [atType, mkAttr, wfld, fld, word, BitVec.toNat_ofNat]
  cases o <;> cases x <;> simp only [b2n, Bool.false_eq_true, if_false, if_true] <;> omega

theorem atEngine_lt (w : Word) : atEngine w < 16 := Nat.mod_lt _ (by decide)
theorem atUsage_lt (w : Word) : atUsage w < 512 := Nat.mod_lt _ (by decide)

theorem drbgDraw_snd (s : State) (k n : Nat) : (drbgDraw s k n).2 = freeBytes s n := by
  unfold drbgDraw
  dsimp only
  split <;> rfl

theorem drbgDraw_free (s : State) (k n : Nat) : (drbgDraw s k n).1.free = s.free + n := by
  unfold drbgDraw
  dsimp only
  split <;> rfl

theorem freeBytes_length (s : State) (n : Nat) : (freeBytes s n).length = n := by simp [freeBytes]

/-- The attributes of the key that a GENERATE writes: generated inside the device (R190, R199). -/
def generatedAttr (s : State) (ktype : Nat) : Word :=
  mkAttr (atEngine s.kv.attr) (atUsage s.kv.attr) ktype false (atExport s.kv.attr)

section Generate
variable {s : State} {c : KvCmd} (hattr : c.attr = s.kv.attr)

theorem kvGenerate_outside (h : slotOwner s c.idx = none) : kvGenerate s c = kvResult s 1 := by
  have hw : kvWritable s c.idx = some 1 := by simp [kvWritable, kvHolder, h]
  simp only [kvGenerate, hw]

include hattr

theorem kvGenerate_badAttr (hw : kvWritable s c.idx = none)
    (h : 3 ≤ c.ktype ∨ attrOk (generatedAttr s c.ktype) c.klen = false) : kvGenerate s c = kvResult s 3 := by
  simp only [generatedAttr] at h
  simp only [kvGenerate, hw, hattr]
  rw [if_pos]
  rcases h with h | h <;> simp [h]

/-- The checks of a GENERATE have passed: it draws its key. -/
theorem kvGenerate_draws (hw : kvWritable s c.idx = none) (ht : c.ktype < 3) (h13 : wfld s.kv.attr 13 3 = 0)
    (h22 : wfld s.kv.attr 22 10 = 0) (ha : attrOk (generatedAttr s c.ktype) c.klen = true) (hd : drbgUp s 0 = true) :
    kvGenerate s c = kvDraw s c (generatedAttr s c.ktype) := by
  have ht' : ¬ 3 ≤ c.ktype := by omega
  simp only [generatedAttr] at ha ⊢
  simp [kvGenerate, hw, hattr, ht', h13, h22, ha, hd]

end Generate

/-- A write of a KEY slot (R192). -/
theorem putSlot_key {s : State} {i : Nat} {attr : Word} {key : Bytes} {f : FuncRec} (hf : slotOwner s i = some f)
    (ht : atType attr < 3) : putSlot s i attr key [] = setSlot s i
      ⟨attr, newGen (getSlot s i).gen, f.func, 1, key.length, kcvOf (atType attr) key [], 0, 0, key, [], false⟩ := by
  simp only [putSlot, hf, if_pos ht]

/-- The key that a GENERATE draws, with its parity bits where it is a TDES key. -/
def drawnKey (s : State) (c : KvCmd) : Bytes :=
  if c.ktype = 1 then (freeBytes s c.klen).map oddParity else freeBytes s c.klen

theorem drawnKey_length (s : State) (c : KvCmd) : (drawnKey s c).length = c.klen := by
  unfold drawnKey
  split <;> simp [freeBytes_length]

theorem kvDraw_eq (s : State) (c : KvCmd) (attr : Word) : kvDraw s c attr =
    if c.ktype = 1 ∧ partsDiffer (drawnKey s c) = false then (drbgDraw s 0 c.klen).1
    else kvResult (putSlot (drbgDraw s 0 c.klen).1 c.idx attr (drawnKey s c) []) 0 := by
  unfold kvDraw
  dsimp only
  rw [drbgDraw_snd]
  rfl

/-- A GENERATE that draws a key writes it and changes no other slot (R192, R199). -/
theorem kvDraw_written {s : State} {c : KvCmd} {attr : Word} {f : FuncRec} (hf : slotOwner s c.idx = some f)
    (ht : atType attr < 3) (h : c.ktype = 1 → partsDiffer (drawnKey s c) = true) : let t := kvDraw s c attr
    t.kv.result = 0 ∧ t.kv.busy = false ∧ (getSlot t c.idx).key = drawnKey s c ∧ (getSlot t c.idx).kind = 1 ∧
      (getSlot t c.idx).gen = newGen (getSlot s c.idx).gen ∧ (getSlot t c.idx).own = f.func ∧
      (getSlot t c.idx).klen = c.klen ∧ (getSlot t c.idx).invcnt = 0 ∧ (∀ m, m ≠ c.idx → getSlot t m = getSlot s m) ∧
      t.units = s.units ∧ t.rings = s.rings := by
  have hdraw := drbgDraw_state s 0 c.klen
  have hslot (m : Nat) : getSlot (drbgDraw s 0 c.klen).1 m = getSlot s m := by rw [hdraw]; rfl
  have howner : slotOwner (drbgDraw s 0 c.klen).1 c.idx = some f := by rw [hdraw]; exact hf
  have hno : ¬ (c.ktype = 1 ∧ partsDiffer (drawnKey s c) = false) := fun ⟨h1, h2⟩ => by simp [h h1] at h2
  dsimp only
  rw [kvDraw_eq, if_neg hno, putSlot_key howner ht, drawnKey_length, hslot]
  generalize hy : (⟨attr, _, _, 1, _, _, 0, 0, _, [], false⟩ : Slot) = y
  have hget (m : Nat) : getSlot (kvResult (setSlot (drbgDraw s 0 c.klen).1 c.idx y) 0) m =
      getSlot (setSlot (drbgDraw s 0 c.klen).1 c.idx y) m := rfl
  simp only [hget, getSlot_setSlot]
  subst hy
  refine ⟨rfl, rfl, rfl, rfl, rfl, rfl, rfl, rfl, fun m hm => ?_, by rw [hdraw]; rfl, by rw [hdraw]; rfl⟩
  rw [getSlot_setSlot_ne _ _ hm, hslot]

/-- Settles O32: an alarm keeps a health failure by `alarmReport_alarmMarks`; a GENERATE that passes its checks draws its key by
`kvDraw_written`. -/
theorem drbgAndGenerate : Obligations.DrbgAndGenerate := by
  unfold Obligations.DrbgAndGenerate
  refine ⟨⟨fun s k hup hh h5 h15 => ⟨fun ⟨hseed, hreqs, hat⟩ => ?_, fun h => ?_⟩, fun s hup => ?_⟩,
    fun s a ktype klen i attr ht hi hattr => ?_⟩
  · rw [exec_drbgReseed k hup hh h5 h15, if_pos (by rw [hseed, (drbgFresh_iff s k.toNat).mpr ⟨hreqs, hat⟩]; rfl)]
  · have hstale : ¬ ((drbgOf s k.toNat).seeded && drbgFresh s k.toNat) = true := by
      rw [Bool.and_eq_true, drbgFresh_iff]
      omega
    rw [exec_drbgReseed k hup hh h5 h15, if_neg hstale]
    rfl
  · exact ⟨_, exec_entropyHealthFail hup, entropyHealthFail_marks s⟩
  · obtain ⟨c, hexec, hidx, hcattr, htype, hlen⟩ := exec_kvGenerate ktype klen ht
    have hok : generatedAttr (kvRuns s c s.kv.outLen) c.ktype = attr := by rw [hattr, htype]; rfl
    subst hi
    rw [hexec, ← hidx, ← htype, ← hlen]
    refine ⟨fun h => ?_, fun hw h => ?_, fun f hw hf h3 h13 h22 ha hd hp => ?_, fun f hw hf h1 h13 h22 ha hd hp => ?_⟩
    · rw [kvGenerate_outside (s := kvRuns s c s.kv.outLen) h]; rfl
    · rw [kvGenerate_badAttr (s := kvRuns s c s.kv.outLen) hcattr hw (by rw [hok]; exact h)]; rfl
    · have hatt : atType attr < 3 := by
        rw [hattr, atType_mkAttr (atEngine_lt _) (atUsage_lt _) ktype.isLt, ← htype]; exact h3
      rw [kvGenerate_draws (s := kvRuns s c s.kv.outLen) hcattr hw h3 h13 h22 (by rw [hok]; exact ha) hd, hok]
      have hw := kvDraw_written (s := kvRuns s c s.kv.outLen) (c := c) hf hatt fun h1 => by
        rw [drawnKey, if_pos h1]; exact hp h1
      refine ⟨_, drawnKey (kvRuns s c s.kv.outLen) c, rfl, drawnKey_length .., ?_⟩
      simp only [acked_kv, getSlot_acked, acked_units, acked_rings]
      exact hw
    · rw [kvGenerate_draws (s := kvRuns s c s.kv.outLen) hcattr hw (by omega) h13 h22 (by rw [hok]; exact ha) hd, hok,
        kvDraw_eq, if_pos ⟨h1, by rw [drawnKey, if_pos h1]; exact hp⟩]
      have hdraw := drbgDraw_state (kvRuns s c s.kv.outLen) 0 c.klen
      refine ⟨_, rfl, ?_, ?_, ?_⟩
      · rw [acked_kv, hdraw]; rfl
      · rw [acked_kv, hdraw]; rfl
      · rw [acked_free, drbgDraw_free]; rfl

end Sys2Proof.Machine

namespace Sys2Proof.Machine

/-!
# Registers of the Binnacle

BN_ACTION_WRITE, BN_LOCK, BN_LATCH_CLEAR, BN_MESH_ENABLE and BN_FAULT_CLR are granted writes of one register each (R344 to
R347, R351); HOLD_OK_CHANGE, ERASE_SCRUB_DONE and UNIT_KAT_DONE are events.
-/

/-! ## BN_ACTn and BN_LOCK (R346) -/

theorem exec_bnActionWrite {s : State} {a : Access} {n : BitVec 4} (v : Word)
    (h : granted s a true (mgmtAt a (0x90080 + 4 * n.toNat)) = true) :
    exec (.bnActionWrite a n v) s = .next (acked (bnActW s n.toNat v) a) := congrArg _ (hostWrite_granted _ _ _ _ h)

theorem exec_bnLock {s : State} {a : Access} (v : Word) (h : granted s a true (mgmtAt a 0x90004) = true) :
    exec (.bnLock a v) s = .next (acked (bnLockW s v) a) := congrArg _ (hostWrite_granted _ _ _ _ h)

theorem bnFixed_iff (n : BitVec 4) : bnFixed n.toNat = true ↔ n = 8 ∨ n = 11 := by
  simp [bnFixed, ← BitVec.toNat_inj]

/-- A source that does not exist, action 3 and the fixed sources are ignored. -/
theorem bnActW_ignored {s : State} {n : BitVec 4} {v : Word} (h : 12 ≤ n.toNat ∨ wfld v 0 2 = 3 ∨ n = 8 ∨ n = 11) :
    bnActW s n.toNat v = s := by
  rw [← bnFixed_iff] at h
  exact if_pos (h.imp_right (Or.imp_right .inl))

/-- An action at or above the floor is stored, unless the lock is set and it lowers. -/
theorem bnActW_stored {s : State} {n : BitVec 4} {v : Word} (hn : n.toNat < 12) (h3 : wfld v 0 2 ≠ 3) (h8 : n ≠ 8)
    (h11 : n ≠ 11) : bnActW s n.toNat v =
      if s.bn.lock = true ∧ max (wfld v 0 2) (bnFloor s n.toNat) < bnAct s n.toNat then s
      else { s with bn := { s.bn with act := s.bn.act.set n.toNat (max (wfld v 0 2) (bnFloor s n.toNat)) } } := by
  have hfixed : ¬ bnFixed n.toNat = true := fun h => ((bnFixed_iff n).mp h).elim h8 h11
  have hn' : ¬ 12 ≤ n.toNat := by omega
  simp only [bnActW, hn', h3, hfixed, Bool.false_eq_true, false_or]

/-! ## BN_LATCH and BN_MESH_EN (R344, R347) -/

theorem exec_bnLatchClear {s : State} {a : Access} (v : Word) (h : granted s a true (mgmtAt a 0x90030) = true) :
    exec (.bnLatchClear a v) s = .next (acked (bnLatchW s v) a) := congrArg _ (hostWrite_granted _ _ _ _ h)

theorem exec_bnMeshEnable {s : State} {a : Access} (v : Word) (h : granted s a true (mgmtAt a 0x90034) = true) :
    exec (.bnMeshEnable a v) s = .next (acked (bnMeshW s v) a) := congrArg _ (hostWrite_granted _ _ _ _ h)

/-- The low bits of a register value. -/
theorem getLsbD_ofNat_toNat {m n : Nat} (v : Word) (hn : n < m) : (BitVec.ofNat m v.toNat).getLsbD n = v.getLsbD n := by
  rw [BitVec.getLsbD_ofNat, decide_eq_true hn, Bool.true_and, BitVec.testBit_toNat]

/-- A bit of the erase hold falls only with its condition. -/
theorem bnLatchW_getLsbD (s : State) (v : Word) {n : Nat} (hn : n < 12) :
    (bnLatchW s v).bn.latch.getLsbD n = (s.bn.latch.getLsbD n && !v.getLsbD n) ∧
      (bnLatchW s v).bn.eraseHold.getLsbD n =
        (s.bn.eraseHold.getLsbD n && !(v.getLsbD n && !s.bn.active.getLsbD n)) := by
  simp only [bnLatchW, BitVec.getLsbD_and, BitVec.getLsbD_not, getLsbD_ofNat_toNat v hn, hn, decide_true, Bool.true_and,
    and_self]

theorem bnMeshW_meshFail (s : State) (v : Word) (n : Nat) : (bnMeshW s v).bn.meshFail.getLsbD n =
    (s.bn.meshFail.getLsbD n && (bnMeshW s v).bn.meshEn.getLsbD n) := BitVec.getLsbD_and ..

section Mesh
variable {s : State} (v : Word) {n : Nat} (hn : n < 16)
include hn

/-- In RAW, TEST and RETURNED a write sets every bit. -/
theorem bnMeshW_free (h : s.bn.lcKnown = some 1 ∨ s.bn.lcKnown = some 2 ∨ s.bn.lcKnown = some 5) :
    (bnMeshW s v).bn.meshEn.getLsbD n = v.getLsbD n := by
  simp only [bnMeshW]
  rw [if_pos (by simpa [or_assoc] using h), getLsbD_ofNat_toNat v hn]

/-- In any other state a bit that stands stays. -/
theorem bnMeshW_kept (h1 : s.bn.lcKnown ≠ some 1) (h2 : s.bn.lcKnown ≠ some 2) (h5 : s.bn.lcKnown ≠ some 5) :
    (bnMeshW s v).bn.meshEn.getLsbD n = (s.bn.meshEn.getLsbD n || v.getLsbD n) := by
  simp only [bnMeshW]
  rw [if_neg (by simp [h1, h2, h5]), BitVec.getLsbD_or, getLsbD_ofNat_toNat v hn]

end Mesh

/-! ## BN_FAULT_CLR and UNIT_KAT_DONE (R351) -/

theorem exec_bnFaultClr {s : State} {a : Access} (v : Word) (h : granted s a true (mgmtAt a 0x9003C) = true) :
    exec (.bnFaultClr a v) s = .next (acked (faultClrW s v) a) := congrArg _ (hostWrite_granted _ _ _ _ h)

theorem faultClrW_busy {s : State} (v : Word) (h : s.bn.faultBusy = true) : faultClrW s v = s := if_pos h

section FaultClr
variable {s : State} {v : Word} {r : UnitRec} (hr : unitRec s (wfld v 0 12) = some r) (hb : s.bn.faultBusy = false)
include hr hb

/-- A top-level unit in FAULT whose Helm is not in HALT is tested. -/
theorem faultClrW_tested (hp : r.parent = none) (hst : (getUni s (wfld v 0 12)).st = 4)
    (hh : ∀ h, r.helm = some h → (getHelm s h).st ≠ 3) : faultClrW s v =
      { s with bn := { s.bn with faultUid := BitVec.ofNat 12 (wfld v 0 12), faultBusy := true } } := by
  have hhalt : r.helm.any (fun h => (getHelm s h).st == 3) = false := by
    cases hm : r.helm with
    | none => rfl
    | some h => simpa using hh h hm
  simp [faultClrW, hr, hb, hp, hst, hhalt]

/-- Any other unit is REFUSED. -/
theorem faultClrW_refused (h : r.parent ≠ none ∨ (getUni s (wfld v 0 12)).st ≠ 4 ∨
    ∃ h, r.helm = some h ∧ (getHelm s h).st = 3) : faultClrW s v =
      { s with bn := { s.bn with faultUid := BitVec.ofNat 12 (wfld v 0 12), faultResult := 2 } } := by
  have hno : (r.parent.isNone && (getUni s (wfld v 0 12)).st == 4 && !r.helm.any (fun h => (getHelm s h).st == 3)) = false := by
    rcases h with h | h | ⟨h, hm, hst⟩
    · simp [h]
    · simp [h]
    · simp [hm, hst]
  simp [faultClrW, hr, hb, hno]

end FaultClr

section Kat
variable {s : State} (hrun : running s = true) (hb : s.bn.faultBusy = true)
include hrun hb

theorem exec_unitKatDone_pass : exec (.unitKatDone true) s =
    .next (setUni { s with bn := { s.bn with faultBusy := false, faultResult := 0 } } s.bn.faultUid.toNat
      { getUni s s.bn.faultUid.toNat with st := 0 }) := by
  change execUnitKatDone true s = _
  simp only [execUnitKatDone, hrun, hb]
  rfl

theorem exec_unitKatDone_fail : exec (.unitKatDone false) s =
    .next (logReq { s with bn := { s.bn with faultBusy := false, faultResult := 1 } } 0xE false false
      (toLE 2 s.bn.faultUid.toNat)) := by
  change execUnitKatDone false s = _
  simp only [execUnitKatDone, hrun, hb]
  rfl

end Kat

/-- Settles O55: each register write is the function of its register, a failed test asks for one limited record. -/
theorem binnacleRule : Obligations.BinnacleRule := by
  unfold Obligations.BinnacleRule
  refine ⟨⟨fun s a n v h => ?_, fun s a v => ⟨fun h => exec_bnLock v h, fun h => ?_, fun h => ?_⟩, fun s up => rfl,
    fun s e he hup hdue => ?_⟩, fun s a v u r h hu hr => ?_, fun s hrun hb => ⟨?_, ?_⟩⟩
  · rw [exec_bnActionWrite v h]
    exact ⟨fun hi => by rw [bnActW_ignored hi], fun hn h3 h8 h11 => by rw [bnActW_stored hn h3 h8 h11]⟩
  · exact ⟨_, exec_bnLatchClear v h, rfl, fun n hn => bnLatchW_getLsbD s v hn⟩
  · exact ⟨_, exec_bnMeshEnable v h, rfl, fun n hn => ⟨bnMeshW_meshFail s v n, bnMeshW_free v hn, bnMeshW_kept v hn⟩⟩
  · change execEraseScrubDone s = _
    simp [execEraseScrubDone, he, hup, hdue]
  · subst hu
    rw [exec_bnFaultClr v h]
    exact ⟨fun hb => by rw [faultClrW_busy v hb], fun hb hp hst hh => by rw [faultClrW_tested hr hb hp hst hh],
      fun hb ho => by rw [faultClrW_refused hr hb ho]⟩
  · exact ⟨_, exec_unitKatDone_pass hrun hb, rfl, getUni_setUni .., fun w hw => getUni_setUni_ne _ _ _ _ hw⟩
  · refine ⟨_, exec_unitKatDone_fail hrun hb, ?_⟩
    rw [onlyRecords_logReq]
    exact ⟨rfl, rfl, rfl, rfl⟩

end Sys2Proof.Machine

namespace Sys2Proof.Machine

/-!
# Commands on blobs

KV_UNWRAP, KV_WRAP and KV_ATTEST as they start (R197, R201, R202). What they read or write goes over port 0 as function 0,
which has no dirty-page log (R302): a write that the rules grant leaves at once or waits at the port.
-/

/-! ## Writes that are granted (R206, R310) -/

/-- What a transaction writes: direction, address, data and originator. -/
def txnFace (t : Txn) : Bool × Nat × Bytes × Origin := (t.write, t.addr, t.data, t.who)

/-- What stands at a port, issued or waiting. -/
def portFaces (s : State) (n : Nat) : List (Bool × Nat × Bytes × Origin) :=
  ((getPort s n).out ++ (getPort s n).sendQ).map txnFace

/-- A transaction of function 0 that the rules grant waits or leaves (R302, R310). -/
theorem comesToIssue_pf {s : State} {n : Nat} {t : Txn} (hf : t.func = 0) (hj : ∀ p, (judgeOut s 0 t.write p).ok = true) :
    (∃ b, comesToIssue s n t = (s, .waits { t with paged := b })) ∨
      ∃ v, comesToIssue s n t = (sendTxn s n { t with paged := true } v, .issued v) := by
  have hlog : dlBefore s n t = some s := by simp [dlBefore, dlActive, hf]
  have hwhole : wholeRefused s { t with paged := true } = none :=
    wholeRefused_eq_none fun p _ => by rw [show ({ t with paged := true } : Txn).func = 0 from hf]; exact hj _
  unfold comesToIssue
  simp only [hlog, hwhole]
  split
  · exact .inl ⟨t.paged, rfl⟩
  · split
    · exact .inl ⟨true, rfl⟩
    · exact .inr ⟨_, rfl⟩

/-- From s to u the transaction has joined what stands at the port, and at most the ports have changed. -/
structure PortGains (s : State) (n : Nat) (t : Txn) (u : State) : Prop where
  only : u = { s with ports := u.ports }
  gained : txnFace t ∈ portFaces u n
  kept : portFaces s n ⊆ portFaces u n

theorem portGains_waits (s : State) (n : Nat) (t : Txn) :
    PortGains s n t (setPort s n { getPort s n with sendQ := (getPort s n).sendQ ++ [t] }) := by
  have h : portFaces (setPort s n { getPort s n with sendQ := (getPort s n).sendQ ++ [t] }) n =
      portFaces s n ++ [txnFace t] := by simp [portFaces]
  exact ⟨rfl, by simp [h], by simp [h]⟩

theorem portGains_sendTxn (s : State) (n : Nat) (t : Txn) (v : Verdict) : PortGains s n t (sendTxn s n t v) := by
  have h : portFaces (sendTxn s n t v) n =
      (getPort s n).out.map txnFace ++ [txnFace t] ++ (getPort s n).sendQ.map txnFace := by
    simp only [portFaces, sendTxn, getPort_setPort, sendBeats, List.map_append]
    rw [map_spendBeats (fun _ _ => rfl), List.map_append]
    simp only [List.map_cons, List.map_nil, txnFace]
  refine ⟨rfl, by simp [h], fun m hm => ?_⟩
  rw [portFaces, List.map_append, List.mem_append] at hm
  simp only [h, List.mem_append]
  tauto

/-- It stands at its port then, beside what stood there. -/
theorem issueTxn_pf {s : State} {n : Nat} {t : Txn} (hf : t.func = 0) (hj : ∀ p, (judgeOut s 0 t.write p).ok = true) :
    PortGains s n t (issueTxn s n t).1 ∧ ((issueTxn s n t).2 != .refused) = true := by
  have hwaits (b : Bool) : PortGains s n t (queueWait n (s, .waits { t with paged := b })).1 := by
    obtain ⟨honly, hgained, hkept⟩ := portGains_waits s n { t with paged := b }
    exact ⟨honly, hgained, hkept⟩
  rw [issueTxn_eq]
  split
  · rcases comesToIssue_pf (n := n) hf hj with ⟨b, h⟩ | ⟨v, h⟩
    · rw [h]; exact ⟨hwaits b, rfl⟩
    · obtain ⟨honly, hgained, hkept⟩ := portGains_sendTxn s n { t with paged := true } v
      rw [h]; exact ⟨⟨honly, hgained, hkept⟩, rfl⟩
  · exact ⟨hwaits t.paged, rfl⟩

theorem issueOne_pf (s : State) {port a n o : Nat} {data : Bytes} {who : Origin} {pools : List Nat}
    (hj : ∀ p, (judgeOut s 0 true p).ok = true) : ∃ t, issueOne s port 0 true a n o data who pools = (t, true) ∧
      t = { s with ports := t.ports } ∧ (true, a, data, who) ∈ portFaces t port ∧ portFaces s port ⊆ portFaces t port := by
  obtain ⟨⟨honly, hgained, hkept⟩, hok⟩ := issueTxn_pf (n := port)
    (t := ⟨0, true, a, n, 0, 0, 0, 0, data, o, who, pools, s.clk.meridian, false, 0, false, 0⟩) rfl hj
  exact ⟨_, Prod.ext rfl hok, honly, hgained, hkept⟩

/-- Granted writes of function 0 all stand at their port. -/
theorem issueAll_pf (s : State) {port : Nat} {data : Bytes} {who : Origin} {pools : List Nat} (l : List (Nat × Nat × Nat))
    (hj : ∀ p, (judgeOut s 0 true p).ok = true) :
    ∃ u, issueAll s port 0 true data who pools l = (u, l.length, none) ∧ u = { s with ports := u.ports } ∧
      portFaces s port ⊆ portFaces u port ∧
      ∀ p ∈ l, (true, p.2.1, (data.drop p.1).take p.2.2, who) ∈ portFaces u port := by
  induction l generalizing s with
  | nil => exact ⟨s, rfl, rfl, List.Subset.refl _, nofun⟩
  | cons p l ih =>
    obtain ⟨o, a, n⟩ := p
    obtain ⟨t, hone, honly, hgained, hkept⟩ := issueOne_pf s (port := port) (a := a) (n := n) (o := o)
      (data := (data.drop o).take n) (who := who) (pools := pools) hj
    obtain ⟨u, hu, honly', hkept', hall⟩ := ih t (fun p => by rw [honly]; exact hj p)
    refine ⟨u, ?_, ?_, List.Subset.trans hkept hkept', fun p hp => ?_⟩
    · simp [issueAll, hone, hu]
    · rw [honly', honly]
    · rcases List.mem_cons.mp hp with rfl | hp
      · exact hkept' hgained
      · exact hall p hp

/-! ## The start of a read or write of a command (R206) -/

/-- The input of a command is on its way. -/
theorem kvFetch_reads {s : State} {c : KvCmd} {len : Nat} (hj : ∀ p, (judgeOut s 0 false p).ok = true)
    (hne : pieces c.src len ≠ []) : (kvFetch s c len).kv = { s.kv with
      cmd := some { c with gather := ⟨(pieces c.src len).length, [], none⟩ } } := by
  obtain ⟨P, hP⟩ := startRead_granted (port := 0) (addr := c.src) (len := len) (who := .kvRead) (pools := []) hj
  have hneed : (pieces c.src len).length ≠ 0 := fun h => hne (List.length_eq_zero_iff.mp h)
  rw [kvFetch, hP]
  simp [kvRead, hneed]

/-- The output of a command stands at port 0, and the command waits for its responses (R206). -/
theorem kvStore_writes {s : State} {c : KvCmd} {out : Bytes} (hj : ∀ p, (judgeOut s 0 true p).ok = true) (hne : out.length ≠ 0) :
    let t := kvStore s c out
    t.kv = { s.kv with cmd := some { c with out := (pieces c.dst out.length).length, outErr := false } } ∧
      ∀ p ∈ pieces c.dst out.length, ∃ x ∈ (getPort t 0).out ++ (getPort t 0).sendQ,
        x.write = true ∧ x.addr = p.2.1 ∧ x.data = (out.drop p.1).take p.2.2 ∧ x.who = .kvWrite := by
  obtain ⟨u, hu, honly, -, hall⟩ := issueAll_pf (port := 0) (data := out) (who := .kvWrite) (pools := []) s
    (pieces c.dst out.length) hj
  have hstore : kvStore s c out = { u with kv := { u.kv with
      cmd := some { c with out := (pieces c.dst out.length).length, outErr := false } } } := by
    rw [kvStore, hu]
    exact if_neg (pieces_ne_nil hne)
  dsimp only
  rw [hstore]
  refine ⟨by rw [honly], fun p hp => ?_⟩
  obtain ⟨x, hx, hface⟩ := List.mem_map.mp (hall p hp)
  simp only [txnFace, Prod.mk.injEq] at hface
  exact ⟨x, hx, hface⟩

end Sys2Proof.Machine

namespace Sys2Proof.Machine

/-!
# The start of the commands on blobs

KV_UNWRAP, KV_WRAP and KV_ATTEST (R197, R201, R202): refusals in their order, and what a command that goes on reads or
writes. A parity error found in the slot changes none of the checks (log entry 55).
-/

/-! ## The writes of KV_CMD -/

/-- A command on a blob with its operands. -/
def blobCmd (s : State) (op : Nat) (kek bad kekBad : Bool) : KvCmd := vaultCmd s (word (op + 16 * b2n kek)) bad kekBad

theorem blobCmd_op (s : State) {op : Nat} (hop : op < 16) (kek bad kekBad : Bool) : (blobCmd s op kek bad kekBad).op = op :=
  (wfld_blobOp hop kek).1

theorem blobCmd_wrapper (s : State) {op : Nat} (hop : op < 16) (kek bad kekBad : Bool) :
    (blobCmd s op kek bad kekBad).wrapper = kek := (wfld_blobOp hop kek).2

section Exec
variable {s : State} {a : Access} (h : kvTakes s a = true) (kek bad kekBad : Bool)
include h

theorem exec_kvUnwrap : exec (.kvUnwrap ⟨a, bad, kekBad⟩ kek) s = .next (acked (kvStart s (blobCmd s 4 kek false kekBad)) a) := by
  obtain ⟨hop, -⟩ := wfld_blobOp (show 4 < 16 by decide) kek
  exact congrArg _ (hostWrite_kvCmd h (by rw [hop]; decide) (by rw [hop]; decide))

theorem exec_kvWrap : exec (.kvWrap ⟨a, bad, kekBad⟩ kek) s =
    .next (acked (kvWrap (kvRuns s (blobCmd s 5 kek bad kekBad) 0) (blobCmd s 5 kek bad kekBad)) a) := by
  obtain ⟨hop, -⟩ := wfld_blobOp (show 5 < 16 by decide) kek
  rw [← kvStart_wrap (blobCmd_op s (by decide) kek bad kekBad)]
  exact congrArg _ (hostWrite_kvCmd h (by rw [hop]; decide) (by rw [hop]; decide))

theorem exec_kvAttest : exec (.kvAttest ⟨a, bad, kekBad⟩) s =
    .next (acked (kvAttest (kvRuns s (vaultCmd s 6 bad false) 0) (vaultCmd s 6 bad false)) a) := by
  rw [← kvStart_attest rfl]
  exact congrArg _ (hostWrite_kvCmd h (by decide) (by decide))

end Exec

/-! ## The slot of a command, in which a parity error was looked for -/

/-- A command runs on its slot: a parity error of it has been found (R193). -/
def kvOn (s : State) (c : KvCmd) : State := kvRuns (kvFound s c.idx c.bad) c 0

theorem kvOn_state (s : State) (c : KvCmd) : ∃ S n, kvOn s c =
    { s with kv := { s.kv with slots := S, parity := n, busy := true, cmd := some c, outLen := 0 } } := by
  obtain ⟨S, n, h⟩ := kvFound_state s c.idx c.bad
  exact ⟨S, n, by rw [kvOn, h]; rfl⟩

theorem getSlot_kvOn (s : State) (c : KvCmd) : ∃ seen, getSlot (kvOn s c) c.idx = { getSlot s c.idx with badSeen := seen } :=
  getSlot_kvFound s c.idx c.bad

theorem kvHolder_kvOn (s : State) (c : KvCmd) (i : Nat) : kvHolder (kvOn s c) i = kvHolder s i := by
  obtain ⟨S, n, h⟩ := kvOn_state s c
  rw [h]; rfl

/-- The record of a PRIV head lies in the slots behind it. -/
theorem slotKey_kvOn (s : State) (c : KvCmd) : slotKey (kvOn s c) c.idx = slotKey s c.idx := by
  obtain ⟨seen, h⟩ := getSlot_kvOn s c
  have hext (k : Nat) : getSlot (kvOn s c) (c.idx + k + 1) = getSlot s (c.idx + k + 1) :=
    getSlot_kvFound_ne s c.bad (by omega)
  unfold slotKey
  simp only [h, hext]

theorem kvFound_ofHolder {s : State} {c : KvCmd} (h : (kvHolder s c.idx).isSome = true) :
    kvFound (kvRuns s c 0) c.idx (c.bad && (kvHolder (kvRuns s c 0) c.idx).isSome) = kvOn s c := by
  have hh : (kvHolder (kvRuns s c 0) c.idx).isSome = true := h
  rw [hh, Bool.and_true, kvFound_kvRuns]
  rfl

/-! ## ATTEST (R202) -/

section Attest
variable {s : State} {c : KvCmd} (h : (kvHolder s c.idx).isSome = true)
include h

theorem attestBad_kvOn : attestBad (kvOn s c) c =
    if ((getSlot s c.idx).kind != 1 && (getSlot s c.idx).kind != 2) || atOrigin (getSlot s c.idx).attr ||
      atExport (getSlot s c.idx).attr then some 9
    else if !s.kv.attValid then some 10 else none := by
  obtain ⟨seen, hslot⟩ := getSlot_kvOn s c
  obtain ⟨S, n, hstate⟩ := kvOn_state s c
  have hatt : (kvOn s c).kv.attValid = s.kv.attValid := by rw [hstate]
  simp only [attestBad, kvHolder_kvOn, hslot, hatt, if_neg (not_isNone_of_holder h)]

/-- An imported, exportable or EMPTY key, or an extension, is not attested. -/
theorem attestBad_refuses (hbad : (getSlot s c.idx).kind = 0 ∨ (getSlot s c.idx).kind = 3 ∨
    atOrigin (getSlot s c.idx).attr = true ∨ atExport (getSlot s c.idx).attr = true) : attestBad (kvOn s c) c = some 9 := by
  rw [attestBad_kvOn h]
  apply if_pos
  rcases hbad with hkind | hkind | horigin | hexport
  · simp [hkind]
  · simp [hkind]
  · simp [horigin]
  · simp [hexport]

theorem attestBad_attestable (hk : (getSlot s c.idx).kind = 1 ∨ (getSlot s c.idx).kind = 2)
    (ho : atOrigin (getSlot s c.idx).attr = false) (he : atExport (getSlot s c.idx).attr = false) :
    attestBad (kvOn s c) c = if !s.kv.attValid then some 10 else none := by
  rw [attestBad_kvOn h]
  apply if_neg
  rcases hk with hkind | hkind <;> simp [hkind, ho, he]

theorem kvAttest_refused {r : Nat} (hr : attestBad (kvOn s c) c = some r) :
    kvAttest (kvRuns s c 0) c = kvResult (kvOn s c) r := by
  simp only [kvAttest, kvFound_ofHolder h, hr]

theorem kvAttest_short (hr : attestBad (kvOn s c) c = none) (hd : c.dlen < 224) :
    kvAttest (kvRuns s c 0) c = kvResult (kvOn s c) 12 := by
  simp only [kvAttest, kvFound_ofHolder h, hr, if_pos hd]

theorem kvAttest_reads (hr : attestBad (kvOn s c) c = none) (hd : 224 ≤ c.dlen) :
    kvAttest (kvRuns s c 0) c = kvFetch (kvOn s c) c 32 := by
  simp only [kvAttest, kvFound_ofHolder h, hr, if_neg (Nat.not_lt.mpr hd)]

end Attest

/-! ## WRAP (R201) -/

section Wrap
variable {s : State} {c : KvCmd}

theorem kvWrap_kind (h : (kvHolder s c.idx).isSome = true) (hk : (getSlot s c.idx).kind = 0 ∨ (getSlot s c.idx).kind = 3) :
    kvWrap (kvRuns s c 0) c = kvResult (kvOn s c) 2 := by
  obtain ⟨f, hf⟩ := Option.isSome_iff_exists.mp h
  obtain ⟨seen, hslot⟩ := getSlot_kvOn s c
  simp only [kvWrap, kvFound_ofHolder h, kvHolder_kvOn, hf, hslot]
  exact if_pos hk

theorem kvWrap_notExportable (h : (kvHolder s c.idx).isSome = true)
    (hk : (getSlot s c.idx).kind = 1 ∨ (getSlot s c.idx).kind = 2) (hw : c.wrapper = true)
    (he : atExport (getSlot s c.idx).attr = false) : kvWrap (kvRuns s c 0) c = kvResult (kvOn s c) 8 := by
  obtain ⟨f, hf⟩ := Option.isSome_iff_exists.mp h
  obtain ⟨seen, hslot⟩ := getSlot_kvOn s c
  have hk' : ¬ ((getSlot s c.idx).kind = 0 ∨ (getSlot s c.idx).kind = 3) := by omega
  simp only [kvWrap, kvFound_ofHolder h, kvHolder_kvOn, hf, hslot, if_neg hk', hw, he]
  rfl

/-- The blob of a slot under the domain key of its function (R196). -/
def domainBlob (s : State) (f : FuncRec) (i : Nat) : Bytes :=
  let h := blobHeader false f.domain (getSlot s i).attr (getSlot s i).klen
  h ++ kwpEnc (Config.aesEnc (domainKey s f.domain)) (h ++ (getSlot s i).pubh ++ slotKey s i)

theorem blobHeader_length (wrapper : Bool) (domain : Nat) (attr : Word) (klen : Nat) :
    (blobHeader wrapper domain attr klen).length = 16 := by
  simp [blobHeader, toLE_length, zeros, ascii]

theorem domainBlob_length_ne (s : State) (f : FuncRec) (i : Nat) : (domainBlob s f i).length ≠ 0 := by
  rw [domainBlob, List.length_append, blobHeader_length]
  omega

theorem kvWrap_domain {f : FuncRec} (hf : kvHolder s c.idx = some f)
    (hk : (getSlot s c.idx).kind = 1 ∨ (getSlot s c.idx).kind = 2) (hw : c.wrapper = false) (hu : lodeUsable s = true) :
    kvWrap (kvRuns s c 0) c =
      if c.dlen < blobLen (16 + (getSlot s c.idx).pubh.length + (slotKey s c.idx).length) then kvResult (kvOn s c) 12
      else kvStore (kvOn s c) c (domainBlob s f c.idx) := by
  obtain ⟨seen, hslot⟩ := getSlot_kvOn s c
  obtain ⟨S, n, hstate⟩ := kvOn_state s c
  have hk' : ¬ ((getSlot s c.idx).kind = 0 ∨ (getSlot s c.idx).kind = 3) := by omega
  have hkey : kvWrapKey (kvOn s c) c f 2 = .inr (domainKey s f.domain, f.domain) := by
    have hu' : lodeUsable (kvOn s c) = true := by rw [hstate]; exact hu
    have hd : domainKey (kvOn s c) f.domain = domainKey s f.domain := by rw [hstate]; rfl
    simp [kvWrapKey, hw, hu', hd]
  have hnokek (i : Nat) : kvFound (kvOn s c) i false = kvOn s c := rfl
  simp only [kvWrap, kvFound_ofHolder (by rw [hf]; rfl), kvHolder_kvOn, hf, hslot, if_neg hk', hw, Bool.false_and,
    Bool.false_eq_true, if_false, hnokek, hkey, slotKey_kvOn, List.length_append, blobHeader_length]
  rfl

theorem kvWrap_short {f : FuncRec} (hf : kvHolder s c.idx = some f)
    (hk : (getSlot s c.idx).kind = 1 ∨ (getSlot s c.idx).kind = 2) (hw : c.wrapper = false) (hu : lodeUsable s = true)
    (hd : c.dlen < blobLen (16 + (getSlot s c.idx).pubh.length + (slotKey s c.idx).length)) :
    kvWrap (kvRuns s c 0) c = kvResult (kvOn s c) 12 := (kvWrap_domain hf hk hw hu).trans (if_pos hd)

theorem kvWrap_writes {f : FuncRec} (hf : kvHolder s c.idx = some f)
    (hk : (getSlot s c.idx).kind = 1 ∨ (getSlot s c.idx).kind = 2) (hw : c.wrapper = false) (hu : lodeUsable s = true)
    (hd : blobLen (16 + (getSlot s c.idx).pubh.length + (slotKey s c.idx).length) ≤ c.dlen) :
    kvWrap (kvRuns s c 0) c = kvStore (kvOn s c) c (domainBlob s f c.idx) :=
  (kvWrap_domain hf hk hw hu).trans (if_neg (Nat.not_lt.mpr hd))

end Wrap

/-- A command that ends shows its result, BUSY 0 and OUTLEN 0, beside what its slot has shown. -/
theorem kvResult_kvOn (s : State) (c : KvCmd) (n : Nat) : kvResult (kvOn s c) n =
    { kvFound s c.idx c.bad with kv := { (kvFound s c.idx c.bad).kv with
      result := n, cmd := none, busy := false, outLen := 0 } } := kvResult_kvRuns ..

/-- The rules that grant outbound transactions are not the vault's. -/
theorem judgeOut_kvOn (s : State) (c : KvCmd) (func : Nat) (write : Bool) (p : Nat) :
    judgeOut (kvOn s c) func write p = judgeOut s func write p := by
  obtain ⟨S, n, h⟩ := kvOn_state s c
  rw [h]; rfl

/-- Settles O33: a slot found with a parity error is judged as before (`attestBad_kvOn`, `kvWrap_kind`,
`kvWrap_notExportable`, `kvWrap_short`); what a command reads or writes is granted (`kvFetch_reads`, `kvStore_writes`). -/
theorem kvBlobCommandsStart : Obligations.KvBlobCommandsStart := by
  unfold Obligations.KvBlobCommandsStart
  intro s w a kek bad kekBad i x ht hi hx hw hj
  subst hi hx hw
  have hunwrap := blobCmd_op s (show 4 < 16 by decide) kek false kekBad
  have hwrap := blobCmd_op s (show 5 < 16 by decide) kek bad kekBad
  have hkek := blobCmd_wrapper s (show 5 < 16 by decide) kek bad kekBad
  refine ⟨fun hwr hne => ?_, fun hh hbad => ?_, fun hh hk ho he => ?_, fun hh hk => ?_, fun hh hk hw he => ?_,
    fun f hw hf hk hu => ⟨fun hd => ?_, fun hd => ?_⟩⟩
  · rw [exec_kvUnwrap ht, kvStart_unwrap hunwrap hwr]
    refine ⟨_, { blobCmd s 4 kek false kekBad with gather := ⟨(pieces s.kv.src s.kv.len.toNat).length, [], none⟩ }, rfl, ?_⟩
    rw [acked_kv, kvFetch_reads (s := kvRuns s (blobCmd s 4 kek false kekBad) s.kv.outLen) (fun p => (hj p).1) hne]
    exact ⟨rfl, rfl, hunwrap, rfl, blobCmd_wrapper s (by decide) kek false kekBad, rfl, rfl⟩
  · rw [exec_kvAttest ht, kvAttest_refused hh (attestBad_refuses hh hbad), kvResult_kvOn]
    rfl
  · have hjudged : attestBad (kvOn s (vaultCmd s 6 bad false)) (vaultCmd s 6 bad false) = _ := attestBad_attestable hh hk ho he
    refine ⟨fun hv => ?_, fun hv hd => ?_, fun hv hd => ?_⟩
    · rw [hv] at hjudged
      rw [exec_kvAttest ht, kvAttest_refused hh hjudged, kvResult_kvOn]
      rfl
    · rw [hv] at hjudged
      rw [exec_kvAttest ht, kvAttest_short hh hjudged hd, kvResult_kvOn]
      rfl
    · rw [hv] at hjudged
      have hne : pieces s.kv.src 32 ≠ [] := List.length_pos_iff.mp (Nat.pos_of_ne_zero (pieces_ne_nil (by decide)))
      rw [exec_kvAttest ht, kvAttest_reads hh hjudged hd]
      refine ⟨_, { vaultCmd s 6 bad false with gather := ⟨(pieces s.kv.src 32).length, [], none⟩ }, rfl, ?_⟩
      have hread (p : Nat) : (judgeOut (kvOn s (vaultCmd s 6 bad false)) 0 false p).ok = true := by
        rw [judgeOut_kvOn]; exact (hj p).1
      rw [acked_kv, kvFetch_reads hread hne]
      exact ⟨rfl, rfl, rfl, rfl⟩
  · rw [exec_kvWrap ht, kvWrap_kind hh hk, kvResult_kvOn]
    rfl
  · rw [exec_kvWrap ht, kvWrap_notExportable hh hk (hkek.trans hw) he, kvResult_kvOn]
    rfl
  · rw [exec_kvWrap ht, kvWrap_short hf hk (hkek.trans hw) hu hd, kvResult_kvOn]
    rfl
  · obtain ⟨hkv, hall⟩ := kvStore_writes (s := kvOn s (blobCmd s 5 kek bad kekBad)) (c := blobCmd s 5 kek bad kekBad)
      (fun p => by rw [judgeOut_kvOn]; exact (hj p).2) (domainBlob_length_ne s f (blobCmd s 5 kek bad kekBad).idx)
    rw [exec_kvWrap ht, kvWrap_writes hf hk (hkek.trans hw) hu hd]
    refine ⟨_, { blobCmd s 5 kek bad kekBad with
      out := (pieces s.kv.dst (domainBlob s f s.kv.idx.toNat).length).length, outErr := false },
      domainBlob s f s.kv.idx.toNat, rfl, ?_⟩
    rw [acked_kv, hkv, getPort, acked_ports]
    exact ⟨rfl, rfl, hwrap, rfl, rfl, hall, rfl⟩

end Sys2Proof.Machine

namespace Sys2Proof.Machine

/-!
# Which functions leave operand memory as it is

Operand memory is written by the commands of arithmetic units, the aperture, aborts, scrubs, erases and a Chart load (R214,
R219, R222, R228, R205, R269). Every other function of the model leaves it, and one lemma per function says so, in the
order of the model: by unfolding it and by the lemmas of the functions it calls.
-/

/-! ## Branches, pairs and folds -/

@[simp] theorem ite_opmem (c : Prop) [Decidable c] (a b : State) :
    (if c then a else b).opmem = if c then a.opmem else b.opmem := apply_ite ..

/-- The state that a match on a pair names holds the operand memory of the pair's state. -/
theorem fst_opmem {α : Type} {x : State × α} {t : State} {r : α} (h : x = (t, r)) : t.opmem = x.1.opmem := by
  rw [h]

@[simp] theorem foldl_opmem {α : Type} (f : State → α → State) (l : List α) (s : State)
    (h : ∀ t x, (f t x).opmem = t.opmem) : (l.foldl f s).opmem = s.opmem :=
  foldl_keeps State.opmem f h l s

/-- The effect that a choice yields keeps operand memory if the effects of both branches do. -/
theorem ite_effect_opmem {c : Prop} [Decidable c] {a b : Option (State → State)}
    (ha : ∀ f ∈ a, ∀ t, (f t).opmem = t.opmem) (hb : ∀ f ∈ b, ∀ t, (f t).opmem = t.opmem) :
    ∀ f ∈ (if c then a else b), ∀ t, (f t).opmem = t.opmem := by
  split <;> assumption

@[simp] theorem foldl_setPool_opmem {α : Type} (p : State → α → Nat) (x : State → α → Pool) (l : List α) (s : State) :
    (l.foldl (fun t a => setPool t (p t a) (x t a)) s).opmem = s.opmem :=
  foldl_opmem _ _ _ fun _ _ => rfl

@[simp] theorem foldl_setUni_opmem {α : Type} (u : State → α → Nat) (x : State → α → Uni) (l : List α) (s : State) :
    (l.foldl (fun t a => setUni t (u t a) (x t a)) s).opmem = s.opmem :=
  foldl_opmem _ _ _ fun _ _ => rfl

@[simp] theorem foldl_setSlot_opmem {α : Type} (i : State → α → Nat) (x : State → α → Slot) (l : List α) (s : State) :
    (l.foldl (fun t a => setSlot t (i t a) (x t a)) s).opmem = s.opmem :=
  foldl_opmem _ _ _ fun _ _ => rfl

@[simp] theorem foldl_count_opmem {α : Type} (u : State → α → Nat) (f : State → α → Counts → Counts) (l : List α)
    (s : State) : (l.foldl (fun t a => count t (u t a) (f t a)) s).opmem = s.opmem :=
  foldl_opmem _ _ _ fun _ _ => rfl

/-! ## Machine/Ops.lean -/

@[simp] theorem setLane_opmem (s odd l) : (setLane s odd l).opmem = s.opmem := by simp [setLane]

@[simp] theorem flushLane_opmem (s odd) : (flushLane s odd).opmem = s.opmem := by
  simp only [flushLane]; (repeat' split) <;> simp

@[simp] theorem emitNotice_opmem (s f k) : (emitNotice s f k).opmem = s.opmem := by simp [emitNotice]

@[simp] theorem sendNotice_opmem (s f k) : (sendNotice s f k).opmem = s.opmem := by simp [sendNotice]

@[simp] theorem pfNotice_opmem (s cfg) : (pfNotice s cfg).opmem = s.opmem := by simp [pfNotice]

@[simp] theorem flushLanes_opmem (s) : (flushLanes s).opmem = s.opmem := by simp [flushLanes]

@[simp] theorem lbLatch_opmem (s i) : (lbLatch s i).opmem = s.opmem := by simp [lbLatch]

@[simp] theorem writeSlot_opmem (s) : (writeSlot s).opmem = s.opmem := by
  simp only [writeSlot]; (repeat' split) <;> simp

@[simp] theorem lbRoom_opmem (n s) : (lbRoom n s).opmem = s.opmem := by
  induction n generalizing s with
  | zero => rfl
  | succ n ih => unfold lbRoom; split <;> simp [ih]

@[simp] theorem lbAppend_opmem (s type pin exempt data) :
    (lbAppend s type pin exempt data).opmem = s.opmem := by simp [lbAppend]

@[simp] theorem logReq_opmem (s type pin exempt data) :
    (logReq s type pin exempt data).opmem = s.opmem := by simp [logReq]

@[simp] theorem sounding_opmem (s i f) : (sounding s i f).opmem = s.opmem := by simp [sounding]

@[simp] theorem depthSounding_opmem (s g) : (depthSounding s g).opmem = s.opmem := by simp [depthSounding]

@[simp] theorem bnLatch_opmem (s i) : (bnLatch s i).opmem = s.opmem := by simp [bnLatch]

@[simp] theorem acLatch_opmem (s i) : (acLatch s i).opmem = s.opmem := by simp [acLatch]

@[simp] theorem outViolation_opmem (s addr info rule) :
    (outViolation s addr info rule).opmem = s.opmem := by simp [outViolation]

@[simp] theorem sendTxn_opmem (s n t v) : (sendTxn s n t v).opmem = s.opmem := by simp [sendTxn]

@[simp] theorem refuseTxn_opmem (s n t v) : (refuseTxn s n t v).opmem = s.opmem := by simp [refuseTxn]

@[simp] theorem setDl_opmem (s f d) : (setDl s f d).opmem = s.opmem := by simp [setDl]

theorem dlPage_opmem {s f n page who pools t} (h : dlPage s f n page who pools = some t) :
    t.opmem = s.opmem := by
  simp only [dlPage] at h
  (repeat' split at h) <;> simp at h <;> simp [← h]

theorem dlBefore_opmem {s n x t} (h : dlBefore s n x = some t) : t.opmem = s.opmem := by
  unfold dlBefore at h
  split at h
  · exact dlPage_opmem h
  · cases h; rfl

@[simp] theorem comesToIssue_opmem (s n t) : (comesToIssue s n t).1.opmem = s.opmem := by
  unfold comesToIssue
  split
  · rfl
  · split
    · rfl
    next u hu =>
      have h := dlBefore_opmem hu
      simp only
      (repeat' split) <;> simp [h]

@[simp] theorem issueTxn_opmem (s n t) : (issueTxn s n t).1.opmem = s.opmem := by
  have h : (if (getPort s n).sendQ.isEmpty then comesToIssue s n t else (s, .waits t)).1.opmem = s.opmem := by
    split <;> simp
  simp only [issueTxn]
  split
  · next hx => exact (fst_opmem hx).trans h
  · exact h

@[simp] theorem issueOne_opmem (s port func write addr len off data who pools) :
    (issueOne s port func write addr len off data who pools).1.opmem = s.opmem := by simp [issueOne]

@[simp] theorem issueAll_opmem (s port func write data who pools l) :
    (issueAll s port func write data who pools l).1.opmem = s.opmem := by
  induction l generalizing s with
  | nil => rfl
  | cons p r ih =>
    unfold issueAll
    split <;> (next hx => simp [ih, fst_opmem hx])

@[simp] theorem startRead_opmem (s port func addr len who pools) :
    (startRead s port func addr len who pools).1.opmem = s.opmem := by simp [startRead]

@[simp] theorem dropQueued_opmem (s p) : (dropQueued s p).opmem = s.opmem := by simp [dropQueued]

@[simp] theorem forget_opmem (s p) : (forget s p).opmem = s.opmem := by simp [forget]

@[simp] theorem voidSupply_opmem (s) : (voidSupply s).opmem = s.opmem := by simp [voidSupply]

@[simp] theorem voidFabric_opmem (s hit) : (voidFabric s hit).opmem = s.opmem := by simp [voidFabric]

@[simp] theorem voidUnit_opmem (s hit) : (voidUnit s hit).opmem = s.opmem := by simp [voidUnit]

@[simp] theorem respond_opmem (s a r) : (respond s a r).opmem = s.opmem := by simp [respond]

/-! ## Machine/Operands.lean -/

@[simp] theorem lockedAccess_opmem (s addr master func debug) :
    (lockedAccess s addr master func debug).opmem = s.opmem := by simp [lockedAccess]

@[simp] theorem inViolation_opmem (s r rule) : (inViolation s r rule).opmem = s.opmem := by simp [inViolation]

@[simp] theorem judge_opmem (s r) : (judge s r).1.opmem = s.opmem := by
  simp only [judge]; (repeat' split) <;> simp

@[simp] theorem access_opmem (s a write off) : (access s a write off).1.opmem = s.opmem := by
  unfold access; (repeat' split) <;> simp

@[simp] theorem hostWrite_opmem (s a off) (eff : State → State) (h : ∀ t, (eff t).opmem = t.opmem) :
    (hostWrite s a off eff).opmem = s.opmem := by
  unfold hostWrite
  split
  · rfl
  · split
    · next hx => simp [fst_opmem hx]
    · next hx => split <;> simp [h, fst_opmem hx]

@[simp] theorem loRead_opmem (s key v) : (loRead s key v).1.opmem = s.opmem := by simp [loRead]

@[simp] theorem hiRead_opmem (s key v) : (hiRead s key v).1.opmem = s.opmem := by
  unfold hiRead; split <;> simp

@[simp] theorem loWrite_opmem (s key v) : (loWrite s key v).opmem = s.opmem := by simp [loWrite]

@[simp] theorem hiWrite_opmem (s key v) (f : State → Nat → State) (h : ∀ t n, (f t n).opmem = t.opmem) :
    (hiWrite s key v f).opmem = s.opmem := h ..

/-! ## Machine/DirtyLog.lean -/

@[simp] theorem dlSweep_opmem (s f) : (dlSweep s f).opmem = s.opmem := by simp [dlSweep]

@[simp] theorem dlCfgW_opmem (s f v) : (dlCfgW s f v).opmem = s.opmem := by simp [dlCfgW]

@[simp] theorem dlConsumedW_opmem (s f v) : (dlConsumedW s f v).opmem = s.opmem := by simp [dlConsumedW]

@[simp] theorem dlCmdW_opmem (s f v) : (dlCmdW s f v).opmem = s.opmem := by simp [dlCmdW]

@[simp] theorem dlStatusW_opmem (s f v) : (dlStatusW s f v).opmem = s.opmem := by simp [dlStatusW]

/-! ## Machine/Ledger.lean -/

@[simp] theorem voidFewer_opmem (s) : (voidFewer s).opmem = s.opmem := by simp [voidFewer]

@[simp] theorem settleBucket_opmem (s g) : (settleBucket s g).opmem = s.opmem := by simp [settleBucket]

@[simp] theorem famineSample_opmem (s p) : (famineSample s p).opmem = s.opmem := by simp [famineSample]

@[simp] theorem famineClock_opmem (s g) : (famineClock s g).opmem = s.opmem := by simp [famineClock]

@[simp] theorem lateChain_opmem (s c finish) : (lateChain s c finish).opmem = s.opmem := by simp [lateChain]

/-! ## Machine/Slots.lean -/

@[simp] theorem atEnd_opmem (s uid op status detail carry) :
    (atEnd s uid op status detail carry).opmem = s.opmem := by simp [atEnd]

@[simp] theorem forgetCmd_opmem (s uid) : (forgetCmd s uid).opmem = s.opmem := by simp [forgetCmd]

/-! ## Machine/JobEnd.lean -/

@[simp] theorem ctxPut_opmem (s r c) : (ctxPut s r c).opmem = s.opmem := by simp [ctxPut]

@[simp] theorem countScrub_opmem (s uid) : (countScrub s uid).opmem = s.opmem := by simp [countScrub]

@[simp] theorem countMismatch_opmem (s uid) : (countMismatch s uid).opmem = s.opmem := by simp [countMismatch]

@[simp] theorem scrubUnit_opmem (s uid) : (scrubUnit s uid).opmem = s.opmem := by simp [scrubUnit]

@[simp] theorem wakeRings_opmem (s p) : (wakeRings s p).opmem = s.opmem := by simp [wakeRings]

@[simp] theorem release_opmem (s uid) : (release s uid).opmem = s.opmem := by simp [release]

@[simp] theorem dropKept_opmem (s) : (dropKept s).opmem = s.opmem := by simp [dropKept]

@[simp] theorem freeEntries_opmem (s p cid f) : (freeEntries s p cid f).opmem = s.opmem := by simp [freeEntries]

@[simp] theorem iqMessage_opmem (s rose) : (iqMessage s rose).opmem = s.opmem := by simp [iqMessage]

@[simp] theorem iqSample_opmem (s p) : (iqSample s p).opmem = s.opmem := by simp [iqSample]

@[simp] theorem freeSeg_opmem (s c g) : (freeSeg s c g).opmem = s.opmem := by simp [freeSeg]

@[simp] theorem addResult_opmem (s c r) : (addResult s c r).opmem = s.opmem := by simp [addResult]

@[simp] theorem commandErr_opmem (s uid op status detail) :
    (commandErr s uid op status detail).opmem = s.opmem := by simp [commandErr]

@[simp] theorem countEnd_opmem (s uid cls func e ran) :
    (countEnd s uid cls func e ran).opmem = s.opmem := by simp [countEnd]

@[simp] theorem countKv_opmem (s status) : (countKv s status).opmem = s.opmem := by simp [countKv]

@[simp] theorem countHelm_opmem (s uid e ran) : (countHelm s uid e ran).opmem = s.opmem := by
  unfold countHelm; split <;> simp

@[simp] theorem setHalf_opmem (s uid b) : (setHalf s uid b).opmem = s.opmem := by
  unfold setHalf; split <;> simp

@[simp] theorem dropDesc_opmem (s j) : (dropDesc s j).opmem = s.opmem := by simp [dropDesc]

@[simp] theorem writeBack_opmem (s u r c) : (writeBack s u r c).opmem = s.opmem := by simp [writeBack]

@[simp] theorem endDesc_opmem (s uid e) : (endDesc s uid e).opmem = s.opmem := by
  simp only [endDesc]; (repeat' split) <;> simp

/-! ## Machine/Erase.lean -/

@[simp] theorem scrubOwner_opmem (s f) : (scrubOwner s f).opmem = s.opmem := by simp [scrubOwner]

@[simp] theorem eraseCtx_opmem (s) : (eraseCtx s).opmem = s.opmem := by simp [eraseCtx]

/-! ## Machine/KeySlots.lean -/

@[simp] theorem putSlot_opmem (s i attr key pubh) : (putSlot s i attr key pubh).opmem = s.opmem := by
  unfold putSlot; split <;> simp

@[simp] theorem slotParity_opmem (s i) : (slotParity s i).opmem = s.opmem := by simp [slotParity]

@[simp] theorem vaultAccess_opmem (s k bad) : (vaultAccess s k bad).1.opmem = s.opmem := by
  simp only [vaultAccess]; (repeat' split) <;> simp

@[simp] theorem bumpInv_opmem (s i) : (bumpInv s i).opmem = s.opmem := by simp [bumpInv]

/-! ## Machine/Queues.lean -/

@[simp] theorem fbLog_opmem (s p) : (fbLog s p).opmem = s.opmem := by simp [fbLog]

@[simp] theorem startScrub_opmem (s p) : (startScrub s p).opmem = s.opmem := by simp [startScrub]

@[simp] theorem enterFallback_opmem (s p cause) : (enterFallback s p cause).opmem = s.opmem := by simp [enterFallback]

@[simp] theorem parityError_opmem (s p e w) : (parityError s p e w).opmem = s.opmem := by
  simp only [parityError]; (repeat' split) <;> simp

@[simp] theorem parityErrors_opmem (s p read bad) : (parityErrors s p read bad).opmem = s.opmem := by
  refine foldl_opmem _ _ _ fun t b => ?_
  (repeat' split) <;> simp

@[simp] theorem iqMove_opmem (s p bad) : (iqMove s p bad).opmem = s.opmem := by simp [iqMove]

@[simp] theorem retryScrubW_opmem (s p v) : (retryScrubW s p v).opmem = s.opmem := by simp [retryScrubW]

@[simp] theorem iqHoldW_opmem (s p v) : (iqHoldW s p v).opmem = s.opmem := by simp [iqHoldW]

@[simp] theorem layPool_opmem (s p) : (layPool s p).opmem = s.opmem := by simp [layPool]

@[simp] theorem iqNoticeW_opmem (s p v) : (iqNoticeW s p v).opmem = s.opmem := by simp [iqNoticeW]

/-! ## Machine/Admission.lean -/

@[simp] theorem fetchFault_opmem (s g) : (fetchFault s g).opmem = s.opmem := by simp [fetchFault]

@[simp] theorem stageFault_opmem (s g) : (stageFault s g).opmem = s.opmem := by simp [stageFault]

@[simp] theorem startStage_opmem (s g d) : (startStage s g d).opmem = s.opmem := by simp [startStage]

@[simp] theorem fetched_opmem (s g) : (fetched s g).opmem = s.opmem := by
  simp only [fetched]; (repeat' split) <;> simp

@[simp] theorem takeRound_opmem (s p ps) : (takeRound s p ps).opmem = s.opmem := by simp [takeRound]

@[simp] theorem refuse_opmem (s g ps count) : (refuse s g ps count).opmem = s.opmem := by simp [refuse]

theorem enqueue_opmem {s c l x} (h : enqueue s c l = some x) : x.1.opmem = s.opmem := by
  induction l generalizing s x with
  | nil => cases h; rfl
  | cons g r ih =>
    simp only [enqueue, Option.bind_eq_some_iff, Option.map_eq_some_iff] at h
    obtain ⟨y, -, z, hz, rfl⟩ := h
    simpa using ih hz

@[simp] theorem movedErrors_opmem (s l bad) : (movedErrors s l bad).opmem = s.opmem := by
  refine foldl_opmem _ _ _ fun t b => ?_
  split <;> simp

@[simp] theorem accept_opmem (s g c) : (accept s g c).opmem = s.opmem := by simp [accept]

@[simp] theorem acceptDirect_opmem (s g q k) : (acceptDirect s g q k).opmem = s.opmem := by simp [acceptDirect]

theorem offer_opmem {s g q k bad t} (h : offer s g q k bad = some t) : t.opmem = s.opmem := by
  unfold offer at h
  extract_lets r staged c tail segs ps no c' s' at h
  split at h
  · cases h; simp
  · split at h
    · cases h; simp
    · split at h
      · cases h
      · obtain ⟨y, hy, rfl⟩ := Option.map_eq_some_iff.1 h
        simpa [s'] using enqueue_opmem hy

@[simp] theorem claimRead_opmem (s p l) : (claimRead s p l).opmem = s.opmem := by simp [claimRead]

@[simp] theorem claim_opmem (s c i g u bad) : (claim s c i g u bad).opmem = s.opmem := by simp [claim]

/-! ## Machine/Commands.lean -/

@[simp] theorem addOcc_opmem (s uid n) : (addOcc s uid n).opmem = s.opmem := by simp [addOcc]

@[simp] theorem helmEnd_opmem (s uid op status detail carry) :
    (helmEnd s uid op status detail carry).opmem = s.opmem := by simp [helmEnd]

@[simp] theorem noteWritten_opmem (s uid l) : (noteWritten s uid l).opmem = s.opmem := by simp [noteWritten]

/-! ## Machine/Binnacle.lean -/

@[simp] theorem raiseFloors_opmem (s) : (raiseFloors s).opmem = s.opmem := by simp [raiseFloors]

@[simp] theorem soundAlarms_opmem (s m) : (soundAlarms s m).opmem = s.opmem := by simp [soundAlarms]

@[simp] theorem alarmRecord_opmem (s src act) : (alarmRecord s src act).opmem = s.opmem := by simp [alarmRecord]

@[simp] theorem holdsStill_opmem (s src) : (holdsStill s src).opmem = s.opmem := by simp [holdsStill]

@[simp] theorem alarmEnd_opmem (s k) : (alarmEnd s k).opmem = s.opmem := by simp [alarmEnd]

@[simp] theorem meshReport_opmem (s mesh) : (meshReport s mesh).opmem = s.opmem := by simp [meshReport]

@[simp] theorem meshGood_opmem (s mesh) : (meshGood s mesh).opmem = s.opmem := by simp [meshGood]

@[simp] theorem closeGroup_opmem (s reset vddReset) : (closeGroup s reset vddReset).opmem = s.opmem := by
  unfold closeGroup; split <;> simp

@[simp] theorem resetRecord_opmem (s) : (resetRecord s).opmem = s.opmem := by
  unfold resetRecord; split <;> simp

@[simp] theorem soundSample_opmem (s vsb vdd hot cold) :
    (soundSample s vsb vdd hot cold).opmem = s.opmem := by simp [soundSample]

@[simp] theorem bnActW_opmem (s n v) : (bnActW s n v).opmem = s.opmem := by simp [bnActW]

@[simp] theorem bnLockW_opmem (s v) : (bnLockW s v).opmem = s.opmem := by simp [bnLockW]

@[simp] theorem bnLatchW_opmem (s v) : (bnLatchW s v).opmem = s.opmem := by simp [bnLatchW]

@[simp] theorem bnMeshW_opmem (s v) : (bnMeshW s v).opmem = s.opmem := by simp [bnMeshW]

/-! ## Machine/Drbg.lean -/

@[simp] theorem setDrbg_opmem (s k d) : (setDrbg s k d).opmem = s.opmem := by simp [setDrbg]

@[simp] theorem drbgSeed_opmem (s k) : (drbgSeed s k).opmem = s.opmem := by simp [drbgSeed]

@[simp] theorem drbgDraw_opmem (s k n) : (drbgDraw s k n).1.opmem = s.opmem := by simp [drbgDraw]

/-! ## Machine/Load.lean -/

@[simp] theorem killExt_opmem (s r bad) : (killExt s r bad).opmem = s.opmem := by simp [killExt]

@[simp] theorem ctxRewrite_opmem (s r bad kind owner) :
    (ctxRewrite s r bad kind owner).opmem = s.opmem := by simp [ctxRewrite]

@[simp] theorem ownWriteBack_opmem (s uid r) : (ownWriteBack s uid r).opmem = s.opmem := by
  unfold ownWriteBack; split <;> simp

@[simp] theorem letGo_opmem (s uid j n) : (letGo s uid j n).1.opmem = s.opmem := by
  unfold letGo; (repeat' split) <;> simp

@[simp] theorem loadCount_opmem (d s j) : (loadCount d s j).2.opmem = s.opmem := by
  unfold loadCount; split <;> simp

/-! ## Machine/Execute.lean -/

@[simp] theorem pinFailure_opmem (s f) : (pinFailure s f).opmem = s.opmem := by
  simp only [pinFailure]; (repeat' split) <;> simp

@[simp] theorem payCount_opmem (s f d status detail) :
    (payCount s f d status detail).opmem = s.opmem := by simp [payCount]

@[simp] theorem helmCount_opmem (s p) : (helmCount s p).opmem = s.opmem := by simp [helmCount]

@[simp] theorem beginOp_opmem (s uid d) : (beginOp s uid d).opmem = s.opmem := by
  simp only [beginOp]; (repeat' split) <;> simp

@[simp] theorem LoadRes.next_opmem (x : LoadRes) (f : State → Job → LoadRes)
    (h : ∀ t j, (f t j).s.opmem = t.opmem) : (x.next f).s.opmem = x.s.opmem := by
  unfold LoadRes.next; split <;> simp [h]

@[simp] theorem loadFail_opmem (s j st dt) : (loadFail s j st dt).s.opmem = s.opmem := by simp [loadFail]

@[simp] theorem loadCheck_opmem (s j st dt) : (loadCheck s j st dt).s.opmem = s.opmem := by simp [loadCheck]

@[simp] theorem loadCtx_opmem (uid func d bad s j) : (loadCtx uid func d bad s j).s.opmem = s.opmem := by
  unfold loadCtx
  extract_lets n x s'
  have hs : s'.opmem = s.opmem := letGo_opmem ..
  clear_value s' n
  split
  · exact hs
  · split
    · exact hs
    · split
      · exact hs
      · split
        · exact hs
        · extract_lets t c b j' u
          have ht : t.opmem = s.opmem := by simp only [t]; split <;> simp [hs]
          have hu : u.opmem = s.opmem := (ctxRewrite_opmem ..).trans ht
          (repeat' split) <;> simp [hs, ht, hu]

@[simp] theorem loadTarget_opmem (uid func d s j) : (loadTarget uid func d s j).s.opmem = s.opmem := by
  simp only [loadTarget]
  (repeat' split) <;> simp

@[simp] theorem loadPolicy_opmem (uid d s j) : (loadPolicy uid d s j).s.opmem = s.opmem := by
  simp only [loadPolicy]
  (repeat' split) <;> simp

@[simp] theorem loadKey_opmem (uid func d bad s j) : (loadKey uid func d bad s j).s.opmem = s.opmem := by
  unfold loadKey
  split
  · rfl
  · split <;> (next hx => simp [fst_opmem hx])

@[simp] theorem loadKey2_opmem (func d bad s j) : (loadKey2 func d bad s j).s.opmem = s.opmem := by
  unfold loadKey2
  split
  · rfl
  · split <;> (next hx => simp [fst_opmem hx])

@[simp] theorem loadValue_opmem (func d s j) : (loadValue func d s j).s.opmem = s.opmem := by simp [loadValue]

@[simp] theorem loadDraw_opmem (uid d s j) : (loadDraw uid d s j).s.opmem = s.opmem := by
  simp only [loadDraw]
  (repeat' split) <;> simp

@[simp] theorem loadReserve_opmem (d cnt s j) : (loadReserve d cnt s j).s.opmem = s.opmem := by
  simp only [loadReserve]
  split <;> simp

@[simp] theorem poisoned_opmem (s uid j c) : (poisoned s uid j c).opmem = s.opmem := by
  simp only [poisoned]; (repeat' split) <;> simp

@[simp] theorem outIssued_opmem (s id idx v) : (outIssued s id idx v).opmem = s.opmem := by simp [outIssued]

@[simp] theorem issueOut_opmem (s c idx data whole l) : (issueOut s c idx data whole l).1.opmem = s.opmem := by
  induction l generalizing s with
  | nil => rfl
  | cons p r ih =>
    unfold issueOut
    simp only
    split <;> (next hx => simp [ih, fst_opmem hx])

@[simp] theorem releaseOut_opmem (s uid j c out) : (releaseOut s uid j c out).1.opmem = s.opmem := by
  simp only [releaseOut]; (repeat' split) <;> simp

theorem vaultSwap_opmem {s k ask bad r} (h : vaultSwap s k ask bad = .inl r) : r.1.opmem = s.opmem := by
  simp only [vaultSwap] at h
  (repeat' split at h) <;> cases h <;> simp

@[simp] theorem tileParity_opmem (s uid n) : (tileParity s uid n).opmem = s.opmem := by
  simp only [tileParity]; (repeat' split) <;> simp

@[simp] theorem loadedReads_opmem (s uid n) : (loadedReads s uid n).opmem = s.opmem := by simp [loadedReads]

/-! ## Machine/Arith.lean -/

@[simp] theorem atTransfer_opmem (s uid c) : (atTransfer s uid c).1.opmem = s.opmem := by
  unfold atTransfer; split <;> simp

@[simp] theorem atStart_opmem (s uid c) : (atStart s uid c).opmem = s.opmem := by simp [atStart]

@[simp] theorem atCmdW_opmem (s uid v) : (atCmdW s uid v).opmem = s.opmem := by
  simp only [atCmdW]; (repeat' split) <;> simp

@[simp] theorem apertureRefuse_opmem (s uid) : (apertureRefuse s uid).opmem = s.opmem := by
  unfold apertureRefuse; split <;> simp

@[simp] theorem aperturePar_opmem (s o) : (aperturePar s o).opmem = s.opmem := by
  unfold aperturePar; split <;> simp

@[simp] theorem apertureReadAt_opmem (s a o agree parity) :
    (apertureReadAt s a o agree parity).1.opmem = s.opmem := by
  simp only [apertureReadAt]; (repeat' split) <;> simp

@[simp] theorem claimW_opmem (s uid) : (claimW s uid).opmem = s.opmem := by
  unfold claimW; split <;> simp

@[simp] theorem preemptEnd_opmem (s uid) : (preemptEnd s uid).opmem = s.opmem := by simp [preemptEnd]

/-! ## Machine/Rings.lean -/

@[simp] theorem drainRing_opmem (s g) : (drainRing s g).opmem = s.opmem := by simp [drainRing]

@[simp] theorem drainCq_opmem (s q) : (drainCq s q).opmem = s.opmem := by simp [drainCq]

@[simp] theorem rgDoorbell_opmem (s g v) : (rgDoorbell s g v).opmem = s.opmem := by simp [rgDoorbell]

@[simp] theorem rgCfg_opmem (s g v) : (rgCfg s g v).opmem = s.opmem := by simp [rgCfg]

@[simp] theorem rgBase_opmem (s g base) : (rgBase s g base).opmem = s.opmem := by simp [rgBase]

@[simp] theorem rgStatusW_opmem (s g v) : (rgStatusW s g v).opmem = s.opmem := by simp [rgStatusW]

@[simp] theorem cqCfg_opmem (s q v) : (cqCfg s q v).opmem = s.opmem := by simp [cqCfg]

@[simp] theorem cqBase_opmem (s q base) : (cqBase s q base).opmem = s.opmem := by simp [cqBase]

@[simp] theorem cqStatusW_opmem (s q v) : (cqStatusW s q v).opmem = s.opmem := by simp [cqStatusW]

@[simp] theorem cqOp_opmem (s q o) : (cqOp s q o).opmem = s.opmem := by
  unfold cqOp; split <;> simp

@[simp] theorem cqGrantW_opmem (s q v) : (cqGrantW s q v).opmem = s.opmem := by simp [cqGrantW]

@[simp] theorem cqWpCmd_opmem (s q op) : (cqWpCmd s q op).opmem = s.opmem := by simp [cqWpCmd]

@[simp] theorem cqNotice_opmem (s q) : (cqNotice s q).opmem = s.opmem := by
  simp only [cqNotice]; (repeat' split) <;> simp

@[simp] theorem coalCheck_opmem (s q) : (coalCheck s q).opmem = s.opmem := by simp [coalCheck]

@[simp] theorem cqNoticeable_opmem (s q) : (cqNoticeable s q).opmem = s.opmem := by simp [cqNoticeable]

@[simp] theorem cqCoal_opmem (s q v) : (cqCoal s q v).opmem = s.opmem := by simp [cqCoal]

@[simp] theorem nvHold_opmem (s f k v) : (nvHold s f k v).opmem = s.opmem := by simp [nvHold]

@[simp] theorem creditTick_opmem (s g) : (creditTick s g).opmem = s.opmem := by
  unfold creditTick; (repeat' split) <;> simp

@[simp] theorem onRing_opmem (s a g) (f : State → Nat → State) (h : ∀ t n, (f t n).opmem = t.opmem) :
    (onRing s a g f).opmem = s.opmem := by
  unfold onRing; split <;> simp [h]

@[simp] theorem onCq_opmem (s a q) (f : State → Nat → State) (h : ∀ t n, (f t n).opmem = t.opmem) :
    (onCq s a q f).opmem = s.opmem := by
  unfold onCq; split <;> simp [h]

@[simp] theorem famineNoticeW_opmem (s p v) : (famineNoticeW s p v).opmem = s.opmem := by simp [famineNoticeW]

/-! ## Machine/Soundings.lean -/

@[simp] theorem latencySounding_opmem (s pools l ring finish late) :
    (latencySounding s pools l ring finish late).opmem = s.opmem := by simp [latencySounding]

@[simp] theorem sdFreezeW_opmem (s v) : (sdFreezeW s v).opmem = s.opmem := by simp [sdFreezeW]

@[simp] theorem sdCmdW_opmem (s v) : (sdCmdW s v).opmem = s.opmem := by simp [sdCmdW]

/-! ## Machine/Records.lean -/

@[simp] theorem reap_opmem (s id) : (reap s id).opmem = s.opmem := by
  unfold reap; split <;> simp

@[simp] theorem chainEnds_opmem (s c finish issued) :
    (chainEnds s c finish issued).opmem = s.opmem := by simp [chainEnds]

theorem recordPage_opmem {s c k addr r t} (h : recordPage s c k addr r = some t) : t.opmem = s.opmem := by
  simp only [recordPage] at h
  split at h
  · cases h; rfl
  · split at h
    · cases h
    · simpa using dlPage_opmem h

@[simp] theorem writeRecord_opmem (s c addr k data) : (writeRecord s c addr k data).1.opmem = s.opmem := by
  simp only [writeRecord]
  split
  · simp
  · split <;> (next hx => simp [fst_opmem hx])

@[simp] theorem xlateCount_opmem (s d r) : (xlateCount s d r).opmem = s.opmem := by simp [xlateCount]

@[simp] theorem issueRecord_opmem (s c k r) : (issueRecord s c k r).opmem = s.opmem := by
  simp only [issueRecord]
  split
  · rfl
  next t ht =>
    have h : t.opmem = s.opmem := by
      split at ht
      · cases ht; rfl
      · exact recordPage_opmem ht
    (repeat' split) <;> simp [h]

@[simp] theorem voidLate_opmem (s t) : (voidLate s t).opmem = s.opmem := by
  unfold voidLate; split <;> simp

@[simp] theorem lateReset_opmem (s t) : (lateReset s t).opmem = s.opmem := by simp [lateReset]

@[simp] theorem timely_opmem (s t) : (timely s t).opmem = s.opmem := by simp [timely]

@[simp] theorem taintLate_opmem (s func d) : (taintLate s func d).opmem = s.opmem := by
  unfold taintLate; split <;> simp

/-! ## Machine/LifeCycle.lean -/

@[simp] theorem programBit_opmem (s b) : (programBit s b).opmem = s.opmem := by simp [programBit]

theorem lodeDraw_opmem {s x} (h : lodeDraw s = some x) : x.1.opmem = s.opmem := by
  unfold lodeDraw at h
  (repeat' split at h) <;> cases h <;> simp

@[simp] theorem trimSteps_opmem (s l) : (trimSteps s l).1.opmem = s.opmem := by
  induction l generalizing s with
  | nil => rfl
  | cons x r ih =>
    cases x with
    | bits n l => unfold trimSteps; split <;> simp [ih]
    | erase n t => unfold trimSteps; split <;> simp [ih]
    | draw n k =>
      unfold trimSteps
      split
      · next hx => split <;> simp [ih, lodeDraw_opmem hx]
      · rfl

@[simp] theorem fuseBegin_opmem (s) : (fuseBegin s).opmem = s.opmem := by
  unfold fuseBegin; split <;> simp

@[simp] theorem fuseEnd_opmem (n s) : (fuseEnd n s).opmem = s.opmem := by
  induction n generalizing s with
  | zero => rfl
  | succ n ih => unfold fuseEnd; split <;> simp [ih]

@[simp] theorem fuseStart_opmem (s what steps) : (fuseStart s what steps).opmem = s.opmem := by simp [fuseStart]

@[simp] theorem fusePulse_opmem (s) : (fusePulse s).opmem = s.opmem := by
  unfold fusePulse; split <;> simp

@[simp] theorem fuseResume_opmem (s) : (fuseResume s).opmem = s.opmem := by
  unfold fuseResume; split <;> simp

@[simp] theorem lcEnd_opmem (s) : (lcEnd s).opmem = s.opmem := by
  unfold lcEnd; split <;> simp

@[simp] theorem lcFuseCmd_opmem (s v) : (lcFuseCmd s v).opmem = s.opmem := by simp [lcFuseCmd]

@[simp] theorem lcPass_opmem (s n) : (lcPass s n).opmem = s.opmem := by simp [lcPass]

@[simp] theorem lcDecodeLog_opmem (s n) : (lcDecodeLog s n).opmem = s.opmem := by simp [lcDecodeLog]

@[simp] theorem lcSettle_opmem (s n) : (lcSettle s n).opmem = s.opmem := by simp [lcSettle]

@[simp] theorem fuseSettle_opmem (s) : (fuseSettle s).opmem = s.opmem := by
  unfold fuseSettle; split <;> simp

@[simp] theorem fuseRead_opmem (s) : (fuseRead s).1.opmem = s.opmem := by
  unfold fuseRead; (repeat' split) <;> simp

/-! ## Machine/Vault.lean -/

@[simp] theorem placeAtt_opmem (s) : (placeAtt s).opmem = s.opmem := by
  unfold placeAtt; split <;> simp

@[simp] theorem kvResult_opmem (s n) : (kvResult s n).opmem = s.opmem := by simp [kvResult]

@[simp] theorem kvFound_opmem (s i bad) : (kvFound s i bad).opmem = s.opmem := by simp [kvFound]

@[simp] theorem kvWrote_opmem (s c) : (kvWrote s c).opmem = s.opmem := by simp [kvWrote]

@[simp] theorem kvStore_opmem (s c out) : (kvStore s c out).opmem = s.opmem := by simp [kvStore]

@[simp] theorem kvWritten_opmem (s k n ok) : (kvWritten s k n ok).opmem = s.opmem := by
  unfold kvWritten; split <;> simp

@[simp] theorem kvPeek_opmem (s i) : (kvPeek s i).opmem = s.opmem := by simp [kvPeek]

@[simp] theorem kvDraw_opmem (s c attr) : (kvDraw s c attr).opmem = s.opmem := by simp [kvDraw]

@[simp] theorem kvGenerate_opmem (s c) : (kvGenerate s c).opmem = s.opmem := by
  unfold kvGenerate; split <;> simp

@[simp] theorem kvRedraw_opmem (s) : (kvRedraw s).opmem = s.opmem := by
  unfold kvRedraw; split <;> simp

@[simp] theorem kvUnwrapped_opmem (s c b) : (kvUnwrapped s c b).opmem = s.opmem := by
  simp only [kvUnwrapped]; (repeat' split) <;> simp

@[simp] theorem kvAttested_opmem (s c challenge) : (kvAttested s c challenge).opmem = s.opmem := by
  unfold kvAttested; split <;> simp

@[simp] theorem kvRead_opmem (s) : (kvRead s).opmem = s.opmem := by
  unfold kvRead; split <;> simp

@[simp] theorem kvFetch_opmem (s c len) : (kvFetch s c len).opmem = s.opmem := by simp [kvFetch]

@[simp] theorem kvWrap_opmem (s c) : (kvWrap s c).opmem = s.opmem := by
  simp only [kvWrap]; (repeat' split) <;> simp

@[simp] theorem kvAttest_opmem (s c) : (kvAttest s c).opmem = s.opmem := by
  simp only [kvAttest]; (repeat' split) <;> simp

@[simp] theorem eraseAllEnds_opmem (s n) : (eraseAllEnds s n).opmem = s.opmem := by simp [eraseAllEnds]

@[simp] theorem vaultScrubbed_opmem (s) : (vaultScrubbed s).opmem = s.opmem := by simp [vaultScrubbed]

@[simp] theorem vaultStarved_opmem (s) : (vaultStarved s).opmem = s.opmem := by simp [vaultStarved]

/-! ## Machine/Chart.lean -/

@[simp] theorem chartLog_opmem (s result svn fw) : (chartLog s result svn fw).opmem = s.opmem := by simp [chartLog]

@[simp] theorem chartReject_opmem (s b phase f) : (chartReject s b phase f).opmem = s.opmem := by simp [chartReject]

@[simp] theorem layPools_opmem (s c) : (layPools s c).opmem = s.opmem := by simp [layPools]

@[simp] theorem chResult_opmem (s n) : (chResult s n).opmem = s.opmem := by simp [chResult]

@[simp] theorem chartPlace_opmem (s) : (chartPlace s).opmem = s.opmem := by simp [chartPlace]

@[simp] theorem chartPhase_opmem (s) : (chartPhase s).opmem = s.opmem := by simp [chartPhase]

@[simp] theorem chartBegin_opmem (s keep) : (chartBegin s keep).opmem = s.opmem := by simp [chartBegin]

@[simp] theorem chLoad_opmem (s keep) : (chLoad s keep).opmem = s.opmem := by simp [chLoad]

@[simp] theorem chAdvance_opmem (s) : (chAdvance s).opmem = s.opmem := by simp [chAdvance]

@[simp] theorem chJudge_opmem (s v) : (chJudge s v).opmem = s.opmem := by simp [chJudge]

@[simp] theorem chCmdW_opmem (s v) : (chCmdW s v).opmem = s.opmem := by simp [chCmdW]

@[simp] theorem chRelease_opmem (s) : (chRelease s).opmem = s.opmem := by
  unfold chRelease; split <;> simp

/-! ## Machine/Tx.lean -/

@[simp] theorem txResult_opmem (s n) : (txResult s n).opmem = s.opmem := by simp [txResult]

@[simp] theorem txGate_opmem (s) (f : State → State) (h : ∀ t, (f t).opmem = t.opmem) :
    (txGate s f).opmem = s.opmem := by
  unfold txGate; split <;> simp [h]

@[simp] theorem txBeginW_opmem (s v) : (txBeginW s v).opmem = s.opmem := by simp [txBeginW]

@[simp] theorem txCommitW_opmem (s v) : (txCommitW s v).opmem = s.opmem := by simp [txCommitW]

@[simp] theorem txRollbackW_opmem (s v) : (txRollbackW s v).opmem = s.opmem := by simp [txRollbackW]

@[simp] theorem patchResult_opmem (s n) : (patchResult s n).opmem = s.opmem := by simp [patchResult]

@[simp] theorem txPatchW_opmem (s v) : (txPatchW s v).opmem = s.opmem := by simp [txPatchW]

@[simp] theorem setShadow_opmem (s l) : (setShadow s l).opmem = s.opmem := by simp [setShadow]

@[simp] theorem patchEnd_opmem (s) : (patchEnd s).opmem = s.opmem := by
  simp only [patchEnd]; (repeat' split) <;> simp

@[simp] theorem shadowPut_opmem (s p) : (shadowPut s p).opmem = s.opmem := by
  unfold shadowPut; split <;> simp

@[simp] theorem funcWrite_opmem (s f o n v) : (funcWrite s f o n v).opmem = s.opmem := by simp [funcWrite]

@[simp] theorem rulePut_opmem (s type i o x) : (rulePut s type i o x).opmem = s.opmem := by simp [rulePut]

@[simp] theorem ruleWrite_opmem (s type i k v) : (ruleWrite s type i k v).opmem = s.opmem := by simp [ruleWrite]

theorem txTarget_opmem (s off v) : ∀ f ∈ txTarget s off v, ∀ t, (f t).opmem = t.opmem := by
  unfold txTarget
  repeat' refine ite_effect_opmem ?_ ?_
  all_goals simp

@[simp] theorem txWriteW_opmem (s off v) : (txWriteW s off v).opmem = s.opmem := by
  unfold txWriteW
  split
  · rfl
  · next h => split <;> simp [txTarget_opmem _ _ _ _ h]

@[simp] theorem reshare_opmem (s old p) : (reshare s old p).opmem = s.opmem := by
  unfold reshare; split <;> simp

@[simp] theorem dropPool_opmem (s p) : (dropPool s p).opmem = s.opmem := by simp [dropPool]

@[simp] theorem txApply_opmem (s) : (txApply s).opmem = s.opmem := by simp [txApply]

@[simp] theorem txRefuse_opmem (s f) : (txRefuse s f).opmem = s.opmem := by simp [txRefuse]

/-! ## Machine/Completion.lean -/

theorem takeTxn_opmem {s port tag write x} (h : takeTxn s port tag write = some x) : x.2.opmem = s.opmem := by
  simp only [takeTxn] at h
  split at h <;> cases h
  simp

@[simp] theorem fetchArrived_opmem (s g t ok data) :
    (fetchArrived s g t ok data).opmem = s.opmem := by simp [fetchArrived]

@[simp] theorem stageArrived_opmem (s g t ok data) :
    (stageArrived s g t ok data).opmem = s.opmem := by simp [stageArrived]

@[simp] theorem loadStep_opmem (s uid f) : (loadStep s uid f).opmem = s.opmem := by simp [loadStep]

@[simp] theorem kvStep_opmem (s f) : (kvStep s f).opmem = s.opmem := by simp [kvStep]

@[simp] theorem reapOf_opmem (s o) : (reapOf s o).opmem = s.opmem := by
  unfold reapOf; split <;> simp

@[simp] theorem recordDone_opmem (s id idx ok) : (recordDone s id idx ok).opmem = s.opmem := by
  unfold recordDone; split <;> simp

@[simp] theorem logFailed_opmem (s vf) : (logFailed s vf).opmem = s.opmem := by simp [logFailed]

@[simp] theorem storeDone_opmem (s uid k ok) : (storeDone s uid k ok).opmem = s.opmem := by simp [storeDone]

@[simp] theorem laneCredit_opmem (s odd) : (laneCredit s odd).opmem = s.opmem := by simp [laneCredit]

/-! ## Machine/Contexts.lean -/

@[simp] theorem scResult_opmem (s n) : (scResult s n).opmem = s.opmem := by simp [scResult]

@[simp] theorem scApply_opmem (s op r) : (scApply s op r).opmem = s.opmem := by simp [scApply]

@[simp] theorem scStart_opmem (s op kind i) : (scStart s op kind i).opmem = s.opmem := by simp [scStart]

@[simp] theorem scCmd_opmem (s v) : (scCmd s v).opmem = s.opmem := by simp [scCmd]

@[simp] theorem scRelease_opmem (s) : (scRelease s).opmem = s.opmem := by
  unfold scRelease; split <;> simp

@[simp] theorem scWaiting_opmem (s) : (scWaiting s).opmem = s.opmem := by
  unfold scWaiting; split <;> simp

@[simp] theorem wbStore_opmem (s compact i) : (wbStore s compact i).opmem = s.opmem := by
  unfold wbStore; split <;> simp

@[simp] theorem scEraseW_opmem (s v) : (scEraseW s v).opmem = s.opmem := by simp [scEraseW]

@[simp] theorem keyScrubs_opmem (s) : (keyScrubs s).opmem = s.opmem := by simp [keyScrubs]

@[simp] theorem ctxScrubbed_opmem (s) : (ctxScrubbed s).opmem = s.opmem := by simp [ctxScrubbed]

/-! ## Machine/Power.lean -/

@[simp] theorem startRecord_opmem (s step error) : (startRecord s step error).opmem = s.opmem := by simp [startRecord]

@[simp] theorem outputsDown_opmem (s) : (outputsDown s).opmem = s.opmem := by simp [outputsDown]

@[simp] theorem holdCore_opmem (s) : (holdCore s).opmem = s.opmem := by simp [holdCore]

@[simp] theorem vsbReset_opmem (s) : (vsbReset s).opmem = s.opmem := by simp [vsbReset]

@[simp] theorem vddReset_opmem (s) : (vddReset s).opmem = s.opmem := by simp [vddReset]

@[simp] theorem scanLog_opmem (s) : (scanLog s).opmem = s.opmem := by
  simp only [scanLog]; (repeat' split) <;> simp

@[simp] theorem wake_opmem (s) : (wake s).opmem = s.opmem := by simp [wake]

@[simp] theorem reseedAll_opmem (s) : (reseedAll s).opmem = s.opmem := by simp [reseedAll]

@[simp] theorem exitA2_opmem (s) : (exitA2 s).opmem = s.opmem := by simp [exitA2]

/-! ## Machine/Functions.lean -/

@[simp] theorem blockRequest_opmem (s) : (blockRequest s).opmem = s.opmem := by simp [blockRequest]

@[simp] theorem mgResetW_opmem (s v) : (mgResetW s v).opmem = s.opmem := by simp [mgResetW]

@[simp] theorem stopIo_opmem (s f) : (stopIo s f).opmem = s.opmem := by simp [stopIo]

@[simp] theorem dropChains_opmem (s f) : (dropChains s f).opmem = s.opmem := by simp [dropChains]

@[simp] theorem freeContexts_opmem (s f) : (freeContexts s f).opmem = s.opmem := by
  unfold freeContexts; split <;> simp

@[simp] theorem fpError_opmem (s) : (fpError s).opmem = s.opmem := by simp [fpError]

@[simp] theorem flrHeld_opmem (s n parityOk) : (flrHeld s n parityOk).opmem = s.opmem := by simp [flrHeld]

@[simp] theorem vfDone_opmem (s f) : (vfDone s f).opmem = s.opmem := by simp [vfDone]

@[simp] theorem resend_opmem (s odd) : (resend s odd).opmem = s.opmem := by
  simp only [resend]; (repeat' split) <;> simp

@[simp] theorem hostTakes_opmem (s) : (hostTakes s).opmem = s.opmem := by simp [hostTakes]

/-! ## Machine/Control.lean -/

@[simp] theorem controlEdge_opmem (s) : (controlEdge s).opmem = s.opmem := by simp [controlEdge]

@[simp] theorem resetEdge_opmem (s) : (resetEdge s).opmem = s.opmem := by simp [resetEdge]

@[simp] theorem cycleEdge_opmem (s) : (cycleEdge s).opmem = s.opmem := by simp [cycleEdge]

@[simp] theorem countCycle_opmem (s) : (countCycle s).opmem = s.opmem := by simp [countCycle]

/-! ## Machine/Debug.lean -/

@[simp] theorem setDbg_opmem (s code) : (setDbg s code).opmem = s.opmem := by simp [setDbg]

@[simp] theorem dbgChallenge_opmem (s) : (dbgChallenge s).opmem = s.opmem := by simp [dbgChallenge]

@[simp] theorem dbgAuth_opmem (s) : (dbgAuth s).opmem = s.opmem := by simp [dbgAuth]

@[simp] theorem dbgRelease_opmem (s) : (dbgRelease s).opmem = s.opmem := by simp [dbgRelease]

@[simp] theorem dbgCmd_opmem (s v) : (dbgCmd s v).opmem = s.opmem := by simp [dbgCmd]

@[simp] theorem drawOpr_opmem (s) : (drawOpr s).opmem = s.opmem := by simp [drawOpr]

@[simp] theorem acNoticeW_opmem (s v) : (acNoticeW s v).opmem = s.opmem := by simp [acNoticeW]

/-! ## Machine/Helms.lean -/

@[simp] theorem faultClrW_opmem (s v) : (faultClrW s v).opmem = s.opmem := by simp [faultClrW]

/-! ## Machine/Payments.lean -/

@[simp] theorem pyNoticeW_opmem (s v) : (pyNoticeW s v).opmem = s.opmem := by simp [pyNoticeW]

/-! ## Machine/RegsBase.lean -/

@[simp] theorem ro_opmem (s n) : (ro s n).1.opmem = s.opmem := by simp [ro]

@[simp] theorem rgRead_opmem (s g o) : (rgRead s g o).1.opmem = s.opmem := by
  unfold rgRead; split <;> simp

@[simp] theorem rgWrite_opmem (s g o v) : (rgWrite s g o v).opmem = s.opmem := by
  unfold rgWrite; split <;> simp

@[simp] theorem cqRead_opmem (s q o) : (cqRead s q o).1.opmem = s.opmem := by
  unfold cqRead; split <;> simp

@[simp] theorem wpPosW_opmem (s q v) : (wpPosW s q v).opmem = s.opmem := by simp [wpPosW]

@[simp] theorem cqWrite_opmem (s q o v) : (cqWrite s q o v).opmem = s.opmem := by
  unfold cqWrite; split <;> simp

@[simp] theorem nvRead_opmem (s f k o) : (nvRead s f k o).1.opmem = s.opmem := by
  unfold nvRead; (repeat' split) <;> simp

@[simp] theorem nvWrite_opmem (s f k o v) : (nvWrite s f k o v).opmem = s.opmem := by
  unfold nvWrite; split <;> simp

@[simp] theorem adPoolRead_opmem (s p o) : (adPoolRead s p o).1.opmem = s.opmem := by
  unfold adPoolRead; split <;> simp

@[simp] theorem adClassRead_opmem (s k o) : (adClassRead s k o).1.opmem = s.opmem := by
  unfold adClassRead; (repeat' split) <;> simp

@[simp] theorem adRead_opmem (s o) : (adRead s o).1.opmem = s.opmem := by
  unfold adRead; (repeat' split) <;> simp

@[simp] theorem famWmW_opmem (s p v) : (famWmW s p v).opmem = s.opmem := by simp [famWmW]

@[simp] theorem adWrite_opmem (s o v) : (adWrite s o v).opmem = s.opmem := by
  unfold adWrite; (repeat' split) <;> simp

@[simp] theorem iqPoolRead_opmem (s p o) : (iqPoolRead s p o).1.opmem = s.opmem := by
  unfold iqPoolRead; split <;> simp

@[simp] theorem iqRead_opmem (s o) : (iqRead s o).1.opmem = s.opmem := by
  unfold iqRead; (repeat' split) <;> simp

@[simp] theorem iqWmW_opmem (s p v) : (iqWmW s p v).opmem = s.opmem := by simp [iqWmW]

@[simp] theorem iqWrite_opmem (s o v) : (iqWrite s o v).opmem = s.opmem := by
  unfold iqWrite; (repeat' split) <;> simp

/-! ## Machine/RegsUnit.lean -/

@[simp] theorem setCnt_opmem (s uid c) : (setCnt s uid c).opmem = s.opmem := by simp [setCnt]

@[simp] theorem unCommon_opmem (s r o) : (unCommon s r o).1.opmem = s.opmem := by
  unfold unCommon; split <;> simp

@[simp] theorem unTile_opmem (s r o) : (unTile s r o).1.opmem = s.opmem := by
  unfold unTile; split <;> simp

@[simp] theorem atParity_opmem (s uid) : (atParity s uid).1.opmem = s.opmem := by simp [atParity]

@[simp] theorem unArith_opmem (s r o) : (unArith s r o).1.opmem = s.opmem := by
  unfold unArith; split <;> simp

@[simp] theorem setAr_opmem (s t f) : (setAr s t f).opmem = s.opmem := by simp [setAr]

@[simp] theorem unArithW_opmem (s uid o v) : (unArithW s uid o v).opmem = s.opmem := by
  unfold unArithW; split <;> simp

@[simp] theorem unRead_opmem (s uid o) : (unRead s uid o).1.opmem = s.opmem := by
  unfold unRead; (repeat' split) <;> simp

@[simp] theorem helmRead_opmem (s h o) : (helmRead s h o).1.opmem = s.opmem := by
  unfold helmRead; split <;> simp

@[simp] theorem hlRead_opmem (s o) : (hlRead s o).1.opmem = s.opmem := by
  unfold hlRead; (repeat' split) <;> simp

/-! ## Machine/RegsCore.lean -/

@[simp] theorem mgRead_opmem (s o) : (mgRead s o).1.opmem = s.opmem := by
  unfold mgRead; (repeat' split) <;> simp

@[simp] theorem mgWrite_opmem (s o v) : (mgWrite s o v).opmem = s.opmem := by
  unfold mgWrite; split <;> simp

@[simp] theorem chRead_opmem (s o) : (chRead s o).1.opmem = s.opmem := by
  unfold chRead; (repeat' split) <;> simp

@[simp] theorem chWrite_opmem (s o v) : (chWrite s o v).opmem = s.opmem := by
  unfold chWrite; split <;> simp

@[simp] theorem scRead_opmem (s o) : (scRead s o).1.opmem = s.opmem := by
  unfold scRead; split <;> simp

@[simp] theorem scWrite_opmem (s o v) : (scWrite s o v).opmem = s.opmem := by
  unfold scWrite; split <;> simp

@[simp] theorem kvRegRead_opmem (s o) : (kvRegRead s o).1.opmem = s.opmem := by
  unfold kvRegRead; (repeat' split) <;> simp

@[simp] theorem pyRead_opmem (s o) : (pyRead s o).1.opmem = s.opmem := by
  unfold pyRead; split <;> simp

@[simp] theorem pyWrite_opmem (s o v) : (pyWrite s o v).opmem = s.opmem := by
  unfold pyWrite; split <;> simp

@[simp] theorem lcRead_opmem (s o) : (lcRead s o).1.opmem = s.opmem := by
  unfold lcRead; (repeat' split) <;> simp

@[simp] theorem bnRead_opmem (s o) : (bnRead s o).1.opmem = s.opmem := by
  unfold bnRead; (repeat' split) <;> simp

@[simp] theorem bnWrite_opmem (s o v) : (bnWrite s o v).opmem = s.opmem := by
  unfold bnWrite; split <;> simp

@[simp] theorem ckRead_opmem (s o) : (ckRead s o).1.opmem = s.opmem := by
  unfold ckRead; split <;> simp

@[simp] theorem sdRegRead_opmem (s o) : (sdRegRead s o).1.opmem = s.opmem := by
  unfold sdRegRead; split <;> simp

@[simp] theorem sdRegWrite_opmem (s o v) : (sdRegWrite s o v).opmem = s.opmem := by
  unfold sdRegWrite; split <;> simp

@[simp] theorem lbRead_opmem (s o) : (lbRead s o).1.opmem = s.opmem := by
  unfold lbRead; split <;> simp

@[simp] theorem lbWrite_opmem (s o v) : (lbWrite s o v).opmem = s.opmem := by
  unfold lbWrite; split <;> simp

@[simp] theorem vfRead_opmem (s f o) : (vfRead s f o).1.opmem = s.opmem := by
  unfold vfRead; split <;> simp

@[simp] theorem vfStatW_opmem (s f v) : (vfStatW s f v).opmem = s.opmem := by simp [vfStatW]

@[simp] theorem tenantRead_opmem (s f o) : (tenantRead s f o).1.opmem = s.opmem := by
  unfold tenantRead; split <;> simp

@[simp] theorem vfWinRead_opmem (s f o) : (vfWinRead s f o).1.opmem = s.opmem := by
  unfold vfWinRead; (repeat' split) <;> simp

@[simp] theorem vfWinWrite_opmem (s f o v) : (vfWinWrite s f o v).opmem = s.opmem := by
  unfold vfWinWrite; (repeat' split) <;> simp

@[simp] theorem outRuleRead_opmem (s i k) : (outRuleRead s i k).1.opmem = s.opmem := by
  unfold outRuleRead; split <;> simp

@[simp] theorem acStatRead_opmem (s o) : (acStatRead s o).1.opmem = s.opmem := by
  unfold acStatRead; split <;> simp

@[simp] theorem acRead_opmem (s o) : (acRead s o).1.opmem = s.opmem := by
  unfold acRead; (repeat' split) <;> simp

@[simp] theorem acWrite_opmem (s o v) : (acWrite s o v).opmem = s.opmem := by
  unfold acWrite; split <;> simp

/-! ## Machine/Startup.lean -/

@[simp] theorem startFail_opmem (s code) : (startFail s code).opmem = s.opmem := by simp [startFail]

@[simp] theorem endFuseRead_opmem (s) : (endFuseRead s).opmem = s.opmem := by simp [endFuseRead]

@[simp] theorem endKeys_opmem (s) : (endKeys s).opmem = s.opmem := by simp [endKeys]

@[simp] theorem helmTested_opmem (bad s h) : (helmTested bad s h).opmem = s.opmem := by simp [helmTested]

@[simp] theorem startReady_opmem (s) : (startReady s).opmem = s.opmem := by simp [startReady]

@[simp] theorem endActivate_opmem (s env) : (endActivate s env).opmem = s.opmem := by simp [endActivate]

/-! ## Machine/Ports.lean -/

@[simp] theorem regRead_opmem (s off) : (regRead s off).1.opmem = s.opmem := by
  simp only [regRead]
  split_ifs
  iterate 5 simp
  split <;> simp

@[simp] theorem storeRead_opmem (s b zero o n) : (storeRead s b zero o n).1.opmem = s.opmem := by
  unfold storeRead; split <;> simp

theorem romRead_opmem {s off n x} (h : romRead s off n = some x) : x.1.opmem = s.opmem := by
  unfold romRead at h
  (repeat' split at h) <;> cases h <;> simp

@[simp] theorem mgmtRead_opmem (s a off) : (mgmtRead s a off).1.opmem = s.opmem := by
  simp only [mgmtRead]
  split
  · simp
  · split
    · next hx => split <;> simp [romRead_opmem hx]
    · split <;> simp

@[simp] theorem portRead_opmem (s a addr) : (portRead s a addr).opmem = s.opmem := by
  simp only [portRead]
  split
  · rfl
  · split
    · next hx => simp [fst_opmem hx]
    · next hx => (repeat' split) <;> simp [fst_opmem hx]

@[simp] theorem middleParity_opmem (s o) : (middleParity s o).opmem = s.opmem := by
  unfold middleParity; (repeat' split) <;> simp

@[simp] theorem middleBytes_opmem (s o) : (middleBytes s o).1.opmem = s.opmem := by
  unfold middleBytes; split <;> simp

@[simp] theorem middleRead_opmem (s o parity) : (middleRead s o parity).1.opmem = s.opmem := by simp [middleRead]

theorem dbgMemory_opmem {s addr parity x} (h : dbgMemory s addr parity = some x) : x.1.opmem = s.opmem := by
  simp only [dbgMemory] at h
  (repeat' split at h) <;> cases h <;> simp

@[simp] theorem dbgJudge_opmem (s r addr write) : (dbgJudge s r addr write).1.opmem = s.opmem := by
  unfold dbgJudge; split <;> simp

@[simp] theorem dbgLoad_opmem (s r addr) : (dbgLoad s r addr).1.opmem = s.opmem := by
  unfold dbgLoad
  split
  · simp
  · split
    · next hx => simpa using dbgMemory_opmem hx
    · rfl

@[simp] theorem dbgAnswer_opmem (s x) : (dbgAnswer s x).opmem = s.opmem := by simp [dbgAnswer]

end Sys2Proof.Machine

namespace Sys2Proof.Machine

/-!
# The functions that write operand memory keep its canonical form

A slot is written byte by byte or zero-filled (R214), and both keep the form. What aborts a command or a service, erases
secrets or lets a transaction end may do so, so the form is followed through all of them, in the order of the model.
-/

/-! ## Branches and folds -/

@[simp] theorem Memory.wf_ite (c : Prop) [Decidable c] (m n : List Host.Cell) :
    Memory.wf (if c then m else n) = true ↔ (c → Memory.wf m = true) ∧ (¬c → Memory.wf n = true) := by
  split <;> simp [*]

/-- A memory built up from a canonical one by a fold whose steps keep the form is canonical. -/
theorem Memory.wf_foldl {α : Type} (f : List Host.Cell → α → List Host.Cell) (l : List α) {m : List Host.Cell}
    (h : Memory.wf m = true) (hf : ∀ n x, Memory.wf n = true → Memory.wf (f n x) = true) :
    Memory.wf (l.foldl f m) = true := by
  induction l generalizing m with
  | nil => exact h
  | cons x l ih => exact ih (hf m x h)

/-- The same of a fold over states. -/
theorem foldl_wf {α : Type} {f : State → α → State} {l : List α} {s : State} (h : Memory.wf s.opmem = true)
    (hf : ∀ t x, Memory.wf t.opmem = true → Memory.wf (f t x).opmem = true) :
    Memory.wf (l.foldl f s).opmem = true := by
  induction l generalizing s with
  | nil => exact h
  | cons x l ih => exact ih (hf s x h)

/-- The state that a match on a pair names is canonical if the pair's state is. -/
theorem fst_wf {α : Type} {x : State × α} {t : State} {r : α} (hx : x = (t, r)) (h : Memory.wf x.1.opmem = true) :
    Memory.wf t.opmem = true := by
  rwa [hx] at h

theorem LoadRes.next_wf {x : LoadRes} {f : State → Job → LoadRes} (h : Memory.wf x.s.opmem = true)
    (hf : ∀ t j, Memory.wf t.opmem = true → Memory.wf (f t j).s.opmem = true) : Memory.wf (x.next f).s.opmem = true := by
  unfold LoadRes.next
  split
  · exact h
  · exact hf _ _ h

/-- A new Chart finds operand memory zero (R269). -/
@[simp] theorem chartInstall_wf (s b) : Memory.wf (chartInstall s b).opmem = true := by
  simp [chartInstall, Memory.wf, Memory.wfFrom]

section
variable {s : State} (h : Memory.wf s.opmem = true)
include h

/-! ## Machine/Operands.lean -/

@[simp] theorem hostWrite_wf (a off) {eff : State → State} (he : Memory.wf (eff (access s a true off).1).opmem = true) :
    Memory.wf (hostWrite s a off eff).opmem = true := by
  have hs : Memory.wf (access s a true off).1.opmem = true := by simpa using h
  unfold hostWrite
  split
  · exact h
  · generalize access s a true off = x at he hs
    obtain ⟨t, _ | c⟩ := x
    · simp only [apply_ite State.opmem, respond_opmem]
      split
      · exact he
      · exact hs
    · simpa using hs

/-! ## Machine/Slots.lean -/

@[simp] theorem opdWrite_wf (uid n v) : Memory.wf (opdWrite s uid n v).opmem = true :=
  Memory.wf_writeN _ _ _ h

@[simp] theorem opdClear_wf (uid n) : Memory.wf (opdClear s uid n).opmem = true :=
  Memory.wf_zero _ _ _ h

@[simp] theorem zeroTiles_wf (uid) : Memory.wf (zeroTiles s uid).opmem = true :=
  Memory.wf_foldl _ _ h fun _ _ => Memory.wf_zero _ _ _

@[simp] theorem foldl_opdClear_wf (uid) (l : List Nat) :
    Memory.wf (l.foldl (fun t n => opdClear t uid n) s).opmem = true :=
  foldl_wf h fun _ _ ht => opdClear_wf ht ..

@[simp] theorem atFail_wf (uid c status detail) :
    Memory.wf (atFail s uid c status detail).opmem = true := by simp [atFail, h]

@[simp] theorem abortCmd_wf (uid status detail) : Memory.wf (abortCmd s uid status detail).opmem = true := by
  unfold abortCmd; split <;> simp [h]

/-! ## Machine/JobEnd.lean -/

@[simp] theorem abortSlots_wf (uid) : Memory.wf (abortSlots s uid).opmem = true := by
  simp only [abortSlots, setHalf_opmem, setUni_opmem]
  exact Memory.wf_foldl _ _ h fun _ _ => Memory.wf_zero _ _ _

@[simp] theorem abortService_wf (uid) : Memory.wf (abortService s uid).opmem = true := by simp [abortService, h]

@[simp] theorem abortUnit_wf (uid) : Memory.wf (abortUnit s uid).opmem = true := by simp [abortUnit, h]

@[simp] theorem stopNoRecord_wf (uid) : Memory.wf (stopNoRecord s uid).opmem = true := by
  simp only [stopNoRecord]; (repeat' split) <;> simp [h]

@[simp] theorem abortRecord_wf (uid status detail) : Memory.wf (abortRecord s uid status detail).opmem = true := by
  simp only [abortRecord]; (repeat' split) <;> simp [h]

/-! ## Machine/Erase.lean -/

@[simp] theorem reachUnit_wf (p uid) : Memory.wf (reachUnit s p uid).opmem = true := by
  simp only [reachUnit]; (repeat' split) <;> simp [h]

@[simp] theorem eraseWhere_wf (p) : Memory.wf (eraseWhere s p).opmem = true :=
  foldl_wf h fun _ _ ht => reachUnit_wf ht ..

@[simp] theorem eraseSlots_wf (l) : Memory.wf (eraseSlots s l).opmem = true := by simp [eraseSlots, h]

@[simp] theorem eraseFn_wf (f) : Memory.wf (eraseFn s f).opmem = true := by simp [eraseFn, h]

@[simp] theorem eraseVault_wf : Memory.wf (eraseVault s).opmem = true := by simp [eraseVault, h]

@[simp] theorem zeroSealed_wf : Memory.wf (zeroSealed s) = true :=
  Memory.wf_foldl _ _ h fun _ _ hn => by split <;> simp [Memory.wf_zero, hn]

@[simp] theorem zeroize_wf : Memory.wf (zeroize s).opmem = true := by simp [zeroize, h]

@[simp] theorem stopUnit_wf (uid) : Memory.wf (stopUnit s uid).opmem = true := by
  simp only [stopUnit]; (repeat' split) <;> simp [h]

@[simp] theorem dropJobs_wf : Memory.wf (dropJobs s).opmem = true :=
  foldl_wf h fun _ _ ht => stopUnit_wf ht ..

@[simp] theorem alarmCmd_wf (uid) : Memory.wf (alarmCmd s uid).opmem = true := by simp [alarmCmd, h]

@[simp] theorem alarmStop_wf : Memory.wf (alarmStop s).opmem = true :=
  foldl_wf (dropJobs_wf h) fun _ _ ht => alarmCmd_wf ht ..

/-! ## Machine/Commands.lean -/

@[simp] theorem atEffect_wf (uid c data) : Memory.wf (atEffect s uid c data).1.opmem = true := by
  unfold atEffect; (repeat' split) <;> simp [h]

@[simp] theorem vloadAt_wf (uid d v) : Memory.wf (vloadAt s uid d v).opmem = true :=
  Memory.wf_foldl _ _ h fun _ _ => Memory.wf_writeN _ _ _

@[simp] theorem helmCommand_wf (uid w data v) : Memory.wf (helmCommand s uid w data v).opmem = true := by
  simp only [helmCommand]; (repeat' split) <;> simp [h]

/-! ## Machine/Binnacle.lean -/

@[simp] theorem startErase_wf (src) : Memory.wf (startErase s src).opmem = true := by
  unfold startErase; split <;> simp [h]

@[simp] theorem ite_startErase_wf (c : Prop) [Decidable c] (src) :
    Memory.wf (if c then startErase s src else s).opmem = true := by
  split
  · exact startErase_wf h src
  · exact h

omit h in
/-- The report of an alarm erases at most once, between updates of the Binnacle and the Logbook (R205, R345). -/
@[simp] theorem alarmReport_wf {s : State} (h : Memory.wf s.opmem = true) (src) :
    Memory.wf (alarmReport s src).opmem = true := by
  unfold alarmReport
  simp only
  split
  · exact h
  · split
    · simp [h]
    · rw [bnLatch_opmem, alarmRecord_opmem]
      refine ite_startErase_wf ?_ ..
      simp [h]

@[simp] theorem sensorSample_wf (vsbMv vddMv hot cold) :
    Memory.wf (sensorSample s vsbMv vddMv hot cold).opmem = true := by simp [sensorSample, h]

@[simp] theorem supplySample_wf (vsbMv vddMv hot cold) :
    Memory.wf (supplySample s vsbMv vddMv hot cold).opmem = true := by simp [supplySample, h]

/-! ## Machine/Drbg.lean -/

@[simp] theorem healthFail_wf : Memory.wf (healthFail s).opmem = true := by simp [healthFail, h]

/-! ## Machine/Execute.lean -/

@[simp] theorem unitFault_wf (uid) : Memory.wf (unitFault s uid).opmem = true := by simp [unitFault, h]

@[simp] theorem clearSlots_wf (uid) : Memory.wf (clearSlots s uid).opmem = true := by simp [clearSlots, h]

@[simp] theorem complete_wf (uid j c status detail flags result) :
    Memory.wf (complete s uid j c status detail flags result).opmem = true := by simp [complete, h]

@[simp] theorem finish_wf (uid) : Memory.wf (finish s uid).opmem = true := by
  simp only [finish]; (repeat' split) <;> simp [h]

@[simp] theorem failRun_wf (uid status detail) : Memory.wf (failRun s uid status detail).opmem = true := by
  unfold failRun; split <;> simp [h]

@[simp] theorem drained_wf (uid) : Memory.wf (drained s uid).opmem = true := by
  unfold drained; split <;> simp [h]

@[simp] theorem startExec_wf (uid) : Memory.wf (startExec s uid).opmem = true := by
  simp only [startExec]; (repeat' split) <;> simp [h]

@[simp] theorem tryExec_wf (uid) : Memory.wf (tryExec s uid).opmem = true := by
  unfold tryExec; split <;> simp [h]

@[simp] theorem loadUnit_wf (uid d j) : Memory.wf (loadUnit uid d s j).s.opmem = true := by
  simp only [loadUnit]
  split <;> simp [h]

@[simp] theorem loadAll_wf (uid func d env j) : Memory.wf (loadAll uid func d env s j).s.opmem = true := by
  refine LoadRes.next_wf (by simp [h]) fun t j ht => ?_
  exact LoadRes.next_wf (by simp [ht]) fun t j ht => loadUnit_wf ht ..

@[simp] theorem loadDesc_wf (uid env j c) : Memory.wf (loadDesc s uid env j c).opmem = true := by
  simp only [loadDesc]
  split <;> simp [apply_ite Prod.fst, h]

@[simp] theorem releaseBlock_wf (uid j c b) : Memory.wf (releaseBlock s uid j c b).opmem = true := by
  simp only [releaseBlock]; (repeat' split) <;> simp [h]

@[simp] theorem swapThen_wf (uid j c bad b) : Memory.wf (swapThen s uid j c bad b).opmem = true := by
  unfold swapThen
  split
  · split
    · next t _ _ hx =>
      have ht : t.opmem = s.opmem := vaultSwap_opmem hx
      split <;> simp [ht, h]
    · simp [h]
  · simp [h]

@[simp] theorem mismatch_wf (uid j b) : Memory.wf (mismatch s uid j b).opmem = true := by simp [mismatch, h]

/-! ## Machine/Arith.lean -/

@[simp] theorem atWriteBack_wf (uid c) : Memory.wf (atWriteBack s uid c).opmem = true := by simp [atWriteBack, h]

@[simp] theorem atMismatch_wf (uid c) : Memory.wf (atMismatch s uid c).opmem = true := by simp [atMismatch, h]

@[simp] theorem atStore_wf (uid c) : Memory.wf (atStore s uid c).opmem = true := by simp [atStore, h]

@[simp] theorem atFinish_wf (uid c env) : Memory.wf (atFinish s uid c env).opmem = true := by simp [atFinish, h]

@[simp] theorem apertureStore_wf (uid off data) : Memory.wf (apertureStore s uid off data).opmem = true :=
  Memory.wf_writeN _ _ _ (foldl_opdClear_wf h ..)

@[simp] theorem apertureWriteAt_wf (a o data) : Memory.wf (apertureWriteAt s a o data).1.opmem = true := by
  unfold apertureWriteAt; (repeat' split) <;> simp [h]

@[simp] theorem releaseW_wf (uid) : Memory.wf (releaseW s uid).opmem = true := by simp [releaseW, h]

@[simp] theorem unLockW_wf (uid v) : Memory.wf (unLockW s uid v).opmem = true := by simp [unLockW, h]

/-! ## Machine/Records.lean -/

@[simp] theorem stopLater_wf (id uid) : Memory.wf (stopLater s id uid).opmem = true := by
  simp only [stopLater]; (repeat' split) <;> simp [h]

@[simp] theorem foldl_stopLater_wf (id) (l : List Nat) :
    Memory.wf (l.foldl (fun t u => stopLater t id u) s).opmem = true :=
  foldl_wf h fun _ _ ht => stopLater_wf ht ..

@[simp] theorem failWriting_wf (uid j) : Memory.wf (failWriting s uid j).opmem = true := by simp [failWriting, h]

@[simp] theorem outputFailed_wf (id idx) : Memory.wf (outputFailed s id idx).opmem = true := by
  unfold outputFailed
  split
  · exact h
  · split
    · simp [h]
    · split
      · split <;> simp [h]
      · refine foldl_wf (by simp [h]) fun t u ht => ?_
        (repeat' split) <;> simp [ht]

@[simp] theorem outRefused_wf (id idx) : Memory.wf (outRefused s id idx).opmem = true := by simp [outRefused, h]

/-! ## Machine/LifeCycle.lean -/

@[simp] theorem lcErase_wf : Memory.wf (lcErase s).opmem = true := by simp [lcErase, h]

@[simp] theorem lcRequest_wf (v) : Memory.wf (lcRequest s v).opmem = true := by simp [lcRequest, h]

/-! ## Machine/Vault.lean -/

@[simp] theorem kvStart_wf (c) : Memory.wf (kvStart s c).opmem = true := by
  simp only [kvStart]; (repeat' split) <;> simp [h]

@[simp] theorem kvCmdW_wf (v bad kekBad) : Memory.wf (kvCmdW s v bad kekBad).opmem = true := by simp [kvCmdW, h]

@[simp] theorem kvRelease_wf : Memory.wf (kvRelease s).opmem = true := by
  unfold kvRelease; split <;> simp [h]

/-! ## Machine/Chart.lean -/

@[simp] theorem chartEnd_wf : Memory.wf (chartEnd s).opmem = true := by
  simp only [chartEnd]; (repeat' split) <;> simp [h]

/-! ## Machine/Completion.lean -/

@[simp] theorem inputStep_wf (id idx f) : Memory.wf (inputStep s id idx f).opmem = true := by
  unfold inputStep; split <;> simp [h]

@[simp] theorem readArrived_wf (t ok data) : Memory.wf (readArrived s t ok data).opmem = true := by
  unfold readArrived; split <;> simp [h]

@[simp] theorem writeDone_wf (t ok) : Memory.wf (writeDone s t ok).opmem = true := by
  unfold writeDone; split <;> simp [h]

@[simp] theorem writingDone_wf (id idx) : Memory.wf (writingDone s id idx).opmem = true := by
  unfold writingDone; (repeat' split) <;> simp [h]

@[simp] theorem txnIssued_wf (t v) : Memory.wf (txnIssued s t v).opmem = true := by
  unfold txnIssued; split <;> simp [h]

@[simp] theorem txnRefused_wf (t) : Memory.wf (txnRefused s t).opmem = true := by
  unfold txnRefused; split <;> simp [h]

@[simp] theorem pumpN_wf (n port) : Memory.wf (pumpN n s port).opmem = true := by
  induction n generalizing s with
  | zero => exact h
  | succ n ih =>
    simp only [pumpN]
    split
    · exact h
    · split
      · simp [ih, h]
      · split <;> (next hx => have ht := fst_wf hx (by simp [h]); simp [ih, ht])

@[simp] theorem pump_wf (port) : Memory.wf (pump s port).opmem = true := by simp [pump, h]

@[simp] theorem txnAnswered_wf (port t) (f : State → State) (hf : Memory.wf (f (timely s t)).opmem = true) :
    Memory.wf (txnAnswered s port t f).opmem = true := by
  unfold txnAnswered; split <;> simp [h, hf]

@[simp] theorem portCredit_wf (n f) : Memory.wf (portCredit s n f).opmem = true := by simp [portCredit, h]

/-! ## Machine/Power.lean -/

@[simp] theorem pwReq_wf (a2) : Memory.wf (pwReq s a2).opmem = true := by simp [pwReq, h]

@[simp] theorem pwReqW_wf (v) : Memory.wf (pwReqW s v).opmem = true := by simp [pwReqW, h]

@[simp] theorem zeroOnly_wf : Memory.wf (zeroOnly s).opmem = true := by simp [zeroOnly, h]

/-! ## Machine/Functions.lean -/

@[simp] theorem eraseOwner_wf (f) : Memory.wf (eraseOwner s f).opmem = true := by simp [eraseOwner, h]

@[simp] theorem vfStop_wf (f) : Memory.wf (vfStop s f).opmem = true := by
  have hs : Memory.wf ((unitsOf s f).foldl stopNoRecord (dropChains (stopIo s f) f)).opmem = true :=
    foldl_wf (by simp [h]) fun _ _ ht => stopNoRecord_wf ht ..
  simp [vfStop, hs]

@[simp] theorem vfReset_wf (f flr) : Memory.wf (vfReset s f flr).opmem = true := by simp [vfReset, h]

@[simp] theorem vfCtlW_wf (f v) : Memory.wf (vfCtlW s f v).opmem = true := by simp [vfCtlW, h]

@[simp] theorem takeFlr_wf (n) : Memory.wf (takeFlr s n).opmem = true := by simp [takeFlr, h]

@[simp] theorem flrBeat_wf (x) : Memory.wf (flrBeat s x).opmem = true := by simp [flrBeat, h]

/-! ## Machine/Control.lean -/

@[simp] theorem leave_wf : Memory.wf (leave s).opmem = true := by
  have hs : Memory.wf ((s.ports.map (·.1)).foldl pump s).opmem = true := foldl_wf h fun _ _ ht => pump_wf ht ..
  simp [leave, hs]

@[simp] theorem rootCycle_wf : Memory.wf (rootCycle s).opmem = true := by simp [rootCycle, h]

/-! ## Machine/Debug.lean -/

@[simp] theorem dbgGrant_wf : Memory.wf (dbgGrant s).opmem = true := by simp [dbgGrant, h]

/-! ## Machine/Helms.lean -/

@[simp] theorem trapUnit_wf (uid) : Memory.wf (trapUnit s uid).opmem = true := by simp [trapUnit, h]

@[simp] theorem helmTrap_wf (n cause) : Memory.wf (helmTrap s n cause).opmem = true := by
  have hs : Memory.wf ((helmUnits s n).foldl trapUnit s).opmem = true := foldl_wf h fun _ _ ht => trapUnit_wf ht ..
  simp [helmTrap, hs]

@[simp] theorem preemptW_wf (v) : Memory.wf (preemptW s v).opmem = true := by simp [preemptW, h]

/-! ## Machine/RegsUnit.lean -/

@[simp] theorem unWrite_wf (uid o v) : Memory.wf (unWrite s uid o v).opmem = true := by
  unfold unWrite; split <;> simp [h]

@[simp] theorem hlWrite_wf (o v) : Memory.wf (hlWrite s o v).opmem = true := by simp [hlWrite, h]

/-! ## Machine/RegsCore.lean -/

@[simp] theorem kvRegWrite_wf (o v) : Memory.wf (kvRegWrite s o v).opmem = true := by
  unfold kvRegWrite; split <;> simp [h]

@[simp] theorem lcWrite_wf (o v) : Memory.wf (lcWrite s o v).opmem = true := by
  unfold lcWrite; split <;> simp [h]

@[simp] theorem ckWrite_wf (o v) : Memory.wf (ckWrite s o v).opmem = true := by
  unfold ckWrite; split <;> simp [h]

@[simp] theorem vfWrite_wf (f o v) : Memory.wf (vfWrite s f o v).opmem = true := by
  unfold vfWrite; split <;> simp [h]

/-! ## Machine/Startup.lean -/

@[simp] theorem endSelfTest_wf (env) : Memory.wf (endSelfTest s env).opmem = true := by simp [endSelfTest, h]

@[simp] theorem holdEnded_wf : Memory.wf (holdEnded s).opmem = true := by simp [holdEnded, h]

/-! ## Machine/Ports.lean -/

@[simp] theorem regWrite_wf (off v) : Memory.wf (regWrite s off v).opmem = true := by
  simp only [regWrite]
  split_ifs
  iterate 5 simp [h]
  split <;> simp [h]

@[simp] theorem mgmtWrite_wf (a off v) : Memory.wf (mgmtWrite s a off v).1.opmem = true := by
  unfold mgmtWrite; (repeat' split) <;> simp [h]

@[simp] theorem portWrite_wf (a addr v) : Memory.wf (portWrite s a addr v).opmem = true := by
  simp only [portWrite]
  split
  · exact h
  · split
    · next hx => simpa using fst_wf hx (by simp [h])
    · next hx => have ht := fst_wf hx (by simp [h]); (repeat' split) <;> simp [ht]

@[simp] theorem dbgStore_wf (r addr v) : Memory.wf (dbgStore s r addr v).1.opmem = true := by
  unfold dbgStore; split <;> simp [h]

@[simp] theorem dbgRun_wf (r b bad) : Memory.wf (dbgRun s r b bad).1.opmem = true := by
  simp only [dbgRun]
  split
  · exact h
  · split
    · next hx => simpa using fst_wf hx (by simp [h])
    · next hx => have ht := fst_wf hx (by simp [h]); split <;> simp [ht]

@[simp] theorem dbgByte_wf (r x) : Memory.wf (dbgByte r s x).opmem = true := by simp [dbgByte, h]

@[simp] theorem dbgFeed_wf (r) : Memory.wf (dbgFeed r s).opmem = true := by
  simp [dbgFeed, h, foldl_wf h fun _ _ ht => dbgByte_wf ht r _]

end

end Sys2Proof.Machine

namespace Sys2Proof.Machine

/-!
# Every step keeps operand memory canonical

Each command ends in a state whose operand memory is canonical, and so does a root cycle.
-/

/-! ## Commands -/

/-- The state that an outcome names has canonical operand memory. -/
def EndsCanonical (o : Host.Outcome State Fault Refusal) : Prop := ∀ t, o = .next t → Memory.wf t.opmem = true

@[simp] theorem endsCanonical_next (t : State) : EndsCanonical (.next t) ↔ Memory.wf t.opmem = true := by
  simp [EndsCanonical]

/-- A reset of the core leaves operand memory zero (R378). -/
@[simp] theorem resetCore_wf (s kind) : Memory.wf (resetCore s kind).opmem = true := rfl

section
variable {s : State} (h : Memory.wf s.opmem = true)
include h

@[simp] theorem execDlSweepDone_wf (f) : EndsCanonical (execDlSweepDone f s) := by
  simp only [execDlSweepDone]; (repeat' split) <;> simp [h]

@[simp] theorem execAdmissionOffer_wf (o) : EndsCanonical (execAdmissionOffer o s) := by
  simp only [execAdmissionOffer, endsCanonical_next]
  split
  · split
    · exact h
    · split
      · simp [h]
      · split
        · next k q _ _ _ _ _ =>
          cases ho : offer (takeRound s ((headPools s o.ring.toNat).headD 64) (headPools s o.ring.toNat))
              o.ring.toNat q k o.bad with
          | none => exact h
          | some t => simp [offer_opmem ho, h]
        · exact h
  · exact h

@[simp] theorem execReofferTimer_wf (g) : EndsCanonical (execReofferTimer g s) := by
  simp only [execReofferTimer]; (repeat' split) <;> simp [h]

@[simp] theorem execSchedulerSelect_wf (p bad) : EndsCanonical (execSchedulerSelect p bad s) := by
  unfold execSchedulerSelect; (repeat' split) <;> simp [h]

@[simp] theorem execAlarmSource_wf (src mesh) : EndsCanonical (execAlarmSource src mesh s) := by
  unfold execAlarmSource; split <;> simp [h]

@[simp] theorem execAlarmHoldEnd_wf : EndsCanonical (execAlarmHoldEnd s) := by
  unfold execAlarmHoldEnd; split <;> simp [h]

@[simp] theorem execSupplyGroupClose_wf : EndsCanonical (execSupplyGroupClose s) := by
  unfold execSupplyGroupClose; split <;> simp [h]

@[simp] theorem execDescriptorLoad_wf (u env) : EndsCanonical (execDescriptorLoad u env s) := by
  simp only [execDescriptorLoad]; (repeat' split) <;> simp [h]

@[simp] theorem execLoadStageEnd_wf (u) : EndsCanonical (execLoadStageEnd u s) := by
  simp only [execLoadStageEnd]; (repeat' split) <;> simp [h]

@[simp] theorem execExecuteBlockDone_wf (u env) : EndsCanonical (execExecuteBlockDone u env s) := by
  simp only [execExecuteBlockDone]; (repeat' split) <;> simp [h]

@[simp] theorem execAtCmdDone_wf (u env) : EndsCanonical (execAtCmdDone u env s) := by
  simp only [execAtCmdDone]; (repeat' split) <;> simp [h]

@[simp] theorem execApertureWrite_wf (a off data) : EndsCanonical (execApertureWrite a off data s) := by
  simp only [execApertureWrite, endsCanonical_next]
  split
  · exact h
  · split <;> (next hx => have ht := fst_wf hx (by simp [h]); simp [ht])

@[simp] theorem execApertureRead_wf (a off env) : EndsCanonical (execApertureRead a off env s) := by
  simp only [execApertureRead, endsCanonical_next]
  split
  · exact h
  · split <;> (next hx => have ht := fst_wf hx (by simp [h]); simp [ht])

@[simp] theorem execRecordIssue_wf (c) : EndsCanonical (execRecordIssue c s) := by
  unfold execRecordIssue; (repeat' split) <;> simp [h]

@[simp] theorem execNoexecRecord_wf (c) : EndsCanonical (execNoexecRecord c s) := by
  unfold execNoexecRecord; (repeat' split) <;> simp [h]

@[simp] theorem execAttPubkeyDone_wf : EndsCanonical (execAttPubkeyDone s) := by
  unfold execAttPubkeyDone; split <;> simp [h]

@[simp] theorem execVaultScrubDone_wf : EndsCanonical (execVaultScrubDone s) := by
  unfold execVaultScrubDone; split <;> simp [h]

@[simp] theorem execCommitValidationEnd_wf : EndsCanonical (execCommitValidationEnd s) := by
  unfold execCommitValidationEnd; (repeat' split) <;> simp [h]

@[simp] theorem execReadCompletion_wf (port tag chk data) : EndsCanonical (execReadCompletion port tag chk data s) := by
  simp only [execReadCompletion, endsCanonical_next]
  split
  · exact h
  · split
    · exact h
    · next u hx =>
      have ht : u.opmem = s.opmem := takeTxn_opmem hx
      split <;> simp [ht, h]

@[simp] theorem execWriteResponse_wf (port tag ok) : EndsCanonical (execWriteResponse port tag ok s) := by
  simp only [execWriteResponse, endsCanonical_next]
  split
  · exact h
  · split
    · exact h
    · next u hx =>
      have ht : u.opmem = s.opmem := takeTxn_opmem hx
      simp [ht, h]

@[simp] theorem execCrdPulse_wf (c) : EndsCanonical (execCrdPulse c s) := by
  unfold execCrdPulse; split <;> simp [h]

@[simp] theorem execContextScrubDone_wf : EndsCanonical (execContextScrubDone s) := by
  unfold execContextScrubDone; split <;> simp [h]

@[simp] theorem execBlockReset_wf : EndsCanonical (execBlockReset s) := by
  unfold execBlockReset; split <;> simp [h]

@[simp] theorem execTamperReset_wf : EndsCanonical (execTamperReset s) := by
  unfold execTamperReset; split <;> simp [h]

@[simp] theorem execEraseScrubDone_wf : EndsCanonical (execEraseScrubDone s) := by
  unfold execEraseScrubDone; split <;> simp [h]

@[simp] theorem execA2ExitComplete_wf : EndsCanonical (execA2ExitComplete s) := by
  simp only [execA2ExitComplete, endsCanonical_next]
  split
  · exact foldl_wf (by simp [h]) fun _ _ ht => flrBeat_wf ht ..
  · exact h

@[simp] theorem execDbgNonceExpire_wf : EndsCanonical (execDbgNonceExpire s) := by
  unfold execDbgNonceExpire; split <;> simp [h]

@[simp] theorem execStartupStepEnd_wf (env) : EndsCanonical (execStartupStepEnd env s) := by
  unfold execStartupStepEnd; (repeat' split) <;> simp [h]

/-- Each arm of the dispatcher is one command. Those without a lemma of their own are one register access or one function of
the model. -/
theorem exec_wf (i) : EndsCanonical (exec i s) := by
  cases i <;> simp [exec, h,
    execDlEnable, execDlDisable, execDlConsumedWrite, execDlRound, execDlAllDirtyClear, execIqEntryMove,
    execStormInterval, execIqReturnStart, execIqReturnEnd, execRetryScrub, execIqHoldFallback, execReshareLayout,
    execIqNoticeClear, execChainFetch, execAlarmConditionEnd, execLogbookSlotWritten, execLogTokenTick,
    execBnActionWrite, execBnLock, execBnLatchClear, execBnMeshEnable, execHoldOkChange, execDrbgReseed,
    execEntropyHealthFail, execAtClear, execAtLoad, execAtStore, execAtVload, execAtAdd, execAtSub, execAtCsub,
    execAtMul, execAtMulacc, execAtSqr, execAtBfly, execHostClaim, execHostRelease, execHostReleaseScrubDone,
    execAbortScrubDone, execDoorbell, execRingEnable, execRingDisable, execCqEnable, execCqDisable, execCqGrant,
    execWaypointSet, execWaypointRewind, execWaypointClear, execNoticeHoldWrite, execNoticeCoalTimer,
    execCreditTick, execFamineNoticeClear, execFamineTimeUnit, execSdFreeze, execSdUnfreeze, execSdAutoRelease,
    execSdClearPools, execSdClearRings, execSdClearDevice, execSdClearDone, execLcRequest, execLcTransitionEnd,
    execLcFuseCmd, execFuseBitProgrammed, execKvPeek, execKvErase, execKvGenerate, execKvUnwrap, execKvWrap,
    execKvAttest, execKvEraseFn, execKvEraseAll, execChartLoadEnd, execChLoad, execChAdvance, execTxBegin,
    execTxCommit, execTxRollback, execTxPatch, execTxPatchReadDone, execTransactionalWrite, execScPeek,
    execScSeal, execScUnseal, execScFree, execContextWritebackDone, execScEraseAll, execPwrCore, execSupplySample,
    execPwrSentinel, execLogbookScanDone, execPllLock, execPllLockLost, execPllLockRetry, execPwReqA2,
    execPwReqA3, execA2EntryComplete, execPdWake, execPowerSwitchLoss, execScanModeEntry, execScanModeExit,
    execMbistStart, execMgReset, execVfCtlReset, execFlrRequest, execVfResetComplete, execCtxFillDone,
    execPendingQuery, execFpHostPerr, execDbgChallenge, execDbgAuth, execDbgRelease, execDbgAuthComplete,
    execLockedLogInterval, execAcNoticeClear, execHelmTrap, execHlPreempt, execBnFaultClr, execUnitKatDone,
    execPinFailInterval, execPyNoticeClear, execNostartHoldEnd, execRegisterWrite, execRcRead, execInboundRead,
    execDebugRead, execDebugWrite]

end

/-! ## The step -/

/-- Settles O4: a root cycle and every command keep the canonical form. -/
theorem stepKeepsMemoryCanonical : Obligations.StepKeepsMemoryCanonical := by
  intro s t h ht
  cases hp : s.pending with
  | nil =>
    rw [step_of_pending_nil hp] at ht
    cases ht
    exact rootCycle_wf h
  | cons c rest => exact exec_wf (s := { s with pending := rest }) h c t ((step_of_pending_cons hp).symm.trans ht)
end Sys2Proof.Machine

namespace Sys2Proof.Machine

/-!
# The end of a service's scrub, traps and preemptions

ABORT_SCRUB_DONE, HELM_TRAP and HL_PREEMPT (R228, R234, R250). A release or an abort works on one unit: the other units,
the Helm registers, the completion queues and the Chart stay.
-/

/-! ## Operations on one unit -/

/-- From s to t no unit but u has changed, and the Helm registers, the completion queues and the Chart stand. -/
structure OnlyUnit (u : Nat) (s t : State) : Prop where
  others : ∀ v, v ≠ u → getUni t v = getUni s v
  hl : t.hl = s.hl
  cqs : t.cqs = s.cqs
  chart : t.chart = s.chart

namespace OnlyUnit

theorem refl (u : Nat) (s : State) : OnlyUnit u s s := ⟨fun _ _ => rfl, rfl, rfl, rfl⟩

theorem ite {u : Nat} {s a b : State} {c : Prop} [Decidable c] (ha : OnlyUnit u s a) (hb : OnlyUnit u s b) :
    OnlyUnit u s (if c then a else b) := by
  split
  · exact ha
  · exact hb

section After
variable {u : Nat} {s t : State} (h : OnlyUnit u s t)
include h

theorem trans {w : State} (k : OnlyUnit u t w) : OnlyUnit u s w where
  others v hv := (k.others v hv).trans (h.others v hv)
  hl := k.hl.trans h.hl
  cqs := k.cqs.trans h.cqs
  chart := k.chart.trans h.chart

/-- An operation that leaves every unit. -/
theorem same {w : State} (hu : w.units = t.units := by rfl) (hh : w.hl = t.hl := by rfl) (hq : w.cqs = t.cqs := by rfl)
    (hc : w.chart = t.chart := by rfl) : OnlyUnit u s w :=
  h.trans ⟨fun v _ => by rw [getUni, hu]; rfl, hh, hq, hc⟩

theorem setUni (x : Uni) : OnlyUnit u s (setUni t u x) :=
  h.trans ⟨fun _ hv => getUni_setUni_ne _ _ _ _ hv, rfl, rfl, rfl⟩

theorem release : OnlyUnit u s (release t u) := by
  unfold Machine.release
  dsimp only
  split
  · exact (h.setUni _).same
  · exact ((h.setUni _).setUni (scrubKey (getUni (Machine.setUni t u _) u))).same

theorem setHalf (b : Bytes) : OnlyUnit u s (setHalf t u b) := by
  unfold Machine.setHalf
  split
  · exact h.same
  · exact h

theorem countHelm (e : DescEnd) (ran : Bool) : OnlyUnit u s (countHelm t u e ran) := by
  unfold Machine.countHelm
  split
  · exact h.same
  · exact h

theorem countKv (status : Nat) : OnlyUnit u s (countKv t status) := ite h.same (ite h.same h)

theorem countEnd (cls func : Nat) (e : DescEnd) (ran : Bool) : OnlyUnit u s (countEnd t u cls func e ran) :=
  (h.setUni (lastEnd (getUni t u) cls func e)).same

theorem addResult (c : Chain) (r : DescRes) : OnlyUnit u s (addResult t c r) := by
  refine ite h.same (h.trans ?_)
  refine ⟨fun v _ => ?_, ?_, ?_, ?_⟩
  · exact foldl_keeps (getUni · v) _ (fun _ _ => by rfl) _ _
  · exact foldl_keeps State.hl _ (fun _ _ => by rfl) _ _
  · exact foldl_keeps State.cqs _ (fun _ _ => by rfl) _ _
  · exact foldl_keeps State.chart _ (fun _ _ => by rfl) _ _

theorem abortService : OnlyUnit u s (abortService t u) :=
  OnlyUnit.setUni (OnlyUnit.setHalf (OnlyUnit.setUni h.same _) []) _

theorem abortUnit : OnlyUnit u s (abortUnit t u) := ite h.abortService h.release

end After

end OnlyUnit

/-! ## What a release and an abort leave of their unit -/

/-- A released unit is IDLE, or stays in FAULT (R14, R228). -/
theorem release_st (s : State) (uid : Nat) :
    (getUni (release s uid) uid).st = if (getUni s uid).st = 4 then 4 else 0 := by
  have hwake (t : State) (p : Nat) : getUni (wakeRings t p) uid = getUni t uid := rfl
  unfold release
  dsimp only
  rw [hwake]
  split
  · simp
  · rw [getUni_scrubUnit, if_pos rfl, getUni_setUni]; rfl

theorem abortService_unit (s : State) (uid : Nat) :
    (getUni (abortService s uid) uid).st = 2 ∧ (getUni (abortService s uid) uid).job = none := by
  simp [abortService]

theorem abortUnit_job (s : State) (uid : Nat) : (getUni (abortUnit s uid) uid).job = none := by
  unfold abortUnit
  split
  · exact (abortService_unit s uid).2
  · exact (release_unit s uid).1

/-- An abort with a record ends in the abort of the unit, behind the result and the counters of its descriptor (R249). -/
theorem abortRecord_eq {s : State} {uid : Nat} {j : Job} (hj : (getUni s uid).job = some j) (status detail : Nat) :
    ∃ t, OnlyUnit uid s t ∧ abortRecord s uid status detail = abortUnit t uid := by
  unfold abortRecord
  simp only [hj]
  split
  · exact ⟨s, .refl uid s, rfl⟩
  next c _ =>
  have hdrop : OnlyUnit uid s (dropDesc s j) := (OnlyUnit.refl uid s).same
  exact ⟨_, (((hdrop.countEnd ..).countKv ..).countHelm ..).addResult .., rfl⟩

theorem abortRecord_none {s : State} {uid : Nat} (hj : (getUni s uid).job = none) (status detail : Nat) :
    abortRecord s uid status detail = s := by
  simp only [abortRecord, hj]

theorem onlyUnit_abortRecord (s : State) (uid status detail : Nat) :
    OnlyUnit uid s (abortRecord s uid status detail) := by
  cases hj : (getUni s uid).job with
  | none => rw [abortRecord_none hj]; exact .refl uid s
  | some j =>
    obtain ⟨t, ht, he⟩ := abortRecord_eq hj status detail
    rw [he]
    exact ht.abortUnit

theorem abortRecord_job (s : State) (uid status detail : Nat) :
    (getUni (abortRecord s uid status detail) uid).job = none := by
  cases hj : (getUni s uid).job with
  | none => rw [abortRecord_none hj, hj]
  | some j =>
    obtain ⟨t, -, he⟩ := abortRecord_eq hj status detail
    rw [he, abortUnit_job]

/-! ## Traps (R234) -/

theorem onlyUnit_trapUnit (s : State) (uid : Nat) : OnlyUnit uid s (trapUnit s uid) := by
  have h := (onlyUnit_abortRecord s uid stMismatch 0x0B22).setUni
    { getUni (abortRecord s uid stMismatch 0x0B22) uid with st := 4 }
  exact .ite h.release h

/-- A unit in FAULT without a job (R234). -/
def Trapped (u : Uni) : Prop := u.st = 4 ∧ u.job = none

theorem trapped_trapUnit (s : State) (uid : Nat) : Trapped (getUni (trapUnit s uid) uid) := by
  unfold trapUnit
  dsimp only
  split
  · exact ⟨by simp [release_st], (release_unit ..).1⟩
  · rw [getUni_setUni]; exact ⟨rfl, abortRecord_job ..⟩

/-- A trap leaves each unit that it reaches in FAULT, and one that was there stays. -/
theorem trapped_foldl_trapUnit (l : List Nat) (s : State) (u : Nat) (h : u ∈ l ∨ Trapped (getUni s u)) :
    Trapped (getUni (l.foldl trapUnit s) u) := by
  induction l generalizing s with
  | nil => simpa using h
  | cons v l ih =>
    refine ih _ ?_
    by_cases hv : u = v
    · rw [hv]; exact .inr (trapped_trapUnit s v)
    · rw [(onlyUnit_trapUnit s v).others u hv]
      exact h.imp_left fun hm => (List.mem_cons.mp hm).resolve_left hv

/-- The fields that a trap's aborts leave. -/
theorem foldl_trapUnit_keeps (l : List Nat) (s : State) :
    (l.foldl trapUnit s).hl = s.hl ∧ (l.foldl trapUnit s).cqs = s.cqs :=
  ⟨foldl_keeps State.hl _ (fun t u => (onlyUnit_trapUnit t u).hl) l s,
    foldl_keeps State.cqs _ (fun t u => (onlyUnit_trapUnit t u).cqs) l s⟩

/-- The Logbook record of a trap leaves the Helms, the units and the queues. -/
theorem OnlyRecords.traps {s t : State} (h : OnlyRecords s t) :
    t.helms = s.helms ∧ t.hl = s.hl ∧ t.units = s.units ∧ t.cqs = s.cqs := by
  rw [h]
  exact ⟨rfl, rfl, rfl, rfl⟩

theorem helmTrap_trapped (s : State) (h cause : Nat) :
    (getHelm (helmTrap s h cause) h).st = 3 ∧ (getHelm (helmTrap s h cause) h).trap = cause ∧
      (helmTrap s h cause).hl.traps = sat32 s.hl.traps ∧
      (∀ u ∈ helmUnits s h, Trapped (getUni (helmTrap s h cause) u)) ∧ (helmTrap s h cause).cqs = s.cqs := by
  obtain ⟨hhl, hcqs⟩ := foldl_trapUnit_keeps (helmUnits s h) s
  obtain ⟨lhelms, lhl, lunits, lcqs⟩ := OnlyRecords.traps (onlyRecords_logReq (voidFewer _) 8 false _)
  unfold helmTrap
  refine ⟨?_, ?_, ?_, fun u hu => ?_, lcqs.trans hcqs⟩
  · rw [getHelm, lhelms]; exact congrArg Helm.st (Tbl.get_set_same ..)
  · rw [getHelm, lhelms]; exact congrArg Helm.trap (Tbl.get_set_same ..)
  · rw [lhl]; exact congrArg (fun x : Hl => sat32 x.traps) hhl
  · rw [getUni, lunits]; exact trapped_foldl_trapUnit _ s u (.inl hu)

/-! ## The end of a scrub (R228, R250) -/

/-- A preemption under way is of this unit. -/
theorem preemptEnd_eq (s : State) (uid : Nat) : preemptEnd s uid =
    if s.hl.preBusy = true ∧ s.hl.preUid = uid then { s with hl := { s.hl with preBusy := false, preResult := 0 } }
    else s := by
  simp [preemptEnd]

/-- What leaves SCRUB: a unit of the scheduler is released, any other is IDLE. -/
def outOfScrub (s : State) (uid : Nat) : State :=
  if (getUni s uid).sched then release s uid else setUni s uid { getUni s uid with st := 0 }

theorem abortScrubDone_scrub {s : State} (u : BitVec 12) (hrun : running s = true) (hst : (getUni s u.toNat).st = 2) :
    exec (.abortScrubDone u) s = .next (preemptEnd (outOfScrub s u.toNat) u.toNat) :=
  congrArg Host.Outcome.next (if_pos (by simp [hrun, hst]))

theorem abortScrubDone_fault {s : State} (u : BitVec 12) (hrun : running s = true) (hst : (getUni s u.toNat).st = 4) :
    exec (.abortScrubDone u) s = .next (preemptEnd s u.toNat) := by
  change execAbortScrubDone u s = _
  simp [execAbortScrubDone, hrun, hst]

theorem abortScrubDone_other {s : State} (u : BitVec 12) (h2 : (getUni s u.toNat).st ≠ 2)
    (h4 : (getUni s u.toNat).st ≠ 4) : exec (.abortScrubDone u) s = .next s := by
  change execAbortScrubDone u s = _
  simp [execAbortScrubDone, h2, h4]

theorem onlyUnit_outOfScrub (s : State) (uid : Nat) : OnlyUnit uid s (outOfScrub s uid) :=
  .ite (OnlyUnit.refl uid s).release ((OnlyUnit.refl uid s).setUni _)

theorem outOfScrub_unit {s : State} {uid : Nat} (hst : (getUni s uid).st = 2) :
    (getUni (outOfScrub s uid) uid).st = 0 ∧ ((getUni s uid).sched = true →
      (getUni (outOfScrub s uid) uid).sched = false ∧ (getUni (outOfScrub s uid) uid).job = none) := by
  unfold outOfScrub
  split
  · obtain ⟨hjob, hsched, -⟩ := release_unit s uid
    exact ⟨by simp [release_st, hst], fun _ => ⟨hsched, hjob⟩⟩
  · next h => exact ⟨by rw [getUni_setUni], fun h' => absurd h' h⟩

theorem outOfScrub_chains (s : State) (uid : Nat) : (outOfScrub s uid).chains = s.chains := by
  unfold outOfScrub
  split
  · exact congrArg Prod.fst (release_chains s uid)
  · rfl

/-- The end of a preemption leaves the units and the chains. -/
theorem preemptEnd_keeps (s : State) (uid : Nat) : (preemptEnd s uid).units = s.units ∧
    (preemptEnd s uid).chains = s.chains := by
  unfold preemptEnd
  split <;> exact ⟨rfl, rfl⟩

/-! ## Preemptions (R250) -/

theorem exec_hlPreempt {s : State} {a : Access} (v : Word) (hg : granted s a true (mgmtAt a 0x70038) = true) :
    exec (.hlPreempt a v) s = .next (acked (preemptW s v) a) :=
  congrArg Host.Outcome.next (hostWrite_granted s a _ _ hg)

section Preempt
variable {s : State} {v : Word} (hq : quietWrites s = false) (hb : s.hl.preBusy = false)
include hq hb

theorem preemptW_refused (hp : preemptible s (wfld v 0 12) = false) :
    preemptW s v = { s with hl := { s.hl with preResult := 2 } } := by
  simp [preemptW, hq, hb, hp]

theorem preemptW_idle (hp : preemptible s (wfld v 0 12) = true) (hj : (getUni s (wfld v 0 12)).job = none) :
    preemptW s v = { s with hl := { s.hl with preResult := 1 } } := by
  simp [preemptW, hq, hb, hp, hj]

theorem preemptW_abort (hp : preemptible s (wfld v 0 12) = true) (hj : (getUni s (wfld v 0 12)).job ≠ none) :
    ∃ t, t = abortRecord s (wfld v 0 12) stAborted 0x0B23 ∧ preemptW s v =
      { t with hl := { t.hl with preBusy := true, preUid := wfld v 0 12, preempted := sat32 t.hl.preempted } } := by
  refine ⟨_, rfl, ?_⟩
  simp [preemptW, hq, hb, hp, Option.isNone_iff_eq_none, hj]

end Preempt

/-- The abort of a preemptible unit's job leaves the unit in SCRUB: the unit is an arithmetic one. -/
theorem abortRecord_preemptible {s : State} {uid : Nat} (hp : preemptible s uid = true)
    (hj : (getUni s uid).job ≠ none) (status detail : Nat) : (getUni (abortRecord s uid status detail) uid).st = 2 := by
  obtain ⟨j, hj⟩ := Option.ne_none_iff_exists'.mp hj
  obtain ⟨t, ht, he⟩ := abortRecord_eq hj status detail
  have hcls : ((unitRec t uid).map (·.cls)).getD 0 = 2 := by
    rw [unitRec, ht.chart]
    change ((unitRec s uid).map (·.cls)).getD 0 = 2
    unfold preemptible at hp
    split at hp
    · next r hr =>
      simp only [Bool.and_eq_true, beq_iff_eq] at hp
      obtain ⟨⟨hc, -⟩, -⟩ := hp
      simp [hr, hc]
    · cases hp
  rw [he, abortUnit, if_pos hcls]
  exact (abortService_unit t uid).1

/-- Settles O39: the cases of a unit's state at the end of its scrub; the trap, unit by unit; the cases of a preemption. -/
theorem scrubTrapAndPreempt : Obligations.ScrubTrapAndPreempt := by
  refine ⟨fun s u hrun => ⟨abortScrubDone_other u, fun h4 => ?_, fun h2 => ?_⟩,
    fun s h cause hup hch hst h1 h3 => ?_, fun s a v u hg hq hb hu => ?_⟩
  · rw [abortScrubDone_fault u hrun h4, preemptEnd_eq]
  · obtain ⟨hst, hsched⟩ := outOfScrub_unit h2
    obtain ⟨hunits, hchains⟩ := preemptEnd_keeps (outOfScrub s u.toNat) u.toNat
    have hkeep := onlyUnit_outOfScrub s u.toNat
    have hget (v : Nat) : getUni (preemptEnd (outOfScrub s u.toNat) u.toNat) v = getUni (outOfScrub s u.toNat) v := by
      rw [getUni, hunits]; rfl
    refine ⟨_, abortScrubDone_scrub u hrun h2, ?_⟩
    simp only [hget]
    refine ⟨hst, hsched, fun hbusy huid => ?_, ?_, hchains.trans (outOfScrub_chains ..), hkeep.others⟩
    · rw [preemptEnd_eq, hkeep.hl, if_pos ⟨hbusy, huid⟩]
      exact ⟨rfl, rfl⟩
    · rw [preemptEnd_opmem, outOfScrub]
      split <;> simp
  · have hx : exec (.helmTrap h cause) s = .next (helmTrap s h.toNat cause.toNat) :=
      congrArg Host.Outcome.next (if_pos (by simp [hup, hch, hst, h1, h3]))
    exact ⟨_, hx, helmTrap_trapped s h.toNat cause.toNat⟩
  · subst hu
    rw [exec_hlPreempt v hg]
    refine ⟨fun hp => by rw [preemptW_refused hq hb hp], fun hp hj => by rw [preemptW_idle hq hb hp hj],
      fun hp hj => ⟨_, rfl, ?_⟩⟩
    obtain ⟨t, ht, hx⟩ := preemptW_abort hq hb hp hj
    have hkeep := onlyUnit_abortRecord s (wfld v 0 12) stAborted 0x0B23
    rw [hx]
    simp only [getUni_acked, acked_hl]
    rw [← ht] at hkeep
    refine ⟨trivial, trivial, by rw [hkeep.hl], ?_, ?_, fun w hw => hkeep.others w hw⟩
    · exact ht ▸ abortRecord_preemptible hp hj ..
    · exact ht ▸ abortRecord_job ..

end Sys2Proof.Machine

namespace Sys2Proof.Machine

/-!
# The write of AT_CMD

The host commands of an arithmetic unit as they are written (R221, R223, R226): the unit samples its operands, and the
command fails at once, or starts and holds the array.
-/

/-! ## The value of AT_CMD -/

theorem atCmdWord_op (k : Nat) (fl : BitVec 3) (hk : k < 32) : wfld (atCmdWord k fl) 0 5 = k := by
  have hfl := fl.isLt
  have hw : (atCmdWord k fl).toNat = k + 32 * fl.toNat := by
    simp only [atCmdWord, word, BitVec.toNat_ofNat]; omega
  rw [wfld, fld, hw]
  omega

theorem atCmdWord_flags (k : Nat) (fl : BitVec 3) (hk : k < 32) : BitVec.ofNat 3 (wfld (atCmdWord k fl) 5 3) = fl := by
  have hfl := fl.isLt
  have hw : (atCmdWord k fl).toNat = k + 32 * fl.toNat := by
    simp only [atCmdWord, word, BitVec.toNat_ofNat]; omega
  apply BitVec.eq_of_toNat_eq
  rw [wfld, fld, hw, BitVec.toNat_ofNat]
  omega

/-- The operands that AT_CMD samples of its unit (R221). -/
def sampled (ar : Arith) (k : Nat) (fl : BitVec 3) : AtCmd :=
  ⟨k, fl, wfld ar.opdDA 0 16, wfld ar.opdDA 16 16, wfld ar.opdBC 0 16, wfld ar.opdBC 16 16, wfld ar.q 0 31, ar.xaddr,
    0, 0, .none, 0, false, false⟩

/-! ## The write is taken, judged or ignored (R221, R223) -/

/-- A write to an arithmetic unit in which nothing makes it ignore the register. -/
theorem atCmdW_arith {s : State} {uid : Nat} {v : Word} (hcls : (unitRec s uid).any (·.cls == 2) = true)
    (hq : quietWrites s = false) (hs : struck s = false) : atCmdW s uid v =
      if (getUni s (topUnit s uid)).ar.busy || !(getUni s (topUnit s uid)).hostHeld || topUnit s uid != uid then
        setUni s (topUnit s uid) { getUni s (topUnit s uid) with
          ar := { (getUni s (topUnit s uid)).ar with cmdIgnored := true } }
      else
        match atCheck s uid (sampled (getUni s (topUnit s uid)).ar (wfld v 0 5) (BitVec.ofNat 3 (wfld v 5 3))) with
        | some (st, dt) => atEnd s uid (wfld v 0 5) st dt (refusedCarry s uid (wfld v 0 5))
        | none => atStart s uid (sampled (getUni s (topUnit s uid)).ar (wfld v 0 5) (BitVec.ofNat 3 (wfld v 5 3))) := by
  cases hr : unitRec s uid with
  | none => rw [hr] at hcls; cases hcls
  | some r =>
    have hc : r.cls = 2 := by simpa [hr] using hcls
    have hno : ¬(r.cls ≠ 2 ∨ quietWrites s = true ∨ struck s = true) := by simp [hc, hq, hs]
    simp only [atCmdW, hr, if_neg hno]
    rfl

theorem atCmdW_ignored {s : State} {uid : Nat} {v : Word} (hcls : (unitRec s uid).any (·.cls == 2) = true)
    (hq : quietWrites s = false) (hs : struck s = false)
    (h : (getUni s (topUnit s uid)).ar.busy = true ∨ (getUni s (topUnit s uid)).hostHeld = false ∨ topUnit s uid ≠ uid) :
    atCmdW s uid v = setUni s (topUnit s uid) { getUni s (topUnit s uid) with
      ar := { (getUni s (topUnit s uid)).ar with cmdIgnored := true } } := by
  rw [atCmdW_arith hcls hq hs]
  exact if_pos (by simpa [or_assoc] using h)

section Taken
variable {s : State} {a : Access} {uid k : Nat} {fl : BitVec 3} (h : atTakes s a uid = true) (hk : k < 32)
include h hk

/-- A command that is judged: it ends at once, or starts. -/
theorem atCmdW_taken : atCmdW s uid (atCmdWord k fl) =
    match atCheck s uid (sampled (getUni s uid).ar k fl) with
    | some (st, dt) => atEnd s uid k st dt (refusedCarry s uid k)
    | none => atStart s uid (sampled (getUni s uid).ar k fl) := by
  simp only [atTakes, Bool.and_eq_true, Bool.not_eq_true', beq_iff_eq] at h
  obtain ⟨⟨⟨⟨⟨⟨-, hcls⟩, hq⟩, hs⟩, hb⟩, hh⟩, ht⟩ := h
  rw [atCmdW_arith hcls hq hs, ht, if_neg (by simp [hb, hh]), atCmdWord_op k fl hk, atCmdWord_flags k fl hk]

theorem atCmdW_refused {st dt : Nat} (hc : atCheck s uid (sampled (getUni s uid).ar k fl) = some (st, dt)) :
    atCmdW s uid (atCmdWord k fl) = atEnd s uid k st dt (refusedCarry s uid k) := by
  rw [atCmdW_taken h hk, hc]

theorem atCmdW_starts (hc : atCheck s uid (sampled (getUni s uid).ar k fl) = none) :
    atCmdW s uid (atCmdWord k fl) = atStart s uid (sampled (getUni s uid).ar k fl) := by
  rw [atCmdW_taken h hk, hc]

end Taken

/-! ## What a command leaves as it ends, and as it starts -/

/-- The end of a command changes its unit alone: BUSY falls, and the slots stay (R221). -/
theorem atEnd_unit (s : State) (uid op st dt : Nat) (carry : Bool) :
    let t := atEnd s uid op st dt carry
    t = { s with units := t.units } ∧ (getUni t uid).ar.busy = false ∧ (getUni t uid).ar.cmd = none ∧
      (getUni t uid).ar.status = st ∧ (getUni t uid).ar.detail = dt ∧
      (getUni t uid).ar.valid = (getUni s uid).ar.valid ∧ ∀ v, v ≠ uid → getUni t v = getUni s v := by
  refine ⟨rfl, ?_, ?_, ?_, ?_, ?_, fun v hv => getUni_setUni_ne _ _ _ _ hv⟩ <;> simp [atEnd]

theorem atStart_silent {s : State} {uid : Nat} {c : AtCmd} (hop : c.op ≠ 2) : atStart s uid c =
    setUni s uid { getUni s uid with ar := { (getUni s uid).ar with
      busy := true
      cmd := some { c with due := s.clk.meridian + (unitCycles s uid c.op c.fl).2 }
      occ := ((getUni s uid).ar.occ + (unitCycles s uid c.op c.fl).1) % 2 ^ 64 } } := by
  simp only [atStart, atTransfer, if_neg hop]

/-- A LOAD whose reads are granted has all of them out or waiting at port 0 (R221). -/
theorem atStart_load {s : State} {uid : Nat} {c : AtCmd} (hop : c.op = 2) (hj : ∀ p, (judgeOut s 0 false p).ok = true) :
    ∃ c', atStart s uid c = { s with units := (atStart s uid c).units, ports := (atStart s uid c).ports } ∧
      (getUni (atStart s uid c) uid).ar.busy = true ∧ (getUni (atStart s uid c) uid).ar.cmd = some c' ∧
      c'.due = s.clk.meridian + (unitCycles s uid c.op c.fl).2 ∧
      (getUni (atStart s uid c) uid).ar.occ = ((getUni s uid).ar.occ + (unitCycles s uid c.op c.fl).1) % 2 ^ 64 ∧
      c'.gather = ⟨(pieces c.xaddr (opdBytes s uid)).length, [], none⟩ := by
  obtain ⟨P, hP⟩ := startRead_granted (port := 0) (addr := c.xaddr) (len := opdBytes s uid) (who := .atRead uid)
    (pools := []) hj
  simp only [atStart, atTransfer, if_pos hop, hP, getUni_setUni]
  exact ⟨_, rfl, trivial, rfl, rfl, rfl, rfl⟩

/-- On an OPEN unit a VLOAD with its slot in range fails for the key, not for its format (R215, R223). -/
theorem atCheck_vload {s : State} {uid : Nat} {r : UnitRec} {c : AtCmd} (hr : unitRec s uid = some r)
    (hs : r.sealed = false) (hop : c.op = 5) (hfl : c.fl = 0) (hd : c.d < opdCount s uid) :
    atCheck s uid c = some (stKeyAttr, 0x0A03) := by
  simp [atCheck, allowedFlags, hop, hfl, destSlots, pairOp, sourceSlots, hr, hs, hd]

/-! ## The eleven commands -/

/-- The eleven host commands and their operation codes (R222). -/
def hostCommands (a : Access) (u : BitVec 12) (fl : BitVec 3) : List (Instr × Nat) :=
  [(.atClear a u fl, 1), (.atLoad a u fl, 2), (.atStore a u fl, 3), (.atVload a u fl, 5), (.atAdd a u fl, 8),
    (.atSub a u fl, 9), (.atCsub a u fl, 0x0A), (.atMul a u fl, 0x10), (.atMulacc a u fl, 0x11), (.atSqr a u fl, 0x12),
    (.atBfly a u fl, 0x18)]

/-- Each of them is a write of its code to AT_CMD. -/
theorem exec_hostCommand {s : State} {a : Access} {u : BitVec 12} {fl : BitVec 3} {i : Instr} {k : Nat}
    (h : (i, k) ∈ hostCommands a u fl) : k < 32 ∧
      exec i s = .next (hostWrite s a (unitAt a u.toNat 0x48) (fun t => atCmdW t u.toNat (atCmdWord k fl))) := by
  simp only [hostCommands, List.mem_cons, Prod.mk.injEq, List.not_mem_nil, or_false] at h
  rcases h with ⟨rfl, rfl⟩ | ⟨rfl, rfl⟩ | ⟨rfl, rfl⟩ | ⟨rfl, rfl⟩ | ⟨rfl, rfl⟩ | ⟨rfl, rfl⟩ | ⟨rfl, rfl⟩ | ⟨rfl, rfl⟩ |
    ⟨rfl, rfl⟩ | ⟨rfl, rfl⟩ | ⟨rfl, rfl⟩ <;> exact ⟨by omega, rfl⟩

theorem exec_hostCommand_granted {s : State} {a : Access} {u : BitVec 12} {fl : BitVec 3} {i : Instr} {k : Nat}
    (h : (i, k) ∈ hostCommands a u fl) (hg : granted s a true (unitAt a u.toNat 0x48) = true) :
    exec i s = .next (acked (atCmdW s u.toNat (atCmdWord k fl)) a) :=
  (exec_hostCommand h).2.trans (congrArg Host.Outcome.next (hostWrite_granted s a _ _ hg))

theorem atTakes_granted {s : State} {a : Access} {uid : Nat} (h : atTakes s a uid = true) :
    granted s a true (unitAt a uid 0x48) = true := by
  simp only [atTakes, Bool.and_eq_true] at h
  obtain ⟨⟨⟨⟨⟨⟨hg, -⟩, -⟩, -⟩, -⟩, -⟩, -⟩ := h
  exact hg

/-- Settles O35: the write that is ignored, the refused command, the command that starts, LOAD, and VLOAD. -/
theorem atCommandsRule : Obligations.AtCommandsRule := by
  refine ⟨fun s a u fl i k x c hi => ?_, fun s a u r ht hr hs hd => ?_⟩
  · obtain ⟨hk, -⟩ := exec_hostCommand (s := s) hi
    refine ⟨fun hg hcls hq hs h => ?_, fun ht hx hc => ?_⟩
    · rw [exec_hostCommand_granted hi hg, atCmdW_ignored hcls hq hs h]
    · have hx' : c = sampled (getUni s u.toNat).ar k fl := by rw [hc, hx]; rfl
      have hexec := exec_hostCommand_granted hi (atTakes_granted ht)
      subst hx'
      refine ⟨fun st dt hf => ?_, fun hf h2 => ?_, fun hf h2 hj => ?_⟩
      · rw [hx]
        exact ⟨_, by rw [hexec, atCmdW_refused ht hk hf], atEnd_unit ..⟩
      · rw [hexec, atCmdW_starts ht hk hf, atStart_silent h2, hx]
        rfl
      · obtain ⟨c', h⟩ := atStart_load (uid := u.toNat) (c := sampled (getUni s u.toNat).ar k fl) h2 hj
        rw [hx]
        exact ⟨_, c', by rw [hexec, atCmdW_starts ht hk hf], h⟩
  · have hi : (Instr.atVload a u 0, 5) ∈ hostCommands a u 0 := by simp [hostCommands]
    have hf : atCheck s u.toNat (sampled (getUni s u.toNat).ar 5 0) = some (stKeyAttr, 0x0A03) :=
      atCheck_vload hr hs rfl rfl hd
    obtain ⟨honly, hbusy, -, hst, hdt, -⟩ := atEnd_unit s u.toNat 5 stKeyAttr 0x0A03 (refusedCarry s u.toNat 5)
    refine ⟨_, by rw [exec_hostCommand_granted hi (atTakes_granted ht), atCmdW_refused ht (by omega) hf], ?_⟩
    simp only [getUni_acked, acked_opmem]
    exact ⟨hst, hdt, hbusy, by rw [honly]⟩

end Sys2Proof.Machine

namespace Sys2Proof.Machine

/-!
# Operand slots: what is written, and what is read back

Bytes of operand memory after a write of bytes, VALID and LOADED as lists of slots, and the aperture (R214, R219, R220).
-/

/-! ## Bytes behind a write (R214) -/

/-- Behind a write of bytes the written addresses read them, and every other address reads as before. -/
theorem Memory.read_writeN (b : Bytes) (m : List Host.Cell) (a x : Nat) (w : Memory.wf m = true) :
    Memory.read (Memory.writeN m a b) x = if a ≤ x ∧ x < a + b.length then b.getD (x - a) 0 else Memory.read m x := by
  induction b generalizing m a with
  | nil => rw [if_neg (by simp)]; rfl
  | cons v r ih =>
    rw [Memory.writeN, ih _ _ (Memory.wf_write m a v w), List.length_cons]
    by_cases hx : x = a
    · subst hx
      rw [if_neg (by omega), if_pos (by omega), Memory.read_write_same m x v w, Nat.sub_self, List.getD_cons_zero]
    · rw [Memory.read_write_ne m a x v hx]
      by_cases h : a + 1 ≤ x ∧ x < a + 1 + r.length
      · rw [if_pos h, if_pos (by omega), show x - a = x - (a + 1) + 1 by omega, List.getD_cons_succ]
      · rw [if_neg h, if_neg (by omega)]

/-! ## Flags of slots (R214) -/

theorem mem_insertOn {α : Type} {f : α → Nat} {x y : α} {l : List α} : y ∈ insertOn f x l ↔ y = x ∨ y ∈ l := by
  induction l with
  | nil => simp [insertOn]
  | cons z l ih =>
    unfold insertOn
    split
    · simp
    · simp only [List.mem_cons, ih]; tauto

theorem mem_flagSet {l : List Nat} {n m : Nat} : m ∈ flagSet l n ↔ m = n ∨ m ∈ l := by
  simp only [flagSet, mem_insertOn, List.mem_filter, decide_eq_true_eq]
  tauto

theorem mem_foldl_flagSet {l v : List Nat} {m : Nat} : m ∈ l.foldl flagSet v ↔ m ∈ l ∨ m ∈ v := by
  induction l generalizing v with
  | nil => simp
  | cons n l ih => simp only [List.foldl_cons, ih, mem_flagSet, List.mem_cons]; tauto

/-! ## Operations on units and operand memory -/

/-- From s to t at most the units and operand memory have changed. -/
def OnlyOperands (s t : State) : Prop := t = { s with units := t.units, opmem := t.opmem }

theorem OnlyOperands.trans {s t u : State} (h : OnlyOperands s t) (k : OnlyOperands t u) : OnlyOperands s u :=
  Eq.trans k (congrArg (fun x : State => { x with units := u.units, opmem := u.opmem }) h)

theorem OnlyOperands.store {s t : State} (h : OnlyOperands s t) (m : List Host.Cell) (uid : Nat) (x : Uni) :
    OnlyOperands s (setUni { t with opmem := m } uid x) :=
  h.trans rfl

theorem onlyOperands_foldl_opdClear (uid : Nat) (l : List Nat) (s : State) :
    OnlyOperands s (l.foldl (fun s n => opdClear s uid n) s) := by
  induction l generalizing s with
  | nil => rfl
  | cons n l ih => exact OnlyOperands.trans (t := opdClear s uid n) rfl (ih _)

/-! ## An access of the aperture that R307 lets through -/

theorem coreRstN_of_access {s : State} {a : Access} {w : Bool} {off : Option Nat} (h : access s a w off = (s, none)) :
    coreRstN s = true := by
  unfold access at h
  split at h
  · split at h
    · next hp =>
      simp only [Bool.and_eq_true] at hp
      obtain ⟨⟨hp, -⟩, -⟩ := hp
      exact coreRstN_of_ported s hp
    · cases h
  · cases h

theorem exec_apertureWrite {s : State} {a : Access} {off : BitVec 23} {data : Bytes}
    (h : access s a true (mgmtAt a (0x02000000 + off.toNat)) = (s, none)) : exec (.apertureWrite a off data) s =
      .next (respond (apertureWriteAt s a off.toNat data).1 a (apertureWriteAt s a off.toNat data).2) := by
  change execApertureWrite a off data s = _
  simp [execApertureWrite, coreRstN_of_access h, h]

theorem exec_apertureRead {s : State} {a : Access} {off : BitVec 23} {env : ApertureEnv}
    (h : access s a false (mgmtAt a (0x02000000 + off.toNat)) = (s, none)) : exec (.apertureRead a off env) s =
      .next (respond (apertureReadAt s a off.toNat env.agree env.parity).1 a
        (apertureReadAt s a off.toNat env.agree env.parity).2) := by
  change execApertureRead a off env s = _
  simp [execApertureRead, coreRstN_of_access h, h]

/-! ## Writes (R219) -/

theorem padTo_self {n : Nat} {b : Bytes} (h : b.length = n) : padTo n b = b := by
  simp [padTo, slice, ← h]

/-- The slots of a write that are cleared before it: those it touches that are INVALID. -/
def slotsOpened (s : State) (uid off n : Nat) : List Nat :=
  (slotsTouched s uid off n).filter (fun m => !(getUni s uid).ar.valid.contains m)

theorem onlyOperands_apertureStore (s : State) (uid off : Nat) (data : Bytes) :
    OnlyOperands s (apertureStore s uid off data) := by
  have h := onlyOperands_foldl_opdClear uid (slotsOpened s uid off data.length) s
  unfold apertureStore
  exact h.store ..

theorem apertureStore_opmem (s : State) (uid off : Nat) (data : Bytes) : (apertureStore s uid off data).opmem =
    Memory.writeN ((slotsOpened s uid off data.length).foldl (fun s n => opdClear s uid n) s).opmem off data := rfl

/-- The written bytes read back. -/
theorem read_apertureStore {s : State} (uid off : Nat) (data : Bytes) (w : Memory.wf s.opmem = true) {i : Nat}
    (hi : i < data.length) : Memory.read (apertureStore s uid off data).opmem (off + i) = data.getD i 0 := by
  rw [apertureStore_opmem, Memory.read_writeN _ _ _ _ (foldl_opdClear_wf w ..), if_pos (by omega), Nat.add_sub_cancel_left]

/-- Where the touched slots were VALID every other byte stays. -/
theorem read_apertureStore_other {s : State} {uid off : Nat} {data : Bytes} (w : Memory.wf s.opmem = true)
    (hv : ∀ n ∈ slotsTouched s uid off data.length, n ∈ (getUni s uid).ar.valid) {p : Nat}
    (hp : p < off ∨ off + data.length ≤ p) :
    Memory.read (apertureStore s uid off data).opmem p = Memory.read s.opmem p := by
  have hnil : slotsOpened s uid off data.length = [] := by simpa [slotsOpened, List.filter_eq_nil_iff] using hv
  rw [apertureStore_opmem, hnil, List.foldl_nil, Memory.read_writeN _ _ _ _ w, if_neg (by omega)]

/-- The touched slots are VALID and not LOADED. -/
theorem flags_apertureStore {s : State} {uid off n : Nat} {data : Bytes} (h : n ∈ slotsTouched s uid off data.length) :
    n ∈ (getUni (apertureStore s uid off data) uid).ar.valid ∧
      n ∉ (getUni (apertureStore s uid off data) uid).ar.loaded := by
  unfold apertureStore
  dsimp only
  rw [getUni_setUni]
  exact ⟨mem_foldl_flagSet.mpr (.inl h), by simp [h]⟩

/-! ## Reads (R219, R220, R230) -/

theorem aperturePar_eq {s : State} {o : Nat} {r : UnitRec} (h : leafAt s (o / tileBytes) = some r) : aperturePar s o =
    { s with cnts := s.cnts.set r.uid { getCnt s r.uid with parity := sat32 (getCnt s r.uid).parity } } := by
  simp only [aperturePar, h]

/-- The count of a parity error is no part of what a read of the aperture looks at. -/
theorem aperturePar_reads (s : State) (o uid n : Nat) (agree : Bool) :
    apertureDiffers (aperturePar s o) uid agree = apertureDiffers s uid agree ∧
      apertureBytes (aperturePar s o) uid o n = apertureBytes s uid o n := by
  unfold aperturePar
  split <;> exact ⟨rfl, rfl⟩

theorem getCnt_aperturePar {s : State} {o : Nat} {r : UnitRec} (h : leafAt s (o / tileBytes) = some r) (v : Nat) :
    getCnt (aperturePar s o) v =
      if v = r.uid then { getCnt s v with parity := sat32 (getCnt s v).parity } else getCnt s v := by
  rw [aperturePar_eq h]
  split
  · next hv => subst hv; exact Tbl.get_set_same ..
  · next hv => exact Tbl.get_set_ne _ _ _ _ _ hv

section Read
variable {s : State} {a : Access} {o u : Nat} {agree parity : Bool} (hu : apertureUnit s o = some u)
include hu

theorem apertureReadAt_refused (hok : apertureOk s u a o = false) :
    apertureReadAt s a o agree parity = (apertureRefuse s (some u), respErr 1 (accessBytes a.size)) := by
  simp [apertureReadAt, hu, hok]

variable (hok : apertureOk s u a o = true)
include hok

theorem apertureReadAt_bytes (hd : apertureDiffers s u agree = false) : apertureReadAt s a o agree parity =
    (if parity then aperturePar s o else s, respOk (apertureBytes s u o (accessBytes a.size))) := by
  obtain ⟨hpd, hpb⟩ := aperturePar_reads s o u (accessBytes a.size) agree
  cases parity <;> simp [apertureReadAt, hu, hok, hd, hpd, hpb]

theorem apertureReadAt_differs (hd : apertureDiffers s u agree = true) : apertureReadAt s a o agree parity =
    (countMismatch (if parity then aperturePar s o else s) u, respErr 1 (accessBytes a.size)) := by
  obtain ⟨hpd, -⟩ := aperturePar_reads s o u 0 agree
  cases parity <;> simp [apertureReadAt, hu, hok, hd, hpd]

end Read

/-- Settles O37: the refused write and the write; the refused read, the read, the compare that fails, and the count. -/
theorem apertureRule : Obligations.ApertureRule := by
  refine ⟨fun s a off data u hacc hu hlen => ⟨fun hok => ?_, fun hok w => ?_⟩,
    fun s x a off agree parity u hacc hu hx => ⟨fun hok => ?_, fun hok hd => ?_, fun hok hd => ?_, fun r v hp hr => ?_⟩⟩
  · rw [exec_apertureWrite hacc]
    simp [apertureWriteAt, hu, hok, apertureRefuse]
  · have hx : exec (.apertureWrite a off data) s = .next (acked (apertureStore s u off.toNat data) a) := by
      rw [exec_apertureWrite hacc]
      simp [apertureWriteAt, hu, hok, padTo_self hlen, respond_ok_eq_acked]
    refine ⟨_, hx, ?_⟩
    simp only [acked_units, acked_opmem, getUni_acked]
    exact ⟨congrArg (acked · a) (onlyOperands_apertureStore ..), fun i hi => read_apertureStore u off.toNat data w hi,
      fun n hn => flags_apertureStore hn, fun hv p hp => read_apertureStore_other w hv hp⟩
  · rw [exec_apertureRead hacc, apertureReadAt_refused hu hok]
    rfl
  · rw [exec_apertureRead hacc, apertureReadAt_bytes hu hok hd, hx]
    rfl
  · rw [exec_apertureRead hacc, apertureReadAt_differs hu hok hd, hx]
    rfl
  · rw [hx, if_pos hp, getCnt_aperturePar hr]

end Sys2Proof.Machine

namespace Sys2Proof.Machine

/-!
# The results of a command

Bytes as numbers, a slot read back behind a write, the arithmetic of R222 and the lanes of R225.
-/

/-! ## Little-endian numbers (R3) -/

theorem leNat_append (a b : Bytes) : leNat (a ++ b) = leNat a + 256 ^ a.length * leNat b := by
  induction a with
  | nil => simp [leNat]
  | cons x a ih => rw [List.cons_append, leNat, leNat, ih, List.length_cons, Nat.pow_succ]; ring

theorem leNat_lt (b : Bytes) : leNat b < 256 ^ b.length := by
  induction b with
  | nil => simp [leNat]
  | cons x b ih =>
    have hx := x.isLt
    rw [leNat, List.length_cons, Nat.pow_succ]
    omega

theorem two_pow_eight_mul (n : Nat) : 2 ^ (8 * n) = 256 ^ n := Nat.pow_mul 2 8 n

/-! ## Runs of bytes -/

theorem Memory.readN_length (m : List Host.Cell) (a n : Nat) : (Memory.readN m a n).length = n := by
  induction n generalizing a with
  | zero => rfl
  | succ n ih => rw [Memory.readN, List.length_cons, ih]

theorem Memory.readN_eq_of_read (b : Bytes) {m : List Host.Cell} {a : Nat}
    (h : ∀ i, i < b.length → Memory.read m (a + i) = b.getD i 0) : Memory.readN m a b.length = b := by
  induction b generalizing a with
  | nil => rfl
  | cons v r ih =>
    rw [List.length_cons, Memory.readN, show Memory.read m a = v from h 0 (Nat.succ_pos _)]
    refine congrArg (v :: ·) (ih fun i hi => ?_)
    have hi' := h (i + 1) (Nat.succ_lt_succ hi)
    rwa [List.getD_cons_succ, show a + (i + 1) = a + 1 + i by omega] at hi'

theorem Memory.readN_congr {m m' : List Host.Cell} {a : Nat} (n : Nat)
    (h : ∀ x, a ≤ x → x < a + n → Memory.read m x = Memory.read m' x) : Memory.readN m a n = Memory.readN m' a n := by
  induction n generalizing a with
  | zero => rfl
  | succ n ih =>
    rw [Memory.readN, Memory.readN, h a le_rfl (by omega), ih fun x hx hn => h x (by omega) (by omega)]

/-! ## Slots (R213, R214) -/

theorem opdBytes_eq (s : State) (uid : Nat) : ∃ l, opdBytes s uid = 32 * 2 ^ l := by
  unfold opdBytes
  cases unitRec s uid with
  | none => exact ⟨0, rfl⟩
  | some r => exact ⟨r.len, rfl⟩

theorem opdRead_lt (s : State) (uid n : Nat) : opdRead s uid n < 2 ^ (8 * opdBytes s uid) := by
  unfold opdRead
  split
  · have h := leNat_lt (Memory.readN s.opmem (opdAddr s uid n) (opdBytes s uid))
    rwa [Memory.readN_length, ← two_pow_eight_mul] at h
  · exact Nat.two_pow_pos _

theorem opdAddr_succ (s : State) (uid n : Nat) : opdAddr s uid (n + 1) = opdAddr s uid n + opdBytes s uid := by
  rw [opdAddr, opdAddr, Nat.succ_mul, Nat.add_assoc]

/-- Two slots of a unit share no byte. -/
theorem opdAddr_disjoint {s : State} {uid n k : Nat} (h : k ≠ n) :
    opdAddr s uid k + opdBytes s uid ≤ opdAddr s uid n ∨ opdAddr s uid n + opdBytes s uid ≤ opdAddr s uid k := by
  rw [← opdAddr_succ, ← opdAddr_succ]
  unfold opdAddr
  rcases Nat.lt_or_gt_of_ne h with hlt | hlt
  · exact .inl (Nat.add_le_add_left (Nat.mul_le_mul_right _ hlt) _)
  · exact .inr (Nat.add_le_add_left (Nat.mul_le_mul_right _ hlt) _)

theorem opdRead_of_invalid {s : State} {uid n : Nat} (h : n ∉ (getUni s uid).ar.valid) : opdRead s uid n = 0 := by
  rw [opdRead, if_neg (by simpa using h)]

theorem opdRead_of_valid {s : State} {uid n : Nat} (h : n ∈ (getUni s uid).ar.valid) :
    opdRead s uid n = leNat (Memory.readN s.opmem (opdAddr s uid n) (opdBytes s uid)) := by
  rw [opdRead, if_pos (by simpa using h)]

theorem opdWrite_opmem (s : State) (uid n v : Nat) :
    (opdWrite s uid n v).opmem = Memory.writeN s.opmem (opdAddr s uid n) (toLE (opdBytes s uid) v) := rfl

theorem opdWrite_valid (s : State) (uid n v : Nat) :
    (getUni (opdWrite s uid n v) uid).ar.valid = flagSet (getUni s uid).ar.valid n := by
  rw [opdWrite, getUni_setUni]

section Write
variable {s : State} (w : Memory.wf s.opmem = true)
include w

/-- A write of a slot leaves every other byte. -/
theorem read_opdWrite_other (uid n v : Nat) {p : Nat} (hp : p < opdAddr s uid n ∨ opdAddr s uid n + opdBytes s uid ≤ p) :
    Memory.read (opdWrite s uid n v).opmem p = Memory.read s.opmem p := by
  rw [opdWrite_opmem, Memory.read_writeN _ _ _ _ w, toLE_length, if_neg (by omega)]

/-- A written slot reads as the value modulo 2^L. -/
theorem opdRead_opdWrite_same (uid n v : Nat) : opdRead (opdWrite s uid n v) uid n = v % 2 ^ (8 * opdBytes s uid) := by
  have hlen := toLE_length (opdBytes s uid) v
  have hread : Memory.readN (opdWrite s uid n v).opmem (opdAddr s uid n) (opdBytes s uid) = toLE (opdBytes s uid) v := by
    have h := Memory.readN_eq_of_read (m := (opdWrite s uid n v).opmem) (a := opdAddr s uid n) (toLE (opdBytes s uid) v)
      fun i hi => by
        rw [opdWrite_opmem, Memory.read_writeN _ _ _ _ w, if_pos (by omega), Nat.add_sub_cancel_left]
    rwa [hlen] at h
  rw [opdRead_of_valid (by rw [opdWrite_valid, mem_flagSet]; exact .inl rfl)]
  change leNat (Memory.readN (opdWrite s uid n v).opmem (opdAddr s uid n) (opdBytes s uid)) = _
  rw [hread, leNat_toLE, two_pow_eight_mul]

theorem opdRead_opdWrite_ne (uid v : Nat) {n k : Nat} (h : k ≠ n) :
    opdRead (opdWrite s uid n v) uid k = opdRead s uid k := by
  have hv : k ∈ (getUni (opdWrite s uid n v) uid).ar.valid ↔ k ∈ (getUni s uid).ar.valid := by
    rw [opdWrite_valid, mem_flagSet]; tauto
  by_cases hk : k ∈ (getUni s uid).ar.valid
  · rw [opdRead_of_valid (hv.mpr hk), opdRead_of_valid hk]
    refine congrArg leNat (Memory.readN_congr _ fun x hl hu => read_opdWrite_other w uid n v ?_)
    change opdAddr s uid k ≤ x at hl
    change x < opdAddr s uid k + opdBytes s uid at hu
    have hd := opdAddr_disjoint (s := s) (uid := uid) h
    omega
  · rw [opdRead_of_invalid hk, opdRead_of_invalid (mt hv.mp hk)]

end Write

/-- The end of a command leaves the slots. -/
theorem opdRead_atEnd (s : State) (uid op st dt : Nat) (carry : Bool) (n : Nat) :
    opdRead (atEnd s uid op st dt carry) uid n = opdRead s uid n := by
  have h : (getUni (atEnd s uid op st dt carry) uid).ar.valid = (getUni s uid).ar.valid := by
    rw [atEnd, getUni_setUni]
  unfold opdRead
  rw [h]
  rfl

/-! ## AT_CMD_DONE (R222, R223) -/

theorem exec_atCmdDone {s : State} {u : BitVec 12} {env : BlockEnv} {c : AtCmd} (hup : engineUp s = true)
    (hc : (getUni s u.toNat).ar.cmd = some c) (hdue : c.due ≤ s.clk.meridian) (hneed : c.gather.need = 0)
    (hout : c.out = 0) : exec (.atCmdDone u env) s = .next (atFinish s u.toNat c env) := by
  change execAtCmdDone u env s = _
  simp [execAtCmdDone, hc, hup, hdue, hneed, hout]

theorem atFinish_lanes {s : State} {uid : Nat} {c : AtCmd} {env : BlockEnv} (hsent : c.sent = false)
    (hl : lanesOk s uid c = false) : atFinish s uid c env = atFail s uid c stRange 0x0A05 := by
  simp [atFinish, hsent, hl]

theorem atFinish_writeBack {s : State} {uid : Nat} {c : AtCmd} {env : BlockEnv} (hsent : c.sent = false)
    (hl : lanesOk s uid c = true) (hp : env.parity = false) (hf : atFault c = false) (ha : env.agree = true)
    (h3 : c.op ≠ 3) : atFinish s uid c env = atWriteBack s uid c := by
  simp [atFinish, hsent, hl, hp, hf, ha, h3]

theorem lanesOk_of_ne {c : AtCmd} (h : c.op ≠ 0x18) (s : State) (uid : Nat) : lanesOk s uid c = true := by
  simp [lanesOk, h]

/-- What a command other than LOAD and STORE computes of its slots. -/
def atResult (s : State) (uid : Nat) (c : AtCmd) : Nat × Nat × Bool :=
  atCompute c.op c.fl (8 * opdBytes s uid) c.q (opdRead s uid c.a) (opdRead s uid c.b) (opdRead s uid c.c)
    (opdRead s uid c.d) (opdRead s uid (c.d + 1)) (getUni s uid).ar.carry

/-- The difference of a CSUB does not fit its slot. -/
def atOver (s : State) (uid : Nat) (c : AtCmd) : Bool :=
  csubOver c.op c.fl (opdRead s uid c.a) (opdRead s uid c.b) (getUni s uid).ar.carry

/-- The state in which a command's results stand in its destinations. -/
def atStored (s : State) (uid : Nat) (c : AtCmd) : State :=
  if pairOp c.op c.fl then opdWrite (opdWrite s uid c.d (atResult s uid c).1) uid (c.d + 1) (atResult s uid c).2.1
  else opdWrite s uid c.d (atResult s uid c).1

section Store
variable {s : State} {uid : Nat} {c : AtCmd} (h2 : c.op ≠ 2) (h3 : c.op ≠ 3) (hov : atOver s uid c = false)

include h2 h3 hov in
theorem atWriteBack_eq :
    atWriteBack s uid c = atEnd (atStored s uid c) uid c.op 0 0 (atResult s uid c).2.2 := by
  unfold atOver at hov
  by_cases hp : pairOp c.op c.fl = true
  · simp only [atWriteBack, atEffect, destSlots, h2, h3, hp, if_true, if_false, atStored]
    rfl
  · simp only [atWriteBack, atEffect, destSlots, h2, h3, hp, if_false, hov, atStored]
    rfl

theorem onlyOperands_atStored (s : State) (uid : Nat) (c : AtCmd) : OnlyOperands s (atStored s uid c) := by
  unfold atStored
  split
  · exact OnlyOperands.store (t := opdWrite s uid c.d (atResult s uid c).1) rfl ..
  · rfl

variable (w : Memory.wf s.opmem = true)
include w

theorem opdRead_atStored :
    opdRead (atStored s uid c) uid c.d = (atResult s uid c).1 % 2 ^ (8 * opdBytes s uid) := by
  unfold atStored
  split
  · rw [opdRead_opdWrite_ne (opdWrite_wf w ..) _ _ (by omega), opdRead_opdWrite_same w]
  · rw [opdRead_opdWrite_same w]

theorem opdRead_succ_atStored (hp : pairOp c.op c.fl = true) :
    opdRead (atStored s uid c) uid (c.d + 1) = (atResult s uid c).2.1 % 2 ^ (8 * opdBytes s uid) := by
  rw [atStored, if_pos hp, opdRead_opdWrite_same (opdWrite_wf w ..)]
  rfl

/-- A command leaves every byte outside its destinations. -/
theorem read_atStored {p : Nat} (h : p < opdAddr s uid c.d ∨
    opdAddr s uid c.d + (if pairOp c.op c.fl then 2 else 1) * opdBytes s uid ≤ p) :
    Memory.read (atStored s uid c).opmem p = Memory.read s.opmem p := by
  unfold atStored
  split
  · next hp =>
    rw [if_pos hp] at h
    have hout : p < opdAddr s uid (c.d + 1) ∨ opdAddr s uid (c.d + 1) + opdBytes s uid ≤ p := by
      rw [opdAddr_succ]; omega
    exact (read_opdWrite_other (opdWrite_wf w ..) _ _ _ hout).trans (read_opdWrite_other w _ _ _ (by omega))
  · next hp =>
    rw [if_neg hp] at h
    exact read_opdWrite_other w _ _ _ (by omega)

end Store

/-! ## The arithmetic of R222 -/

section Arith
variable {fl : BitVec 3} {l q a b c d d1 : Nat} {carry : Bool}

/-- The borrow or carry into a command. -/
def carryIn (fl : BitVec 3) (carry : Bool) : Nat := if flCin fl then b2n carry else 0

theorem carryIn_le (fl : BitVec 3) (carry : Bool) : carryIn fl carry ≤ 1 := by
  unfold carryIn
  cases flCin fl <;> cases carry <;> decide

/-- The difference modulo 2^L, what is subtracted added back. -/
theorem sub_add_mod {m a b k : Nat} (hb : b < m) (hk : k ≤ 1) : ((a + 2 * m - b - k) % m + b + k) % m = a % m := by
  rw [Nat.add_assoc, Nat.mod_add_mod, show a + 2 * m - b - k + (b + k) = a + m * 2 by omega, Nat.add_mul_mod_self_left]

theorem atCompute_clear : atCompute 1 fl l q a b c d d1 carry = (0, 0, false) := rfl

theorem atCompute_add : atCompute 8 fl l q a b c d d1 carry =
    ((a + b + carryIn fl carry) % 2 ^ l, 0, decide (2 ^ l ≤ a + b + carryIn fl carry)) := rfl

theorem atCompute_sub : atCompute 9 fl l q a b c d d1 carry =
    ((a + 2 * 2 ^ l - b - carryIn fl carry) % 2 ^ l, 0, decide (a < b + carryIn fl carry)) := rfl

theorem atCompute_mul : atCompute 0x10 fl l q a b c d d1 carry = (a * b % 2 ^ l, a * b / 2 ^ l, false) := rfl

theorem atCompute_sqr : atCompute 0x12 fl l q a b c d d1 carry = (a * a % 2 ^ l, a * a / 2 ^ l, false) := rfl

theorem atCompute_mulacc_lo (h : flLo fl = true) :
    atCompute 0x11 fl l q a b c d d1 carry = ((d + a * b) % 2 ^ l, 0, false) := by
  unfold atCompute
  rw [h]
  rfl

theorem atCompute_mulacc_pair (h : flLo fl = false) : atCompute 0x11 fl l q a b c d d1 carry =
    ((d + 2 ^ l * d1 + a * b) % 2 ^ l, (d + 2 ^ l * d1 + a * b) / 2 ^ l % 2 ^ l,
      decide (2 ^ l * 2 ^ l ≤ d + 2 ^ l * d1 + a * b)) := by
  unfold atCompute
  rw [h]
  rfl

/-- A CSUB whose difference fits its slot. -/
theorem csub_value (ha : a < 2 ^ l) (hb : b < 2 ^ l) (hov : csubOver 0x0A fl a b carry = false) :
    (atCompute 0x0A fl l q a b c d d1 carry).1 % 2 ^ l =
      if b ≤ carryIn fl carry * 2 ^ l + a then carryIn fl carry * 2 ^ l + a - b else a := by
  change (if b ≤ carryIn fl carry * 2 ^ l + a then (carryIn fl carry * 2 ^ l + a - b) % 2 ^ l else a) % 2 ^ l = _
  have hk : carryIn fl carry = 0 ∨ carryIn fl carry = 1 ∧ a < b := by
    unfold csubOver at hov
    unfold carryIn
    cases hf : flCin fl <;> cases carry <;> simp_all [b2n]
  split
  · rw [Nat.mod_mod, Nat.mod_eq_of_lt]
    rcases hk with hk | ⟨hk, hlt⟩ <;> rw [hk] <;> omega
  · exact Nat.mod_eq_of_lt ha

theorem mul_div_lt {m a b : Nat} (ha : a < m) (hb : b < m) : a * b / m < m :=
  Nat.div_lt_of_lt_mul (Nat.mul_lt_mul'' ha hb)

end Arith

/-! ## Lanes (R225) -/

theorem flatMap_toLE_length (n : Nat) (f : Nat → Nat) : ((List.range n).flatMap fun i => toLE 4 (f i)).length = 4 * n := by
  simp [List.length_flatMap, toLE_length, Nat.mul_comm]

theorem ofLanes_succ (n : Nat) (f : Nat → Nat) : ofLanes (n + 1) f = ofLanes n f + 2 ^ (32 * n) * (f n % 2 ^ 32) := by
  have h : (256 : Nat) ^ (4 * n) = 2 ^ (32 * n) := by
    rw [← two_pow_eight_mul, ← Nat.mul_assoc]
  rw [ofLanes, List.range_succ, List.flatMap_append, leNat_append, flatMap_toLE_length, h, List.flatMap_singleton,
    leNat_toLE]
  rfl

theorem ofLanes_lt (n : Nat) (f : Nat → Nat) : ofLanes n f < 2 ^ (32 * n) := by
  have h := leNat_lt ((List.range n).flatMap fun i => toLE 4 (f i))
  rwa [flatMap_toLE_length, ← two_pow_eight_mul, ← Nat.mul_assoc] at h

/-- Lane i of a slot value built of lanes. -/
theorem lane_ofLanes {n i : Nat} (f : Nat → Nat) (h : i < n) : lane (ofLanes n f) i = f i % 2 ^ 32 := by
  have hpos := Nat.two_pow_pos (32 * i)
  unfold lane fld
  induction n with
  | zero => omega
  | succ n ih =>
    rw [ofLanes_succ]
    rcases Nat.lt_succ_iff_lt_or_eq.mp h with hlt | rfl
    · have hsplit : 2 ^ (32 * n) * (f n % 2 ^ 32) = 2 ^ (32 * i) * (2 ^ 32 * (2 ^ (32 * (n - 1 - i)) * (f n % 2 ^ 32))) := by
        rw [← Nat.mul_assoc, ← Nat.mul_assoc, ← Nat.pow_add, ← Nat.pow_add]
        congr 2
        omega
      rw [hsplit, Nat.add_mul_div_left _ _ hpos, Nat.add_mul_mod_self_left, ih hlt]
    · rw [Nat.add_mul_div_left _ _ hpos, Nat.div_eq_of_lt (ofLanes_lt i f), Nat.zero_add, Nat.mod_mod]

section Butterfly
variable {q a b w : Nat} (ha : a < q) (hb : b < q)

theorem butterfly_lt (gs : Bool) (hq : 0 < q) : (butterfly gs q a b w).1 < q ∧ (butterfly gs q a b w).2 < q := by
  cases gs <;> exact ⟨Nat.mod_lt _ hq, Nat.mod_lt _ hq⟩

theorem butterfly_ct_fst : (butterfly false q a b w).1 = (a + w * b) % q := Nat.add_mod_mod ..

theorem butterfly_gs_fst : (butterfly true q a b w).1 = (a + b) % q := rfl

/-- D + 1 of a lane, plus C·B, is A. -/
theorem butterfly_ct_snd (hq : 0 < q) : ((butterfly false q a b w).2 + w * b) % q = a % q := by
  have ht := Nat.mod_lt (w * b) hq
  have hwb := Nat.mod_add_div (w * b) q
  have hsum : a % q + (q - w * b % q) + w * b = a % q + q * (w * b / q + 1) := by rw [Nat.mul_succ]; omega
  change ((a % q + (q - w * b % q)) % q + w * b) % q = _
  rw [Nat.mod_add_mod, hsum, Nat.add_mul_mod_self_left, Nat.mod_mod]

include ha hb in
/-- D + 1 of a lane, plus B·C, is A·C. -/
theorem butterfly_gs_snd : ((butterfly true q a b w).2 + b * w) % q = a * w % q := by
  have hsum : (a + (q - b)) * w + b * w = a * w + q * w := by
    rw [← Nat.add_mul, Nat.add_assoc, Nat.sub_add_cancel hb.le, Nat.add_mul]
  change ((a % q + (q - b % q)) * w % q + b * w) % q = _
  rw [Nat.mod_eq_of_lt ha, Nat.mod_eq_of_lt hb, Nat.mod_add_mod, hsum, Nat.add_mul_mod_self_left]

end Butterfly

/-- The lane of D and of D + 1 that a BFLY computes. -/
def bflyLane (s : State) (uid : Nat) (c : AtCmd) (n : Nat) : Nat × Nat :=
  butterfly (flGs c.fl) c.q (lane (opdRead s uid c.a) n) (lane (opdRead s uid c.b) n) (lane (opdRead s uid c.c) n)

section Bfly
variable {s : State} {uid : Nat} {c : AtCmd} (h18 : c.op = 0x18)
include h18

theorem atResult_bfly : atResult s uid c =
    (ofLanes (8 * opdBytes s uid / 32) (fun n => (bflyLane s uid c n).1),
      ofLanes (8 * opdBytes s uid / 32) (fun n => (bflyLane s uid c n).2), false) := by
  rw [atResult, h18]
  rfl

theorem pairOp_bfly : pairOp c.op c.fl = true := by
  rw [h18]
  rfl

theorem atOver_bfly : atOver s uid c = false := by
  rw [atOver, h18]
  rfl

/-- Below q every lane of the sources passes step 6 of R223. -/
theorem lane_lt_of_lanesOk (hok : lanesOk s uid c = true) {x n : Nat} (hx : x ∈ [c.a, c.b, c.c])
    (hn : n < opdBytes s uid / 4) : lane (opdRead s uid x) n < c.q := by
  simp only [lanesOk, h18, bne_self_eq_false, Bool.false_or, List.all_eq_true, List.mem_range, decide_eq_true_eq] at hok
  exact hok x hx n hn

omit h18 in
/-- A lane of a slot value that was built of lanes below q, cut to the slot. -/
theorem lane_ofLanes_slot {f : Nat → Nat} {n q : Nat} (hf : f n < q) (hq : q < 2 ^ 31) (hn : n < opdBytes s uid / 4) :
    lane (ofLanes (8 * opdBytes s uid / 32) f % 2 ^ (8 * opdBytes s uid)) n = f n := by
  obtain ⟨l, hl⟩ := opdBytes_eq s uid
  have hlt := ofLanes_lt (8 * opdBytes s uid / 32) f
  rw [show 32 * (8 * opdBytes s uid / 32) = 8 * opdBytes s uid by omega] at hlt
  rw [Nat.mod_eq_of_lt hlt, lane_ofLanes f (by omega), Nat.mod_eq_of_lt (by omega)]

/-- The lanes that a BFLY leaves in its destinations. -/
theorem lane_atStored_bfly (w : Memory.wf s.opmem = true) (hq : 0 < c.q) (hq' : c.q < 2 ^ 31) {n : Nat}
    (hn : n < opdBytes s uid / 4) : lane (opdRead (atStored s uid c) uid c.d) n = (bflyLane s uid c n).1 ∧
      lane (opdRead (atStored s uid c) uid (c.d + 1)) n = (bflyLane s uid c n).2 := by
  obtain ⟨hfst, hsnd⟩ := butterfly_lt (a := lane (opdRead s uid c.a) n) (b := lane (opdRead s uid c.b) n)
    (w := lane (opdRead s uid c.c) n) (flGs c.fl) hq
  rw [opdRead_atStored w, opdRead_succ_atStored w (pairOp_bfly h18), atResult_bfly h18]
  exact ⟨lane_ofLanes_slot hfst hq' hn, lane_ofLanes_slot hsnd hq' hn⟩

end Bfly

/-! ## The two kinds of results -/

/-- Behind a command without a failure: OK, CARRY, the destinations, and every other byte as it was. -/
theorem atWriteBack_done {s : State} {uid : Nat} {c : AtCmd} (w : Memory.wf s.opmem = true) (h2 : c.op ≠ 2) (h3 : c.op ≠ 3)
    (hov : atOver s uid c = false) : let t := atWriteBack s uid c
    OnlyOperands s t ∧ (getUni t uid).ar.busy = false ∧ (getUni t uid).ar.cmd = none ∧ (getUni t uid).ar.status = 0 ∧
      (getUni t uid).ar.carry = (atResult s uid c).2.2 ∧
      opdRead t uid c.d = (atResult s uid c).1 % 2 ^ (8 * opdBytes s uid) ∧
      (pairOp c.op c.fl = true → opdRead t uid (c.d + 1) = (atResult s uid c).2.1 % 2 ^ (8 * opdBytes s uid)) ∧
      ∀ p, (p < opdAddr s uid c.d ∨
          opdAddr s uid c.d + (if pairOp c.op c.fl then 2 else 1) * opdBytes s uid ≤ p) →
        Memory.read t.opmem p = Memory.read s.opmem p := by
  rw [atWriteBack_eq h2 h3 hov]
  dsimp only
  rw [atEnd_opmem, opdRead_atEnd, opdRead_atEnd]
  simp only [atEnd, getUni_setUni, true_and]
  exact ⟨(onlyOperands_atStored s uid c).trans rfl, opdRead_atStored w, opdRead_succ_atStored w, fun p => read_atStored w⟩

theorem atFail_status (s : State) (uid : Nat) (c : AtCmd) (st dt : Nat) :
    (getUni (atFail s uid c st dt) uid).ar.status = st ∧ (getUni (atFail s uid c st dt) uid).ar.detail = dt ∧
      (getUni (atFail s uid c st dt) uid).ar.carry = false := by
  simp only [atFail, atEnd, getUni_setUni, and_self]

/-- A product without the flag of the low half writes a pair. -/
theorem pairOp_of_wide {op : Nat} {fl : BitVec 3} (h : op ∈ [0x10, 0x11, 0x12]) (hf : flLo fl = false) :
    pairOp op fl = true := by
  simp only [List.mem_cons, List.not_mem_nil, or_false] at h
  rcases h with rfl | rfl | rfl <;> simp [pairOp, hf]

theorem opdRead_atFail {s : State} {uid st dt n : Nat} {c : AtCmd} (hc : (getUni s uid).ar.cmd = some c)
    (hn : n ∈ destSlots c.op c.fl c.d) : opdRead (atFail s uid c st dt) uid n = 0 := by
  have h : abortCmd s uid st dt = atFail s uid c st dt := by simp only [abortCmd, hc]
  obtain ⟨-, hin, -⟩ := abortCmd_cmd (st := st) (dt := dt) hc
  exact opdRead_of_invalid (h ▸ hin n hn)

/-- Settles O36: the write-back of the exact results, the lanes of a BFLY, and the lane at or above q. -/
theorem atResultsRule : Obligations.AtResultsRule := by
  refine ⟨?_, ?_⟩
  · intro s u env c m a b d k hup w hc hdue hneed hout hsent hag hpar hf hm ha hb hd hk hop hov
    simp only [List.mem_cons, List.not_mem_nil, or_false] at hop
    have hover : atOver s u.toNat c = false := by
      by_cases h : c.op = 0x0A
      · rw [atOver, h, ← ha, ← hb]; exact hov h
      · simp [atOver, csubOver, h]
    obtain ⟨honly, hbusy, hcmd, hst, hcarry, hlo, hhi, hother⟩ :=
      atWriteBack_done (uid := u.toNat) (c := c) w (by omega) (by omega) hover
    have hx : exec (.atCmdDone u env) s = .next (atWriteBack s u.toNat c) := by
      rw [exec_atCmdDone hup hc hdue hneed hout,
        atFinish_writeBack hsent (lanesOk_of_ne (by omega) ..) hpar hf hag (by omega)]
    have ham : a < m := by rw [ha, hm]; exact opdRead_lt ..
    have hbm : b < m := by rw [hb, hm]; exact opdRead_lt ..
    rw [atResult, ← ha, ← hb] at hcarry hlo hhi
    rw [← hm] at hlo hhi
    refine ⟨_, hx, honly, hbusy, hcmd, hst, fun h => ?_, fun h => ?_, fun h => ?_, fun h => ?_, fun h => ?_, fun h => ?_,
      fun h => ?_, hother⟩ <;> rw [h] at hcarry hlo hhi
    · rw [hlo, atCompute_clear, Nat.zero_mod]
    · rw [hlo, hcarry, atCompute_add, ← hm, Nat.mod_mod, hk]
      exact ⟨rfl, rfl⟩
    · rw [hlo, hcarry, atCompute_sub, ← hm, Nat.mod_mod, hk]
      exact ⟨sub_add_mod hbm (carryIn_le ..), rfl⟩
    · rw [hm] at ham hbm
      rw [hlo, hcarry, hm, csub_value ham hbm (hov h), hk]
      exact ⟨rfl, rfl⟩
    · rw [atCompute_mul, ← hm] at hlo hhi
      refine ⟨hlo.trans (Nat.mod_mod ..), fun hf => ?_⟩
      rw [hhi (pairOp_of_wide (by simp) hf), Nat.mod_eq_of_lt (mul_div_lt ham hbm)]
    · rw [atCompute_sqr, ← hm] at hlo hhi
      refine ⟨hlo.trans (Nat.mod_mod ..), fun hf => ?_⟩
      rw [hhi (pairOp_of_wide (by simp) hf), Nat.mod_eq_of_lt (mul_div_lt ham ham)]
    · cases hf : flLo c.fl
      · rw [atCompute_mulacc_pair hf, ← hm, ← hd] at hcarry hlo hhi
        exact ⟨hlo.trans (Nat.mod_mod ..), fun _ =>
          ⟨(hhi (pairOp_of_wide (by simp) hf)).trans (Nat.mod_mod ..), hcarry⟩⟩
      · rw [hlo, atCompute_mulacc_lo hf, ← hm, Nat.mod_mod, hd]
        exact ⟨(Nat.add_right_comm .. ▸ Nat.add_mul_mod_self_left ..).symm, nofun⟩
  · intro s u env c hup w hc hdue hneed hout hsent hag hpar hf h18 hq hq'
    refine ⟨fun hok => ?_, fun hbad => ?_⟩
    · have hx : exec (.atCmdDone u env) s = .next (atWriteBack s u.toNat c) := by
        rw [exec_atCmdDone hup hc hdue hneed hout, atFinish_writeBack hsent hok hpar hf hag (by omega)]
      have hwb := atWriteBack_eq (by omega) (by omega) (atOver_bfly (s := s) (uid := u.toNat) h18)
      refine ⟨_, hx, by rw [hwb, atEnd, getUni_setUni], ?_⟩
      rintro n _ _ _ hn rfl rfl rfl
      obtain ⟨hd, hd1⟩ := lane_atStored_bfly h18 w (by omega) hq' hn
      have ha := lane_lt_of_lanesOk h18 hok (x := c.a) (by simp) hn
      have hb := lane_lt_of_lanesOk h18 hok (x := c.b) (by simp) hn
      rw [hwb, opdRead_atEnd, opdRead_atEnd, hd, hd1, bflyLane]
      refine ⟨fun hgs => ?_, fun hgs => ?_⟩
      · rw [hgs]; exact ⟨butterfly_ct_fst, butterfly_ct_snd (by omega)⟩
      · rw [hgs]; exact ⟨butterfly_gs_fst, butterfly_gs_snd ha hb⟩
    · have hx : exec (.atCmdDone u env) s = .next (atFail s u.toNat c stRange 0x0A05) := by
        rw [exec_atCmdDone hup hc hdue hneed hout, atFinish_lanes hsent hbad]
      have hdest : destSlots c.op c.fl c.d = [c.d, c.d + 1] := by
        rw [destSlots, if_neg (by omega), if_pos (pairOp_bfly h18)]
      obtain ⟨hst, hdt, hcarry⟩ := atFail_status s u.toNat c stRange 0x0A05
      exact ⟨_, hx, hst, hdt, opdRead_atFail hc (by simp [hdest]), opdRead_atFail hc (by simp [hdest]), hcarry⟩

end Sys2Proof.Machine

namespace Sys2Proof.Machine

/-!
# Logbook records and fuse operations

A Logbook request, also one that is always queued (R363), changes the Logbook and its notices. A fuse operation that goes on
(R327) changes the operations, the registers that show them and the DRBG; one pulse sets one bit of the array (R397).
-/

/-! ## A Logbook request (R363) -/

/-- From s to t at most the Logbook, the vectors, the notice lanes and the mark of an erase's record have changed. -/
def OnlyLogged (s t : State) : Prop :=
  t = { s with lb := t.lb, nv := t.nv, lane0 := t.lane0, lane1 := t.lane1, bn := { s.bn with erase := t.bn.erase } }

namespace OnlyLogged

theorem refl (s : State) : OnlyLogged s s := rfl

theorem trans {s t u : State} (h : OnlyLogged s t) (k : OnlyLogged t u) : OnlyLogged s u :=
  Eq.trans k (congrArg (fun x : State => { x with
    lb := u.lb, nv := u.nv, lane0 := u.lane0, lane1 := u.lane1, bn := { x.bn with erase := u.bn.erase } }) h)

theorem ch {s t : State} (h : OnlyLogged s t) : t.ch = s.ch := by rw [h]

theorem lc {s t : State} (h : OnlyLogged s t) : t.lc = s.lc := by rw [h]

end OnlyLogged

/-- A record of an access that leaves the ACCESS area is one. -/
theorem OnlyRecords.onlyLogged {s t : State} (h : OnlyRecords s t) (hac : t.ac = s.ac) : OnlyLogged s t := by
  have herase : t.bn.erase = s.bn.erase := by rw [h]
  exact Eq.trans h (by rw [hac, herase])

theorem onlyLogged_lbLatch (s : State) (i : Nat) : OnlyLogged s (lbLatch s i) :=
  (onlyRecords_lbLatch s i).onlyLogged (lbLatch_ac s i)

theorem onlyLogged_writeSlot (s : State) : OnlyLogged s (writeSlot s) := by
  unfold writeSlot
  split
  · exact .refl s
  · dsimp only
    split
    · split
      · exact OnlyLogged.trans (t := { s with lb := _ }) rfl (onlyLogged_lbLatch ..)
      · rfl
    · generalize hs1 : (if overrun s then lbLatch _ 0 else _) = s1
      have h1 : OnlyLogged s s1 := by
        rw [← hs1]
        split
        · exact OnlyLogged.trans (t := { s with lb := _ }) rfl (onlyLogged_lbLatch ..)
        · rfl
      split
      · split
        · exact h1.trans rfl
        · exact h1
      · exact h1

theorem onlyLogged_lbRoom (n : Nat) (s : State) : OnlyLogged s (lbRoom n s) := by
  induction n generalizing s with
  | zero => exact .refl s
  | succ n ih =>
    unfold lbRoom
    split
    · exact .refl s
    · exact (onlyLogged_writeSlot s).trans (ih _)

theorem onlyLogged_logReq (s : State) (type : Nat) (pin exempt : Bool) (data : Bytes) :
    OnlyLogged s (logReq s type pin exempt data) := by
  cases exempt with
  | false => exact (onlyRecords_logReq ..).onlyLogged (logReq_ac ..)
  | true => exact (onlyLogged_lbRoom 2 s).trans rfl

/-- An exempt record joins a queue that has room (R363). -/
theorem logReq_exempt_length {s : State} (h : s.lb.queue.length < 32) (type : Nat) (pin : Bool) (data : Bytes) :
    (logReq s type pin true data).lb.queue.length = s.lb.queue.length + 1 := by
  simp [logReq, lbAppend, lbRoom_of_lt h]

/-! ## Bits of the fuse array (R397) -/

theorem fuseBit_programBit (s : State) (b c : Nat) : fuseBit (programBit s b) c = (decide (c = b) || fuseBit s c) := by
  unfold fuseBit programBit fuseWord
  by_cases hw : c / 32 = b / 32
  · have hbit : b % 32 = c % 32 ↔ c = b := by omega
    have hc : c % 32 < 32 := Nat.mod_lt _ (by decide)
    rw [hw, Tbl.get_set_same, BitVec.getLsbD_or, BitVec.getLsbD_ofNat, Nat.testBit_two_pow, Bool.or_comm]
    simp [hc, hbit]
  · have hne : c ≠ b := fun h => hw (by rw [h])
    rw [Tbl.get_set_ne _ _ _ _ _ hw]
    simp [hne]

/-! ## What a fuse operation changes as it goes on (R327) -/

/-- From s to t at most the operations, the Chart registers, the Logbook with its notices, the free values and the instances of
the DRBG have changed. -/
def OnlyFuseOps (s t : State) : Prop :=
  t = { s with lc := t.lc, ch := t.ch, lb := t.lb, free := t.free, nv := t.nv, lane0 := t.lane0, lane1 := t.lane1,
               bn := { s.bn with erase := t.bn.erase }, kv := { s.kv with drbg := t.kv.drbg } }

namespace OnlyFuseOps

theorem refl (s : State) : OnlyFuseOps s s := rfl

theorem trans {s t u : State} (h : OnlyFuseOps s t) (k : OnlyFuseOps t u) : OnlyFuseOps s u :=
  Eq.trans k (congrArg (fun x : State => { x with
    lc := u.lc, ch := u.ch, lb := u.lb, free := u.free, nv := u.nv, lane0 := u.lane0, lane1 := u.lane1,
    bn := { x.bn with erase := u.bn.erase }, kv := { x.kv with drbg := u.kv.drbg } }) h)

theorem fuses {s t : State} (h : OnlyFuseOps s t) : t.fuses = s.fuses := by rw [h]

end OnlyFuseOps

theorem OnlyLogged.onlyFuseOps {s t : State} (h : OnlyLogged s t) : OnlyFuseOps s t := by
  unfold OnlyFuseOps
  have hlc := h.lc
  have hch := h.ch
  have hfree : t.free = s.free := by rw [h]
  have hdrbg : t.kv.drbg = s.kv.drbg := by rw [h]
  rw [hlc, hch, hfree, hdrbg]
  exact h

theorem onlyFuseOps_drbgDraw (s : State) (k n : Nat) : OnlyFuseOps s (drbgDraw s k n).1 := by
  unfold OnlyFuseOps
  rw [drbgDraw_state s k n]

theorem onlyFuseOps_lodeDraw {s : State} {x : State × Bytes} (h : lodeDraw s = some x) : OnlyFuseOps s x.1 := by
  unfold lodeDraw at h
  split at h
  · cases h; exact onlyFuseOps_drbgDraw ..
  · split at h
    · cases h
      exact OnlyFuseOps.trans (t := drbgSeed s 0) rfl (onlyFuseOps_drbgDraw ..)
    · cases h

theorem onlyFuseOps_trimSteps (s : State) (l : List FuseStep) : OnlyFuseOps s (trimSteps s l).1 := by
  induction l generalizing s with
  | nil => exact .refl s
  | cons x l ih =>
    cases x with
    | bits n b =>
      unfold trimSteps
      split
      · exact ih s
      · exact .refl s
    | erase n t =>
      unfold trimSteps
      split
      · exact ih s
      · exact .refl s
    | draw n k =>
      unfold trimSteps
      split
      · next hx =>
        split
        · exact (onlyFuseOps_lodeDraw hx).trans (ih _)
        · exact onlyFuseOps_lodeDraw hx
      · exact .refl s

theorem onlyFuseOps_fuseBegin (s : State) : OnlyFuseOps s (fuseBegin s) := by
  unfold fuseBegin
  split
  · exact .refl s
  · next o r _ => exact (onlyFuseOps_trimSteps s o.steps).trans rfl

theorem onlyFuseOps_fuseEnd (n : Nat) (s : State) : OnlyFuseOps s (fuseEnd n s) := by
  induction n generalizing s with
  | zero => exact .refl s
  | succ n ih =>
    have hnext (t : State) : OnlyFuseOps t (fuseEnd n (fuseBegin t)) := (onlyFuseOps_fuseBegin t).trans (ih _)
    unfold fuseEnd
    split
    · refine OnlyFuseOps.trans ?_ (hnext _)
      rfl
    · refine OnlyFuseOps.trans ?_ (hnext _)
      exact OnlyFuseOps.trans (t := { s with lc := _, ch := _ }) rfl (onlyLogged_logReq ..).onlyFuseOps
    · exact .refl s

end Sys2Proof.Machine

namespace Sys2Proof.Machine

/-!
# CH_LOAD, CH_ADVANCE and FUSE_BIT_PROGRAMMED

A granted write of CH_CMD that nothing ignores or delays is judged at once (R267, R272). LOAD begins with the pools of the
Chart in force in fallback and the reads of the image issued (R269); ADVANCE is a fuse operation, which goes on by pulses
(R327).
-/

/-! ## The write of CH_CMD (R267, R341, R380) -/

/-- A write of CH_CMD is granted, and nothing makes the interface ignore or hold its command. -/
structure ChTakes (s : State) (a : Access) : Prop where
  grant : granted s a true (mgmtAt a 0x10004) = true
  started : failedStart s = false
  calm : struck s = false
  free : s.ch.held = none
  ran : 5 ≤ s.pw.step
  go : nostart s = false

/-- OP and KEEP_VAULT of the written command are read back. -/
theorem wfld_chLoad (keep : Bool) :
    wfld (word (1 + 16 * b2n keep)) 0 4 = 1 ∧ wbit (word (1 + 16 * b2n keep)) 4 = keep := by
  cases keep <;> decide

section Takes
variable {s : State} {a : Access} (ht : ChTakes s a)
include ht

theorem chCmdW_judged {v : Word} (hop : wfld v 0 4 = 1 ∨ wfld v 0 4 = 2)
    (hb : s.ch.busy = true → s.ch.state = 1 ∨ s.lc.busy = true) : chCmdW s v = chJudge s v := by
  have hstep : ¬ s.pw.step < 5 := Nat.not_lt.mpr ht.ran
  have hidle : ¬ (s.ch.busy = true ∧ s.ch.state ≠ 1 ∧ s.lc.busy = false) := fun ⟨hbusy, h1, hlc⟩ =>
    (hb hbusy).elim h1 (by simp [hlc])
  have htaken : (failedStart s || struck s || s.ch.held.isSome || (wfld v 0 4 != 1 && wfld v 0 4 != 2)) = false := by
    rcases hop with h | h <;> simp [ht.started, ht.calm, ht.free, h]
  simp [chCmdW, htaken, hstep, ht.go, hidle]

theorem exec_chLoad (keep : Bool) (hb : s.ch.busy = true → s.ch.state = 1 ∨ s.lc.busy = true) :
    exec (.chLoad a keep) s = .next (acked (chLoad s keep) a) := by
  obtain ⟨hop, hkeep⟩ := wfld_chLoad keep
  change Host.Outcome.next (hostWrite ..) = _
  rw [hostWrite_granted _ _ _ _ ht.grant, chCmdW_judged ht (.inl hop) hb, chJudge, if_pos hop, hkeep]

theorem exec_chAdvance (hb : s.ch.busy = true → s.lc.busy = true) :
    exec (.chAdvance a) s = .next (acked (chAdvance s) a) := by
  change Host.Outcome.next (hostWrite ..) = _
  rw [hostWrite_granted _ _ _ _ ht.grant, chCmdW_judged ht (.inr (by decide)) fun h => .inr (hb h)]
  rfl

end Takes

/-! ## Pools written one after another -/

/-- Pools written one after another with values of one kind: each that was written is of the kind, and no other changes to be
outside it. -/
theorem foldl_setPool_forall {α : Type} {P : Pool → Prop} {p : α → Nat} {x : State → α → Pool}
    (hx : ∀ s a, P (x s a)) (l : List α) (s : State) :
    let t := l.foldl (fun s a => setPool s (p a) (x s a)) s
    t = { s with pools := t.pools } ∧ (∀ n, P (getPool s n) → P (getPool t n)) ∧
      ∀ a ∈ l, P (getPool t (p a)) := by
  induction l generalizing s with
  | nil => exact ⟨rfl, fun _ h => h, fun _ h => absurd h List.not_mem_nil⟩
  | cons a l ih =>
    obtain ⟨hstate, hkept, hset⟩ := ih (setPool s (p a) (x s a))
    have hhead : P (getPool (setPool s (p a) (x s a)) (p a)) := by rw [getPool_setPool]; exact hx s a
    refine ⟨hstate, fun n hn => hkept n ?_, fun b hb => ?_⟩
    · by_cases hna : n = p a
      · rw [hna]; exact hhead
      · rwa [getPool_setPool_ne _ _ _ _ hna]
    · rcases List.mem_cons.mp hb with rfl | hb
      · exact hkept _ hhead
      · exact hset b hb

/-! ## LOAD begins (R269, R270) -/

/-- A pool that a load has brought into fallback, or whose cause it has taken over (log 50). -/
def fallenPool (s : State) (p : Nat) : Pool :=
  { zeroedNow s (getPool s p) with fallback := true, cause := 4, scrub := false }

/-- An entry with CAUSE CHART latches and logs nothing (R96). -/
theorem enterFallback_chart (s : State) (p : Nat) : enterFallback s p 4 = setPool s p (fallenPool s p) := by
  simp [enterFallback, fallenPool]

/-- Every pool of the Chart in force is in fallback. -/
def chartPoolsFallen (s : State) : State := (s.chart.pools.map (·.pool)).foldl (fun s p => enterFallback s p 4) s

theorem chartPoolsFallen_spec (s : State) : chartPoolsFallen s = { s with pools := (chartPoolsFallen s).pools } ∧
    ∀ p ∈ s.chart.pools, (getPool (chartPoolsFallen s) p.pool).fallback = true := by
  have hfold : chartPoolsFallen s =
      (s.chart.pools.map (·.pool)).foldl (fun s p => setPool s p (fallenPool s p)) s := by
    simp only [chartPoolsFallen, enterFallback_chart]
  obtain ⟨hstate, -, hset⟩ := foldl_setPool_forall (P := fun x => x.fallback = true) (p := id) (x := fallenPool)
    (fun _ _ => rfl) (s.chart.pools.map (·.pool)) s
  rw [hfold]
  exact ⟨hstate, fun p hp => hset p.pool (List.mem_map_of_mem hp)⟩

/-- The state in which READ issues its reads. -/
def chartLoading (s : State) (keep : Bool) : State :=
  let t := chartPoolsFallen s
  { t with
    ch := { t.ch with state := 1, phase := 1, busy := true, keep := keep, loadLen := t.ch.len }
    kv := { t.kv with attValid := false, dAtt := none }
    units := t.units.mapVal (fun _ u => { u with vault := false })
    pools := t.pools.mapVal (fun _ x => { x with reshare := false })
    pw := { t.pw with step := 5, ready := false } }

theorem chartBegin_eq (s : State) (keep : Bool) : chartBegin s keep =
    let x := startRead (chartLoading s keep) 0 0 (chartLoading s keep).ch.src (chartLoading s keep).ch.len .chart []
    { x.1 with ch := { x.1.ch with gather := x.2 } } := rfl

theorem getPool_chartLoading (s : State) (keep : Bool) (p : Nat) :
    getPool (chartLoading s keep) p = { getPool (chartPoolsFallen s) p with reshare := false } :=
  Tbl.get_mapVal (f := fun _ x => { x with reshare := false }) (chartPoolsFallen s).pools rfl

theorem chartLoading_state (s : State) (keep : Bool) : chartLoading s keep = { s with
    ch := { s.ch with state := 1, phase := 1, busy := true, keep := keep, loadLen := s.ch.len }
    kv := { s.kv with attValid := false, dAtt := none }
    units := s.units.mapVal (fun _ u => { u with vault := false })
    pools := (chartLoading s keep).pools
    pw := { s.pw with step := 5, ready := false } } :=
  congrArg (fun t : State => { t with
    ch := { t.ch with state := 1, phase := 1, busy := true, keep := keep, loadLen := t.ch.len }
    kv := { t.kv with attValid := false, dAtt := none }
    units := t.units.mapVal (fun _ u => { u with vault := false })
    pools := (chartLoading s keep).pools
    pw := { t.pw with step := 5, ready := false } }) (chartPoolsFallen_spec s).1

/-- What READ leaves as it begins (R269, R270, R379). -/
theorem chartBegin_spec (s : State) (keep : Bool) :
    let t := chartBegin s keep
    t.ch = { s.ch with state := 1, phase := 1, busy := true, keep := keep, loadLen := s.ch.len, gather := t.ch.gather } ∧
    t.chart = s.chart ∧ t.kv = { s.kv with attValid := false, dAtt := none } ∧
    t.pw = { s.pw with step := 5, ready := false } ∧ t.fuses = s.fuses ∧ t.pools = (chartLoading s keep).pools := by
  rw [chartBegin_eq]
  have hio : OnlyIO (chartLoading s keep) (startRead (chartLoading s keep) 0 0 (chartLoading s keep).ch.src
      (chartLoading s keep).ch.len .chart []).1 := onlyIO_issueAll ..
  generalize startRead .. = x at hio ⊢
  dsimp only
  rw [hio, chartLoading_state]
  exact ⟨rfl, rfl, rfl, rfl, rfl, rfl⟩

theorem chartBegin_gather {s : State} (hj : ∀ p, (judgeOut s 0 false p).ok = true) (keep : Bool) :
    (chartBegin s keep).ch.gather = ⟨(pieces s.ch.src s.ch.len).length, [], none⟩ := by
  have hst := chartLoading_state s keep
  have hjudge (p : Nat) : judgeOut (chartLoading s keep) 0 false p = judgeOut s 0 false p := by rw [hst]; rfl
  have hsrc : (chartLoading s keep).ch.src = s.ch.src := by rw [hst]
  have hlen : (chartLoading s keep).ch.len = s.ch.len := by rw [hst]
  rw [chartBegin_eq]
  obtain ⟨P, hP⟩ := startRead_granted (port := 0) (addr := s.ch.src) (len := s.ch.len) (who := .chart) (pools := [])
    fun p => (congrArg Verdict.ok (hjudge p)).trans (hj p)
  rw [hsrc, hlen, hP]

theorem chLoad_begins {s : State} (keep : Bool) (hlc : s.lc.busy = false) (h1 : s.ch.state ≠ 1) (h6 : s.lc.state ≠ 6)
    (hf : s.lc.state ≠ 0x0F) (hsrc : s.ch.src % 64 = 0) (hlen : s.ch.len ≠ 0)
    (hq : s.ch.state = 2 → busyDevice s = false ∧ anyCtx s = false) : chLoad s keep = chartBegin s keep := by
  have hquiet : (s.ch.state == 2 && (busyDevice s || anyCtx s)) = false := by
    by_cases h2 : s.ch.state = 2
    · simp [hq h2]
    · simp [h2]
  simp [chLoad, hlc, h1, h6, hf, hsrc, hlen, hquiet]

/-! ## The fuse operation of an ADVANCE (R272, R327) -/

theorem fuseBit_of_mem_thermoBits {s : State} {w old new b : Nat} (h : b ∈ thermoBits s w old new) :
    fuseBit s b = false := by
  have hzero := List.of_mem_filter (List.mem_of_mem_take h)
  simpa using hzero

theorem fuseStart_first {s : State} (hops : s.lc.ops = []) (what : FuseWhat) (steps : List FuseStep) :
    fuseStart s what steps = fuseEnd 1 (fuseBegin { s with lc := { s.lc with
      ops := [⟨what, steps, 0, false, s.clk.meridian, (s.clk.meridian, s.bn.btime)⟩] } }) := by
  simp [fuseStart, hops]

theorem trimSteps_zeroBits {s : State} {n : Nat} {l : List Nat} (hz : ∀ b ∈ l, fuseBit s b = false) (hne : l ≠ []) :
    trimSteps s [.bits n l] = (s, [.bits n l]) := by
  have hall : l.filter (fun b => !fuseBit s b) = l := List.filter_eq_self.mpr fun b hb => by simp [hz b hb]
  obtain ⟨b, r, rfl⟩ := List.exists_cons_of_ne_nil hne
  simp only [trimSteps, hall]

theorem fuseBegin_idle {s : State} (h : s.lc.ops = []) : fuseBegin s = s := by
  simp only [fuseBegin, h]

section Advance
variable {s : State} {oldC newC oldF newF : Nat} (hops : s.lc.ops = [])
include hops

/-- The first bit begins at once. -/
theorem fuseStart_advance {l : List Nat} (hz : ∀ b ∈ l, fuseBit s b = false) (hne : l ≠ []) (hgo : fuseGo s = true) :
    fuseStart s (.advance oldC newC oldF newF) [.bits 1 l] = { s with lc := { s.lc with
      ops := [⟨.advance oldC newC oldF newF, [.bits 1 l], 0, true, s.clk.meridian, (s.clk.meridian, s.bn.btime)⟩] } } := by
  rw [fuseStart_first hops]
  generalize ho : ({ s with lc := _ } : State) = t
  have hbits : trimSteps t [.bits 1 l] = (t, [.bits 1 l]) := trimSteps_zeroBits (by rw [← ho]; exact hz) hne
  have hgo' : fuseGo t = true := by rw [← ho]; exact hgo
  have htops : t.lc.ops = [⟨.advance oldC newC oldF newF, [.bits 1 l], 0, false, s.clk.meridian,
    (s.clk.meridian, s.bn.btime)⟩] := by rw [← ho]
  simp only [fuseBegin, htops, hbits, hasBit, hgo', showsStep]
  rw [← ho]
  rfl

/-- Without a bit to program the operation ends at once, with its record. -/
theorem fuseStart_advance_none : fuseStart s (.advance oldC newC oldF newF) [.bits 1 []] =
    logReq { s with ch := { s.ch with busy := false, result := 0 } } 0xF true true
      (toLE 1 oldC ++ toLE 1 newC ++ toLE 1 oldF ++ toLE 1 newF) := by
  have hidle : ({ s.lc with ops := [] } : Lc) = s.lc := by rw [← hops]
  rw [fuseStart_first hops]
  simp only [fuseBegin, trimSteps, List.filter_nil, showsStep, fuseEnd, Bool.false_eq_true, if_false, hidle]
  refine fuseBegin_idle ?_
  rw [(onlyLogged_logReq ..).lc]
  exact hops

end Advance

/-! ## ADVANCE (R272, R328) -/

/-- The zero bits that an ADVANCE programs: those of the Chart's minimum, then those of the firmware's. -/
def advanceBits (s : State) : List Nat :=
  thermoBits s 66 (chartMinSvn s) (max (chartMinSvn s) s.ch.svn) ++
    thermoBits s 64 (fwMinSvn s) (max (fwMinSvn s) s.ch.fwSvn)

theorem fuseBit_of_mem_advanceBits {s : State} {b : Nat} (h : b ∈ advanceBits s) : fuseBit s b = false :=
  (List.mem_append.mp h).elim fuseBit_of_mem_thermoBits fuseBit_of_mem_thermoBits

section Accepted
variable {s : State} (hlc : s.lc.busy = false) (h2 : s.ch.state = 2) (hst : s.lc.state = 3 ∨ s.lc.state = 4)
  (hops : s.lc.ops = [])
include hlc h2 hst

theorem chAdvance_starts : chAdvance s = fuseStart { s with ch := { s.ch with busy := true } }
    (.advance (chartMinSvn s) (max (chartMinSvn s) s.ch.svn) (fwMinSvn s) (max (fwMinSvn s) s.ch.fwSvn))
    [.bits 1 (advanceBits s)] := by
  have hok : ¬ (s.lc.state ≠ 3 ∧ s.lc.state ≠ 4) := by omega
  simp [chAdvance, hlc, h2, hok, advanceBits]

include hops

theorem chAdvance_programs (hne : advanceBits s ≠ []) (hgo : fuseGo s = true) : chAdvance s = { s with
    ch := { s.ch with busy := true }
    lc := { s.lc with ops := [⟨.advance (chartMinSvn s) (max (chartMinSvn s) s.ch.svn) (fwMinSvn s)
        (max (fwMinSvn s) s.ch.fwSvn),
      [.bits 1 (advanceBits s)], 0, true, s.clk.meridian, (s.clk.meridian, s.bn.btime)⟩] } } :=
  (chAdvance_starts hlc h2 hst).trans
    (fuseStart_advance (s := { s with ch := { s.ch with busy := true } }) hops (fun _ => fuseBit_of_mem_advanceBits) hne hgo)

theorem chAdvance_ends (hnone : advanceBits s = []) (hidle : s.ch.busy = false) :
    chAdvance s = logReq { s with ch := { s.ch with result := 0 } } 0xF true true
      (toLE 1 (chartMinSvn s) ++ toLE 1 (max (chartMinSvn s) s.ch.svn) ++ toLE 1 (fwMinSvn s) ++
        toLE 1 (max (fwMinSvn s) s.ch.fwSvn)) := by
  have hch : ({ s.ch with busy := false, result := 0 } : Ch) = { s.ch with result := 0 } := by rw [← hidle]
  rw [chAdvance_starts hlc h2 hst, hnone, ← hch]
  exact fuseStart_advance_none (s := { s with ch := { s.ch with busy := true } }) hops

end Accepted

/-! ## The end of a pulse (R327, R397) -/

section Pulse
variable {s : State} {w : FuseWhat} {n b d at_ : Nat} {l : List Nat} {r : List FuseStep} {rest : List FuseOp}
  {p : Nat × Nat}
  (hops : s.lc.ops = ⟨w, .bits n (b :: l) :: r, d, true, at_, p⟩ :: rest)
include hops

theorem fusePulse_early (h1 : s.clk.meridian < p.1 + 36000) (h2 : s.bn.btime < p.2 + 384) : fusePulse s = s := by
  have hdue : pulseDone s p = false := by simp [pulseDone, h1, h2]
  simp [fusePulse, hops, hdue]

theorem fusePulse_ends (h : p.1 + 36000 ≤ s.clk.meridian ∨ p.2 + 384 ≤ s.bn.btime) :
    OnlyFuseOps (programBit s b) (fusePulse s) := by
  have hdue : pulseDone s p = true := by simpa [pulseDone] using h
  simp only [fusePulse, hops, hdue, if_true]
  refine OnlyFuseOps.trans ?_ ((onlyFuseOps_fuseBegin _).trans (onlyFuseOps_fuseEnd _ _))
  rfl

end Pulse

theorem exec_fuseBitProgrammed {s : State} (h : active s = true) : exec .fuseBitProgrammed s = .next (fusePulse s) :=
  congrArg Host.Outcome.next (if_pos h)

/-- Settles O40: LOAD and ADVANCE by the first condition that applies, and a pulse by what it leaves of the fuses. -/
theorem chartRule : Obligations.ChartRule := by
  refine ⟨?load, ?advance, ?pulse⟩
  case load =>
    intro s a keep hg hfail hcalm hfree hran hgo hb
    rw [exec_chLoad ⟨hg, hfail, hcalm, hfree, hran, hgo⟩ keep hb]
    refine ⟨fun hlc => ?_, fun hlc h1 => ?_, fun hlc h1 hst => ?_, fun hlc h1 h6 hf hbad => ?_,
      fun h1 h6 hf hsrc hlen hlc h2 hbusy => ?_, fun h1 h6 hf hsrc hlen hlc hq => ?_⟩
    · rw [chLoad, if_pos hlc]; rfl
    · simp [chLoad, hlc, h1, chResult]
    · simp [chLoad, hlc, h1, hst, chResult]
    · simp [chLoad, hlc, h1, h6, hf, hbad, chResult]
    · simp [chLoad, hlc, h6, hf, hsrc, hlen, h2, hbusy, chResult]
    · obtain ⟨hch, hchart, hkv, hpw, hfuses, hpools⟩ := chartBegin_spec s keep
      rw [chLoad_begins keep hlc h1 h6 hf hsrc hlen hq]
      refine ⟨_, rfl, ?_, ?_, ?_, ?_, ?_, hchart, ?_, ?_, ?_, hfuses, fun p hp => ?_, fun hj => chartBegin_gather hj keep⟩
      iterate 5 rw [hch]
      · rw [hkv]
      · rw [hpw]
      · rw [hpw]
      · have hget : getPool (chartBegin s keep) p.pool = getPool (chartLoading s keep) p.pool := by
          rw [getPool, hpools, getPool]
        rw [hget, getPool_chartLoading]
        exact (chartPoolsFallen_spec s).2 p hp
  case advance =>
    rintro s a oldC newC oldF newF bits hg hfail hcalm hfree hran hgo hb rfl rfl rfl rfl rfl
    rw [exec_chAdvance ⟨hg, hfail, hcalm, hfree, hran, hgo⟩ hb]
    refine ⟨fun hlc h2 => ?_, fun h => ?_, fun h2 hlc hst hops hfuse hne => ?_, fun h2 hlc hst hops hnone => ?_⟩
    · simp [chAdvance, hlc, h2, chResult]
    · rcases h with hlc | ⟨h2, h3, h4⟩
      · rw [chAdvance, if_pos hlc]; rfl
      · simp [chAdvance, h2, h3, h4, chResult]
    · rw [chAdvance_programs hlc h2 hst hops hne hfuse]
      rfl
    · have hidle : s.ch.busy = false := Bool.eq_false_iff.mpr fun h => by simp [hb h] at hlc
      rw [chAdvance_ends hlc h2 hst hops hnone hidle]
      exact ⟨_, rfl, onlyLogged_logReq .., fun hroom =>
        logReq_exempt_length (s := { s with ch := { s.ch with result := 0 } }) hroom ..⟩
  case pulse =>
    intro s w n b d at_ l r rest p hact hops
    rw [exec_fuseBitProgrammed hact]
    refine ⟨fun h1 h2 => by rw [fusePulse_early hops h1 h2], fun h => ?_⟩
    have hpulse := fusePulse_ends hops h
    have hbit (c : Nat) : fuseBit (fusePulse s) c = fuseBit (programBit s b) c := by
      rw [fuseBit, fuseWord, hpulse.fuses]; rfl
    refine ⟨_, rfl, Eq.trans hpulse ?_, ?_, fun c hc => ?_⟩
    · rw [← hpulse.fuses]; rfl
    · rw [hbit, fuseBit_programBit]; simp
    · rw [hbit, fuseBit_programBit]; simp [hc]

end Sys2Proof.Machine

namespace Sys2Proof.Machine

/-!
# CHART_LOAD_END

A rejected load empties the Chart and its memories, and an accepted one is installed whole (R268 to R271). The erase of
orphans that an install begins with works on jobs, queues and the vault; the Chart registers, the fuses and the
transaction stay.
-/

/-! ## An erase works on jobs, queues and the vault (R195) -/

/-- From s to t at most the rings, the chains with the queues of their pools, the contexts, the vault, the units with their
counters, operand memory, the Helms and the ports have changed. -/
def OnlyWork (s t : State) : Prop :=
  t = { s with rings := t.rings, chains := t.chains, pools := t.pools, sc := t.sc, kv := t.kv, units := t.units,
               cnts := t.cnts, opmem := t.opmem, helms := t.helms, ports := t.ports }

namespace OnlyWork

theorem refl (s : State) : OnlyWork s s := rfl

theorem trans {s t u : State} (h : OnlyWork s t) (k : OnlyWork t u) : OnlyWork s u :=
  Eq.trans k (congrArg (fun x : State => { x with
    rings := u.rings, chains := u.chains, pools := u.pools, sc := u.sc, kv := u.kv, units := u.units, cnts := u.cnts,
    opmem := u.opmem, helms := u.helms, ports := u.ports }) h)

theorem ite {s a b : State} {c : Prop} [Decidable c] (ha : OnlyWork s a) (hb : OnlyWork s b) :
    OnlyWork s (if c then a else b) := by
  split
  · exact ha
  · exact hb

theorem foldl {α : Type} {f : State → α → State} (hf : ∀ s a, OnlyWork s (f s a)) (l : List α) (s : State) :
    OnlyWork s (l.foldl f s) := by
  induction l generalizing s with
  | nil => exact refl s
  | cons a l ih => exact (hf s a).trans (ih _)

section Ops
variable (s : State) (u : Nat)

theorem setUni (x : Uni) : OnlyWork s (setUni s u x) := rfl

theorem scrubUnit : OnlyWork s (scrubUnit s u) := rfl

theorem release : OnlyWork s (release s u) := by
  unfold Machine.release
  exact OnlyWork.trans (ite (setUni ..) ((setUni ..).trans (scrubUnit ..))) rfl

theorem setHalf (b : Bytes) : OnlyWork s (setHalf s u b) := by
  unfold Machine.setHalf
  split <;> rfl

theorem countHelm (e : DescEnd) (ran : Bool) : OnlyWork s (countHelm s u e ran) := by
  unfold Machine.countHelm
  split <;> rfl

theorem countKv (status : Nat) : OnlyWork s (countKv s status) := ite rfl (ite rfl rfl)

theorem addResult (c : Chain) (r : DescRes) : OnlyWork s (addResult s c r) := by
  have hfree (x : State) (g : Seg) : OnlyWork x (freeSeg x c g) := rfl
  exact ite rfl (OnlyWork.trans (t := setChain s _) rfl (foldl hfree ..))

theorem dropDesc (j : Job) : OnlyWork s (dropDesc s j) := rfl

theorem countEnd (cls func : Nat) (e : DescEnd) (ran : Bool) : OnlyWork s (countEnd s u cls func e ran) :=
  (setUni s u (lastEnd (getUni s u) cls func e)).trans rfl

/-- The counters and the Helm at the end of a descriptor. -/
theorem descCounted (j : Job) (cls func : Nat) (e : DescEnd) (ran : Bool) : OnlyWork s
    (Machine.countHelm (Machine.countKv (Machine.countEnd (Machine.dropDesc s j) u cls func e ran) e.status) u e ran) :=
  (dropDesc s j).trans ((countEnd ..).trans ((countKv ..).trans (countHelm ..)))

theorem abortService : OnlyWork s (abortService s u) := by
  have hslots : OnlyWork s (abortSlots s u) := by
    unfold abortSlots
    refine OnlyWork.trans ?_ (setHalf ..)
    rfl
  exact hslots.trans (setUni ..)

theorem abortUnit : OnlyWork s (abortUnit s u) := ite (abortService s u) (release s u)

theorem abortRecord (status detail : Nat) : OnlyWork s (abortRecord s u status detail) := by
  unfold Machine.abortRecord
  dsimp only
  split
  · exact refl s
  · split
    · exact abortUnit s u
    · exact (descCounted ..).trans ((addResult ..).trans (abortUnit ..))

theorem endDesc (e : DescEnd) : OnlyWork s (endDesc s u e) := by
  unfold Machine.endDesc
  dsimp only
  split
  · exact refl s
  next j _ =>
  split
  · exact release s u
  next c _ =>
  generalize hs1 : Machine.setHalf _ u [] = s1
  have h1 : OnlyWork s s1 := hs1 ▸ (descCounted s u j _ c.func e _).trans (setHalf ..)
  generalize hs2 : Machine.addResult _ c _ = s2
  have h2 : OnlyWork s s2 := by
    rw [← hs2]
    refine OnlyWork.trans ?_ (addResult ..)
    split
    · exact ite h1 (h1.trans rfl)
    · exact h1
  split
  · exact (ite (h2.trans (scrubUnit ..)) h2).trans (setUni ..)
  · refine OnlyWork.trans (ite ?_ h2) (release ..)
    split
    · exact h2.trans rfl
    · exact h2

theorem reachUnit (p : Nat → Bool) : OnlyWork s (reachUnit s p u) := by
  unfold Machine.reachUnit
  generalize hs1 : (if holdsSlot p (getUni s u).key then Machine.scrubUnit s u else s) = s1
  have h1 : OnlyWork s s1 := hs1 ▸ ite (scrubUnit s u) (refl s)
  dsimp only
  split
  · exact h1
  · refine h1.trans ?_
    refine ite (setUni ..) (ite (ite ((setUni ..).trans (abortRecord ..)) (setUni ..)) ?_)
    exact ite ((setUni ..).trans (endDesc ..)) (ite ((setUni ..).trans (setUni ..)) (setUni ..))

end Ops

theorem eraseSlots (s : State) (l : List Nat) : OnlyWork s (eraseSlots s l) :=
  OnlyWork.trans (t := slotsErased s l.contains) rfl (foldl (fun s u => reachUnit s u l.contains) ..)

end OnlyWork

/-! ## A rejected load (R269) -/

theorem onlyLogged_chartLog (s : State) (result svn fw : Nat) : OnlyLogged s (chartLog s result svn fw) :=
  onlyLogged_logReq ..

/-- A rejected load as its record is asked for: the record shows the CHART_ID and the digest of what was read (R362). -/
def chartRefused (s : State) (b : Bytes) (phase : Nat) (f : CheckFail) : State :=
  { s with
    ch := { s.ch with
      state := 0, phase := phase, reason := f.code, busy := false, result := 5, rejects := sat32 s.ch.rejects
      gather := .none, failLoc := word (f.type + 256 * f.idx), failInfo := word f.info, image := [], helmCode := []
      helmZero := true, id := word (leAt b 0x14 4), digest := chartDigest b }
    chart := .empty
    tx := { s.tx with high := 0 } }

/-- The registers that show a Chart are cleared. -/
def Ch.cleared (c : Ch) : Ch :=
  { c with id := 0, digest := zeros 48, svn := 0, flags := 0, fwValid := false, fwSvn := 0, fwBuild := 0, fwHash := zeros 48 }

theorem chartReject_eq (s : State) (b : Bytes) (phase : Nat) (f : CheckFail) : chartReject s b phase f =
    let t := chartLog (chartRefused s b phase f) 5 (leAt b 0x10 2) (leAt (section_ b 7) 4 2)
    { t with ch := t.ch.cleared } := rfl

theorem chartReject_ch (s : State) (b : Bytes) (phase : Nat) (f : CheckFail) :
    (chartReject s b phase f).ch = (chartRefused s b phase f).ch.cleared := by
  rw [chartReject_eq]
  exact congrArg Ch.cleared (onlyLogged_chartLog ..).ch

theorem chartReject_state (s : State) (b : Bytes) (phase : Nat) (f : CheckFail) :
    let t := chartReject s b phase f
    t = { s with
      ch := t.ch, chart := .empty, lb := t.lb, nv := t.nv, lane0 := t.lane0, lane1 := t.lane1
      tx := { s.tx with high := 0 }, bn := { s.bn with erase := t.bn.erase } } := by
  rw [chartReject_eq]
  have hlog := onlyLogged_chartLog (chartRefused s b phase f) 5 (leAt b 0x10 2) (leAt (section_ b 7) 4 2)
  generalize chartLog .. = t at hlog
  dsimp only
  exact congrArg (fun x : State => { x with ch := t.ch.cleared }) hlog

/-! ## A load that passes carries a Helm section (R259, R268) -/

theorem helmOff_of_loadFailure_none {s : State} {b : Bytes} (h : loadFailure s b = none) :
    helmOff (section_ b 7) = none := by
  cases ho : helmOff (section_ b 7) with
  | none => rfl
  | some o =>
    simp only [loadFailure, ho] at h
    repeat' split at h
    all_goals exact absurd h (Option.some_ne_none _)

theorem holds_of_firstOff_none {l : List (Nat × Bool)} (h : firstOff l = none) {e : Nat × Bool} (he : e ∈ l) :
    e.2 = true := by
  have hnone := List.find?_eq_none.mp (Option.map_eq_none_iff.mp h) e he
  simpa using hnone

/-- The section begins with its mark, so the bytes read reach it. -/
theorem dirOff_lt_length {b : Bytes} (h : helmOff (section_ b 7) = none) : dirOff b 7 < b.length := by
  have hmark : (section_ b 7).take 4 = ascii "KW7H" :=
    eq_of_beq (holds_of_firstOff_none h List.mem_cons_self)
  by_contra hshort
  have hzero : ∀ x ∈ section_ b 7, x = 0 := by
    intro x hx
    rw [section_, slice, List.drop_eq_nil_of_le (Nat.le_of_not_lt hshort), List.take_nil, List.nil_append] at hx
    exact List.eq_of_mem_replicate hx
  have hx : (0x4B : Byte) ∈ (section_ b 7).take 4 := by rw [hmark]; decide
  exact absurd (hzero _ (List.mem_of_mem_take hx)) (by decide)

theorem take_patchBytes (image x y : Bytes) : (patchBytes image 0 (x ++ y)).take x.length = x := by
  simp [patchBytes]

/-! ## INSTALL (R270) -/

/-- A pool in fallback without an entry. -/
def EmptyInFallback (x : Pool) : Prop := x.fallback = true ∧ x.queue = [] ∧ x.level = 0

theorem layPools_state (s : State) (c : Chart) : layPools s c = { s with pools := (layPools s c).pools } ∧
    ∀ p ∈ c.pools, EmptyInFallback (getPool (layPools s c) p.pool) := by
  obtain ⟨hstate, -, hset⟩ := foldl_setPool_forall (P := EmptyInFallback) (p := fun p : PoolRec => p.pool)
    (x := fun s p => freshPool s.clk.meridian (getPool s p.pool) p.share) (fun _ _ => ⟨rfl, rfl, rfl⟩) c.pools
    { s with pools := s.pools.mapVal (fun _ x => { freshPool 0 x 0 with fallback := false, cause := 0 }) }
  exact ⟨hstate, hset⟩

/-- The slots that an install erases: the orphans of the new configuration, each with its extensions (R270). -/
def chartLost (s : State) (c : Chart) : List Nat := ((orphans s c).flatMap (fun e => eraseSet s e.1)).eraseDups

/-- The state whose pools an install lays out. -/
def chartPlaced (s : State) (c : Chart) : State :=
  let t := eraseSlots s (chartLost s c)
  { t with
    chart := c
    units := t.units.mapVal (fun _ u => freshUnit u)
    opmem := []
    helms := t.helms.mapVal (fun _ x => if x.st = 3 then { x with st := 0, trap := 0 } else x)
    sc := { t.sc with std := [], cmp := [] }
    tx := { t.tx with epoch := t.tx.epoch + 1 } }

/-- The Chart registers and memories after an install. -/
def Ch.installed (c : Ch) (b : Bytes) (lost : Nat) : Ch :=
  { c with
    state := 2, phase := 0, reason := 0, busy := false, result := 0, loads := sat32 c.loads, orphans := lost
    gather := .none, image := patchBytes c.image 0 (b.take (dirOff b 7) ++ trailer b)
    helmCode := patchBytes c.helmCode 0 (helmCodeOf b), digest := chartDigest b
    id := word (leAt b 0x14 4), svn := leAt b 0x10 2, flags := word (leAt b 0xC 4), fwSvn := leAt (section_ b 7) 4 2
    fwBuild := leAt (section_ b 7) 6 2, fwValid := true, fwHash := sha384 (helmCodeOf b) }

theorem chartInstall_eq (s : State) (b : Bytes) : chartInstall s b =
    let t := layPools (chartPlaced s (parseChart b)) (parseChart b)
    let c := t.ch.installed b (chartLost s (parseChart b)).length
    chartLog { t with ch := c, pw := { t.pw with step := 6 } } 0 c.svn c.fwSvn := rfl

theorem chartPlaced_keeps (s : State) (c : Chart) : (chartPlaced s c).ch = s.ch ∧ (chartPlaced s c).pw = s.pw ∧
    (chartPlaced s c).tx = { s.tx with epoch := s.tx.epoch + 1 } ∧ (chartPlaced s c).fuses = s.fuses := by
  have hwork := OnlyWork.eraseSlots s (chartLost s c)
  unfold chartPlaced
  generalize eraseSlots .. = t at hwork
  rw [hwork]
  exact ⟨rfl, rfl, rfl, rfl⟩

/-- What an install leaves (R270). -/
theorem chartInstall_spec (s : State) (b : Bytes) :
    let t := chartInstall s b
    t.chart = parseChart b ∧ t.ch = s.ch.installed b (chartLost s (parseChart b)).length ∧
    t.pw = { s.pw with step := 6 } ∧ t.tx = { s.tx with epoch := s.tx.epoch + 1 } ∧
    t.opmem = [] ∧ t.sc.std = [] ∧ t.sc.cmp = [] ∧ t.fuses = s.fuses ∧
    ∀ p ∈ (parseChart b).pools, EmptyInFallback (getPool t p.pool) := by
  obtain ⟨hch, hpw, htx, hfuses⟩ := chartPlaced_keeps s (parseChart b)
  obtain ⟨hlaid, hpools⟩ := layPools_state (chartPlaced s (parseChart b)) (parseChart b)
  rw [chartInstall_eq]
  generalize layPools (chartPlaced s (parseChart b)) (parseChart b) = t at hlaid hpools
  have htch : t.ch = s.ch := by rw [hlaid]; exact hch
  have htpw : t.pw = s.pw := by rw [hlaid]; exact hpw
  have httx : t.tx = { s.tx with epoch := s.tx.epoch + 1 } := by rw [hlaid]; exact htx
  have htfuses : t.fuses = s.fuses := by rw [hlaid]; exact hfuses
  have htplaced : t.chart = parseChart b ∧ t.opmem = [] ∧ t.sc.std = [] ∧ t.sc.cmp = [] := by
    rw [hlaid]; exact ⟨rfl, rfl, rfl, rfl⟩
  obtain ⟨hchart, hopmem, hstd, hcmp⟩ := htplaced
  dsimp only
  rw [htch, htpw]
  generalize hlogged : chartLog .. = u
  have hu := hlogged ▸ onlyLogged_chartLog ..
  rw [hu]
  exact ⟨hchart, rfl, rfl, httx, hopmem, hstd, hcmp, htfuses, hpools⟩

/-! ## CHART_LOAD_END (R268 to R271) -/

section LoadEnd
variable {s : State} (hup : engineUp s = true) (h1 : s.ch.state = 1) (hneed : s.ch.gather.need = 0)
include hup h1 hneed

theorem exec_chartLoadEnd : exec .chartLoadEnd s = .next (chartEnd s) :=
  congrArg Host.Outcome.next (if_pos (by simp [hup, h1, hneed]))

theorem exec_chartLoadEnd_unread {o : Nat} (h : s.ch.gather.err = some o) :
    exec .chartLoadEnd s = .next (chartReject s (padTo 0x240 []) 1 ⟨0x01, 0, 0, o⟩) := by
  simp only [exec_chartLoadEnd hup h1 hneed, chartEnd, h]

theorem exec_chartLoadEnd_rejected {phase : Nat} {f : CheckFail} (h : s.ch.gather.err = none)
    (hf : loadFailure s s.ch.gather.bytes = some (phase, f)) :
    exec .chartLoadEnd s = .next (chartReject s s.ch.gather.bytes phase f) := by
  simp only [exec_chartLoadEnd hup h1 hneed, chartEnd, h, hf]

theorem exec_chartLoadEnd_installed (h : s.ch.gather.err = none) (hf : loadFailure s s.ch.gather.bytes = none) :
    exec .chartLoadEnd s = .next (chartInstall s s.ch.gather.bytes) := by
  simp only [exec_chartLoadEnd hup h1 hneed, chartEnd, h, hf]

end LoadEnd

/-- Settles O41: a read that failed and a check that failed reject the load alike; what passes every check is installed. -/
theorem chartLoadEnds : Obligations.ChartLoadEnds := by
  rintro s b hup h1 hneed rfl
  refine ⟨fun o herr => ?unread, fun phase f herr hf => ?rejected, fun herr hf => ?installed⟩
  case unread =>
    refine ⟨_, exec_chartLoadEnd_unread hup h1 hneed herr, ?_⟩
    rw [chartReject_ch, chartReject_state]
    exact ⟨rfl, rfl, rfl, rfl, rfl, rfl⟩
  case rejected =>
    refine ⟨_, exec_chartLoadEnd_rejected hup h1 hneed herr hf, chartReject_state .., ?_⟩
    rw [chartReject_ch]
    exact ⟨rfl, rfl, rfl, rfl, rfl, rfl, rfl, rfl, rfl, rfl, rfl, rfl⟩
  case installed =>
    obtain ⟨hchart, hch, hpw, htx, hopmem, hstd, hcmp, hfuses, hpools⟩ := chartInstall_spec s s.ch.gather.bytes
    have hreach := dirOff_lt_length (helmOff_of_loadFailure_none hf)
    refine ⟨_, exec_chartLoadEnd_installed hup h1 hneed herr hf, hchart, ?_⟩
    rw [hch, hpw, htx, hfuses, hchart]
    refine ⟨rfl, rfl, rfl, rfl, rfl, rfl, ?_, ?_, rfl, rfl, rfl, rfl, hopmem, hstd, hcmp, rfl, hpools⟩
    · have htake := take_patchBytes s.ch.helmCode (helmCodeOf s.ch.gather.bytes) []
      rwa [List.append_nil] at htake
    · have htake := take_patchBytes s.ch.image (s.ch.gather.bytes.take (dirOff s.ch.gather.bytes 7))
        (trailer s.ch.gather.bytes)
      rwa [List.length_take_of_le hreach.le] at htake

end Sys2Proof.Machine

namespace Sys2Proof.Machine

/-!
# Which functions leave what lasts as it is

The fuses, the life-cycle state, the alarm actions with the state that their floors follow, and the slots and positions of the
Logbook are written by few functions: the fuse pulse and the fuse-read step (R327, R333), the write of an action (R346), the
Logbook writer (R360), and the resets (R378). Every other function leaves them, and one lemma per function says so, in the
order of the model: by unfolding it and by the lemmas of the functions it calls.
-/

/-- The part of the state that three invariants of every step speak of (R324, R327, R346, R360). -/
structure Lasting where
  fuses : Tbl Word
  lc : Nat
  act : List Nat
  known : Option Nat
  slots : Tbl Bytes
  next : Nat
  pinned : Nat

/-- That part of a state. -/
def lasting (s : State) : Lasting :=
  ⟨s.fuses, s.lc.state, s.bn.act, s.bn.lcKnown, s.lb.slots, s.lb.next, s.lb.pinned⟩

/-- The next two equations are not ones by definition to `simp`, so that a hypothesis about `lasting s` stays of use. -/
@[simp] theorem Lasting.mk_eq (s : State) :
    Lasting.mk s.fuses s.lc.state s.bn.act s.bn.lcKnown s.lb.slots s.lb.next s.lb.pinned = lasting s := (rfl)

@[simp] theorem lasting_mk (clk pw bn lb sd fuses lc ac ch chart tx rings cqs nv chains pools ad iq sc kv units cnts opmem
    helms hl fns dlFilter py ports lane0 lane1 flrPend fdn tpq fpPerr tp0 tp1 dbg dbgIn ready cap hold scanMode free nextId
    pending) :
    lasting ⟨clk, pw, bn, lb, sd, fuses, lc, ac, ch, chart, tx, rings, cqs, nv, chains, pools, ad, iq, sc, kv, units, cnts,
      opmem, helms, hl, fns, dlFilter, py, ports, lane0, lane1, flrPend, fdn, tpq, fpPerr, tp0, tp1, dbg, dbgIn, ready, cap,
      hold, scanMode, free, nextId, pending⟩ = ⟨fuses, lc.state, bn.act, bn.lcKnown, lb.slots, lb.next, lb.pinned⟩ := (rfl)

/-! ## Named updates -/

@[simp] theorem setRing_lasting (s : State) (g : Nat) (r : Ring) : lasting (setRing s g r) = lasting s := rfl
@[simp] theorem setCq_lasting (s : State) (q : Nat) (c : Cq) : lasting (setCq s q c) = lasting s := rfl
@[simp] theorem setNv_lasting (s : State) (f k : Nat) (n : Nv) : lasting (setNv s f k n) = lasting s := rfl
@[simp] theorem setPool_lasting (s : State) (p : Nat) (x : Pool) : lasting (setPool s p x) = lasting s := rfl
@[simp] theorem setUni_lasting (s : State) (u : Nat) (x : Uni) : lasting (setUni s u x) = lasting s := rfl
@[simp] theorem setHelm_lasting (s : State) (h : Nat) (x : Helm) : lasting (setHelm s h x) = lasting s := rfl
@[simp] theorem count_lasting (s : State) (u : Nat) (f : Counts → Counts) : lasting (count s u f) = lasting s := rfl
@[simp] theorem setFn_lasting (s : State) (f : Nat) (x : Fn) : lasting (setFn s f x) = lasting s := rfl
@[simp] theorem setChain_lasting (s : State) (c : Chain) : lasting (setChain s c) = lasting s := rfl
@[simp] theorem setPort_lasting (s : State) (n : Nat) (p : Port) : lasting (setPort s n p) = lasting s := rfl
@[simp] theorem setSlot_lasting (s : State) (i : Nat) (x : Slot) : lasting (setSlot s i x) = lasting s := rfl
@[simp] theorem tickFree_lasting (s : State) (n : Nat) : lasting (tickFree s n) = lasting s := rfl

/-! ## Outcomes, branches and folds -/

/-- A command that completes: there is a next state, and it holds what lasts as s does. -/
def Lasts (s : State) (o : Host.Outcome State Fault Refusal) : Prop := ∃ t, o = .next t ∧ lasting t = lasting s

@[simp] theorem lasts_next (s t : State) : Lasts s (.next t) ↔ lasting t = lasting s := by
  simp [Lasts]

@[simp] theorem ite_lasting (c : Prop) [Decidable c] (a b : State) :
    lasting (if c then a else b) = if c then lasting a else lasting b := apply_ite ..

/-- What lasts in the state that a match on a pair names. -/
theorem fst_lasting {α : Type} {x : State × α} {t : State} {r : α} (h : x = (t, r)) : lasting t = lasting x.1 := by
  rw [h]

@[simp] theorem foldl_lasting {α : Type} (f : State → α → State) (l : List α) (s : State)
    (h : ∀ t x, lasting (f t x) = lasting t) : lasting (l.foldl f s) = lasting s := by
  induction l generalizing s with
  | nil => rfl
  | cons x l ih => simp [ih, h]

/-- The effect that a choice yields keeps what lasts if the effects of both branches do. -/
theorem ite_effect_lasting {c : Prop} [Decidable c] {a b : Option (State → State)}
    (ha : ∀ f ∈ a, ∀ t, lasting (f t) = lasting t) (hb : ∀ f ∈ b, ∀ t, lasting (f t) = lasting t) :
    ∀ f ∈ (if c then a else b), ∀ t, lasting (f t) = lasting t := by
  split <;> assumption

@[simp] theorem foldl_setPool_lasting {α : Type} (p : State → α → Nat) (x : State → α → Pool) (l : List α) (s : State) :
    lasting (l.foldl (fun t a => setPool t (p t a) (x t a)) s) = lasting s :=
  foldl_lasting _ _ _ fun _ _ => rfl

@[simp] theorem foldl_setUni_lasting {α : Type} (u : State → α → Nat) (x : State → α → Uni) (l : List α) (s : State) :
    lasting (l.foldl (fun t a => setUni t (u t a) (x t a)) s) = lasting s :=
  foldl_lasting _ _ _ fun _ _ => rfl

@[simp] theorem foldl_setSlot_lasting {α : Type} (i : State → α → Nat) (x : State → α → Slot) (l : List α) (s : State) :
    lasting (l.foldl (fun t a => setSlot t (i t a) (x t a)) s) = lasting s :=
  foldl_lasting _ _ _ fun _ _ => rfl

@[simp] theorem foldl_count_lasting {α : Type} (u : State → α → Nat) (f : State → α → Counts → Counts) (l : List α)
    (s : State) : lasting (l.foldl (fun t a => count t (u t a) (f t a)) s) = lasting s :=
  foldl_lasting _ _ _ fun _ _ => rfl

/-! ## Machine/Ops.lean -/

@[simp] theorem setLane_lasting (s odd l) : lasting (setLane s odd l) = lasting s := by simp [setLane]

@[simp] theorem flushLane_lasting (s odd) : lasting (flushLane s odd) = lasting s := by
  simp only [flushLane]; (repeat' split) <;> simp

@[simp] theorem emitNotice_lasting (s f k) : lasting (emitNotice s f k) = lasting s := by simp [emitNotice]

@[simp] theorem sendNotice_lasting (s f k) : lasting (sendNotice s f k) = lasting s := by simp [sendNotice]

@[simp] theorem pfNotice_lasting (s cfg) : lasting (pfNotice s cfg) = lasting s := by simp [pfNotice]

@[simp] theorem flushLanes_lasting (s) : lasting (flushLanes s) = lasting s := by simp [flushLanes]

@[simp] theorem lbLatch_lasting (s i) : lasting (lbLatch s i) = lasting s := by simp [lbLatch]

/-- A limited request finds the queue below 24 entries, or is lost (R363, R364): the writer writes nothing for it. -/
@[simp] theorem logReq_lasting (s type pin data) : lasting (logReq s type pin false data) = lasting s := by
  simp only [logReq, Bool.false_eq_true, if_false]
  split
  · simp
  · split
    · simp
    · next hq =>
      simp only [lbAppend]
      rw [lbRoom_of_lt (by simp only; omega)]
      simp

@[simp] theorem sounding_lasting (s i f) : lasting (sounding s i f) = lasting s := by simp [sounding]

@[simp] theorem depthSounding_lasting (s g) : lasting (depthSounding s g) = lasting s := by simp [depthSounding]

@[simp] theorem bnLatch_lasting (s i) : lasting (bnLatch s i) = lasting s := by simp [bnLatch]

@[simp] theorem acLatch_lasting (s i) : lasting (acLatch s i) = lasting s := by simp [acLatch]

@[simp] theorem outViolation_lasting (s addr info rule) :
    lasting (outViolation s addr info rule) = lasting s := by simp [outViolation]

@[simp] theorem sendTxn_lasting (s n t v) : lasting (sendTxn s n t v) = lasting s := by simp [sendTxn]

@[simp] theorem refuseTxn_lasting (s n t v) : lasting (refuseTxn s n t v) = lasting s := by simp [refuseTxn]

@[simp] theorem setDl_lasting (s f d) : lasting (setDl s f d) = lasting s := by simp [setDl]

theorem dlPage_lasting {s f n page who pools t} (h : dlPage s f n page who pools = some t) :
    lasting t = lasting s := by
  simp only [dlPage] at h
  (repeat' split at h) <;> simp at h <;> simp [← h]

theorem dlBefore_lasting {s n x t} (h : dlBefore s n x = some t) : lasting t = lasting s := by
  unfold dlBefore at h
  split at h
  · exact dlPage_lasting h
  · cases h; rfl

@[simp] theorem comesToIssue_lasting (s n t) : lasting (comesToIssue s n t).1 = lasting s := by
  unfold comesToIssue
  split
  · rfl
  · split
    · rfl
    next u hu =>
      have h := dlBefore_lasting hu
      simp only
      (repeat' split) <;> simp [h]

@[simp] theorem issueTxn_lasting (s n t) : lasting (issueTxn s n t).1 = lasting s := by
  have h : lasting (if (getPort s n).sendQ.isEmpty then comesToIssue s n t else (s, .waits t)).1 = lasting s := by
    split <;> simp
  simp only [issueTxn]
  split
  · next hx => exact (fst_lasting hx).trans h
  · exact h

@[simp] theorem issueOne_lasting (s port func write addr len off data who pools) :
    lasting (issueOne s port func write addr len off data who pools).1 = lasting s := by simp [issueOne]

@[simp] theorem issueAll_lasting (s port func write data who pools l) :
    lasting (issueAll s port func write data who pools l).1 = lasting s := by
  induction l generalizing s with
  | nil => rfl
  | cons p r ih =>
    unfold issueAll
    split <;> (next hx => simp [ih, fst_lasting hx])

@[simp] theorem startRead_lasting (s port func addr len who pools) :
    lasting (startRead s port func addr len who pools).1 = lasting s := by simp [startRead]

@[simp] theorem dropQueued_lasting (s p) : lasting (dropQueued s p) = lasting s := by simp [dropQueued]

@[simp] theorem forget_lasting (s p) : lasting (forget s p) = lasting s := by simp [forget]

@[simp] theorem voidSupply_lasting (s) : lasting (voidSupply s) = lasting s := by simp [voidSupply]

@[simp] theorem voidFabric_lasting (s hit) : lasting (voidFabric s hit) = lasting s := by simp [voidFabric]

@[simp] theorem voidUnit_lasting (s hit) : lasting (voidUnit s hit) = lasting s := by simp [voidUnit]

@[simp] theorem respond_lasting (s a r) : lasting (respond s a r) = lasting s := by simp [respond]

/-! ## Machine/Operands.lean -/

@[simp] theorem lockedAccess_lasting (s addr master func debug) :
    lasting (lockedAccess s addr master func debug) = lasting s := by simp [lockedAccess]

@[simp] theorem inViolation_lasting (s r rule) : lasting (inViolation s r rule) = lasting s := by simp [inViolation]

@[simp] theorem judge_lasting (s r) : lasting (judge s r).1 = lasting s := by
  simp only [judge]; (repeat' split) <;> simp

@[simp] theorem access_lasting (s a write off) : lasting (access s a write off).1 = lasting s := by
  unfold access; (repeat' split) <;> simp

@[simp] theorem hostWrite_lasting (s a off) (eff : State → State) (h : ∀ t, lasting (eff t) = lasting t) :
    lasting (hostWrite s a off eff) = lasting s := by
  unfold hostWrite
  split
  · rfl
  · split
    · next hx => simp [fst_lasting hx]
    · next hx => split <;> simp [h, fst_lasting hx]

@[simp] theorem loRead_lasting (s key v) : lasting (loRead s key v).1 = lasting s := by simp [loRead]

@[simp] theorem hiRead_lasting (s key v) : lasting (hiRead s key v).1 = lasting s := by
  unfold hiRead; split <;> simp

@[simp] theorem loWrite_lasting (s key v) : lasting (loWrite s key v) = lasting s := by simp [loWrite]

@[simp] theorem hiWrite_lasting (s key v) (f : State → Nat → State) (h : ∀ t n, lasting (f t n) = lasting t) :
    lasting (hiWrite s key v f) = lasting s := h ..

/-! ## Machine/DirtyLog.lean -/

@[simp] theorem dlSweep_lasting (s f) : lasting (dlSweep s f) = lasting s := by simp [dlSweep]

@[simp] theorem dlCfgW_lasting (s f v) : lasting (dlCfgW s f v) = lasting s := by simp [dlCfgW]

@[simp] theorem dlConsumedW_lasting (s f v) : lasting (dlConsumedW s f v) = lasting s := by simp [dlConsumedW]

@[simp] theorem dlCmdW_lasting (s f v) : lasting (dlCmdW s f v) = lasting s := by simp [dlCmdW]

@[simp] theorem dlStatusW_lasting (s f v) : lasting (dlStatusW s f v) = lasting s := by simp [dlStatusW]

@[simp] theorem execDlEnable_lasts (a f v s) : Lasts s (execDlEnable a f v s) := by simp [execDlEnable]

@[simp] theorem execDlDisable_lasts (a f v s) : Lasts s (execDlDisable a f v s) := by simp [execDlDisable]

@[simp] theorem execDlConsumedWrite_lasts (a f v s) :
    Lasts s (execDlConsumedWrite a f v s) := by simp [execDlConsumedWrite]

@[simp] theorem execDlRound_lasts (a f v s) : Lasts s (execDlRound a f v s) := by simp [execDlRound]

@[simp] theorem execDlSweepDone_lasts (f s) : Lasts s (execDlSweepDone f s) := by
  simp only [execDlSweepDone]; (repeat' split) <;> simp

@[simp] theorem execDlAllDirtyClear_lasts (a f v s) :
    Lasts s (execDlAllDirtyClear a f v s) := by simp [execDlAllDirtyClear]

/-! ## Machine/Ledger.lean -/

@[simp] theorem voidFewer_lasting (s) : lasting (voidFewer s) = lasting s := by simp [voidFewer]

@[simp] theorem settleBucket_lasting (s g) : lasting (settleBucket s g) = lasting s := by simp [settleBucket]

@[simp] theorem famineSample_lasting (s p) : lasting (famineSample s p) = lasting s := by simp [famineSample]

@[simp] theorem famineClock_lasting (s g) : lasting (famineClock s g) = lasting s := by simp [famineClock]

@[simp] theorem lateChain_lasting (s c finish) : lasting (lateChain s c finish) = lasting s := by simp [lateChain]

/-! ## Machine/Slots.lean -/

@[simp] theorem opdWrite_lasting (s uid n v) : lasting (opdWrite s uid n v) = lasting s := by simp [opdWrite]

@[simp] theorem opdClear_lasting (s uid n) : lasting (opdClear s uid n) = lasting s := by simp [opdClear]

@[simp] theorem zeroTiles_lasting (s uid) : lasting (zeroTiles s uid) = lasting s := by simp [zeroTiles]

@[simp] theorem atEnd_lasting (s uid op status detail carry) :
    lasting (atEnd s uid op status detail carry) = lasting s := by simp [atEnd]

@[simp] theorem forgetCmd_lasting (s uid) : lasting (forgetCmd s uid) = lasting s := by simp [forgetCmd]

@[simp] theorem atFail_lasting (s uid c status detail) :
    lasting (atFail s uid c status detail) = lasting s := by simp [atFail]

@[simp] theorem abortCmd_lasting (s uid status detail) : lasting (abortCmd s uid status detail) = lasting s := by
  unfold abortCmd; split <;> simp

/-! ## Machine/JobEnd.lean -/

@[simp] theorem ctxPut_lasting (s r c) : lasting (ctxPut s r c) = lasting s := by simp [ctxPut]

@[simp] theorem countScrub_lasting (s uid) : lasting (countScrub s uid) = lasting s := by simp [countScrub]

@[simp] theorem countMismatch_lasting (s uid) : lasting (countMismatch s uid) = lasting s := by simp [countMismatch]

@[simp] theorem scrubUnit_lasting (s uid) : lasting (scrubUnit s uid) = lasting s := by simp [scrubUnit]

@[simp] theorem wakeRings_lasting (s p) : lasting (wakeRings s p) = lasting s := by simp [wakeRings]

@[simp] theorem release_lasting (s uid) : lasting (release s uid) = lasting s := by simp [release]

@[simp] theorem dropKept_lasting (s) : lasting (dropKept s) = lasting s := by simp [dropKept]

@[simp] theorem freeEntries_lasting (s p cid f) : lasting (freeEntries s p cid f) = lasting s := by simp [freeEntries]

@[simp] theorem iqMessage_lasting (s rose) : lasting (iqMessage s rose) = lasting s := by simp [iqMessage]

@[simp] theorem iqSample_lasting (s p) : lasting (iqSample s p) = lasting s := by simp [iqSample]

@[simp] theorem freeSeg_lasting (s c g) : lasting (freeSeg s c g) = lasting s := by simp [freeSeg]

@[simp] theorem addResult_lasting (s c r) : lasting (addResult s c r) = lasting s := by simp [addResult]

@[simp] theorem commandErr_lasting (s uid op status detail) :
    lasting (commandErr s uid op status detail) = lasting s := by simp [commandErr]

@[simp] theorem countEnd_lasting (s uid cls func e ran) :
    lasting (countEnd s uid cls func e ran) = lasting s := by simp [countEnd]

@[simp] theorem countKv_lasting (s status) : lasting (countKv s status) = lasting s := by simp [countKv]

@[simp] theorem countHelm_lasting (s uid e ran) : lasting (countHelm s uid e ran) = lasting s := by
  unfold countHelm; split <;> simp

@[simp] theorem setHalf_lasting (s uid b) : lasting (setHalf s uid b) = lasting s := by
  unfold setHalf; split <;> simp

@[simp] theorem dropDesc_lasting (s j) : lasting (dropDesc s j) = lasting s := by simp [dropDesc]

@[simp] theorem writeBack_lasting (s u r c) : lasting (writeBack s u r c) = lasting s := by simp [writeBack]

@[simp] theorem endDesc_lasting (s uid e) : lasting (endDesc s uid e) = lasting s := by
  simp only [endDesc]; (repeat' split) <;> simp

@[simp] theorem abortSlots_lasting (s uid) : lasting (abortSlots s uid) = lasting s := by simp [abortSlots]

@[simp] theorem abortService_lasting (s uid) : lasting (abortService s uid) = lasting s := by simp [abortService]

@[simp] theorem abortUnit_lasting (s uid) : lasting (abortUnit s uid) = lasting s := by simp [abortUnit]

@[simp] theorem stopNoRecord_lasting (s uid) : lasting (stopNoRecord s uid) = lasting s := by
  simp only [stopNoRecord]; (repeat' split) <;> simp

@[simp] theorem abortRecord_lasting (s uid status detail) : lasting (abortRecord s uid status detail) = lasting s := by
  simp only [abortRecord]; (repeat' split) <;> simp

/-! ## Machine/Erase.lean -/

@[simp] theorem reachUnit_lasting (s p uid) : lasting (reachUnit s p uid) = lasting s := by
  simp only [reachUnit]; (repeat' split) <;> simp

@[simp] theorem eraseWhere_lasting (s p) : lasting (eraseWhere s p) = lasting s := by simp [eraseWhere]

@[simp] theorem eraseSlots_lasting (s l) : lasting (eraseSlots s l) = lasting s := by simp [eraseSlots]

@[simp] theorem scrubOwner_lasting (s f) : lasting (scrubOwner s f) = lasting s := by simp [scrubOwner]

@[simp] theorem eraseFn_lasting (s f) : lasting (eraseFn s f) = lasting s := by simp [eraseFn]

@[simp] theorem eraseVault_lasting (s) : lasting (eraseVault s) = lasting s := by simp [eraseVault]

@[simp] theorem eraseCtx_lasting (s) : lasting (eraseCtx s) = lasting s := by simp [eraseCtx]

@[simp] theorem zeroize_lasting (s) : lasting (zeroize s) = lasting s := by simp [zeroize]

@[simp] theorem stopUnit_lasting (s uid) : lasting (stopUnit s uid) = lasting s := by
  simp only [stopUnit]; (repeat' split) <;> simp

@[simp] theorem dropJobs_lasting (s) : lasting (dropJobs s) = lasting s := by simp [dropJobs]

@[simp] theorem alarmCmd_lasting (s uid) : lasting (alarmCmd s uid) = lasting s := by simp [alarmCmd]

@[simp] theorem alarmStop_lasting (s) : lasting (alarmStop s) = lasting s := by simp [alarmStop]

/-! ## Machine/KeySlots.lean -/

@[simp] theorem putSlot_lasting (s i attr key pubh) : lasting (putSlot s i attr key pubh) = lasting s := by
  unfold putSlot; split <;> simp

@[simp] theorem slotParity_lasting (s i) : lasting (slotParity s i) = lasting s := by simp [slotParity]

@[simp] theorem vaultAccess_lasting (s k bad) : lasting (vaultAccess s k bad).1 = lasting s := by
  simp only [vaultAccess]; (repeat' split) <;> simp

@[simp] theorem bumpInv_lasting (s i) : lasting (bumpInv s i) = lasting s := by simp [bumpInv]

/-! ## Machine/Queues.lean -/

@[simp] theorem fbLog_lasting (s p) : lasting (fbLog s p) = lasting s := by simp [fbLog]

@[simp] theorem startScrub_lasting (s p) : lasting (startScrub s p) = lasting s := by simp [startScrub]

@[simp] theorem enterFallback_lasting (s p cause) :
    lasting (enterFallback s p cause) = lasting s := by simp [enterFallback]

@[simp] theorem parityError_lasting (s p e w) : lasting (parityError s p e w) = lasting s := by
  simp only [parityError]; (repeat' split) <;> simp

@[simp] theorem parityErrors_lasting (s p read bad) : lasting (parityErrors s p read bad) = lasting s := by
  refine foldl_lasting _ _ _ fun t b => ?_
  (repeat' split) <;> simp

@[simp] theorem iqMove_lasting (s p bad) : lasting (iqMove s p bad) = lasting s := by simp [iqMove]

@[simp] theorem execIqEntryMove_lasts (p bad s) : Lasts s (execIqEntryMove p bad s) := by simp [execIqEntryMove]

@[simp] theorem execStormInterval_lasts (s) : Lasts s (execStormInterval s) := by simp [execStormInterval]

@[simp] theorem execIqReturnStart_lasts (p s) : Lasts s (execIqReturnStart p s) := by simp [execIqReturnStart]

@[simp] theorem execIqReturnEnd_lasts (p ok s) : Lasts s (execIqReturnEnd p ok s) := by simp [execIqReturnEnd]

@[simp] theorem retryScrubW_lasting (s p v) : lasting (retryScrubW s p v) = lasting s := by simp [retryScrubW]

@[simp] theorem execRetryScrub_lasts (a p v s) : Lasts s (execRetryScrub a p v s) := by simp [execRetryScrub]

@[simp] theorem iqHoldW_lasting (s p v) : lasting (iqHoldW s p v) = lasting s := by simp [iqHoldW]

@[simp] theorem execIqHoldFallback_lasts (a p v s) :
    Lasts s (execIqHoldFallback a p v s) := by simp [execIqHoldFallback]

@[simp] theorem layPool_lasting (s p) : lasting (layPool s p) = lasting s := by simp [layPool]

@[simp] theorem execReshareLayout_lasts (s) : Lasts s (execReshareLayout s) := by simp [execReshareLayout]

@[simp] theorem iqNoticeW_lasting (s p v) : lasting (iqNoticeW s p v) = lasting s := by simp [iqNoticeW]

@[simp] theorem execIqNoticeClear_lasts (a p v s) :
    Lasts s (execIqNoticeClear a p v s) := by simp [execIqNoticeClear]

/-! ## Machine/Admission.lean -/

@[simp] theorem fetchFault_lasting (s g) : lasting (fetchFault s g) = lasting s := by simp [fetchFault]

@[simp] theorem stageFault_lasting (s g) : lasting (stageFault s g) = lasting s := by simp [stageFault]

@[simp] theorem startStage_lasting (s g d) : lasting (startStage s g d) = lasting s := by simp [startStage]

@[simp] theorem fetched_lasting (s g) : lasting (fetched s g) = lasting s := by
  simp only [fetched]; (repeat' split) <;> simp

@[simp] theorem execChainFetch_lasts (g s) : Lasts s (execChainFetch g s) := by simp [execChainFetch]

@[simp] theorem takeRound_lasting (s p ps) : lasting (takeRound s p ps) = lasting s := by simp [takeRound]

@[simp] theorem refuse_lasting (s g ps count) : lasting (refuse s g ps count) = lasting s := by simp [refuse]

theorem enqueue_lasting {s c l x} (h : enqueue s c l = some x) : lasting x.1 = lasting s := by
  induction l generalizing s x with
  | nil => cases h; rfl
  | cons g r ih =>
    simp only [enqueue, Option.bind_eq_some_iff, Option.map_eq_some_iff] at h
    obtain ⟨y, -, z, hz, rfl⟩ := h
    simpa using ih hz

@[simp] theorem movedErrors_lasting (s l bad) : lasting (movedErrors s l bad) = lasting s := by
  refine foldl_lasting _ _ _ fun t b => ?_
  split <;> simp

@[simp] theorem accept_lasting (s g c) : lasting (accept s g c) = lasting s := by simp [accept]

@[simp] theorem acceptDirect_lasting (s g q k) : lasting (acceptDirect s g q k) = lasting s := by simp [acceptDirect]

theorem offer_lasting {s g q k bad t} (h : offer s g q k bad = some t) : lasting t = lasting s := by
  unfold offer at h
  extract_lets r staged c tail segs ps no c' s' at h
  split at h
  · cases h; simp
  · split at h
    · cases h; simp
    · split at h
      · cases h
      · obtain ⟨y, hy, rfl⟩ := Option.map_eq_some_iff.1 h
        simpa [s'] using enqueue_lasting hy

@[simp] theorem execAdmissionOffer_lasts (o s) : Lasts s (execAdmissionOffer o s) := by
  simp only [execAdmissionOffer, lasts_next]
  split
  · split
    · rfl
    · split
      · simp
      · split
        · next k q _ _ _ _ _ =>
          cases ho : offer (takeRound s ((headPools s o.ring.toNat).headD 64) (headPools s o.ring.toNat))
              o.ring.toNat q k o.bad with
          | none => rfl
          | some t => simpa using offer_lasting ho
        · rfl
  · rfl

@[simp] theorem execReofferTimer_lasts (g s) : Lasts s (execReofferTimer g s) := by
  simp only [execReofferTimer]; (repeat' split) <;> simp

@[simp] theorem claimRead_lasting (s p l) : lasting (claimRead s p l) = lasting s := by simp [claimRead]

@[simp] theorem claim_lasting (s c i g u bad) : lasting (claim s c i g u bad) = lasting s := by simp [claim]

@[simp] theorem execSchedulerSelect_lasts (p bad s) : Lasts s (execSchedulerSelect p bad s) := by
  unfold execSchedulerSelect; (repeat' split) <;> simp

/-! ## Machine/Commands.lean -/

@[simp] theorem atEffect_lasting (s uid c data) : lasting (atEffect s uid c data).1 = lasting s := by
  unfold atEffect; (repeat' split) <;> simp

@[simp] theorem vloadAt_lasting (s uid d v) : lasting (vloadAt s uid d v) = lasting s := by simp [vloadAt]

@[simp] theorem addOcc_lasting (s uid n) : lasting (addOcc s uid n) = lasting s := by simp [addOcc]

@[simp] theorem helmEnd_lasting (s uid op status detail carry) :
    lasting (helmEnd s uid op status detail carry) = lasting s := by simp [helmEnd]

@[simp] theorem noteWritten_lasting (s uid l) : lasting (noteWritten s uid l) = lasting s := by simp [noteWritten]

@[simp] theorem helmCommand_lasting (s uid w data v) : lasting (helmCommand s uid w data v) = lasting s := by
  simp only [helmCommand]; (repeat' split) <;> simp

/-! ## Machine/Binnacle.lean -/

@[simp] theorem startErase_lasting (s src) : lasting (startErase s src) = lasting s := by
  unfold startErase; split <;> simp

@[simp] theorem soundAlarms_lasting (s m) : lasting (soundAlarms s m) = lasting s := by simp [soundAlarms]

@[simp] theorem holdsStill_lasting (s src) : lasting (holdsStill s src) = lasting s := by simp [holdsStill]

@[simp] theorem alarmEnd_lasting (s k) : lasting (alarmEnd s k) = lasting s := by simp [alarmEnd]

@[simp] theorem meshReport_lasting (s mesh) : lasting (meshReport s mesh) = lasting s := by simp [meshReport]

@[simp] theorem meshGood_lasting (s mesh) : lasting (meshGood s mesh) = lasting s := by simp [meshGood]

@[simp] theorem soundSample_lasting (s vsb vdd hot cold) :
    lasting (soundSample s vsb vdd hot cold) = lasting s := by simp [soundSample]

@[simp] theorem execAlarmConditionEnd_lasts (n mesh s) :
    Lasts s (execAlarmConditionEnd n mesh s) := by simp [execAlarmConditionEnd]

@[simp] theorem execAlarmHoldEnd_lasts (s) : Lasts s (execAlarmHoldEnd s) := by
  unfold execAlarmHoldEnd; split <;> simp

@[simp] theorem execLogTokenTick_lasts (s) : Lasts s (execLogTokenTick s) := by simp [execLogTokenTick]

@[simp] theorem bnLockW_lasting (s v) : lasting (bnLockW s v) = lasting s := by simp [bnLockW]

@[simp] theorem execBnLock_lasts (a v s) : Lasts s (execBnLock a v s) := by simp [execBnLock]

@[simp] theorem bnLatchW_lasting (s v) : lasting (bnLatchW s v) = lasting s := by simp [bnLatchW]

@[simp] theorem execBnLatchClear_lasts (a v s) : Lasts s (execBnLatchClear a v s) := by simp [execBnLatchClear]

@[simp] theorem bnMeshW_lasting (s v) : lasting (bnMeshW s v) = lasting s := by simp [bnMeshW]

@[simp] theorem execBnMeshEnable_lasts (a v s) : Lasts s (execBnMeshEnable a v s) := by simp [execBnMeshEnable]

@[simp] theorem execHoldOkChange_lasts (up s) : Lasts s (execHoldOkChange up s) := by simp [execHoldOkChange]

/-! ## Machine/Drbg.lean -/

@[simp] theorem setDrbg_lasting (s k d) : lasting (setDrbg s k d) = lasting s := by simp [setDrbg]

@[simp] theorem drbgSeed_lasting (s k) : lasting (drbgSeed s k) = lasting s := by simp [drbgSeed]

@[simp] theorem drbgDraw_lasting (s k n) : lasting (drbgDraw s k n).1 = lasting s := by simp [drbgDraw]

@[simp] theorem execDrbgReseed_lasts (k s) : Lasts s (execDrbgReseed k s) := by simp [execDrbgReseed]

/-! ## Machine/Load.lean -/

@[simp] theorem killExt_lasting (s r bad) : lasting (killExt s r bad) = lasting s := by simp [killExt]

@[simp] theorem ctxRewrite_lasting (s r bad kind owner) :
    lasting (ctxRewrite s r bad kind owner) = lasting s := by simp [ctxRewrite]

@[simp] theorem ownWriteBack_lasting (s uid r) : lasting (ownWriteBack s uid r) = lasting s := by
  unfold ownWriteBack; split <;> simp

@[simp] theorem letGo_lasting (s uid j n) : lasting (letGo s uid j n).1 = lasting s := by
  unfold letGo; (repeat' split) <;> simp

@[simp] theorem loadCount_lasting (d s j) : lasting (loadCount d s j).2 = lasting s := by
  unfold loadCount; split <;> simp

/-! ## Machine/Execute.lean -/

@[simp] theorem pinFailure_lasting (s f) : lasting (pinFailure s f) = lasting s := by
  simp only [pinFailure]; (repeat' split) <;> simp

@[simp] theorem payCount_lasting (s f d status detail) :
    lasting (payCount s f d status detail) = lasting s := by simp [payCount]

@[simp] theorem helmCount_lasting (s p) : lasting (helmCount s p) = lasting s := by simp [helmCount]

@[simp] theorem clearSlots_lasting (s uid) : lasting (clearSlots s uid) = lasting s := by simp [clearSlots]

@[simp] theorem complete_lasting (s uid j c status detail flags result) :
    lasting (complete s uid j c status detail flags result) = lasting s := by simp [complete]

@[simp] theorem finish_lasting (s uid) : lasting (finish s uid) = lasting s := by
  simp only [finish]; (repeat' split) <;> simp

@[simp] theorem failRun_lasting (s uid status detail) : lasting (failRun s uid status detail) = lasting s := by
  unfold failRun; split <;> simp

@[simp] theorem drained_lasting (s uid) : lasting (drained s uid) = lasting s := by
  unfold drained; split <;> simp

@[simp] theorem startExec_lasting (s uid) : lasting (startExec s uid) = lasting s := by
  simp only [startExec]; (repeat' split) <;> simp

@[simp] theorem tryExec_lasting (s uid) : lasting (tryExec s uid) = lasting s := by
  unfold tryExec; split <;> simp

@[simp] theorem beginOp_lasting (s uid d) : lasting (beginOp s uid d) = lasting s := by
  simp only [beginOp]; (repeat' split) <;> simp

@[simp] theorem LoadRes.next_lasting (x : LoadRes) (f : State → Job → LoadRes)
    (h : ∀ t j, lasting (f t j).s = lasting t) : lasting (x.next f).s = lasting x.s := by
  unfold LoadRes.next; split <;> simp [h]

@[simp] theorem loadFail_lasting (s j st dt) : lasting (loadFail s j st dt).s = lasting s := by simp [loadFail]

@[simp] theorem loadCheck_lasting (s j st dt) : lasting (loadCheck s j st dt).s = lasting s := by simp [loadCheck]

@[simp] theorem loadCtx_lasting (uid func d bad s j) : lasting (loadCtx uid func d bad s j).s = lasting s := by
  unfold loadCtx
  extract_lets n x s'
  have hs : lasting s' = lasting s := letGo_lasting ..
  clear_value s' n
  split
  · exact hs
  · split
    · exact hs
    · split
      · exact hs
      · split
        · exact hs
        · extract_lets t c b j' u
          have ht : lasting t = lasting s := by simp only [t]; split <;> simp [hs]
          have hu : lasting u = lasting s := (ctxRewrite_lasting ..).trans ht
          (repeat' split) <;> simp [hs, ht, hu]

@[simp] theorem loadTarget_lasting (uid func d s j) : lasting (loadTarget uid func d s j).s = lasting s := by
  simp only [loadTarget]
  (repeat' split) <;> simp

@[simp] theorem loadPolicy_lasting (uid d s j) : lasting (loadPolicy uid d s j).s = lasting s := by
  simp only [loadPolicy]
  (repeat' split) <;> simp

@[simp] theorem loadKey_lasting (uid func d bad s j) : lasting (loadKey uid func d bad s j).s = lasting s := by
  unfold loadKey
  split
  · rfl
  · split <;> (next hx => simp [fst_lasting hx])

@[simp] theorem loadKey2_lasting (func d bad s j) : lasting (loadKey2 func d bad s j).s = lasting s := by
  unfold loadKey2
  split
  · rfl
  · split <;> (next hx => simp [fst_lasting hx])

@[simp] theorem loadValue_lasting (func d s j) : lasting (loadValue func d s j).s = lasting s := by simp [loadValue]

@[simp] theorem loadDraw_lasting (uid d s j) : lasting (loadDraw uid d s j).s = lasting s := by
  simp only [loadDraw]
  (repeat' split) <;> simp

@[simp] theorem loadReserve_lasting (d cnt s j) : lasting (loadReserve d cnt s j).s = lasting s := by
  simp only [loadReserve]
  split <;> simp

@[simp] theorem loadUnit_lasting (uid d s j) : lasting (loadUnit uid d s j).s = lasting s := by
  simp only [loadUnit]
  split <;> simp

@[simp] theorem loadAll_lasting (uid func d env s j) : lasting (loadAll uid func d env s j).s = lasting s := by
  simp [loadAll]

@[simp] theorem loadDesc_lasting (s uid env j c) : lasting (loadDesc s uid env j c) = lasting s := by
  simp only [loadDesc]
  split <;> simp [apply_ite Prod.fst]

@[simp] theorem poisoned_lasting (s uid j c) : lasting (poisoned s uid j c) = lasting s := by
  simp only [poisoned]; (repeat' split) <;> simp

@[simp] theorem execDescriptorLoad_lasts (u env s) : Lasts s (execDescriptorLoad u env s) := by
  simp only [execDescriptorLoad]; (repeat' split) <;> simp

@[simp] theorem execLoadStageEnd_lasts (u s) : Lasts s (execLoadStageEnd u s) := by
  simp only [execLoadStageEnd]; (repeat' split) <;> simp

@[simp] theorem outIssued_lasting (s id idx v) : lasting (outIssued s id idx v) = lasting s := by simp [outIssued]

@[simp] theorem issueOut_lasting (s c idx data whole l) : lasting (issueOut s c idx data whole l).1 = lasting s := by
  induction l generalizing s with
  | nil => rfl
  | cons p r ih =>
    unfold issueOut
    simp only
    split <;> (next hx => simp [ih, fst_lasting hx])

@[simp] theorem releaseOut_lasting (s uid j c out) : lasting (releaseOut s uid j c out).1 = lasting s := by
  simp only [releaseOut]; (repeat' split) <;> simp

theorem vaultSwap_lasting {s k ask bad r} (h : vaultSwap s k ask bad = .inl r) : lasting r.1 = lasting s := by
  simp only [vaultSwap] at h
  (repeat' split at h) <;> cases h <;> simp

@[simp] theorem releaseBlock_lasting (s uid j c b) : lasting (releaseBlock s uid j c b) = lasting s := by
  simp only [releaseBlock]; (repeat' split) <;> simp

@[simp] theorem swapThen_lasting (s uid j c bad b) : lasting (swapThen s uid j c bad b) = lasting s := by
  unfold swapThen
  split
  · split
    · next hx => split <;> simpa using vaultSwap_lasting hx
    · simp
  · simp

@[simp] theorem tileParity_lasting (s uid n) : lasting (tileParity s uid n) = lasting s := by
  simp only [tileParity]; (repeat' split) <;> simp

@[simp] theorem loadedReads_lasting (s uid n) : lasting (loadedReads s uid n) = lasting s := by simp [loadedReads]

/-! ## Machine/Arith.lean -/

@[simp] theorem atTransfer_lasting (s uid c) : lasting (atTransfer s uid c).1 = lasting s := by
  unfold atTransfer; split <;> simp

@[simp] theorem atStart_lasting (s uid c) : lasting (atStart s uid c) = lasting s := by simp [atStart]

@[simp] theorem atCmdW_lasting (s uid v) : lasting (atCmdW s uid v) = lasting s := by
  simp only [atCmdW]; (repeat' split) <;> simp

@[simp] theorem execAtClear_lasts (a u fl s) : Lasts s (execAtClear a u fl s) := by simp [execAtClear]

@[simp] theorem execAtLoad_lasts (a u fl s) : Lasts s (execAtLoad a u fl s) := by simp [execAtLoad]

@[simp] theorem execAtStore_lasts (a u fl s) : Lasts s (execAtStore a u fl s) := by simp [execAtStore]

@[simp] theorem execAtVload_lasts (a u fl s) : Lasts s (execAtVload a u fl s) := by simp [execAtVload]

@[simp] theorem execAtAdd_lasts (a u fl s) : Lasts s (execAtAdd a u fl s) := by simp [execAtAdd]

@[simp] theorem execAtSub_lasts (a u fl s) : Lasts s (execAtSub a u fl s) := by simp [execAtSub]

@[simp] theorem execAtCsub_lasts (a u fl s) : Lasts s (execAtCsub a u fl s) := by simp [execAtCsub]

@[simp] theorem execAtMul_lasts (a u fl s) : Lasts s (execAtMul a u fl s) := by simp [execAtMul]

@[simp] theorem execAtMulacc_lasts (a u fl s) : Lasts s (execAtMulacc a u fl s) := by simp [execAtMulacc]

@[simp] theorem execAtSqr_lasts (a u fl s) : Lasts s (execAtSqr a u fl s) := by simp [execAtSqr]

@[simp] theorem execAtBfly_lasts (a u fl s) : Lasts s (execAtBfly a u fl s) := by simp [execAtBfly]

@[simp] theorem atWriteBack_lasting (s uid c) : lasting (atWriteBack s uid c) = lasting s := by simp [atWriteBack]

@[simp] theorem atStore_lasting (s uid c) : lasting (atStore s uid c) = lasting s := by simp [atStore]

@[simp] theorem apertureRefuse_lasting (s uid) : lasting (apertureRefuse s uid) = lasting s := by
  unfold apertureRefuse; split <;> simp

@[simp] theorem apertureStore_lasting (s uid off data) : lasting (apertureStore s uid off data) = lasting s := by
  have h (t : State) (m : List Host.Cell) (x : Uni) : lasting (setUni { t with opmem := m } uid x) = lasting t := rfl
  rw [apertureStore, h]
  exact foldl_lasting _ _ _ fun _ _ => opdClear_lasting ..

@[simp] theorem apertureWriteAt_lasting (s a o data) : lasting (apertureWriteAt s a o data).1 = lasting s := by
  unfold apertureWriteAt; (repeat' split) <;> simp

@[simp] theorem aperturePar_lasting (s o) : lasting (aperturePar s o) = lasting s := by
  unfold aperturePar; split <;> simp

@[simp] theorem apertureReadAt_lasting (s a o agree parity) :
    lasting (apertureReadAt s a o agree parity).1 = lasting s := by
  simp only [apertureReadAt]; (repeat' split) <;> simp

@[simp] theorem execApertureWrite_lasts (a off data s) : Lasts s (execApertureWrite a off data s) := by
  simp only [execApertureWrite, lasts_next]
  split
  · rfl
  · split <;> (next hx => simp [fst_lasting hx])

@[simp] theorem execApertureRead_lasts (a off env s) : Lasts s (execApertureRead a off env s) := by
  simp only [execApertureRead, lasts_next]
  split
  · rfl
  · split <;> (next hx => simp [fst_lasting hx])

@[simp] theorem claimW_lasting (s uid) : lasting (claimW s uid) = lasting s := by
  unfold claimW; split <;> simp

@[simp] theorem releaseW_lasting (s uid) : lasting (releaseW s uid) = lasting s := by simp [releaseW]

@[simp] theorem unLockW_lasting (s uid v) : lasting (unLockW s uid v) = lasting s := by simp [unLockW]

@[simp] theorem execHostClaim_lasts (a u s) : Lasts s (execHostClaim a u s) := by simp [execHostClaim]

@[simp] theorem execHostRelease_lasts (a u s) : Lasts s (execHostRelease a u s) := by simp [execHostRelease]

@[simp] theorem execHostReleaseScrubDone_lasts (u s) :
    Lasts s (execHostReleaseScrubDone u s) := by simp [execHostReleaseScrubDone]

@[simp] theorem preemptEnd_lasting (s uid) : lasting (preemptEnd s uid) = lasting s := by simp [preemptEnd]

@[simp] theorem execAbortScrubDone_lasts (u s) :
    Lasts s (execAbortScrubDone u s) := by simp [execAbortScrubDone]

/-! ## Machine/Rings.lean -/

@[simp] theorem drainRing_lasting (s g) : lasting (drainRing s g) = lasting s := by simp [drainRing]

@[simp] theorem drainCq_lasting (s q) : lasting (drainCq s q) = lasting s := by simp [drainCq]

@[simp] theorem rgDoorbell_lasting (s g v) : lasting (rgDoorbell s g v) = lasting s := by simp [rgDoorbell]

@[simp] theorem rgCfg_lasting (s g v) : lasting (rgCfg s g v) = lasting s := by simp [rgCfg]

@[simp] theorem rgBase_lasting (s g base) : lasting (rgBase s g base) = lasting s := by simp [rgBase]

@[simp] theorem rgStatusW_lasting (s g v) : lasting (rgStatusW s g v) = lasting s := by simp [rgStatusW]

@[simp] theorem cqCfg_lasting (s q v) : lasting (cqCfg s q v) = lasting s := by simp [cqCfg]

@[simp] theorem cqBase_lasting (s q base) : lasting (cqBase s q base) = lasting s := by simp [cqBase]

@[simp] theorem cqStatusW_lasting (s q v) : lasting (cqStatusW s q v) = lasting s := by simp [cqStatusW]

@[simp] theorem cqOp_lasting (s q o) : lasting (cqOp s q o) = lasting s := by
  unfold cqOp; split <;> simp

@[simp] theorem cqGrantW_lasting (s q v) : lasting (cqGrantW s q v) = lasting s := by simp [cqGrantW]

@[simp] theorem cqWpCmd_lasting (s q op) : lasting (cqWpCmd s q op) = lasting s := by simp [cqWpCmd]

@[simp] theorem cqNotice_lasting (s q) : lasting (cqNotice s q) = lasting s := by
  simp only [cqNotice]; (repeat' split) <;> simp

@[simp] theorem coalCheck_lasting (s q) : lasting (coalCheck s q) = lasting s := by simp [coalCheck]

@[simp] theorem cqNoticeable_lasting (s q) : lasting (cqNoticeable s q) = lasting s := by simp [cqNoticeable]

@[simp] theorem cqCoal_lasting (s q v) : lasting (cqCoal s q v) = lasting s := by simp [cqCoal]

@[simp] theorem nvHold_lasting (s f k v) : lasting (nvHold s f k v) = lasting s := by simp [nvHold]

@[simp] theorem creditTick_lasting (s g) : lasting (creditTick s g) = lasting s := by
  unfold creditTick; (repeat' split) <;> simp

@[simp] theorem onRing_lasting (s a g) (f : State → Nat → State) (h : ∀ t n, lasting (f t n) = lasting t) :
    lasting (onRing s a g f) = lasting s := by
  unfold onRing; split <;> simp [h]

@[simp] theorem onCq_lasting (s a q) (f : State → Nat → State) (h : ∀ t n, lasting (f t n) = lasting t) :
    lasting (onCq s a q f) = lasting s := by
  unfold onCq; split <;> simp [h]

@[simp] theorem execDoorbell_lasts (a g v s) : Lasts s (execDoorbell a g v s) := by simp [execDoorbell]

@[simp] theorem execRingEnable_lasts (a g v s) : Lasts s (execRingEnable a g v s) := by simp [execRingEnable]

@[simp] theorem execRingDisable_lasts (a g v s) : Lasts s (execRingDisable a g v s) := by simp [execRingDisable]

@[simp] theorem execCqEnable_lasts (a q v s) : Lasts s (execCqEnable a q v s) := by simp [execCqEnable]

@[simp] theorem execCqDisable_lasts (a q v s) : Lasts s (execCqDisable a q v s) := by simp [execCqDisable]

@[simp] theorem execCqGrant_lasts (a q v s) : Lasts s (execCqGrant a q v s) := by simp [execCqGrant]

@[simp] theorem execWaypointSet_lasts (a q s) : Lasts s (execWaypointSet a q s) := by simp [execWaypointSet]

@[simp] theorem execWaypointRewind_lasts (a q s) :
    Lasts s (execWaypointRewind a q s) := by simp [execWaypointRewind]

@[simp] theorem execWaypointClear_lasts (a q s) :
    Lasts s (execWaypointClear a q s) := by simp [execWaypointClear]

@[simp] theorem execNoticeHoldWrite_lasts (a k v s) :
    Lasts s (execNoticeHoldWrite a k v s) := by simp [execNoticeHoldWrite]

@[simp] theorem execNoticeCoalTimer_lasts (q s) :
    Lasts s (execNoticeCoalTimer q s) := by simp [execNoticeCoalTimer]

@[simp] theorem execCreditTick_lasts (g s) : Lasts s (execCreditTick g s) := by simp [execCreditTick]

@[simp] theorem famineNoticeW_lasting (s p v) : lasting (famineNoticeW s p v) = lasting s := by simp [famineNoticeW]

@[simp] theorem execFamineNoticeClear_lasts (a p v s) :
    Lasts s (execFamineNoticeClear a p v s) := by simp [execFamineNoticeClear]

@[simp] theorem execFamineTimeUnit_lasts (g s) :
    Lasts s (execFamineTimeUnit g s) := by simp [execFamineTimeUnit]

/-! ## Machine/Soundings.lean -/

@[simp] theorem latencySounding_lasting (s pools l ring finish late) :
    lasting (latencySounding s pools l ring finish late) = lasting s := by simp [latencySounding]

@[simp] theorem sdFreezeW_lasting (s v) : lasting (sdFreezeW s v) = lasting s := by simp [sdFreezeW]

@[simp] theorem sdCmdW_lasting (s v) : lasting (sdCmdW s v) = lasting s := by simp [sdCmdW]

@[simp] theorem execSdFreeze_lasts (a v s) : Lasts s (execSdFreeze a v s) := by simp [execSdFreeze]

@[simp] theorem execSdUnfreeze_lasts (a v s) : Lasts s (execSdUnfreeze a v s) := by simp [execSdUnfreeze]

@[simp] theorem execSdAutoRelease_lasts (s) : Lasts s (execSdAutoRelease s) := by simp [execSdAutoRelease]

@[simp] theorem execSdClearPools_lasts (a v s) : Lasts s (execSdClearPools a v s) := by simp [execSdClearPools]

@[simp] theorem execSdClearRings_lasts (a v s) : Lasts s (execSdClearRings a v s) := by simp [execSdClearRings]

@[simp] theorem execSdClearDevice_lasts (a v s) :
    Lasts s (execSdClearDevice a v s) := by simp [execSdClearDevice]

@[simp] theorem execSdClearDone_lasts (s) : Lasts s (execSdClearDone s) := by simp [execSdClearDone]

/-! ## Machine/Records.lean -/

@[simp] theorem reap_lasting (s id) : lasting (reap s id) = lasting s := by
  unfold reap; split <;> simp

@[simp] theorem chainEnds_lasting (s c finish issued) :
    lasting (chainEnds s c finish issued) = lasting s := by simp [chainEnds]

theorem recordPage_lasting {s c k addr r t} (h : recordPage s c k addr r = some t) : lasting t = lasting s := by
  simp only [recordPage] at h
  split at h
  · cases h; rfl
  · split at h
    · cases h
    · simpa using dlPage_lasting h

@[simp] theorem writeRecord_lasting (s c addr k data) : lasting (writeRecord s c addr k data).1 = lasting s := by
  simp only [writeRecord]
  split
  · simp
  · split <;> (next hx => simp [fst_lasting hx])

@[simp] theorem xlateCount_lasting (s d r) : lasting (xlateCount s d r) = lasting s := by simp [xlateCount]

@[simp] theorem issueRecord_lasting (s c k r) : lasting (issueRecord s c k r) = lasting s := by
  simp only [issueRecord]
  split
  · rfl
  next t ht =>
    have h : lasting t = lasting s := by
      split at ht
      · cases ht; rfl
      · exact recordPage_lasting ht
    (repeat' split) <;> simp [h]

@[simp] theorem execRecordIssue_lasts (c s) : Lasts s (execRecordIssue c s) := by
  unfold execRecordIssue; (repeat' split) <;> simp

@[simp] theorem execNoexecRecord_lasts (c s) : Lasts s (execNoexecRecord c s) := by
  unfold execNoexecRecord; (repeat' split) <;> simp

@[simp] theorem voidLate_lasting (s t) : lasting (voidLate s t) = lasting s := by
  unfold voidLate; split <;> simp

@[simp] theorem lateReset_lasting (s t) : lasting (lateReset s t) = lasting s := by simp [lateReset]

@[simp] theorem timely_lasting (s t) : lasting (timely s t) = lasting s := by simp [timely]

@[simp] theorem stopLater_lasting (s id uid) : lasting (stopLater s id uid) = lasting s := by
  simp only [stopLater]; (repeat' split) <;> simp

@[simp] theorem taintLate_lasting (s func d) : lasting (taintLate s func d) = lasting s := by
  unfold taintLate; split <;> simp

@[simp] theorem failWriting_lasting (s uid j) : lasting (failWriting s uid j) = lasting s := by simp [failWriting]

@[simp] theorem outputFailed_lasting (s id idx) : lasting (outputFailed s id idx) = lasting s := by
  unfold outputFailed
  split
  · rfl
  · split
    · simp
    · split
      · split <;> simp
      · refine foldl_lasting _ _ _ fun t u => ?_
        (repeat' split) <;> simp

@[simp] theorem outRefused_lasting (s id idx) : lasting (outRefused s id idx) = lasting s := by simp [outRefused]

/-! ## Machine/LifeCycle.lean -/

theorem lodeDraw_lasting {s x} (h : lodeDraw s = some x) : lasting x.1 = lasting s := by
  unfold lodeDraw at h
  (repeat' split at h) <;> cases h <;> simp

@[simp] theorem trimSteps_lasting (s l) : lasting (trimSteps s l).1 = lasting s := by
  induction l generalizing s with
  | nil => rfl
  | cons x r ih =>
    cases x with
    | bits n l => unfold trimSteps; split <;> simp [ih]
    | erase n t => unfold trimSteps; split <;> simp [ih]
    | draw n k =>
      unfold trimSteps
      split
      · next hx => split <;> simp [ih, lodeDraw_lasting hx]
      · rfl

@[simp] theorem fuseBegin_lasting (s) : lasting (fuseBegin s) = lasting s := by
  unfold fuseBegin; split <;> simp

@[simp] theorem fuseResume_lasting (s) : lasting (fuseResume s) = lasting s := by
  unfold fuseResume; split <;> simp

@[simp] theorem lcErase_lasting (s) : lasting (lcErase s) = lasting s := by simp [lcErase]

/-! ## Machine/Vault.lean -/

@[simp] theorem placeAtt_lasting (s) : lasting (placeAtt s) = lasting s := by
  unfold placeAtt; split <;> simp

@[simp] theorem execAttPubkeyDone_lasts (s) : Lasts s (execAttPubkeyDone s) := by
  unfold execAttPubkeyDone; split <;> simp

@[simp] theorem kvResult_lasting (s n) : lasting (kvResult s n) = lasting s := by simp [kvResult]

@[simp] theorem kvFound_lasting (s i bad) : lasting (kvFound s i bad) = lasting s := by simp [kvFound]

@[simp] theorem kvWrote_lasting (s c) : lasting (kvWrote s c) = lasting s := by simp [kvWrote]

@[simp] theorem kvStore_lasting (s c out) : lasting (kvStore s c out) = lasting s := by simp [kvStore]

@[simp] theorem kvWritten_lasting (s k n ok) : lasting (kvWritten s k n ok) = lasting s := by
  unfold kvWritten; split <;> simp

@[simp] theorem kvPeek_lasting (s i) : lasting (kvPeek s i) = lasting s := by simp [kvPeek]

@[simp] theorem kvDraw_lasting (s c attr) : lasting (kvDraw s c attr) = lasting s := by simp [kvDraw]

@[simp] theorem kvGenerate_lasting (s c) : lasting (kvGenerate s c) = lasting s := by
  unfold kvGenerate; split <;> simp

@[simp] theorem kvRedraw_lasting (s) : lasting (kvRedraw s) = lasting s := by
  unfold kvRedraw; split <;> simp

@[simp] theorem kvUnwrapped_lasting (s c b) : lasting (kvUnwrapped s c b) = lasting s := by
  simp only [kvUnwrapped]; (repeat' split) <;> simp

@[simp] theorem kvAttested_lasting (s c challenge) : lasting (kvAttested s c challenge) = lasting s := by
  unfold kvAttested; split <;> simp

@[simp] theorem kvRead_lasting (s) : lasting (kvRead s) = lasting s := by
  unfold kvRead; split <;> simp

@[simp] theorem kvFetch_lasting (s c len) : lasting (kvFetch s c len) = lasting s := by simp [kvFetch]

@[simp] theorem kvWrap_lasting (s c) : lasting (kvWrap s c) = lasting s := by
  simp only [kvWrap]; (repeat' split) <;> simp

@[simp] theorem kvAttest_lasting (s c) : lasting (kvAttest s c) = lasting s := by
  simp only [kvAttest]; (repeat' split) <;> simp

@[simp] theorem kvStart_lasting (s c) : lasting (kvStart s c) = lasting s := by
  simp only [kvStart]; (repeat' split) <;> simp

@[simp] theorem kvCmdW_lasting (s v bad kekBad) : lasting (kvCmdW s v bad kekBad) = lasting s := by simp [kvCmdW]

@[simp] theorem kvRelease_lasting (s) : lasting (kvRelease s) = lasting s := by
  unfold kvRelease; split <;> simp

@[simp] theorem execKvPeek_lasts (a s) : Lasts s (execKvPeek a s) := by simp [execKvPeek]

@[simp] theorem execKvErase_lasts (a s) : Lasts s (execKvErase a s) := by simp [execKvErase]

@[simp] theorem execKvGenerate_lasts (a ktype klen s) :
    Lasts s (execKvGenerate a ktype klen s) := by simp [execKvGenerate]

@[simp] theorem execKvUnwrap_lasts (a kek s) : Lasts s (execKvUnwrap a kek s) := by simp [execKvUnwrap]

@[simp] theorem execKvWrap_lasts (a kek s) : Lasts s (execKvWrap a kek s) := by simp [execKvWrap]

@[simp] theorem execKvAttest_lasts (a s) : Lasts s (execKvAttest a s) := by simp [execKvAttest]

@[simp] theorem execKvEraseFn_lasts (a s) : Lasts s (execKvEraseFn a s) := by simp [execKvEraseFn]

@[simp] theorem execKvEraseAll_lasts (a s) : Lasts s (execKvEraseAll a s) := by simp [execKvEraseAll]

@[simp] theorem eraseAllEnds_lasting (s n) : lasting (eraseAllEnds s n) = lasting s := by simp [eraseAllEnds]

@[simp] theorem vaultScrubbed_lasting (s) : lasting (vaultScrubbed s) = lasting s := by simp [vaultScrubbed]

@[simp] theorem vaultStarved_lasting (s) : lasting (vaultStarved s) = lasting s := by simp [vaultStarved]

@[simp] theorem execVaultScrubDone_lasts (s) : Lasts s (execVaultScrubDone s) := by
  unfold execVaultScrubDone; split <;> simp

/-! ## Machine/Chart.lean -/

@[simp] theorem layPools_lasting (s c) : lasting (layPools s c) = lasting s := by simp [layPools]

@[simp] theorem chResult_lasting (s n) : lasting (chResult s n) = lasting s := by simp [chResult]

@[simp] theorem chartPlace_lasting (s) : lasting (chartPlace s) = lasting s := by simp [chartPlace]

@[simp] theorem chartPhase_lasting (s) : lasting (chartPhase s) = lasting s := by simp [chartPhase]

@[simp] theorem chartBegin_lasting (s keep) : lasting (chartBegin s keep) = lasting s := by simp [chartBegin]

@[simp] theorem chLoad_lasting (s keep) : lasting (chLoad s keep) = lasting s := by simp [chLoad]

/-! ## Machine/Tx.lean -/

@[simp] theorem txResult_lasting (s n) : lasting (txResult s n) = lasting s := by simp [txResult]

@[simp] theorem txGate_lasting (s) (f : State → State) (h : ∀ t, lasting (f t) = lasting t) :
    lasting (txGate s f) = lasting s := by
  unfold txGate; split <;> simp [h]

@[simp] theorem txBeginW_lasting (s v) : lasting (txBeginW s v) = lasting s := by simp [txBeginW]

@[simp] theorem txCommitW_lasting (s v) : lasting (txCommitW s v) = lasting s := by simp [txCommitW]

@[simp] theorem txRollbackW_lasting (s v) : lasting (txRollbackW s v) = lasting s := by simp [txRollbackW]

@[simp] theorem execTxBegin_lasts (a v s) : Lasts s (execTxBegin a v s) := by simp [execTxBegin]

@[simp] theorem execTxCommit_lasts (a v s) : Lasts s (execTxCommit a v s) := by simp [execTxCommit]

@[simp] theorem execTxRollback_lasts (a v s) : Lasts s (execTxRollback a v s) := by simp [execTxRollback]

@[simp] theorem patchResult_lasting (s n) : lasting (patchResult s n) = lasting s := by simp [patchResult]

@[simp] theorem txPatchW_lasting (s v) : lasting (txPatchW s v) = lasting s := by simp [txPatchW]

@[simp] theorem execTxPatch_lasts (a v s) : Lasts s (execTxPatch a v s) := by simp [execTxPatch]

@[simp] theorem setShadow_lasting (s l) : lasting (setShadow s l) = lasting s := by simp [setShadow]

@[simp] theorem patchEnd_lasting (s) : lasting (patchEnd s) = lasting s := by
  simp only [patchEnd]; (repeat' split) <;> simp

@[simp] theorem execTxPatchReadDone_lasts (s) : Lasts s (execTxPatchReadDone s) := by simp [execTxPatchReadDone]

@[simp] theorem shadowPut_lasting (s p) : lasting (shadowPut s p) = lasting s := by
  unfold shadowPut; split <;> simp

@[simp] theorem funcWrite_lasting (s f o n v) : lasting (funcWrite s f o n v) = lasting s := by simp [funcWrite]

@[simp] theorem rulePut_lasting (s type i o x) : lasting (rulePut s type i o x) = lasting s := by simp [rulePut]

@[simp] theorem ruleWrite_lasting (s type i k v) : lasting (ruleWrite s type i k v) = lasting s := by simp [ruleWrite]

theorem txTarget_lasting (s off v) : ∀ f ∈ txTarget s off v, ∀ t, lasting (f t) = lasting t := by
  unfold txTarget
  repeat' refine ite_effect_lasting ?_ ?_
  all_goals simp

@[simp] theorem txWriteW_lasting (s off v) : lasting (txWriteW s off v) = lasting s := by
  unfold txWriteW
  split
  · rfl
  · next h => split <;> simp [txTarget_lasting _ _ _ _ h]

@[simp] theorem execTransactionalWrite_lasts (a off v s) :
    Lasts s (execTransactionalWrite a off v s) := by simp [execTransactionalWrite]

@[simp] theorem reshare_lasting (s old p) : lasting (reshare s old p) = lasting s := by
  unfold reshare; split <;> simp

@[simp] theorem dropPool_lasting (s p) : lasting (dropPool s p) = lasting s := by simp [dropPool]

@[simp] theorem txApply_lasting (s) : lasting (txApply s) = lasting s := by simp [txApply]

@[simp] theorem txRefuse_lasting (s f) : lasting (txRefuse s f) = lasting s := by simp [txRefuse]

@[simp] theorem execCommitValidationEnd_lasts (s) : Lasts s (execCommitValidationEnd s) := by
  unfold execCommitValidationEnd; (repeat' split) <;> simp

/-! ## Machine/Completion.lean -/

theorem takeTxn_lasting {s port tag write x} (h : takeTxn s port tag write = some x) : lasting x.2 = lasting s := by
  simp only [takeTxn] at h
  split at h <;> cases h
  simp

@[simp] theorem fetchArrived_lasting (s g t ok data) :
    lasting (fetchArrived s g t ok data) = lasting s := by simp [fetchArrived]

@[simp] theorem stageArrived_lasting (s g t ok data) :
    lasting (stageArrived s g t ok data) = lasting s := by simp [stageArrived]

@[simp] theorem inputStep_lasting (s id idx f) : lasting (inputStep s id idx f) = lasting s := by
  unfold inputStep; split <;> simp

@[simp] theorem loadStep_lasting (s uid f) : lasting (loadStep s uid f) = lasting s := by simp [loadStep]

@[simp] theorem kvStep_lasting (s f) : lasting (kvStep s f) = lasting s := by simp [kvStep]

@[simp] theorem reapOf_lasting (s o) : lasting (reapOf s o) = lasting s := by
  unfold reapOf; split <;> simp

@[simp] theorem readArrived_lasting (s t ok data) : lasting (readArrived s t ok data) = lasting s := by
  unfold readArrived; split <;> simp

@[simp] theorem recordDone_lasting (s id idx ok) : lasting (recordDone s id idx ok) = lasting s := by
  unfold recordDone; split <;> simp

@[simp] theorem logFailed_lasting (s vf) : lasting (logFailed s vf) = lasting s := by simp [logFailed]

@[simp] theorem storeDone_lasting (s uid k ok) : lasting (storeDone s uid k ok) = lasting s := by simp [storeDone]

@[simp] theorem writeDone_lasting (s t ok) : lasting (writeDone s t ok) = lasting s := by
  unfold writeDone; split <;> simp

@[simp] theorem writingDone_lasting (s id idx) : lasting (writingDone s id idx) = lasting s := by
  unfold writingDone; (repeat' split) <;> simp

@[simp] theorem txnIssued_lasting (s t v) : lasting (txnIssued s t v) = lasting s := by
  unfold txnIssued; split <;> simp

@[simp] theorem txnRefused_lasting (s t) : lasting (txnRefused s t) = lasting s := by
  unfold txnRefused; split <;> simp

@[simp] theorem pumpN_lasting (n s port) : lasting (pumpN n s port) = lasting s := by
  induction n generalizing s with
  | zero => rfl
  | succ n ih =>
    simp only [pumpN]
    split
    · rfl
    · split
      · simp [ih]
      · split <;> (next hx => simp [ih, fst_lasting hx])

@[simp] theorem pump_lasting (s port) : lasting (pump s port) = lasting s := by simp [pump]

@[simp] theorem txnAnswered_lasting (s port t) (f : State → State) (h : ∀ u, lasting (f u) = lasting u) :
    lasting (txnAnswered s port t f) = lasting s := by
  unfold txnAnswered; split <;> simp [h]

@[simp] theorem execReadCompletion_lasts (port tag chk data s) :
    Lasts s (execReadCompletion port tag chk data s) := by
  simp only [execReadCompletion, lasts_next]
  split
  · rfl
  · split
    · rfl
    · next hx =>
      have h := takeTxn_lasting hx
      split <;> simp_all

@[simp] theorem execWriteResponse_lasts (port tag ok s) : Lasts s (execWriteResponse port tag ok s) := by
  simp only [execWriteResponse, lasts_next]
  split
  · rfl
  · split
    · rfl
    · next hx => simpa using takeTxn_lasting hx

@[simp] theorem laneCredit_lasting (s odd) : lasting (laneCredit s odd) = lasting s := by simp [laneCredit]

@[simp] theorem portCredit_lasting (s n f) : lasting (portCredit s n f) = lasting s := by simp [portCredit]

@[simp] theorem execCrdPulse_lasts (c s) : Lasts s (execCrdPulse c s) := by
  unfold execCrdPulse; split <;> simp

/-! ## Machine/Contexts.lean -/

@[simp] theorem scResult_lasting (s n) : lasting (scResult s n) = lasting s := by simp [scResult]

@[simp] theorem scApply_lasting (s op r) : lasting (scApply s op r) = lasting s := by simp [scApply]

@[simp] theorem scStart_lasting (s op kind i) : lasting (scStart s op kind i) = lasting s := by simp [scStart]

@[simp] theorem scCmd_lasting (s v) : lasting (scCmd s v) = lasting s := by simp [scCmd]

@[simp] theorem scRelease_lasting (s) : lasting (scRelease s) = lasting s := by
  unfold scRelease; split <;> simp

@[simp] theorem scWaiting_lasting (s) : lasting (scWaiting s) = lasting s := by
  unfold scWaiting; split <;> simp

@[simp] theorem execScPeek_lasts (a kind s) : Lasts s (execScPeek a kind s) := by simp [execScPeek]

@[simp] theorem execScSeal_lasts (a kind s) : Lasts s (execScSeal a kind s) := by simp [execScSeal]

@[simp] theorem execScUnseal_lasts (a kind s) : Lasts s (execScUnseal a kind s) := by simp [execScUnseal]

@[simp] theorem execScFree_lasts (a kind s) : Lasts s (execScFree a kind s) := by simp [execScFree]

@[simp] theorem wbStore_lasting (s compact i) : lasting (wbStore s compact i) = lasting s := by
  unfold wbStore; split <;> simp

@[simp] theorem execContextWritebackDone_lasts (compact idx s) :
    Lasts s (execContextWritebackDone compact idx s) := by simp [execContextWritebackDone]

@[simp] theorem scEraseW_lasting (s v) : lasting (scEraseW s v) = lasting s := by simp [scEraseW]

@[simp] theorem execScEraseAll_lasts (a v s) : Lasts s (execScEraseAll a v s) := by simp [execScEraseAll]

@[simp] theorem keyScrubs_lasting (s) : lasting (keyScrubs s) = lasting s := by simp [keyScrubs]

@[simp] theorem ctxScrubbed_lasting (s) : lasting (ctxScrubbed s) = lasting s := by simp [ctxScrubbed]

@[simp] theorem execContextScrubDone_lasts (s) : Lasts s (execContextScrubDone s) := by
  unfold execContextScrubDone; split <;> simp

/-! ## Machine/Power.lean -/

@[simp] theorem outputsDown_lasting (s) : lasting (outputsDown s) = lasting s := by simp [outputsDown]

@[simp] theorem holdCore_lasting (s) : lasting (holdCore s) = lasting s := by simp [holdCore]

@[simp] theorem execEraseScrubDone_lasts (s) : Lasts s (execEraseScrubDone s) := by
  unfold execEraseScrubDone; split <;> simp

@[simp] theorem execPllLock_lasts (khz time s) : Lasts s (execPllLock khz time s) := by simp [execPllLock]

@[simp] theorem pwReq_lasting (s a2) : lasting (pwReq s a2) = lasting s := by simp [pwReq]

@[simp] theorem pwReqW_lasting (s v) : lasting (pwReqW s v) = lasting s := by simp [pwReqW]

@[simp] theorem execPwReqA2_lasts (a s) : Lasts s (execPwReqA2 a s) := by simp [execPwReqA2]

@[simp] theorem execPwReqA3_lasts (a s) : Lasts s (execPwReqA3 a s) := by simp [execPwReqA3]

@[simp] theorem wake_lasting (s) : lasting (wake s) = lasting s := by simp [wake]

@[simp] theorem execA2EntryComplete_lasts (s) : Lasts s (execA2EntryComplete s) := by simp [execA2EntryComplete]

@[simp] theorem execPdWake_lasts (s) : Lasts s (execPdWake s) := by simp [execPdWake]

@[simp] theorem reseedAll_lasting (s) : lasting (reseedAll s) = lasting s := by simp [reseedAll]

@[simp] theorem exitA2_lasting (s) : lasting (exitA2 s) = lasting s := by simp [exitA2]

@[simp] theorem execPowerSwitchLoss_lasts (g s) :
    Lasts s (execPowerSwitchLoss g s) := by simp [execPowerSwitchLoss]

@[simp] theorem zeroOnly_lasting (s) : lasting (zeroOnly s) = lasting s := by simp [zeroOnly]

@[simp] theorem execScanModeEntry_lasts (s) : Lasts s (execScanModeEntry s) := by simp [execScanModeEntry]

@[simp] theorem execScanModeExit_lasts (s) : Lasts s (execScanModeExit s) := by simp [execScanModeExit]

@[simp] theorem execMbistStart_lasts (s) : Lasts s (execMbistStart s) := by simp [execMbistStart]

/-! ## Machine/Functions.lean -/

@[simp] theorem blockRequest_lasting (s) : lasting (blockRequest s) = lasting s := by simp [blockRequest]

@[simp] theorem mgResetW_lasting (s v) : lasting (mgResetW s v) = lasting s := by simp [mgResetW]

@[simp] theorem execMgReset_lasts (a v s) : Lasts s (execMgReset a v s) := by simp [execMgReset]

@[simp] theorem stopIo_lasting (s f) : lasting (stopIo s f) = lasting s := by simp [stopIo]

@[simp] theorem dropChains_lasting (s f) : lasting (dropChains s f) = lasting s := by simp [dropChains]

@[simp] theorem freeContexts_lasting (s f) : lasting (freeContexts s f) = lasting s := by
  unfold freeContexts; split <;> simp

@[simp] theorem eraseOwner_lasting (s f) : lasting (eraseOwner s f) = lasting s := by simp [eraseOwner]

@[simp] theorem vfStop_lasting (s f) : lasting (vfStop s f) = lasting s := by simp [vfStop]

@[simp] theorem vfReset_lasting (s f flr) : lasting (vfReset s f flr) = lasting s := by simp [vfReset]

@[simp] theorem vfCtlW_lasting (s f v) : lasting (vfCtlW s f v) = lasting s := by simp [vfCtlW]

@[simp] theorem execVfCtlReset_lasts (a f v s) : Lasts s (execVfCtlReset a f v s) := by simp [execVfCtlReset]

@[simp] theorem takeFlr_lasting (s n) : lasting (takeFlr s n) = lasting s := by simp [takeFlr]

@[simp] theorem fpError_lasting (s) : lasting (fpError s) = lasting s := by simp [fpError]

@[simp] theorem flrHeld_lasting (s n parityOk) : lasting (flrHeld s n parityOk) = lasting s := by simp [flrHeld]

@[simp] theorem flrBeat_lasting (s x) : lasting (flrBeat s x) = lasting s := by simp [flrBeat]

@[simp] theorem execFlrRequest_lasts (f parityOk s) :
    Lasts s (execFlrRequest f parityOk s) := by simp [execFlrRequest]

@[simp] theorem execA2ExitComplete_lasts (s) : Lasts s (execA2ExitComplete s) := by simp [execA2ExitComplete]

@[simp] theorem vfDone_lasting (s f) : lasting (vfDone s f) = lasting s := by simp [vfDone]

@[simp] theorem execVfResetComplete_lasts (f s) :
    Lasts s (execVfResetComplete f s) := by simp [execVfResetComplete]

@[simp] theorem execCtxFillDone_lasts (f s) : Lasts s (execCtxFillDone f s) := by simp [execCtxFillDone]

@[simp] theorem execPendingQuery_lasts (f parityOk s) :
    Lasts s (execPendingQuery f parityOk s) := by simp [execPendingQuery]

@[simp] theorem resend_lasting (s odd) : lasting (resend s odd) = lasting s := by
  simp only [resend]; (repeat' split) <;> simp

@[simp] theorem execFpHostPerr_lasts (s) : Lasts s (execFpHostPerr s) := by simp [execFpHostPerr]

@[simp] theorem hostTakes_lasting (s) : lasting (hostTakes s) = lasting s := by simp [hostTakes]

/-! ## Machine/Control.lean -/

@[simp] theorem controlEdge_lasting (s) : lasting (controlEdge s) = lasting s := by simp [controlEdge]

@[simp] theorem resetEdge_lasting (s) : lasting (resetEdge s) = lasting s := by simp [resetEdge]

@[simp] theorem cycleEdge_lasting (s) : lasting (cycleEdge s) = lasting s := by simp [cycleEdge]

@[simp] theorem leave_lasting (s) : lasting (leave s) = lasting s := by simp [leave]

@[simp] theorem countCycle_lasting (s) : lasting (countCycle s) = lasting s := by simp [countCycle]

@[simp] theorem rootCycle_lasting (s) : lasting (rootCycle s) = lasting s := by simp [rootCycle]

/-! ## Machine/Debug.lean -/

@[simp] theorem setDbg_lasting (s code) : lasting (setDbg s code) = lasting s := by simp [setDbg]

@[simp] theorem dbgChallenge_lasting (s) : lasting (dbgChallenge s) = lasting s := by simp [dbgChallenge]

@[simp] theorem dbgAuth_lasting (s) : lasting (dbgAuth s) = lasting s := by simp [dbgAuth]

@[simp] theorem dbgRelease_lasting (s) : lasting (dbgRelease s) = lasting s := by simp [dbgRelease]

@[simp] theorem dbgCmd_lasting (s v) : lasting (dbgCmd s v) = lasting s := by simp [dbgCmd]

@[simp] theorem execDbgChallenge_lasts (a s) : Lasts s (execDbgChallenge a s) := by simp [execDbgChallenge]

@[simp] theorem execDbgAuth_lasts (a s) : Lasts s (execDbgAuth a s) := by simp [execDbgAuth]

@[simp] theorem execDbgRelease_lasts (a s) : Lasts s (execDbgRelease a s) := by simp [execDbgRelease]

@[simp] theorem drawOpr_lasting (s) : lasting (drawOpr s) = lasting s := by simp [drawOpr]

@[simp] theorem execDbgNonceExpire_lasts (s) : Lasts s (execDbgNonceExpire s) := by
  unfold execDbgNonceExpire; split <;> simp

@[simp] theorem execLockedLogInterval_lasts (s) :
    Lasts s (execLockedLogInterval s) := by simp [execLockedLogInterval]

@[simp] theorem acNoticeW_lasting (s v) : lasting (acNoticeW s v) = lasting s := by simp [acNoticeW]

@[simp] theorem execAcNoticeClear_lasts (a v s) :
    Lasts s (execAcNoticeClear a v s) := by simp [execAcNoticeClear]

/-! ## Machine/Helms.lean -/

@[simp] theorem trapUnit_lasting (s uid) : lasting (trapUnit s uid) = lasting s := by simp [trapUnit]

@[simp] theorem helmTrap_lasting (s h cause) : lasting (helmTrap s h cause) = lasting s := by simp [helmTrap]

@[simp] theorem execHelmTrap_lasts (h cause s) : Lasts s (execHelmTrap h cause s) := by simp [execHelmTrap]

@[simp] theorem preemptW_lasting (s v) : lasting (preemptW s v) = lasting s := by simp [preemptW]

@[simp] theorem execHlPreempt_lasts (a v s) : Lasts s (execHlPreempt a v s) := by simp [execHlPreempt]

@[simp] theorem faultClrW_lasting (s v) : lasting (faultClrW s v) = lasting s := by simp [faultClrW]

@[simp] theorem execBnFaultClr_lasts (a v s) : Lasts s (execBnFaultClr a v s) := by simp [execBnFaultClr]

@[simp] theorem execUnitKatDone_lasts (pass s) : Lasts s (execUnitKatDone pass s) := by simp [execUnitKatDone]

/-! ## Machine/Payments.lean -/

@[simp] theorem execPinFailInterval_lasts (s) : Lasts s (execPinFailInterval s) := by simp [execPinFailInterval]

@[simp] theorem pyNoticeW_lasting (s v) : lasting (pyNoticeW s v) = lasting s := by simp [pyNoticeW]

@[simp] theorem execPyNoticeClear_lasts (a v s) :
    Lasts s (execPyNoticeClear a v s) := by simp [execPyNoticeClear]

/-! ## Machine/RegsBase.lean -/

@[simp] theorem ro_lasting (s n) : lasting (ro s n).1 = lasting s := by simp [ro]

@[simp] theorem rgRead_lasting (s g o) : lasting (rgRead s g o).1 = lasting s := by
  unfold rgRead; split <;> simp

@[simp] theorem rgWrite_lasting (s g o v) : lasting (rgWrite s g o v) = lasting s := by
  unfold rgWrite; split <;> simp

@[simp] theorem cqRead_lasting (s q o) : lasting (cqRead s q o).1 = lasting s := by
  unfold cqRead; split <;> simp

@[simp] theorem wpPosW_lasting (s q v) : lasting (wpPosW s q v) = lasting s := by simp [wpPosW]

@[simp] theorem cqWrite_lasting (s q o v) : lasting (cqWrite s q o v) = lasting s := by
  unfold cqWrite; split <;> simp

@[simp] theorem nvRead_lasting (s f k o) : lasting (nvRead s f k o).1 = lasting s := by
  unfold nvRead; (repeat' split) <;> simp

@[simp] theorem nvWrite_lasting (s f k o v) : lasting (nvWrite s f k o v) = lasting s := by
  unfold nvWrite; split <;> simp

@[simp] theorem adPoolRead_lasting (s p o) : lasting (adPoolRead s p o).1 = lasting s := by
  unfold adPoolRead; split <;> simp

@[simp] theorem adClassRead_lasting (s k o) : lasting (adClassRead s k o).1 = lasting s := by
  unfold adClassRead; (repeat' split) <;> simp

@[simp] theorem adRead_lasting (s o) : lasting (adRead s o).1 = lasting s := by
  unfold adRead; (repeat' split) <;> simp

@[simp] theorem famWmW_lasting (s p v) : lasting (famWmW s p v) = lasting s := by simp [famWmW]

@[simp] theorem adWrite_lasting (s o v) : lasting (adWrite s o v) = lasting s := by
  unfold adWrite; (repeat' split) <;> simp

@[simp] theorem iqPoolRead_lasting (s p o) : lasting (iqPoolRead s p o).1 = lasting s := by
  unfold iqPoolRead; split <;> simp

@[simp] theorem iqRead_lasting (s o) : lasting (iqRead s o).1 = lasting s := by
  unfold iqRead; (repeat' split) <;> simp

@[simp] theorem iqWmW_lasting (s p v) : lasting (iqWmW s p v) = lasting s := by simp [iqWmW]

@[simp] theorem iqWrite_lasting (s o v) : lasting (iqWrite s o v) = lasting s := by
  unfold iqWrite; (repeat' split) <;> simp

/-! ## Machine/RegsUnit.lean -/

@[simp] theorem setCnt_lasting (s uid c) : lasting (setCnt s uid c) = lasting s := by simp [setCnt]

@[simp] theorem unCommon_lasting (s r o) : lasting (unCommon s r o).1 = lasting s := by
  unfold unCommon; split <;> simp

@[simp] theorem unTile_lasting (s r o) : lasting (unTile s r o).1 = lasting s := by
  unfold unTile; split <;> simp

@[simp] theorem atParity_lasting (s uid) : lasting (atParity s uid).1 = lasting s := by simp [atParity]

@[simp] theorem unArith_lasting (s r o) : lasting (unArith s r o).1 = lasting s := by
  unfold unArith; split <;> simp

@[simp] theorem setAr_lasting (s t f) : lasting (setAr s t f) = lasting s := by simp [setAr]

@[simp] theorem unArithW_lasting (s uid o v) : lasting (unArithW s uid o v) = lasting s := by
  unfold unArithW; split <;> simp

@[simp] theorem unRead_lasting (s uid o) : lasting (unRead s uid o).1 = lasting s := by
  unfold unRead; (repeat' split) <;> simp

@[simp] theorem unWrite_lasting (s uid o v) : lasting (unWrite s uid o v) = lasting s := by
  unfold unWrite; split <;> simp

@[simp] theorem helmRead_lasting (s h o) : lasting (helmRead s h o).1 = lasting s := by
  unfold helmRead; split <;> simp

@[simp] theorem hlRead_lasting (s o) : lasting (hlRead s o).1 = lasting s := by
  unfold hlRead; (repeat' split) <;> simp

@[simp] theorem hlWrite_lasting (s o v) : lasting (hlWrite s o v) = lasting s := by simp [hlWrite]

/-! ## Machine/RegsCore.lean -/

@[simp] theorem mgRead_lasting (s o) : lasting (mgRead s o).1 = lasting s := by
  unfold mgRead; (repeat' split) <;> simp

@[simp] theorem mgWrite_lasting (s o v) : lasting (mgWrite s o v) = lasting s := by
  unfold mgWrite; split <;> simp [hiWrite, txGate]

@[simp] theorem chRead_lasting (s o) : lasting (chRead s o).1 = lasting s := by
  unfold chRead; (repeat' split) <;> simp

@[simp] theorem scRead_lasting (s o) : lasting (scRead s o).1 = lasting s := by
  unfold scRead; split <;> simp

@[simp] theorem scWrite_lasting (s o v) : lasting (scWrite s o v) = lasting s := by
  unfold scWrite; split <;> simp

@[simp] theorem kvRegRead_lasting (s o) : lasting (kvRegRead s o).1 = lasting s := by
  unfold kvRegRead; (repeat' split) <;> simp

@[simp] theorem kvRegWrite_lasting (s o v) : lasting (kvRegWrite s o v) = lasting s := by
  unfold kvRegWrite; split <;> simp [hiWrite]

@[simp] theorem pyRead_lasting (s o) : lasting (pyRead s o).1 = lasting s := by
  unfold pyRead; split <;> simp

@[simp] theorem pyWrite_lasting (s o v) : lasting (pyWrite s o v) = lasting s := by
  unfold pyWrite; split <;> simp

@[simp] theorem lcRead_lasting (s o) : lasting (lcRead s o).1 = lasting s := by
  unfold lcRead; (repeat' split) <;> simp

@[simp] theorem bnRead_lasting (s o) : lasting (bnRead s o).1 = lasting s := by
  unfold bnRead; (repeat' split) <;> simp

@[simp] theorem ckRead_lasting (s o) : lasting (ckRead s o).1 = lasting s := by
  unfold ckRead; split <;> simp

@[simp] theorem ckWrite_lasting (s o v) : lasting (ckWrite s o v) = lasting s := by
  unfold ckWrite; split <;> simp

@[simp] theorem sdRegRead_lasting (s o) : lasting (sdRegRead s o).1 = lasting s := by
  unfold sdRegRead; split <;> simp

@[simp] theorem sdRegWrite_lasting (s o v) : lasting (sdRegWrite s o v) = lasting s := by
  unfold sdRegWrite; split <;> simp

@[simp] theorem lbRead_lasting (s o) : lasting (lbRead s o).1 = lasting s := by
  unfold lbRead; split <;> simp

@[simp] theorem lbWrite_lasting (s o v) : lasting (lbWrite s o v) = lasting s := by
  unfold lbWrite; split <;> simp

@[simp] theorem vfRead_lasting (s f o) : lasting (vfRead s f o).1 = lasting s := by
  unfold vfRead; split <;> simp

@[simp] theorem vfStatW_lasting (s f v) : lasting (vfStatW s f v) = lasting s := by simp [vfStatW]

@[simp] theorem vfWrite_lasting (s f o v) : lasting (vfWrite s f o v) = lasting s := by
  unfold vfWrite; split <;> simp

@[simp] theorem tenantRead_lasting (s f o) : lasting (tenantRead s f o).1 = lasting s := by
  unfold tenantRead; split <;> simp

@[simp] theorem vfWinRead_lasting (s f o) : lasting (vfWinRead s f o).1 = lasting s := by
  unfold vfWinRead; (repeat' split) <;> simp

@[simp] theorem vfWinWrite_lasting (s f o v) : lasting (vfWinWrite s f o v) = lasting s := by
  unfold vfWinWrite; (repeat' split) <;> simp

@[simp] theorem outRuleRead_lasting (s i k) : lasting (outRuleRead s i k).1 = lasting s := by
  unfold outRuleRead; split <;> simp

@[simp] theorem acStatRead_lasting (s o) : lasting (acStatRead s o).1 = lasting s := by
  unfold acStatRead; split <;> simp

@[simp] theorem acRead_lasting (s o) : lasting (acRead s o).1 = lasting s := by
  unfold acRead; (repeat' split) <;> simp

@[simp] theorem acWrite_lasting (s o v) : lasting (acWrite s o v) = lasting s := by
  unfold acWrite; split <;> simp

/-! ## Machine/Startup.lean -/

@[simp] theorem helmTested_lasting (bad s h) : lasting (helmTested bad s h) = lasting s := by simp [helmTested]

/-! ## Machine/Ports.lean -/

@[simp] theorem regRead_lasting (s off) : lasting (regRead s off).1 = lasting s := by
  simp only [regRead]
  split_ifs
  iterate 5 simp
  split <;> simp

@[simp] theorem storeRead_lasting (s b zero o n) : lasting (storeRead s b zero o n).1 = lasting s := by
  unfold storeRead; split <;> simp

theorem romRead_lasting {s off n x} (h : romRead s off n = some x) : lasting x.1 = lasting s := by
  unfold romRead at h
  (repeat' split at h) <;> cases h <;> simp

@[simp] theorem mgmtRead_lasting (s a off) : lasting (mgmtRead s a off).1 = lasting s := by
  simp only [mgmtRead]
  split
  · simp
  · split
    · next hx => split <;> simp [romRead_lasting hx]
    · split <;> simp

@[simp] theorem portRead_lasting (s a addr) : lasting (portRead s a addr) = lasting s := by
  simp only [portRead]
  split
  · rfl
  · split
    · next hx => simp [fst_lasting hx]
    · next hx => (repeat' split) <;> simp [fst_lasting hx]

@[simp] theorem execRcRead_lasts (a addr s) : Lasts s (execRcRead a addr s) := by simp [execRcRead]

@[simp] theorem execInboundRead_lasts (a addr s) :
    Lasts s (execInboundRead a addr s) := by simp [execInboundRead]

@[simp] theorem middleParity_lasting (s o) : lasting (middleParity s o) = lasting s := by
  unfold middleParity; (repeat' split) <;> simp

@[simp] theorem middleBytes_lasting (s o) : lasting (middleBytes s o).1 = lasting s := by
  unfold middleBytes; split <;> simp

@[simp] theorem middleRead_lasting (s o parity) : lasting (middleRead s o parity).1 = lasting s := by simp [middleRead]

theorem dbgMemory_lasting {s addr parity x} (h : dbgMemory s addr parity = some x) : lasting x.1 = lasting s := by
  simp only [dbgMemory] at h
  (repeat' split at h) <;> cases h <;> simp

@[simp] theorem dbgJudge_lasting (s r addr write) : lasting (dbgJudge s r addr write).1 = lasting s := by
  unfold dbgJudge; split <;> simp

@[simp] theorem dbgLoad_lasting (s r addr) : lasting (dbgLoad s r addr).1 = lasting s := by
  unfold dbgLoad
  split
  · simp
  · split
    · next hx => simpa using dbgMemory_lasting hx
    · rfl

@[simp] theorem dbgAnswer_lasting (s x) : lasting (dbgAnswer s x) = lasting s := by simp [dbgAnswer]

end Sys2Proof.Machine

namespace Sys2Proof.Machine

/-!
# What lasts endures every step

The few functions that write what lasts let it endure: a fuse bit is only ever set, an action is stored at or above its floor,
the writer fills the next pinned slot or a circular one, and the fuses decode to a state of R325. So does every function that
calls them, in the order of the model, and every step.
-/

@[simp] theorem lasting_fuses (s : State) : (lasting s).fuses = s.fuses := rfl
@[simp] theorem lasting_lc (s : State) : (lasting s).lc = s.lc.state := rfl
@[simp] theorem lasting_act (s : State) : (lasting s).act = s.bn.act := rfl
@[simp] theorem lasting_known (s : State) : (lasting s).known = s.bn.lcKnown := rfl
@[simp] theorem lasting_slots (s : State) : (lasting s).slots = s.lb.slots := rfl
@[simp] theorem lasting_next (s : State) : (lasting s).next = s.lb.next := rfl
@[simp] theorem lasting_pinned (s : State) : (lasting s).pinned = s.lb.pinned := rfl

/-- The floors while the life-cycle state is known to be k, or is not known (R346). -/
def Lasting.floors (v : Lasting) : List Nat := Machine.floors { State.reset with bn := { Bn.reset with lcKnown := v.known } }

/-- A fuse bit of it (R397). -/
def Lasting.bit (v : Lasting) (b : Nat) : Bool := (v.fuses.get 0 (b / 32)).getLsbD (b % 32)

/-- Its Logbook positions are where R360 puts them. -/
def Lasting.Placed (v : Lasting) : Prop := v.pinned ≤ 256 ∧ 256 ≤ v.next ∧ v.next < 16384

/-- Its actions are at or above their floors (R346). -/
def Lasting.AboveFloors (v : Lasting) : Prop :=
  v.act.length = 12 ∧ ∀ n, n < 12 → v.floors.getD n 0 ≤ v.act.getD n 0

/-- What v holds endures in w: its fuse bits that read 1, its pinned slots and the places of its positions, its actions above
their floors, and a life-cycle state of R325. -/
structure Endures (v w : Lasting) : Prop where
  fuses : ∀ b, v.bit b = true → w.bit b = true
  log : v.Placed → w.Placed ∧ v.pinned ≤ w.pinned ∧ ∀ i, i < v.pinned → w.slots.find i = v.slots.find i
  floors : v.AboveFloors → w.AboveFloors
  lc : v.lc ∈ [1, 2, 3, 4, 5, 6, 0x0F] → w.lc ∈ [1, 2, 3, 4, 5, 6, 0x0F]

namespace Endures

theorem refl (v : Lasting) : Endures v v := ⟨fun _ => id, fun h => ⟨h, le_rfl, fun _ _ => rfl⟩, id, id⟩

theorem trans {u v w : Lasting} (h : Endures u v) (k : Endures v w) : Endures u w where
  fuses b hb := k.fuses b (h.fuses b hb)
  log hu := by
    obtain ⟨hv, hp, hs⟩ := h.log hu
    obtain ⟨hw, kp, ks⟩ := k.log hv
    exact ⟨hw, hp.trans kp, fun i hi => (ks i (hi.trans_le hp)).trans (hs i hi)⟩
  floors := k.floors ∘ h.floors
  lc := k.lc ∘ h.lc

end Endures

/-! ## The functions that write what lasts -/

theorem programBit_step (s : State) (b : Nat) : Endures (lasting s) (lasting (programBit s b)) where
  fuses c hc := by
    have hc : ((s.fuses.get 0 (c / 32)).getLsbD (c % 32)) = true := hc
    change ((s.fuses.set (b / 32) _).get 0 (c / 32)).getLsbD (c % 32) = true
    by_cases hw : c / 32 = b / 32
    · rw [hw] at hc ⊢
      rw [Tbl.get_set_same, BitVec.getLsbD_or, Bool.or_eq_true]
      exact .inl hc
    · rwa [Tbl.get_set_ne _ _ _ _ _ hw]
  log h := ⟨h, le_rfl, fun _ _ => rfl⟩
  floors := id
  lc := id

theorem nextSlot_mem (n : Nat) (h : 256 ≤ n) : 256 ≤ nextSlot n ∧ nextSlot n < 16384 := by
  unfold nextSlot; split <;> omega

/-- A pinned slot is written while one is left; the earlier ones stay (R360). -/
theorem endures_pin (v : Lasting) (b : Bytes) (h : v.pinned < 256) :
    Endures v { v with slots := v.slots.set v.pinned b, pinned := v.pinned + 1 } where
  fuses _ := id
  log hv := ⟨⟨h, hv.2⟩, Nat.le_succ _, fun _ hi => Tbl.find_set_ne _ _ _ _ hi.ne⟩
  floors := id
  lc := id

/-- A circular slot lies behind every pinned one (R360). -/
theorem endures_circular (v : Lasting) (b : Bytes) {n : Nat} (h : v.Placed → 256 ≤ n ∧ n < 16384) :
    Endures v { v with slots := v.slots.set v.next b, next := n } where
  fuses _ := id
  log hv := by
    obtain ⟨hp, hn, hlt⟩ := hv
    exact ⟨⟨hp, h ⟨hp, hn, hlt⟩⟩, le_rfl, fun i hi => Tbl.find_set_ne _ _ _ _ (by omega)⟩
  floors := id
  lc := id

theorem writeSlot_step (s : State) : Endures (lasting s) (lasting (writeSlot s)) := by
  unfold writeSlot
  split
  · exact .refl _
  · next r _ _ =>
    split
    · next hq =>
      have hlt : s.lb.pinned < 256 := of_decide_eq_true ((Bool.and_eq_true _ _).mp hq).2
      have h := endures_pin (lasting s) (logBytes s r) hlt
      dsimp only
      split <;> simpa using h
    · have h := endures_circular (lasting s) (logBytes s r) fun hv => nextSlot_mem _ hv.2.1
      dsimp only
      (repeat' split) <;> simpa using h

theorem tearSlot_step (s : State) : Endures (lasting s) (lasting (tearSlot s)) := by
  unfold tearSlot
  split
  · exact .refl _
  · dsimp only
    split
    · next hq =>
      have hlt : s.lb.pinned < 256 := of_decide_eq_true ((Bool.and_eq_true _ _).mp hq).2
      have h := endures_pin (lasting s) (tornBytes (freeBytes s 64)) hlt
      split <;> simpa using h
    · have h := endures_circular (lasting s) (tornBytes (freeBytes s 64)) fun hv => hv.2
      split <;> simpa using h

/-- Raised to its floor, each of the twelve actions is above it (R346). -/
theorem aboveFloors_raiseFloors {s : State} (hl : s.bn.act.length = 12) : (lasting (raiseFloors s)).AboveFloors := by
  refine ⟨by simpa [raiseFloors] using hl, fun n hn => ?_⟩
  have hm : (s.bn.act.mapIdx fun i a => max a (bnFloor s i)).getD n 0 = max (s.bn.act.getD n 0) (bnFloor s n) := by
    simp [List.getD_eq_getElem?_getD, hl, hn]
  exact (le_max_right ..).trans hm.ge

/-- The Binnacle learns a state, whose floors the actions are raised to (R346). -/
theorem lcPass_step (s : State) (n : Nat) : Endures (lasting s) (lasting (lcPass s n)) where
  fuses _ := id
  log h := ⟨h, le_rfl, fun _ _ => rfl⟩
  floors h := aboveFloors_raiseFloors h.1
  lc := id

/-- The newest circular record stands in the circular area. -/
theorem newest_ge {lo : Nat} {l : Tbl Bytes} {i : Nat} {q : Word} (h : newest lo l = some (i, q)) : lo ≤ i := by
  have key : ∀ x ∈ newest lo l, lo ≤ x.1 :=
    List.foldlRecOn (motive := fun o : Option (Nat × Word) => ∀ x ∈ o, lo ≤ x.1) l _ (by simp) fun b hb e _ x hx => by
      split at hx
      · exact hb x hx
      · next hc =>
        have he : lo ≤ e.1 := by simp at hc; exact hc.1
        split at hx
        · cases hx; exact he
        · split at hx
          · cases hx; exact he
          · exact hb x hx
  exact key _ h

/-- The scan leaves every slot; the circular position is behind a circular record (R363). -/
theorem lasting_scanLog (s : State) :
    lasting (scanLog s) =
      { lasting s with next := ((newest 256 s.lb.slots).map fun x => nextSlot x.1).getD s.lb.next } := by
  simp only [scanLog]
  (repeat' split) <;> simp_all

theorem scanLog_step (s : State) : Endures (lasting s) (lasting (scanLog s)) where
  fuses _ hb := by rwa [lasting_scanLog]
  log h := by
    rw [lasting_scanLog]
    refine ⟨⟨h.1, ?_⟩, le_rfl, fun _ _ => rfl⟩
    dsimp only
    cases hn : newest 256 s.lb.slots with
    | none => exact h.2
    | some x => exact nextSlot_mem _ (newest_ge hn)
  floors h := by rwa [lasting_scanLog]
  lc h := by rwa [lasting_scanLog]

theorem resetCore_step (s : State) (kind : Nat) : Endures (lasting s) (lasting (resetCore s kind)) where
  fuses _ := id
  log h := ⟨h, le_rfl, fun _ _ => rfl⟩
  floors := id
  lc _ := by simp [resetCore, State.reset, Lc.reset]

/-- A decoded state is one of R325. -/
def Decoded.Legal (d : Decoded) : Prop := ∀ n, d = .state n → n ∈ [1, 2, 3, 4, 5, 6, 0x0F]

theorem Decoded.legal_ite {c : Prop} [Decidable c] {d e : Decoded} (hd : d.Legal) (he : e.Legal) :
    (if c then d else e).Legal := by
  split <;> assumption

theorem Decoded.legal_state {n : Nat} (h : n ∈ [1, 2, 3, 4, 5, 6, 0x0F]) : (Decoded.state n).Legal :=
  fun _ hm => by cases hm; exact h

theorem Decoded.legal_resume (n : Nat) : (Decoded.resume n).Legal := nofun

theorem resumable_legal (s : State) : (resumable s).Legal :=
  Decoded.legal_ite (Decoded.legal_state (by decide)) (Decoded.legal_resume 3)

/-- The rows of R333, in their order. -/
theorem decodeFuses_legal (s : State) : (decodeFuses s).Legal := by
  unfold decodeFuses
  refine Decoded.legal_ite (Decoded.legal_state (by decide)) ?_
  refine Decoded.legal_ite (Decoded.legal_state (by decide)) ?_
  refine Decoded.legal_ite (resumable_legal s) ?_
  refine Decoded.legal_ite (Decoded.legal_resume 2) ?_
  refine Decoded.legal_ite (Decoded.legal_state (by decide)) ?_
  refine Decoded.legal_ite (Decoded.legal_state (by decide)) ?_
  refine Decoded.legal_ite ?_ ?_
  · exact Decoded.legal_ite (Decoded.legal_state (by split <;> decide)) (Decoded.legal_state (by decide))
  refine Decoded.legal_ite (Decoded.legal_state (by decide)) ?_
  refine Decoded.legal_ite (Decoded.legal_state (by decide)) ?_
  refine Decoded.legal_ite (Decoded.legal_resume 2) ?_
  exact Decoded.legal_ite (resumable_legal s) (Decoded.legal_state (by decide))

theorem drainLog_step (n : Nat) (s : State) : Endures (lasting s) (lasting (drainLog n s)) := by
  induction n generalizing s with
  | zero => exact .refl _
  | succ n ih => exact (writeSlot_step s).trans (ih _)

theorem lbRoom_step (n : Nat) (s : State) : Endures (lasting s) (lasting (lbRoom n s)) := by
  induction n generalizing s with
  | zero => exact .refl _
  | succ n ih =>
    unfold lbRoom
    split
    · exact .refl _
    · exact (writeSlot_step s).trans (ih _)

/-- An action stored by a write is not below its floor (R346). -/
theorem bnActW_step (s : State) (n : Nat) (x : Word) : Endures (lasting s) (lasting (bnActW s n x)) where
  fuses b hb := by unfold bnActW; dsimp only; split <;> exact hb
  log hs := by unfold bnActW; dsimp only; split <;> exact ⟨hs, le_rfl, fun _ _ => rfl⟩
  floors hs := by
    unfold bnActW
    dsimp only
    split
    · exact hs
    · obtain ⟨hl, hf⟩ := hs
      refine ⟨by simpa using hl, fun m hm => ?_⟩
      have hk : (s.bn.act.set n (max (wfld x 0 2) (bnFloor s n))).getD m 0 =
          if n = m then max (wfld x 0 2) (bnFloor s n) else s.bn.act.getD m 0 := by
        have hm' : m < s.bn.act.length := by simpa using hl ▸ hm
        split <;> simp_all [List.getD_eq_getElem?_getD]
      refine le_trans ?_ hk.ge
      split
      · next he => subst he; exact le_max_right ..
      · exact hf m hm
  lc hs := by unfold bnActW; dsimp only; split <;> exact hs

/-- The step that reads the fuses ends in a state of R325. -/
theorem endures_lc (v : Lasting) {n : Nat} (hn : n ∈ [1, 2, 3, 4, 5, 6, 0x0F]) : Endures v { v with lc := n } :=
  ⟨fun _ => id, fun h => ⟨h, le_rfl, fun _ _ => rfl⟩, id, fun _ => hn⟩

section
variable {v : Lasting} {s : State} (h : Endures v (lasting s))
include h

@[simp] theorem lbAppend_endures (type pin exempt data) : Endures v (lasting (lbAppend s type pin exempt data)) := by
  simpa [lbAppend] using h.trans (lbRoom_step 2 s)

@[simp] theorem logReq_endures (type pin exempt data) : Endures v (lasting (logReq s type pin exempt data)) := by
  cases exempt
  · simpa using h
  · simp [logReq, h]

@[simp] theorem alarmRecord_endures (src act) : Endures v (lasting (alarmRecord s src act)) := by
  unfold alarmRecord; dsimp only; (repeat' split) <;> simp [h]

@[simp] theorem closeGroup_endures (reset vddReset) : Endures v (lasting (closeGroup s reset vddReset)) := by
  unfold closeGroup; split
  · simp [h]
  · simp [h]

@[simp] theorem resetRecord_endures : Endures v (lasting (resetRecord s)) := by
  unfold resetRecord; split <;> simp [h]

end

/-- The state that an outcome names holds what v holds. -/
def Ends (v : Lasting) (o : Host.Outcome State Fault Refusal) : Prop := ∀ t, o = .next t → Endures v (lasting t)

@[simp] theorem ends_next (v : Lasting) (t : State) : Ends v (.next t) ↔ Endures v (lasting t) := by
  simp [Ends]

@[simp] theorem endures_ite (v : Lasting) (c : Prop) [Decidable c] (w x : Lasting) :
    Endures v (if c then w else x) ↔ (c → Endures v w) ∧ (¬c → Endures v x) := by
  split <;> simp [*]

theorem fst_endures {α : Type} {v : Lasting} {x : State × α} {t : State} {r : α} (hx : x = (t, r))
    (h : Endures v (lasting x.1)) : Endures v (lasting t) := by
  rwa [hx] at h

section
variable {v : Lasting} {s : State} (h : Endures v (lasting s))
include h

@[simp] theorem programBit_endures (b) : Endures v (lasting (programBit s b)) := h.trans (programBit_step s b)

@[simp] theorem bnActW_endures (n x) : Endures v (lasting (bnActW s n x)) := h.trans (bnActW_step s n x)

@[simp] theorem lcPass_endures (n) : Endures v (lasting (lcPass s n)) := h.trans (lcPass_step s n)

@[simp] theorem resetCore_endures (kind) : Endures v (lasting (resetCore s kind)) := h.trans (resetCore_step s kind)

@[simp] theorem hostWrite_endures (a off) {eff : State → State}
    (he : Endures v (lasting (eff (access s a true off).1))) : Endures v (lasting (hostWrite s a off eff)) := by
  have hs : Endures v (lasting (access s a true off).1) := by simpa using h
  unfold hostWrite
  split
  · exact h
  · generalize access s a true off = x at he hs
    obtain ⟨t, _ | c⟩ := x
    · simp only [apply_ite lasting, respond_lasting, endures_ite]
      exact ⟨fun _ => he, fun _ => hs⟩
    · simpa using hs

@[simp] theorem alarmReport_endures (src) : Endures v (lasting (alarmReport s src)) := by
  unfold alarmReport
  dsimp only
  split
  · exact h
  · split
    · simp [h]
    · rw [bnLatch_lasting]
      refine alarmRecord_endures ?_ _ _
      simp [h]

@[simp] theorem sensorSample_endures (vsbMv vddMv hot cold) :
    Endures v (lasting (sensorSample s vsbMv vddMv hot cold)) := by simp [sensorSample, h]

@[simp] theorem supplySample_endures (vsbMv vddMv hot cold) :
    Endures v (lasting (supplySample s vsbMv vddMv hot cold)) := by simp [supplySample, h]

@[simp] theorem healthFail_endures : Endures v (lasting (healthFail s)) := by simp [healthFail, h]

@[simp] theorem unitFault_endures (uid) : Endures v (lasting (unitFault s uid)) := by simp [unitFault, h]

@[simp] theorem mismatch_endures (uid j b) : Endures v (lasting (mismatch s uid j b)) := by simp [mismatch, h]

@[simp] theorem atMismatch_endures (uid c) : Endures v (lasting (atMismatch s uid c)) := by simp [atMismatch, h]

@[simp] theorem atFinish_endures (uid c env) : Endures v (lasting (atFinish s uid c env)) := by simp [atFinish, h]

@[simp] theorem fuseEnd_endures (n) : Endures v (lasting (fuseEnd n s)) := by
  induction n generalizing s with
  | zero => exact h
  | succ n ih => unfold fuseEnd; split <;> simp [ih, h]

@[simp] theorem fuseStart_endures (what steps) : Endures v (lasting (fuseStart s what steps)) := by simp [fuseStart, h]

@[simp] theorem fusePulse_endures : Endures v (lasting (fusePulse s)) := by
  unfold fusePulse; split <;> simp [h]

@[simp] theorem lcEnd_endures : Endures v (lasting (lcEnd s)) := by
  unfold lcEnd; split <;> simp [h]

@[simp] theorem lcDecodeLog_endures (n) : Endures v (lasting (lcDecodeLog s n)) := by simp [lcDecodeLog, h]

@[simp] theorem lcRequest_endures (x) : Endures v (lasting (lcRequest s x)) := by simp [lcRequest, h]

@[simp] theorem lcFuseCmd_endures (x) : Endures v (lasting (lcFuseCmd s x)) := by simp [lcFuseCmd, h]

@[simp] theorem chartLog_endures (result svn fw) : Endures v (lasting (chartLog s result svn fw)) := by simp [chartLog, h]

@[simp] theorem chartReject_endures (b phase f) : Endures v (lasting (chartReject s b phase f)) := by
  simp [chartReject, h]

@[simp] theorem chartInstall_endures (b) : Endures v (lasting (chartInstall s b)) := by simp [chartInstall, h]

@[simp] theorem chartEnd_endures : Endures v (lasting (chartEnd s)) := by
  simp only [chartEnd]; (repeat' split) <;> simp [h]

@[simp] theorem chAdvance_endures : Endures v (lasting (chAdvance s)) := by simp [chAdvance, h]

@[simp] theorem chJudge_endures (x) : Endures v (lasting (chJudge s x)) := by simp [chJudge, h]

@[simp] theorem chCmdW_endures (x) : Endures v (lasting (chCmdW s x)) := by simp [chCmdW, h]

@[simp] theorem chRelease_endures : Endures v (lasting (chRelease s)) := by
  unfold chRelease; split <;> simp [h]

@[simp] theorem startRecord_endures (step error) : Endures v (lasting (startRecord s step error)) := by
  simp [startRecord, h]

@[simp] theorem vsbReset_endures : Endures v (lasting (vsbReset s)) := by simp [vsbReset, h]

@[simp] theorem vddReset_endures : Endures v (lasting (vddReset s)) := by simp [vddReset, h]

@[simp] theorem holdUp_endures (ok) : Endures v (lasting (holdUp s ok)) := by
  have hd := h.trans (drainLog_step (2 * s.lb.queue.length) s)
  have ht := h.trans (tearSlot_step s)
  simp [holdUp, hd, ht]

@[simp] theorem dbgGrant_endures : Endures v (lasting (dbgGrant s)) := by simp [dbgGrant, h]

@[simp] theorem bnWrite_endures (o x) : Endures v (lasting (bnWrite s o x)) := by
  unfold bnWrite; split <;> simp [h]

@[simp] theorem lcWrite_endures (o x) : Endures v (lasting (lcWrite s o x)) := by
  unfold lcWrite; split <;> simp [h]

@[simp] theorem chWrite_endures (o x) : Endures v (lasting (chWrite s o x)) := by
  unfold chWrite; split <;> simp [hiWrite, h]

@[simp] theorem startFail_endures (code) : Endures v (lasting (startFail s code)) := by simp [startFail, h]

@[simp] theorem startReady_endures : Endures v (lasting (startReady s)) := by simp [startReady, h]

@[simp] theorem endSelfTest_endures (env) : Endures v (lasting (endSelfTest s env)) := by simp [endSelfTest, h]

@[simp] theorem lcSettle_endures {n} (hn : n ∈ [1, 2, 3, 4, 5, 6, 0x0F]) : Endures v (lasting (lcSettle s n)) := by
  have hs : Endures v { lasting s with lc := n } := h.trans (endures_lc _ hn)
  refine lcPass_endures ?_ n
  rw [apply_ite lasting, endures_ite]
  exact ⟨fun _ => lcDecodeLog_endures hs n, fun _ => hs⟩

@[simp] theorem fuseSettle_endures : Endures v (lasting (fuseSettle s)) := by
  unfold fuseSettle
  split
  · next n hn => exact lcSettle_endures h (decodeFuses_legal s n hn)
  · exact lcSettle_endures h (by decide)

@[simp] theorem fuseRead_endures : Endures v (lasting (fuseRead s).1) := by
  unfold fuseRead
  split
  · simp [h]
  · simp [h]
  · exact h
  · split
    · next n hn =>
      split
      · exact lcSettle_endures h (decodeFuses_legal s n hn)
      · simp [h]
    · simp [h]

@[simp] theorem endFuseRead_endures : Endures v (lasting (endFuseRead s)) := by simp [endFuseRead, h]

@[simp] theorem endKeys_endures : Endures v (lasting (endKeys s)) := by simp [endKeys, h]

@[simp] theorem endActivate_endures (env) : Endures v (lasting (endActivate s env)) := by simp [endActivate, h]

@[simp] theorem holdEnded_endures : Endures v (lasting (holdEnded s)) := by simp [holdEnded, h]

@[simp] theorem regWrite_endures (off x) : Endures v (lasting (regWrite s off x)) := by
  simp only [regWrite]
  split_ifs
  iterate 5 simp [h]
  split <;> simp [h]

@[simp] theorem mgmtWrite_endures (a off x) : Endures v (lasting (mgmtWrite s a off x).1) := by
  unfold mgmtWrite; (repeat' split) <;> simp [h]

@[simp] theorem portWrite_endures (a addr x) : Endures v (lasting (portWrite s a addr x)) := by
  simp only [portWrite]
  split
  · exact h
  · split
    · next hx => simpa using fst_endures hx (by simp [h])
    · next hx => have ht := fst_endures (v := v) hx (by simp [h]); (repeat' split) <;> simp [ht]

@[simp] theorem dbgStore_endures (r addr x) : Endures v (lasting (dbgStore s r addr x).1) := by
  unfold dbgStore; split <;> simp [h]

@[simp] theorem dbgRun_endures (r b bad) : Endures v (lasting (dbgRun s r b bad).1) := by
  simp only [dbgRun]
  split
  · exact h
  · split
    · next hx => simpa using fst_endures hx (by simp [h])
    · next hx => have ht := fst_endures (v := v) hx (by simp [h]); split <;> simp [ht]

@[simp] theorem dbgByte_endures (r x) : Endures v (lasting (dbgByte r s x)) := by simp [dbgByte, h]

@[simp] theorem dbgFeed_endures (r) : Endures v (lasting (dbgFeed r s)) := by
  unfold dbgFeed
  split
  · exact List.foldlRecOn (motive := fun t => Endures v (lasting t)) _ _ h fun t ht x _ => dbgByte_endures ht r x
  · exact h

/-! ## Commands -/

theorem ends_of_lasts {o : Host.Outcome State Fault Refusal} (ho : Lasts s o) : Ends v o := by
  obtain ⟨t, rfl, ht⟩ := ho
  simpa [ht] using h

@[simp] theorem execSupplyGroupClose_ends : Ends v (execSupplyGroupClose s) := by
  unfold execSupplyGroupClose; split <;> simp [h]

@[simp] theorem execBlockReset_ends : Ends v (execBlockReset s) := by
  unfold execBlockReset; split <;> simp [h]

@[simp] theorem execTamperReset_ends : Ends v (execTamperReset s) := by
  unfold execTamperReset; split <;> simp [h]

@[simp] theorem execAlarmSource_ends (src mesh) : Ends v (execAlarmSource src mesh s) := by
  unfold execAlarmSource; split <;> simp [h]

@[simp] theorem execExecuteBlockDone_ends (u env) : Ends v (execExecuteBlockDone u env s) := by
  simp only [execExecuteBlockDone]; (repeat' split) <;> simp [h]

@[simp] theorem execStartupStepEnd_ends (env) : Ends v (execStartupStepEnd env s) := by
  unfold execStartupStepEnd; (repeat' split) <;> simp [h]

@[simp] theorem execAtCmdDone_ends (u env) : Ends v (execAtCmdDone u env s) := by
  simp only [execAtCmdDone]; (repeat' split) <;> simp [h]

@[simp] theorem execLogbookScanDone_ends : Ends v (execLogbookScanDone s) := by
  have hs := h.trans (scanLog_step s)
  simp [execLogbookScanDone, h, hs]

@[simp] theorem execLogbookSlotWritten_ends : Ends v (execLogbookSlotWritten s) := by
  have hs := h.trans (writeSlot_step s)
  simp [execLogbookSlotWritten, h, hs]

/-- The Binnacle starts anew with the strict floors (R346, R378). -/
@[simp] theorem execPwrSentinel_ends : Ends v (execPwrSentinel s) := by
  have hs := resetCore_endures (holdUp_endures h s.bn.holdAtReset) 1
  have hf : ∀ n, n < 12 → strictFloors.getD n 0 ≤ strictFloors.getD n 0 := fun _ _ => le_rfl
  have hb : ∀ w : Lasting, Endures w { w with act := strictFloors, known := none } := fun w =>
    ⟨fun _ => id, fun hw => ⟨hw, le_rfl, fun _ _ => rfl⟩, fun _ => ⟨rfl, hf⟩, id⟩
  simp only [execPwrSentinel, ends_next]
  split
  · exact hs.trans (hb _)
  · exact h

/-- Each arm of the dispatcher is one command. Those without a lemma of their own keep what lasts, or are one register access or
one function of the model. -/
theorem exec_ends (i) : Ends v (exec i s) := by
  cases i <;> simp [exec, h, ends_of_lasts h, execBnActionWrite, execLcTransitionEnd, execPwrCore, execPllLockRetry,
    execDbgAuthComplete, execFuseBitProgrammed, execSupplySample, execPllLockLost, execEntropyHealthFail, execLcRequest,
    execLcFuseCmd, execChartLoadEnd, execChLoad, execChAdvance, execRegisterWrite, execNostartHoldEnd, execDebugRead,
    execDebugWrite]

end

/-! ## The step -/

/-- What lasts endures a step (R327, R346, R360). -/
theorem step_endures {s t : State} (ht : step s = .next t) : Endures (lasting s) (lasting t) := by
  cases hp : s.pending with
  | nil =>
    rw [step_of_pending_nil hp] at ht
    cases ht
    simp [Endures.refl]
  | cons c rest =>
    exact exec_ends (s := { s with pending := rest }) (.refl (lasting s)) c t ((step_of_pending_cons hp).symm.trans ht)

/-- Settles O6: no step clears a fuse bit. -/
theorem fusesNeverReturnToZero : Obligations.FusesNeverReturnToZero :=
  fun _ _ ht => (step_endures ht).fuses

/-- Settles O5: an action is stored at or above its floor, and the fuses decode to a state of R325. -/
theorem stepKeepsFloorsAndLifeCycle : Obligations.StepKeepsFloorsAndLifeCycle := by
  refine ⟨fun s t h ht => (step_endures ht).floors h, fun s t h ht => ?_⟩
  have hl := (step_endures ht).lc
  simp only [lasting_lc, List.mem_cons, List.not_mem_nil, or_false] at hl
  exact hl h

/-- Settles O7: a pinned record goes into the next pinned slot, every other write into the circular area. -/
theorem pinnedRecordsNeverOverwritten : Obligations.PinnedRecordsNeverOverwritten :=
  fun _ _ h ht => (step_endures ht).log h

end Sys2Proof.Machine

namespace Sys2Proof.Machine

/-! # The state after reset (R378, R382) -/

theorem floorsHold_reset : FloorsHold State.reset := ⟨rfl, fun _ _ => le_rfl⟩

theorem logPlaced_reset : LogPlaced State.reset := ⟨by decide, by decide, by decide⟩

theorem lifeCycleLegal_reset : LifeCycleLegal State.reset := by simp [LifeCycleLegal, State.reset, Lc.reset]

/-- Settles O8: each register after reset is the one written down, and an empty table answers its default. -/
theorem resetState : Obligations.ResetState :=
  ⟨⟨rfl, rfl, rfl, rfl, rfl, rfl, rfl, rfl, rfl, rfl, rfl, rfl, fun _ => rfl, fun _ => rfl, fun _ => rfl, fun _ => rfl⟩,
    rfl, floorsHold_reset, logPlaced_reset, lifeCycleLegal_reset, rfl⟩

end Sys2Proof.Machine

namespace Sys2Proof.Machine

/-!
# Transactions

TX_BEGIN, TX_COMMIT and TX_ROLLBACK with the end of a validation, and patch lists (R277, R279 to R283).
-/

/-! ## The commands (R280) -/

theorem txBeginW_eq {s : State} {v : Word} (hv : wbit v 0 = true) (hf : failedStart s = false)
    (hq : quietWrites s = false) : txBeginW s v = { s with tx :=
      if s.tx.state = 2 then { s.tx with result := 4 } else if s.tx.state = 1 then { s.tx with result := 3 }
      else if s.ch.state ≠ 2 then { s.tx with result := 5 }
      else { s.tx with state := 1, result := 0, reason := 0, shadow := [], spoiled := false } } := by
  simp only [txBeginW, txGate, txResult, hv, hf, hq, Bool.not_true, Bool.or_self, Bool.false_eq_true, if_false]
  (repeat' split) <;> rfl

theorem txCommitW_eq {s : State} {v : Word} (hv : wbit v 0 = true) : txCommitW s v = { s with tx :=
    if s.tx.state = 2 then { s.tx with result := 4 } else if s.tx.state = 0 then { s.tx with result := 2 }
    else { s.tx with state := 2 } } := by
  simp only [txCommitW, txGate, txResult, hv, Bool.not_true, Bool.false_eq_true, if_false]
  (repeat' split) <;> rfl

theorem txRollbackW_eq {s : State} {v : Word} (hv : wbit v 0 = true) : txRollbackW s v = { s with tx :=
    if s.tx.state = 2 then { s.tx with result := 4 } else if s.tx.state = 0 then { s.tx with result := 2 }
    else { s.tx with state := 0, result := 0, reason := 0, shadow := [], spoiled := false } } := by
  simp only [txRollbackW, txGate, txResult, hv, Bool.not_true, Bool.false_eq_true, if_false]
  (repeat' split) <;> rfl

/-! ## The commit point (R283) -/

/-- What a commit puts in force at once, and what it leaves; the units apart. -/
def commitView (s : State) : Chart × Ac × Tx × Kv × Sc × List Host.Cell × Tbl Cq × Tbl Word :=
  (s.chart, s.ac, s.tx, s.kv, s.sc, s.opmem, s.cqs, s.fuses)

/-- The same with the units. -/
def commitUnits (s : State) := (commitView s, s.units)

theorem enterFallback_commitUnits (s : State) (p cause : Nat) : commitUnits (enterFallback s p cause) = commitUnits s := by
  unfold enterFallback
  dsimp only
  split
  · rfl
  · rw [fbLog_iqMessage]
    rfl

theorem reshare_commitUnits (old : Chart) (s : State) (p : PoolRec) : commitUnits (reshare s old p) = commitUnits s := by
  unfold reshare
  split
  · split
    · rfl
    · exact enterFallback_commitUnits ..
  · dsimp only
    split
    · rfl
    · exact enterFallback_commitUnits (setPool s _ _) ..

theorem dropKept_commitView (s : State) : commitView (dropKept s) = commitView s :=
  foldl_keeps commitView _ (fun _ _ => by rfl) _ s

/-- The state in which a commit has put the Chart, the access tables and the transaction. -/
def committed (s : State) : State :=
  { s with
    chart := proposed s.chart s.tx.shadow
    ac := applyRules s.ac s.tx.shadow
    tx := { s.tx with state := 0, result := 0, reason := 0, shadow := [], epoch := s.tx.epoch + 1 } }

/-- What follows a commit in the buckets and the pools leaves all of it. -/
theorem commitUnits_pools (s : State) (old : Chart) (rings drops : List Nat) (l : List PoolRec) :
    commitUnits (voidFewer (drops.foldl dropPool (l.foldl (fun s p => reshare s old p) (rings.foldl settleBucket s)))) =
      commitUnits s :=
  calc
    _ = commitUnits (drops.foldl dropPool _) := rfl
    _ = commitUnits (l.foldl (fun s p => reshare s old p) _) := foldl_keeps commitUnits dropPool (fun _ _ => rfl) ..
    _ = commitUnits (rings.foldl settleBucket s) := foldl_keeps commitUnits _ (reshare_commitUnits old) ..
    _ = commitUnits s := foldl_keeps commitUnits settleBucket (fun _ _ => rfl) ..

/-- A commit changes the configuration at once; behind it the free units whose key or tile's state no segment will use are
scrubbed (R19, R283). -/
theorem txApply_view (s : State) : ∃ u, txApply s = dropKept u ∧ commitUnits u = commitUnits (committed s) := by
  refine ⟨_, rfl, ?_⟩
  generalize hs1 : List.foldl settleBucket s _ = s1
  have h1 : commitUnits s1 = commitUnits s := hs1 ▸ foldl_keeps commitUnits settleBucket (fun _ _ => rfl) _ s
  simp only [commitUnits, commitView, Prod.mk.injEq] at h1
  obtain ⟨⟨hchart, hac, htx, hkv, hsc, hop, hcq, hfuse⟩, hunits⟩ := h1
  refine (commitUnits_pools ..).trans ?_
  simp only [commitUnits, commitView, committed, hac, htx, hkv, hsc, hop, hcq, hfuse, hunits]

/-- Settles O42: each command writes TX_STATE and its RESULT; a validation that fails shows the failure, one that passes is
applied. -/
theorem transactionRule : Obligations.TransactionRule := by
  refine ⟨fun s a v hv => ⟨fun hg hf hq => ?_, fun hg => ?_, fun hg => ?_⟩, fun s hup hst => ⟨fun f hf => ?_, fun hn => ?_⟩⟩
  · simp only [exec, execTxBegin, hostWrite_granted s a _ _ hg, txBeginW_eq hv hf hq]
  · simp only [exec, execTxCommit, hostWrite_granted s a _ _ hg, txCommitW_eq hv]
  · simp only [exec, execTxRollback, hostWrite_granted s a _ _ hg, txRollbackW_eq hv]
  · simp only [exec, execCommitValidationEnd, hup, hst, beq_self_eq_true, Bool.and_self, if_true, hf]
    rfl
  · obtain ⟨u, hu, hview⟩ := txApply_view s
    refine ⟨txApply s, ?_, ?_⟩
    · simp only [exec, execCommitValidationEnd, hup, hst, beq_self_eq_true, Bool.and_self, if_true, hn]
    · have ht := dropKept_commitView u
      rw [← hu] at ht
      simp only [commitUnits, commitView, committed, Prod.mk.injEq] at hview ht
      obtain ⟨⟨hchart, hac, htx, hkv, hsc, hop, hcq, hfuse⟩, hunits⟩ := hview
      obtain ⟨tchart, tac, ttx, tkv, tsc, top, tcq, tfuse⟩ := ht
      have hget : ∀ n, getUni u n = getUni s n := fun n => by rw [getUni, hunits, getUni]
      refine ⟨tchart.trans hchart, tac.trans hac, ttx.trans htx, tkv.trans hkv, tsc.trans hsc, fun n => ?_, top.trans hop,
        tcq.trans hcq, tfuse.trans hfuse⟩
      rw [hu, ← hget]
      exact (getUni_dropKept u n).imp_right fun h => ⟨keepsTile_unused h.1, h.2⟩

/-! ## Patch lists (R277, R279) -/

theorem txPatchW_closed {s : State} {v : Word} (hv : wbit v 0 = true) (hb : s.tx.pbusy = false) (hst : s.tx.state = 0) :
    txPatchW s v = { s with tx := { s.tx with presult := 1, gather := .none } } := by
  simp [txPatchW, patchResult, hv, hb, hst]

theorem txPatchW_committing {s : State} {v : Word} (hv : wbit v 0 = true) (hb : s.tx.pbusy = false)
    (hst : s.tx.state = 2) :
    txPatchW s v = { s with tx := { s.tx with presult := 1, gather := .none, result := 4 } } := by
  simp [txPatchW, txResult, patchResult, hv, hb, hst]

theorem txPatchW_badLength {s : State} {v : Word} (hv : wbit v 0 = true) (hb : s.tx.pbusy = false) (hst : s.tx.state = 1)
    (hl : s.tx.plen % 8 ≠ 0 ∨ s.tx.plen = 0 ∨ 131072 < s.tx.plen) :
    txPatchW s v = { s with tx := { s.tx with presult := 3, gather := .none } } := by
  simp [txPatchW, patchResult, hv, hb, hst, hl]

theorem txPatchW_reads {s : State} {v : Word} (hv : wbit v 0 = true) (hb : s.tx.pbusy = false) (hst : s.tx.state = 1)
    (hl : ¬(s.tx.plen % 8 ≠ 0 ∨ s.tx.plen = 0 ∨ 131072 < s.tx.plen)) (hj : ∀ p, (judgeOut s 0 false p).ok = true) :
    ∃ P, txPatchW s v = { s with
      ports := P
      tx := { s.tx with pbusy := true, gather := ⟨(pieces s.tx.psrc s.tx.plen).length, [], none⟩ } } := by
  obtain ⟨P, hP⟩ := startRead_granted (port := 0) (addr := s.tx.psrc) (len := s.tx.plen) (who := .patch) (pools := []) hj
  refine ⟨P, ?_⟩
  simp only [txPatchW, hv, hb, hst, hl, hP]
  rfl

/-- The end of the reads of a list, by its outcome: a failed read, a broken list, too little room, the list. -/
theorem patchEnd_eq {s : State} (hst : s.tx.state = 1) : patchEnd s =
    if s.tx.gather.err.isSome then patchResult s 2
    else match parsePatches (s.tx.gather.bytes.length / 8) s.tx.gather.bytes with
    | none => patchResult s 3
    | some l =>
      if 131072 < shadowUsed s + s.tx.gather.bytes.length then patchResult s 4
      else patchResult (setShadow s (s.tx.shadow ++ l)) 0 :=
  if_neg (not_not_intro hst)

/-- Settles O43: a write that asks for no read is answered at once; the list that was read is taken by `patchEnd_eq`. -/
theorem patchWholeOrNot : Obligations.PatchWholeOrNot := by
  refine ⟨fun s a v hg hv hb => ?_, fun s b hup hbusy hneed hst hbytes => ?_⟩
  · have hw : exec (.txPatch a v) s = .next (acked (txPatchW s v) a) := congrArg _ (hostWrite_granted s a _ _ hg)
    refine ⟨fun hst => ?_, fun hst => ?_, fun hst hl => ?_, fun hst h8 h0 hmax hj => ?_⟩
    · rw [hw, txPatchW_closed hv hb hst]
    · rw [hw, txPatchW_committing hv hb hst]
    · rw [hw, txPatchW_badLength hv hb hst hl]
    · obtain ⟨P, hP⟩ := txPatchW_reads (v := v) hv hb hst (by omega) hj
      exact ⟨_, hw, by rw [hP]⟩
  · subst hbytes
    have hend : exec .txPatchReadDone s = .next (patchEnd s) := by
      simp only [exec, execTxPatchReadDone, hup, hbusy, hneed, beq_self_eq_true, Bool.and_self, if_true]
    rw [hend, patchEnd_eq hst]
    refine ⟨fun he => ?_, fun he hp => ?_, fun l he hp hroom => ?_, fun l he hp hroom => ?_⟩
    · rw [if_pos he]; rfl
    · rw [he, hp]; rfl
    · rw [he, hp]
      simp only [Option.isSome_none, Bool.false_eq_true, if_false, hroom, if_true]
      rfl
    · rw [he, hp]
      simp only [Option.isSome_none, Bool.false_eq_true, if_false, not_lt.mpr hroom]
      rfl

end Sys2Proof.Machine

namespace Sys2Proof.Machine

/-!
# Transactional writes reach the shadow

TRANSACTIONAL_WRITE (R275, R279, R314): a field of a record image is replaced, the entry joins the shadow, and the
configuration of a commit reads it back.
-/

/-! ## Replaced bytes of an image -/

theorem slice_eq_map (b : Bytes) (o n : Nat) : slice b o n = (List.range n).map fun i => b.getD (o + i) 0 := by
  refine List.ext_getElem (by simp [slice]; omega) fun i h1 h2 => ?_
  have hi : i < n := by simpa using h2
  simp only [slice, List.getElem_append, List.length_take, List.length_drop, List.getElem_map, List.getElem_range]
  split
  · next h =>
    have hb : o + i < b.length := by omega
    simp [List.getD_eq_getElem?_getD, hb]
  · next h =>
    have hb : b.length ≤ o + i := by omega
    simp [List.getD_eq_getElem?_getD, hb]

theorem leAt_congr {b c : Bytes} {o n : Nat} (h : ∀ i, i < n → b.getD (o + i) 0 = c.getD (o + i) 0) :
    leAt b o n = leAt c o n := by
  rw [leAt, leAt, slice_eq_map, slice_eq_map]
  exact congrArg leNat (List.map_congr_left fun i hi => h i (List.mem_range.mp hi))

theorem getD_patchBytes {b x : Bytes} {o : Nat} (h : o ≤ b.length) (i : Nat) :
    (patchBytes b o x).getD i 0 = if o ≤ i ∧ i < o + x.length then x.getD (i - o) 0 else b.getD i 0 := by
  have hl : (b.take o).length = o := List.length_take_of_le h
  simp only [patchBytes, List.getD_eq_getElem?_getD, List.getElem?_append, List.length_append, hl]
  by_cases h1 : i < o
  · rw [if_pos (by omega), if_pos h1, if_neg (by omega), List.getElem?_take_of_lt h1]
  · by_cases h2 : i < o + x.length
    · rw [if_pos h2, if_neg h1, if_pos (by omega)]
    · rw [if_neg h2, if_neg (by omega), List.getElem?_drop, show o + x.length + (i - (o + x.length)) = i by omega]

/-- A field beside the replaced bytes stays. -/
theorem leAt_patchBytes_ne {b x : Bytes} {o p n : Nat} (h : o ≤ b.length) (hne : p + n ≤ o ∨ o + x.length ≤ p) :
    leAt (patchBytes b o x) p n = leAt b p n :=
  leAt_congr fun i hi => by rw [getD_patchBytes h, if_neg (by omega)]

/-- The replaced field reads its new value. -/
theorem leAt_patchBytes_toLE {b : Bytes} {o k n : Nat} (h : o ≤ b.length) :
    leAt (patchBytes b o (toLE k n)) o k = n % 256 ^ k := by
  rw [← leNat_toLE, leAt, slice_eq_map]
  refine congrArg leNat (List.ext_getElem (by simp [toLE_length]) fun i h1 h2 => ?_)
  have hi : i < k := by simpa using h1
  rw [List.getElem_map, List.getElem_range, getD_patchBytes h, toLE_length, if_pos (by omega), Nat.add_sub_cancel_left]
  simp [List.getD_eq_getElem?_getD, h2]

/-- Field j of a run of fields of k bytes. -/
theorem leAt_flatMap_toLE {f : Nat → Nat} {n j : Nat} (h : j < n) :
    leAt ((List.range n).flatMap fun i => toLE 4 (f i)) (4 * j) 4 = f j % 256 ^ 4 := by
  obtain ⟨m, rfl⟩ := Nat.exists_eq_add_of_lt h
  have hsplit : List.range (j + m + 1) = List.range j ++ j :: (List.range m).map (j + 1 + ·) := by
    rw [show j + m + 1 = j + (m + 1) by omega, List.range_add, List.range_succ_eq_map]
    simp [Function.comp_def, Nat.add_assoc, Nat.add_comm 1]
  rw [hsplit, List.flatMap_append, List.flatMap_cons]
  have := leAt_append_toLE ((List.range j).flatMap fun i => toLE 4 (f i))
    (((List.range m).map (j + 1 + ·)).flatMap fun i => toLE 4 (f i)) 4 (f j)
  rwa [flatMap_toLE_length] at this

/-! ## Entries that join the shadow (R279) -/

theorem patchesOf_append (l : List Patch) (p : Patch) (ty : Nat) : patchesOf (l ++ [p]) ty =
    if p.type = ty then (patchesOf l ty).filter (fun q => q.key ≠ p.key) ++ [p] else patchesOf l ty := by
  rw [patchesOf, List.foldl_append]
  rfl

/-- The first entry of its type joins the shadow where there is room. -/
theorem shadowPut_first {s : State} {p : Patch} (hno : patchesOf s.tx.shadow p.type = [])
    (hroom : shadowUsed s + patchSize p ≤ 131072) : shadowPut s p = setShadow s (s.tx.shadow ++ [p]) := by
  simp [shadowPut, hno, Nat.not_lt.mpr hroom]

theorem patchesOf_first {l : List Patch} {p : Patch} (hno : patchesOf l p.type = []) :
    patchesOf (l ++ [p]) p.type = [p] := by
  simp [patchesOf_append, hno]

/-- A register write with a transaction open makes its entry; everything else of the state stays. -/
theorem exec_transactionalWrite_open {s : State} {a : Access} {off : BitVec 26} {v : Word} {f : State → State} {p : Patch}
    (hg : granted s a true (mgmtAt a off.toNat) = true) (h4 : off.toNat % 4 = 0) (hs : s.tx.state = 1)
    (ht : txTarget s off.toNat v = some f) (hf : f s = shadowPut s p) (hno : patchesOf s.tx.shadow p.type = [])
    (hroom : shadowUsed s + patchSize p ≤ 131072) :
    exec (.transactionalWrite a off v) s = .next (acked (setShadow s (s.tx.shadow ++ [p])) a) := by
  have hw : execTransactionalWrite a off v s = exec (.transactionalWrite a off v) s := rfl
  rw [← hw, execTransactionalWrite, if_pos ⟨h4, by simp [ht]⟩, hostWrite_granted _ _ _ _ hg, txWriteW, ht]
  simp only [hs, if_true]
  rw [hf, shadowPut_first hno hroom]

/-! ## What a commit reads back (R283, R314) -/

theorem length_ruleBytes (r : List Word) : (ruleBytes r).length = 32 := flatMap_toLE_length 8 _

/-- A rule image with word k replaced reads the new word, and the other words as before. -/
theorem ruleW_patched (r : List Word) (v : Word) {k j : Nat} (hj : j < 8) (hk : k < 4) :
    ruleW (ruleWords (patchBytes (ruleBytes r) (4 * k) (toLE 4 v.toNat))) j = if j = k then v else ruleW r j := by
  have hl := length_ruleBytes r
  have hw (b : Bytes) : ruleW (ruleWords b) j = word (leAt b (4 * j) 4) := by
    simp [ruleW, ruleWords, wordAt, hj]
  have hv (w : Word) : word (w.toNat % 256 ^ 4) = w := by
    rw [Nat.mod_eq_of_lt (by have := w.isLt; omega)]
    simp [word]
  rw [hw]
  split
  · next h =>
    subst h
    rw [leAt_patchBytes_toLE (by omega), hv]
  · next h =>
    rw [leAt_patchBytes_ne (by omega) (by rw [toLE_length]; omega), ruleBytes, leAt_flatMap_toLE hj, hv]

theorem length_funcBytes (r : FuncRec) : (funcBytes r).length = 40 := by
  simp [funcBytes, toLE_length, zeros]

/-- A FUNCTIONS image with STD_BASE replaced: the record beside it stays. -/
theorem parseFunc_stdBase {r : FuncRec} {n : Nat} (hr : parseFunc (funcBytes r) = r) (hn : n < 2 ^ 21) :
    parseFunc (patchBytes (funcBytes r) 4 (toLE 4 n)) = { r with stdBase := n } := by
  have hl := length_funcBytes r
  have hne (p k : Nat) (h : p + k ≤ 4 ∨ 8 ≤ p) : leAt (patchBytes (funcBytes r) 4 (toLE 4 n)) p k = leAt (funcBytes r) p k :=
    leAt_patchBytes_ne (by omega) (by rw [toLE_length]; omega)
  have hnew : fld (leAt (patchBytes (funcBytes r) 4 (toLE 4 n)) 4 4) 0 21 = n := by
    rw [leAt_patchBytes_toLE (by omega), Nat.mod_eq_of_lt (by omega)]
    simpa [fld] using Nat.mod_eq_of_lt hn
  calc parseFunc (patchBytes (funcBytes r) 4 (toLE 4 n))
      = { parseFunc (funcBytes r) with stdBase := n } := by
        rw [parseFunc, hnew]
        simp only [hne _ _ (Or.inl (by omega : 0 + 2 ≤ 4)), parseFunc, hne 2 1 (by omega), hne 3 1 (by omega),
          hne 8 4 (by omega), hne 0xC 4 (by omega), hne 0x10 4 (by omega), hne 0x14 4 (by omega), hne 0x18 2 (by omega),
          hne 0x1A 2 (by omega), hne 0x1C 2 (by omega), hne 0x1E 2 (by omega), hne 0x20 2 (by omega)]
    _ = _ := by rw [hr]

/-- The record that a MODIFY entry leaves at its key. -/
theorem find_applyPatches_modify {α : Type} {key : α → Nat} {mk : Patch → α} {l : List α} {p : Patch} {x : α}
    (hop : p.op = 1) (hkey : key (mk p) = p.key) (hx : l.find? (fun y => key y == p.key) = some x) :
    (applyPatches key mk l [p]).find? (fun y => key y == p.key) = some (mk p) := by
  have hkx : key x = p.key := by simpa using List.find?_some hx
  have hsame : ((fun y => key y == p.key) ∘ fun y => if key y = p.key then mk p else y) = fun y => key y == p.key := by
    funext y
    by_cases h : key y = p.key <;> simp [h, hkey]
  simp only [applyPatches, List.foldl_cons, List.foldl_nil, hop, OfNat.one_ne_ofNat, if_false]
  rw [List.find?_map, hsame, hx, Option.map_some, if_pos hkx]

/-- Settles O44. -/
theorem transactionalWriteReachesShadow : Obligations.TransactionalWriteReachesShadow := by
  intro s a v
  refine ⟨fun off hg h4 ht hs => ?_, fun hg hs hno hroom => ?_, fun off i k hi hk hoff hg hs hno hroom => ?_,
    fun r hg hs hno hroom hr hrt => ?_⟩
  · obtain ⟨f, hf⟩ := Option.isSome_iff_exists.mp ht
    have hw : execTransactionalWrite a off v s = exec (.transactionalWrite a off v) s := rfl
    rw [← hw, execTransactionalWrite, if_pos ⟨h4, ht⟩, hostWrite_granted _ _ _ _ hg, txWriteW, hf]
    simp [hs]
  · let p : Patch := ⟨0x13, 1, 0, toLE 8 v.toNat⟩
    refine ⟨setShadow s (s.tx.shadow ++ [p]),
      exec_transactionalWrite_open hg rfl hs (f := fun s => shadowPut s p) rfl rfl hno hroom, rfl, fun hv => ?_⟩
    have hp : patchesOf (s.tx.shadow ++ [p]) 0x13 = [p] := patchesOf_first (p := p) hno
    have hv' : v = 0 ∨ v = 1 := by bv_omega
    have hd : (applyRules s.ac (s.tx.shadow ++ [p])).outDefault = (leAt p.body 0 1 == 1) := by simp [applyRules, hp]
    refine hd.trans ?_
    rcases hv' with rfl | rfl <;> decide
  · let p : Patch := ⟨0x10, 1, i, patchBytes (ruleBytes (s.ac.inRules.get [] i)) (4 * k) (toLE 4 v.toNat)⟩
    have ht : txTarget s off.toNat v = some fun s => ruleWrite s 0x10 i k v := by
      simp [txTarget, show off.toNat ≠ 0x40024 by omega, show off.toNat ≠ 0x40028 by omega,
        show off.toNat ≠ 0x4002C by omega, show off.toNat ≠ 0x40030 by omega, show off.toNat ≠ 0x50048 by omega,
        show off.toNat ≠ 0x5004C by omega, show off.toNat ≠ 0x50050 by omega, show off.toNat ≠ 0x400000 by omega,
        show off.toNat ≠ 0x400048 by omega, show 0x401000 ≤ off.toNat ∧ off.toNat < 0x403000 by omega,
        show (off.toNat - 0x401000) / 0x20 = i by omega, show off.toNat % 0x20 / 4 = k by omega]
    have hf : ruleWrite s 0x10 i k v = shadowPut s p := by simp [ruleWrite, rulePut, shadowBody, hno, p]
    refine ⟨setShadow s (s.tx.shadow ++ [p]),
      exec_transactionalWrite_open hg (by omega) hs ht hf hno hroom, rfl, ?_⟩
    have hin : (applyRules s.ac (s.tx.shadow ++ [p])).inRules = s.ac.inRules.set i (ruleWords p.body) := by
      show (patchesOf (s.tx.shadow ++ [p]) 0x10).foldl (fun t p => t.set p.key (ruleWords p.body)) s.ac.inRules = _
      rw [patchesOf_first (p := p) hno]
      rfl
    refine ⟨fun j hj => ?_, fun m hm => ?_⟩
    · show ruleW ((applyRules s.ac (s.tx.shadow ++ [p])).inRules.get [] i) j = _
      rw [hin, Tbl.get_set_same]
      exact ruleW_patched _ v hj hk
    · show (applyRules s.ac (s.tx.shadow ++ [p])).inRules.get [] m = _
      rw [hin, Tbl.get_set_ne _ _ _ _ _ hm]
  · let f := s.sc.fnSel.toNat
    let p : Patch := ⟨6, 1, f, patchBytes (funcBytes r) 4 (toLE 4 (v.toNat % 2 ^ 21))⟩
    have hrf : r.func = f := by simpa using List.find?_some hr
    have hf : funcWrite s f 4 4 (v.toNat % 2 ^ 21) = shadowPut s p := by
      simp only [funcWrite, shadowBody, hno, List.find?_nil, f, p]
      rw [hr]
    have hsz : patchSize p = 48 := by simp [patchSize, recSize, cdiv, p]
    refine ⟨setShadow s (s.tx.shadow ++ [p]), exec_transactionalWrite_open hg rfl hs
      (f := fun s' => funcWrite s' f 4 4 (v.toNat % 2 ^ 21)) rfl hf hno (hsz ▸ hroom), rfl, ?_⟩
    have hbody : parseFunc p.body = { r with stdBase := v.toNat % 2 ^ 21 } :=
      parseFunc_stdBase hrt (Nat.mod_lt _ (by decide))
    have hnext := find_applyPatches_modify (l := s.chart.funcs) (key := FuncRec.func) (mk := fun p => parseFunc p.body)
      (p := p) rfl (by rw [hbody]; exact hrf) hr
    show (applyPatches (·.func) (fun p => parseFunc p.body) s.chart.funcs (patchesOf (s.tx.shadow ++ [p]) 6)).find? _ = _
    rw [patchesOf_first (p := p) hno]
    refine hnext.trans ?_
    rw [hbody]
    simp [wfld, fld]

end Sys2Proof.Machine

namespace Sys2Proof.Machine

/-!
# Resets of functions

MG_RESET, FLR_REQUEST, VF_CTL_RESET, VF_RESET_COMPLETE and CTX_FILL_DONE (R286, R289, R295 to R298, R371, R394).
-/

/-! ## Entries of a table -/

theorem Tbl.mem_set {α : Type} {t : Tbl α} {k : Nat} {x : α} {e : Nat × α} (h : e ∈ t.set k x) : e = (k, x) ∨ e ∈ t := by
  induction t with
  | nil => simpa [Tbl.set] using h
  | cons y t ih =>
    obtain ⟨i, y⟩ := y
    unfold Tbl.set at h
    split at h
    · exact List.mem_cons.mp h
    · split at h
      · exact (List.mem_cons.mp h).imp_right (List.mem_cons_of_mem _)
      · rcases List.mem_cons.mp h with rfl | h
        · exact .inr (List.mem_cons_self ..)
        · exact (ih h).imp_right (List.mem_cons_of_mem _)

theorem Tbl.mem_of_find {α : Type} {t : Tbl α} {k : Nat} {x : α} (h : t.find k = some x) : (k, x) ∈ t := by
  induction t with
  | nil => cases h
  | cons e t ih =>
    obtain ⟨i, y⟩ := e
    unfold Tbl.find at h
    split at h
    · next hi => cases h; exact hi ▸ List.mem_cons_self ..
    · exact List.mem_cons_of_mem _ (ih h)

/-- A table without the entries of some keys reads the default there. -/
theorem Tbl.get_filter_not {α : Type} (t : Tbl α) (d : α) (p : Nat → Bool) (k : Nat) :
    Tbl.get (t.filter fun e => !p e.1) d k = if p k then d else t.get d k := by
  induction t with
  | nil => simp [Tbl.get]
  | cons e t ih =>
    obtain ⟨i, y⟩ := e
    by_cases hp : p i = true
    · rw [List.filter_cons_of_neg (by simp [hp]), ih]
      by_cases hi : i = k
      · subst hi; simp [hp]
      · simp [Tbl.get, hi]
    · rw [List.filter_cons_of_pos (by simp [hp])]
      by_cases hi : i = k
      · subst hi; simp [Tbl.get, hp]
      · simp [Tbl.get, hi, ih]

/-! ## Which chains there are, and the contexts, while jobs are stopped -/

/-- The contexts of the store. -/
def contexts (s : State) : Tbl Ctx × Tbl Ctx := (s.sc.std, s.sc.cmp)

/-- Every chain is of a function that satisfies C, and d are the contexts. -/
structure ChainsAmong (C : Nat → Prop) (d : Tbl Ctx × Tbl Ctx) (s : State) : Prop where
  chains : ∀ e ∈ s.chains, C e.2.func
  ctxs : contexts s = d

namespace ChainsAmong

section Ops
variable {C : Nat → Prop} {d : Tbl Ctx × Tbl Ctx} {s : State} (h : ChainsAmong C d s)
include h

/-- An operation on other parts of the state. -/
theorem same {t : State} (hc : t.chains = s.chains := by rfl) (hs : contexts t = contexts s := by rfl) : ChainsAmong C d t :=
  ⟨by rw [hc]; exact h.chains, hs.trans h.ctxs⟩

theorem find {id : Nat} {c : Chain} (hc : findChain s id = some c) : C c.func := h.chains _ (Tbl.mem_of_find hc)

theorem setUni (u : Nat) (x : Uni) : ChainsAmong C d (setUni s u x) := h.same

theorem setChain {c : Chain} (hc : C c.func) : ChainsAmong C d (setChain s c) where
  chains e he := (Tbl.mem_set he).elim (fun h => h ▸ hc) (h.chains e)
  ctxs := h.ctxs

theorem foldl {α : Type} {f : State → α → State} (hf : ∀ s a, ChainsAmong C d s → ChainsAmong C d (f s a)) (l : List α) :
    ChainsAmong C d (l.foldl f s) := List.foldlRecOn l f h fun s hs a _ => hf s a hs

theorem ite {c : Prop} [Decidable c] {t : State} (k : ChainsAmong C d t) : ChainsAmong C d (if c then s else t) := by
  split
  · exact h
  · exact k

theorem release (u : Nat) : ChainsAmong C d (release s u) := by
  have hr := release_chains s u
  simp only [Prod.mk.injEq] at hr
  obtain ⟨hc, -, hs⟩ := hr
  exact h.same hc (congrArg (fun c : Sc => (c.std, c.cmp)) hs)

theorem setHalf (u : Nat) (b : Bytes) : ChainsAmong C d (setHalf s u b) := by
  unfold Machine.setHalf
  split
  · exact h.same
  · exact h

theorem countHelm (u : Nat) (e : DescEnd) (ran : Bool) : ChainsAmong C d (countHelm s u e ran) := by
  unfold Machine.countHelm
  split
  · exact h.same
  · exact h

theorem countKv (status : Nat) : ChainsAmong C d (countKv s status) := h.same.ite (h.same.ite h)

theorem addResult {c : Chain} (hc : C c.func) (r : DescRes) : ChainsAmong C d (addResult s c r) := by
  unfold Machine.addResult
  dsimp only
  split
  · exact h.setChain hc
  · exact ChainsAmong.foldl (f := fun s g => freeSeg s c g) (h.setChain (by exact hc)) (fun _ _ hx => hx.same) _

/-- The counters and the Helm at the end of a descriptor. -/
theorem descCounted (j : Job) (u cls func : Nat) (e : DescEnd) (ran : Bool) : ChainsAmong C d
    (Machine.countHelm (Machine.countKv (countEnd (dropDesc s j) u cls func e ran) e.status) u e ran) :=
  ((h.same (t := countEnd (dropDesc s j) u cls func e ran)).countKv _).countHelm ..

theorem abortUnit (u : Nat) : ChainsAmong C d (abortUnit s u) := by
  have hslots : ChainsAmong C d (abortSlots s u) := ChainsAmong.setHalf h.same u []
  exact ChainsAmong.ite (hslots.same (t := abortService s u)) (h.release u)

theorem abortRecord (u status detail : Nat) : ChainsAmong C d (abortRecord s u status detail) := by
  unfold Machine.abortRecord
  dsimp only
  split
  · exact h
  · split
    · exact h.abortUnit u
    · next hc => exact ((h.descCounted ..).addResult (h.find hc) _).abortUnit u

theorem endDesc (u : Nat) (e : DescEnd) : ChainsAmong C d (endDesc s u e) := by
  unfold Machine.endDesc
  dsimp only
  split
  · exact h
  next j _ =>
  split
  · exact h.release u
  next c hc =>
  generalize hs1 : Machine.setHalf _ u [] = s1
  have h1 : ChainsAmong C d s1 := hs1 ▸ (h.descCounted j u _ c.func e _).setHalf u []
  generalize hs2 : Machine.addResult _ c _ = s2
  have h2 : ChainsAmong C d s2 := by
    rw [← hs2]
    refine addResult ?_ (h.find hc) _
    split
    · exact h1.ite h1.same
    · exact h1
  split
  · exact ((h2.same (t := scrubUnit s2 u)).ite h2).same
  · refine release (ChainsAmong.ite ?_ h2) u
    split
    · next c2 hc2 =>
      have hf : C c2.func := h2.find hc2
      exact h2.setChain hf
    · exact h2

theorem reachUnit (p : Nat → Bool) (u : Nat) : ChainsAmong C d (reachUnit s p u) := by
  unfold Machine.reachUnit
  generalize hs1 : (if holdsSlot p (getUni s u).key then scrubUnit s u else s) = s1
  have h1 : ChainsAmong C d s1 := hs1 ▸ (h.same (t := scrubUnit s u)).ite h
  dsimp only
  split
  · exact h1
  · have hset (x : Uni) : ChainsAmong C d (Machine.setUni s1 u x) := h1.setUni u x
    exact (hset _).ite ((((hset _).abortRecord ..).ite (hset _)).ite (((hset _).endDesc ..).ite
      (((hset _).setUni u _).ite (hset _))))

theorem eraseWhere (p : Nat → Bool) : ChainsAmong C d (eraseWhere s p) :=
  ChainsAmong.foldl (h.same (t := slotsErased s p)) (fun _ u hx => hx.reachUnit p u) _

theorem eraseOwner (f : Nat) : ChainsAmong C d (eraseOwner s f) := (h.eraseWhere _).foldl (fun _ _ hx => hx.same) _

theorem stopNoRecord (u : Nat) : ChainsAmong C d (stopNoRecord s u) := by
  unfold Machine.stopNoRecord
  dsimp only
  split
  · exact h
  · exact abortUnit h.same u

end Ops

end ChainsAmong

/-! ## What the stop of a function leaves (R295, R296) -/

/-- The records of the functions, the requests that wait, and the Chart. -/
def fnFrame (s : State) : Tbl Fn × List Nat × Chart := (s.fns, s.flrPend, s.chart)

theorem OnlyWork.fnFrame {s t : State} (h : OnlyWork s t) : fnFrame t = fnFrame s := by rw [h]; rfl

theorem OnlyWork.cqs {s t : State} (h : OnlyWork s t) : t.cqs = s.cqs := by rw [h]

theorem OnlyLogged.fnFrame {s t : State} (h : OnlyLogged s t) : fnFrame t = fnFrame s := by rw [h]; rfl

theorem OnlyLogged.chains {s t : State} (h : OnlyLogged s t) : t.chains = s.chains := by rw [h]

theorem OnlyWork.eraseWhere (s : State) (p : Nat → Bool) : OnlyWork s (eraseWhere s p) :=
  OnlyWork.trans (t := slotsErased s p) rfl (OnlyWork.foldl (fun s u => OnlyWork.reachUnit s u p) ..)

theorem OnlyWork.eraseOwner (s : State) (f : Nat) : OnlyWork s (eraseOwner s f) :=
  (OnlyWork.eraseWhere ..).trans (OnlyWork.foldl OnlyWork.scrubUnit ..)

theorem OnlyWork.stopNoRecord (s : State) (u : Nat) : OnlyWork s (stopNoRecord s u) := by
  unfold Machine.stopNoRecord
  dsimp only
  split
  · exact .refl s
  · exact (dropDesc ..).trans ((setUni ..).trans (abortUnit ..))

theorem fnFrame_lateChain (s : State) (c : Chain) (fin : Nat) : fnFrame (lateChain s c fin) = fnFrame s := by
  have hp := foldl_keeps fnFrame (fun s p => setPool s p { getPool s p with late := sat32 (getPool s p).late })
    (fun _ _ => rfl) (c.segs.map (·.pool)).eraseDups s
  unfold lateChain
  dsimp only
  split
  · exact hp
  · exact (onlyLogged_logReq ..).fnFrame.trans hp

theorem fnFrame_dropChains (s : State) (f : Nat) : fnFrame (dropChains s f) = fnFrame s :=
  foldl_keeps fnFrame (fun s (e : Nat × Chain) => lateChain s e.2 e.2.lastRec) (fun _ _ => fnFrame_lateChain ..) _ s

theorem chains_dropChains (s : State) (f : Nat) : ∀ e ∈ (dropChains s f).chains, e.2.func ≠ f := fun e he => by
  simpa using (List.mem_filter.mp he).2

/-- From s to t at most the context store has changed. -/
def OnlySc (s t : State) : Prop := t = { s with sc := t.sc }

theorem OnlySc.ite {s a b : State} {c : Prop} [Decidable c] (ha : OnlySc s a) (hb : OnlySc s b) :
    OnlySc s (if c then a else b) := by
  split
  · exact ha
  · exact hb

theorem onlySc_scApply (s : State) (op : Nat) (r : CtxRef) : OnlySc s (scApply s op r) := by
  have hput (c : Ctx) : OnlySc s (scResult (ctxPut s r c) 0) := by
    obtain ⟨S, hS⟩ := ctxPut_sc s r c
    rw [hS]
    rfl
  exact .ite rfl (.ite (.ite rfl (hput _)) (.ite (.ite (hput _) rfl) (hput _)))

/-- A context command judged again changes the context store. -/
theorem onlySc_scWaiting (s : State) : OnlySc s (scWaiting s) := by
  have hstart (op kind i : Nat) : OnlySc s (scStart s op kind i) :=
    .ite rfl (.ite rfl (.ite rfl (.ite rfl (.ite rfl (onlySc_scApply ..)))))
  unfold scWaiting
  split
  · exact .ite (hstart ..) rfl
  · rfl

/-! ## The slots of the function (R295) -/

theorem slotOwner_funcRec {s : State} {i : Nat} {r : FuncRec} (h : slotOwner s i = some r) : funcRec s r.func ≠ none := by
  intro hn
  have := List.find?_eq_none.mp hn r (List.mem_of_find?_eq_some h)
  simp at this

theorem getSlot_eraseOwner (s : State) (f i : Nat) : getSlot (eraseOwner s f) i =
    if ownsSlot s f i || ((getSlot s i).kind != 0 && (getSlot s i).own == f) then (getSlot s i).erased else getSlot s i :=
  ((OnlyForgets.foldl (fun x u => (OnlyForgets.refl x).scrubUnit u) ..).getSlot i).trans (getSlot_eraseWhere ..)

/-- Whatever names the function as its OWNER is EMPTY. -/
theorem kind_eraseOwner {s : State} {f i : Nat} (h : (getSlot (eraseOwner s f) i).own = f) :
    (getSlot (eraseOwner s f) i).kind = 0 := by
  rw [getSlot_eraseOwner] at h ⊢
  split at h
  · next hp => rw [if_pos hp]; rfl
  · next hp =>
    rw [if_neg hp]
    simp only [Bool.or_eq_true, Bool.and_eq_true, bne_iff_ne, beq_iff_eq, not_or, not_and] at hp
    exact Classical.byContradiction fun hk => hp.2 hk h

/-- A function without a record owns the slots that name it alone. -/
theorem getSlot_eraseOwner_other {s : State} {f i : Nat} (hf : funcRec s f = none) (h : (getSlot s i).own ≠ f) :
    getSlot (eraseOwner s f) i = getSlot s i := by
  have howns : ownsSlot s f i = false := by
    rw [Bool.eq_false_iff]
    intro ho
    simp only [ownsSlot, Bool.and_eq_true, Option.any_eq_true, beq_iff_eq] at ho
    obtain ⟨⟨r, hr, rfl⟩, -⟩ := ho
    exact slotOwner_funcRec hr hf
  rw [getSlot_eraseOwner, if_neg (by simp [howns, h])]

/-! ## A reset begins (R295, R296) -/

/-- The stop up to the erase of its slots. -/
def vfErased (s : State) (f : Nat) : State :=
  eraseOwner ((unitsOf s f).foldl stopNoRecord (dropChains (stopIo s f) f)) f

theorem vfErased_fnFrame (s : State) (f : Nat) : fnFrame (vfErased s f) = fnFrame s :=
  calc fnFrame (vfErased s f)
      = fnFrame ((unitsOf s f).foldl stopNoRecord (dropChains (stopIo s f) f)) := (OnlyWork.eraseOwner ..).fnFrame
    _ = fnFrame (dropChains (stopIo s f) f) := (OnlyWork.foldl OnlyWork.stopNoRecord ..).fnFrame
    _ = fnFrame s := fnFrame_dropChains ..

theorem vfErased_chains (s : State) (f : Nat) : ∀ e ∈ (vfErased s f).chains, e.2.func ≠ f :=
  (ChainsAmong.eraseOwner (ChainsAmong.foldl (C := (· ≠ f)) ⟨chains_dropChains (stopIo s f) f, rfl⟩
    (fun _ u h => h.stopNoRecord u) _) f).chains

theorem freeContexts_eq {s : State} {f : Nat} {r : FuncRec} (h : funcRec s f = some r) : ∃ sc,
    freeContexts s f = setFn { s with sc := sc } f { getFn s f with
      rstStd := (r.stdBase, r.stdCount), rstCmp := (r.cmpBase, r.cmpCount)
      ctxFill := true, fillAt := s.clk.meridian, fillStd := (r.stdBase, r.stdCount) :: (getFn s f).fillStd
      fillCmp := (r.cmpBase, r.cmpCount) :: (getFn s f).fillCmp } := by
  unfold freeContexts
  simp only [h]
  exact ⟨_, rfl⟩

/-- What a stop speaks of in the end: the requests, the chains, the slots and the function's record. -/
def stopView (f : Nat) (s : State) : List Nat × Tbl Chain × Tbl Slot × Fn := (s.flrPend, s.chains, s.kv.slots, getFn s f)

theorem OnlySc.stopView {s t : State} (h : OnlySc s t) (f : Nat) : stopView f t = stopView f s := by rw [h]; rfl

theorem stopView_dropKept (s : State) (f : Nat) : stopView f (dropKept s) = stopView f s :=
  foldl_keeps (stopView f) scrubUnit (fun _ _ => rfl) _ s

/-- The contexts of the function are being filled; its counts of what the stop ended are shown. -/
theorem stopView_vfStop {s : State} {f : Nat} {r : FuncRec} (hr : funcRec s f = some r) : ∃ n m fillStd fillCmp,
    stopView f (vfStop s f) = (s.flrPend, (vfErased s f).chains, (vfErased s f).kv.slots, { getFn s f with
      discard := n, aborted := m, rstStd := (r.stdBase, r.stdCount), rstCmp := (r.cmpBase, r.cmpCount)
      ctxFill := true, fillAt := (vfErased s f).clk.meridian, fillStd := fillStd, fillCmp := fillCmp }) := by
  have hframe := vfErased_fnFrame s f
  simp only [fnFrame, Prod.mk.injEq] at hframe
  obtain ⟨hfns, hpend, hchart⟩ := hframe
  have hfn : getFn (vfErased s f) f = getFn s f := congrArg (fun t : Tbl Fn => t.get .init f) hfns
  obtain ⟨sc, hfree⟩ := freeContexts_eq (s := vfErased s f) (f := f) (r := r) (by rw [funcRec, hchart]; exact hr)
  have hwait := (onlySc_scWaiting (freeContexts (vfErased s f) f)).stopView f
  generalize hw : scWaiting (freeContexts (vfErased s f) f) = w at hwait
  rw [hfree, hfn] at hwait
  simp only [stopView, Prod.mk.injEq, setFn_flrPend, setFn_chains, setFn_kv, getFn_setFn, hpend] at hwait
  obtain ⟨h1, h2, h3, h4⟩ := hwait
  have hstop (n m : Nat) (cqs : Tbl Cq) :
      stopView f (dropKept (setFn { w with cqs := cqs } f { getFn w f with discard := n, aborted := m })) =
        (w.flrPend, w.chains, w.kv.slots, { getFn w f with discard := n, aborted := m }) := by
    rw [stopView_dropKept, stopView, getFn_setFn]
    rfl
  obtain ⟨n, m, cqs, hdef⟩ : ∃ n m cqs,
      vfStop s f = dropKept (setFn { w with cqs := cqs } f { getFn w f with discard := n, aborted := m }) :=
    ⟨_, _, _, by rw [← hw]; rfl⟩
  rw [hdef, hstop, h1, h2, h3, h4]
  exact ⟨_, _, _, _, rfl⟩

/-- The stop of a function with a record: its chains are gone, its slots EMPTY, its contexts being filled. -/
theorem vfStop_spec {s : State} {f : Nat} {r : FuncRec} (hr : funcRec s f = some r) : let t := vfStop s f
    t.flrPend = s.flrPend ∧ (getFn t f).resetting = (getFn s f).resetting ∧ (getFn t f).causeFlr = (getFn s f).causeFlr ∧
      (getFn t f).causeCtl = (getFn s f).causeCtl ∧ (getFn t f).t0 = (getFn s f).t0 ∧ (getFn t f).ctxFill = true ∧
      (∀ e ∈ t.chains, e.2.func ≠ f) ∧ ∀ i, (getSlot t i).own = f → (getSlot t i).kind = 0 := by
  obtain ⟨n, m, fs, fc, hview⟩ := stopView_vfStop hr
  simp only [stopView, Prod.mk.injEq] at hview
  obtain ⟨hpend, hchains, hslots, hfn⟩ := hview
  have hslot (i : Nat) : getSlot (vfStop s f) i = getSlot (vfErased s f) i :=
    congrArg (fun t : Tbl Slot => t.get .empty i) hslots
  simp only [hfn, hslot]
  exact ⟨hpend, trivial, trivial, trivial, trivial, trivial, hchains ▸ vfErased_chains s f, fun i => kind_eraseOwner⟩

/-- A requested reset begins, before anything of the function is stopped. -/
def vfBegun (s : State) (f : Nat) (flr : Bool) : State :=
  setFn s f { getFn s f with
    resetting := true, causeCtl := !flr, causeFlr := flr, t0 := controlCycle s, discard := 0, aborted := 0,
    rstStd := (0, 0), rstCmp := (0, 0) }

theorem vfReset_begins {s : State} {f : Nat} (flr : Bool) (h : (getFn s f).resetting = false) :
    vfReset s f flr = if (funcRec s f).isSome then vfStop (vfBegun s f flr) f else eraseOwner (vfBegun s f flr) f := by
  simp only [vfReset, h, Bool.false_eq_true, if_false]
  rfl

theorem vfReset_merges {s : State} {f : Nat} (flr : Bool) (h : (getFn s f).resetting = true) : vfReset s f flr =
    setFn s f { getFn s f with
      merged := true, causeCtl := (getFn s f).causeCtl || !flr, causeFlr := (getFn s f).causeFlr || flr } := by
  simp [vfReset, h]

/-- A reset of a function with a record: `vfStop_spec` from the state in which it has begun. -/
theorem vfReset_recorded {s : State} {f : Nat} {flr : Bool} {r : FuncRec} (h : (getFn s f).resetting = false)
    (hr : funcRec s f = some r) : let t := vfReset s f flr
    t.flrPend = s.flrPend ∧ (getFn t f).resetting = true ∧ (getFn t f).causeFlr = flr ∧ (getFn t f).causeCtl = !flr ∧
      (getFn t f).t0 = controlCycle s ∧ (getFn t f).ctxFill = true ∧
      (∀ e ∈ t.chains, e.2.func ≠ f) ∧ ∀ i, (getSlot t i).own = f → (getSlot t i).kind = 0 := by
  have hstop := vfStop_spec (s := vfBegun s f flr) hr
  rw [vfReset_begins flr h, hr]
  simpa [vfBegun] using hstop

/-- A function without a record: its slots are EMPTY, and no other slot, queue or context changes. -/
theorem vfReset_unrecorded {s : State} {f : Nat} {flr : Bool} (h : (getFn s f).resetting = false)
    (hr : funcRec s f = none) : let t := vfReset s f flr
    (getFn t f).resetting = true ∧ (getFn t f).causeCtl = !flr ∧ (getFn t f).ctxFill = (getFn s f).ctxFill ∧
      (∀ i, (getSlot t i).own = f → (getSlot t i).kind = 0) ∧
      (∀ i, (getSlot s i).own ≠ f → getSlot t i = getSlot s i) ∧ t.cqs = s.cqs ∧ t.sc.std = s.sc.std := by
  have hwork := OnlyWork.eraseOwner (vfBegun s f flr) f
  have hfn : getFn (eraseOwner (vfBegun s f flr) f) f = getFn (vfBegun s f flr) f :=
    congrArg (fun x : Tbl Fn × List Nat × Chart => x.1.get .init f) hwork.fnFrame
  have hstd := (ChainsAmong.eraseOwner (C := fun _ => True) (s := vfBegun s f flr) ⟨fun _ _ => trivial, rfl⟩ f).ctxs
  rw [vfReset_begins flr h, hr]
  simp only [Option.isSome_none, Bool.false_eq_true, if_false, hfn]
  simp only [vfBegun, getFn_setFn]
  exact ⟨trivial, trivial, trivial, fun i => kind_eraseOwner, fun i => getSlot_eraseOwner_other (s := vfBegun s f flr) hr,
    hwork.cqs, congrArg Prod.fst hstd⟩

/-! ## A reset ends (R296, R298) -/

/-- The end of a reset: rings and queues of the function are at their reset values, its FLR requests are answered. -/
theorem vfDone_spec (s : State) (f : Nat) : let t := vfDone s f
    (getFn t f).resetting = false ∧ (getFn t f).done = true ∧ (getFn t f).rstCount = sat32 (getFn s f).rstCount ∧
      (getFn t f).rstTime = min (controlCycle s - (getFn s f).t0) 0xFFFFFF ∧
      (∀ g, getRing t g = if ownsRing s f g then Ring.init else getRing s g) ∧
      (∀ q, getCq t q = if ownsCq s f q then Cq.init else getCq s q) ∧
      f ∉ t.flrPend ∧ t.fdn = s.fdn ++ List.replicate (s.flrPend.filter (· == f)).length f ∧
      (∀ m, m ≠ f → getFn t m = getFn s m) ∧ t.kv = s.kv ∧ t.sc = s.sc ∧ t.chains = s.chains := by
  simp only [vfDone, getFn_setFn]
  refine ⟨trivial, trivial, trivial, rfl, fun g => Tbl.get_filter_not s.rings .init (ownsRing s f) g,
    fun q => Tbl.get_filter_not s.cqs .init (ownsCq s f) q, by simp, rfl, fun m hm => ?_, rfl, rfl, rfl⟩
  rw [getFn_setFn_ne _ _ _ _ hm]
  rfl

/-! ## The commands -/

theorem coreHeld_of_ported {s : State} (h : ported s = true) : s.pw.coreHeld = false := by
  simp only [ported, active, powered, Bool.and_eq_true, Bool.not_eq_true'] at h
  obtain ⟨⟨⟨⟨-, hheld⟩, -⟩, -⟩, -⟩ := h
  exact hheld

/-- A beat of FLR_VALID outside A2. -/
theorem exec_flrRequest_run {s : State} (f : BitVec 14) (ok : Bool) (hp : ported s = true) (hm : s.pw.mode = .run) :
    exec (.flrRequest f ok) s = .next (flrBeat s (f.toNat, ok)) := by
  change execFlrRequest f ok s = _
  simp [execFlrRequest, hp, hm, coreHeld_of_ported hp]

theorem exec_flrRequest_a2 {s : State} (f : BitVec 14) (ok : Bool) (hc : s.pw.coreHeld = false)
    (hm : s.pw.mode = .a2Entry ∨ s.pw.mode = .a2 ∨ s.pw.mode = .a2Exit) : exec (.flrRequest f ok) s = .next { s with
      pw := { s.pw with
        mode := if s.pw.mode = .a2 then .a2Exit else s.pw.mode
        flrWake := if s.pw.flrWake = [] then [(f.toNat, ok)] else s.pw.flrWake } } := by
  change execFlrRequest f ok s = _
  simp only [execFlrRequest, hc, Bool.false_eq_true, if_false, if_pos hm, flrHeld, wake, List.isEmpty_iff]
  split <;> rfl

theorem exec_vfCtlReset {s : State} {a : Access} {f : BitVec 13} {v : Word} (h : granted s a true (vfAt a f.toNat 0) = true)
    (hv : wbit v 0 = true) : exec (.vfCtlReset a f v) s = .next (acked (vfReset s (f.toNat + 1) false) a) := by
  change execVfCtlReset a f v s = _
  rw [execVfCtlReset, hostWrite_granted _ _ _ _ h, vfCtlW, if_pos hv]

/-- Settles O45: a reset begins by `vfReset_recorded` and `vfReset_unrecorded` and ends by `vfDone_spec`. -/
theorem functionResets : Obligations.FunctionResets := by
  unfold Obligations.FunctionResets
  refine ⟨⟨fun s a v h => ?_, fun s hr hp hm => ?_, fun s f hp hm => ⟨?_, fun hr => ?_⟩,
    fun s f ok hc hm => exec_flrRequest_a2 f ok hc hm, fun s f hr hp hm h0 hle => ⟨fun r hno hrec => ?_, fun hres => ?_⟩,
    fun s a f v h hv => ⟨fun r hno hrec => ?_, fun hno hrec => ?_, fun hres => ?_⟩⟩, fun s f hup hres => ⟨fun hrec hq => ?_,
    fun hq => ?_⟩, fun s f hup hfill ht => ?_⟩
  · change execMgReset a v s = _
    rw [execMgReset, hostWrite_granted _ _ _ _ h]
    rfl
  · rw [exec_flrRequest_run _ _ hp hm]
    simp [flrBeat, takeFlr, hr, blockRequest]
  · rw [exec_flrRequest_run _ _ hp hm]
    rfl
  · rw [exec_flrRequest_run _ _ hp hm]
    simp [flrBeat, takeFlr, hr]
  · have hs := vfReset_recorded (s := { s with flrPend := s.flrPend ++ [f.toNat] }) (flr := true) hno hrec
    obtain ⟨hpend, h1, h2, h3, ht0, h4, h5, h6⟩ := hs
    refine ⟨_, exec_flrRequest_run f true hp hm, ?_⟩
    have htake : flrBeat s (f.toNat, true) = vfReset { s with flrPend := s.flrPend ++ [f.toNat] } f.toNat true := by
      simp [flrBeat, takeFlr, hr, Nat.not_lt.mpr hle, Nat.ne_of_gt h0]
    rw [htake]
    exact ⟨hpend, h1, h2, h3, ht0, h4, h5, h6⟩
  · have hs := vfReset_merges (s := { s with flrPend := s.flrPend ++ [f.toNat] }) true hres
    rw [exec_flrRequest_run f true hp hm]
    simp only [flrBeat, takeFlr, hr, Nat.not_lt.mpr hle, Nat.ne_of_gt h0, hs, if_true, if_false, Bool.not_true,
      Bool.or_true, Bool.or_false, decide_false, Bool.or_self, Bool.false_eq_true]
    rfl
  · obtain ⟨hpend, h1, h2, h3, -, h4, h5, h6⟩ := vfReset_recorded (flr := false) hno hrec
    exact ⟨_, exec_vfCtlReset h hv, hpend, h1, h3, h2, h4, h5, h6⟩
  · exact ⟨_, exec_vfCtlReset h hv, vfReset_unrecorded (flr := false) hno hrec⟩
  · rw [exec_vfCtlReset h hv, vfReset_merges _ hres]
    simp
  · change execVfResetComplete f s = _
    simp [execVfResetComplete, hup, hres, hq, Option.isNone_iff_eq_none, hrec]
  · refine ⟨vfDone s f.toNat, ?_, vfDone_spec s f.toNat⟩
    change execVfResetComplete f s = _
    rw [execVfResetComplete, if_pos (by simpa [hup, hres, Option.isNone_iff_eq_none] using hq)]
  · change execCtxFillDone f s = _
    simp [execCtxFillDone, hup, hfill, ht]

end Sys2Proof.Machine

namespace Sys2Proof.Machine

/-!
# The dirty log of a VF

DL_ENABLE, DL_DISABLE, DL_CONSUMED_WRITE, DL_ROUND, DL_SWEEP_DONE and DL_ALL_DIRTY_CLEAR (R301 to R303).
-/

/-! ## The written values -/

theorem wfld_or_disjoint (v m : Word) (k : Nat) (h : m.toNat % 2 ^ k = 0) : wfld (v ||| m) 0 k = wfld v 0 k := by
  simp [wfld, fld, Nat.or_mod_two_pow, h]

theorem wfld_and_covering (v m : Word) (k : Nat) (h : m.toNat % 2 ^ k = 2 ^ k - 1) : wfld (v &&& m) 0 k = wfld v 0 k := by
  simp [wfld, fld, Nat.and_mod_two_pow, h, Nat.and_two_pow_sub_one_eq_mod]

theorem wbit_or (v m : Word) (i : Nat) : wbit (v ||| m) i = (wbit v i || wbit m i) := BitVec.getLsbD_or

theorem wbit_and (v m : Word) (i : Nat) : wbit (v &&& m) i = (wbit v i && wbit m i) := BitVec.getLsbD_and

/-! ## The sweep (R302) -/

theorem Tbl.mem_mapVal {α : Type} {t : Tbl α} {f : Nat → α → α} {e : Nat × α} :
    e ∈ t.mapVal f ↔ ∃ x, (e.1, x) ∈ t ∧ e.2 = f e.1 x := by
  simp only [Tbl.mapVal, List.mem_map, Prod.exists]
  constructor
  · rintro ⟨i, x, hx, rfl⟩
    exact ⟨x, hx, rfl⟩
  · rintro ⟨x, hx, he⟩
    exact ⟨e.1, x, hx, Prod.ext rfl he.symm⟩

theorem Tbl.find_mapVal {α : Type} (t : Tbl α) (f : Nat → α → α) (k : Nat) : (t.mapVal f).find k = (t.find k).map (f k) := by
  induction t with
  | nil => rfl
  | cons e t ih =>
    obtain ⟨i, x⟩ := e
    simp only [Tbl.mapVal, List.map_cons, Tbl.find] at ih ⊢
    split
    · next h => rw [h]; rfl
    · exact ih

/-- A chain of the swept function: no record that waits has logged its page. -/
def chainSwept (n : Nat) (c : Chain) : Chain :=
  if c.func = n then { c with results := c.results.map (fun r => { r with paged := none }) } else c

/-- A write of the swept function that waits: its page is not logged. -/
def txnSwept (n : Nat) (t : Txn) : Txn := if t.func = n then { t with paged := false } else t

/-- The state after a sweep of a function began, its record apart. -/
theorem dlSweep_eq (s : State) (n : Nat) : dlSweep s n =
    { setFn s n { getFn s n with dl := { (getFn s n).dl with sweepAt := some s.clk.meridian } } with
      dlFilter := s.dlFilter.filter (fun e => e.2.1 ≠ n)
      ports := s.ports.mapVal (fun _ p => { p with sendQ := p.sendQ.map (txnSwept n) })
      chains := s.chains.mapVal (fun _ c => chainSwept n c) } := rfl

theorem mem_dlFilter_dlSweep (s : State) (n : Nat) (e) : e ∈ (dlSweep s n).dlFilter ↔ e ∈ s.dlFilter ∧ e.2.1 ≠ n := by
  simp [dlSweep_eq]

theorem getPort_dlSweep (s : State) (n m : Nat) :
    getPort (dlSweep s n) m = { getPort s m with sendQ := (getPort s m).sendQ.map (txnSwept n) } :=
  Tbl.get_mapVal (f := fun _ (p : Port) => { p with sendQ := p.sendQ.map (txnSwept n) }) s.ports rfl

theorem sendQ_dlSweep (s : State) (n m : Nat) : (getPort (dlSweep s n) m).out = (getPort s m).out ∧
    ∀ y ∈ (getPort (dlSweep s n) m).sendQ, y.func = n → y.paged = false := by
  rw [getPort_dlSweep]
  refine ⟨rfl, fun y hy hn => ?_⟩
  obtain ⟨x, -, rfl⟩ := List.mem_map.mp hy
  unfold txnSwept at hn ⊢
  split at hn
  · next h => rw [if_pos h]
  · next h => exact absurd hn h

theorem chainSwept_func (n : Nat) (c : Chain) : (chainSwept n c).func = c.func := by
  unfold chainSwept; split <;> rfl

theorem chainSwept_voidFabric (n : Nat) (c : Chain) : (chainSwept n c).voidFabric = c.voidFabric := by
  unfold chainSwept; split <;> rfl

theorem chainSwept_covered (n : Nat) (c : Chain) : (chainSwept n c).covered = c.covered := by
  unfold chainSwept; split <;> rfl

theorem chainSwept_live (n : Nat) (c : Chain) : live (chainSwept n c) = live c := by
  unfold chainSwept; split <;> rfl

theorem results_dlSweep {s : State} {n : Nat} {e : Nat × Chain} (he : e ∈ (dlSweep s n).chains) (hn : e.2.func = n) :
    ∀ y ∈ e.2.results, y.paged = none := by
  obtain ⟨c, -, hc⟩ := (Tbl.mem_mapVal (f := fun _ c => chainSwept n c)).mp he
  have hf : c.func = n := by rw [← chainSwept_func n c, ← hc, hn]
  have hres : e.2.results = c.results.map (fun r => { r with paged := none }) := by
    rw [hc]
    exact congrArg Chain.results (if_pos hf)
  intro y hy
  rw [hres] at hy
  obtain ⟨r, -, rfl⟩ := List.mem_map.mp hy
  rfl

theorem getFn_dlSweep (s : State) (n : Nat) : getFn (dlSweep s n) n =
    { getFn s n with dl := { (getFn s n).dl with sweepAt := some s.clk.meridian } } := getFn_setFn ..

theorem getFn_dlSweep_ne (s : State) (n m : Nat) (h : m ≠ n) : getFn (dlSweep s n) m = getFn s m :=
  getFn_setFn_ne _ _ _ _ h

/-! ## Enabling a log voids bounds (R73) -/

/-- The chain of a function whose log is enabled: its bound is void where its E covers no log. -/
def chainVoided (n : Nat) (c : Chain) : Chain :=
  if live c && (c.func == n && !c.covered) then { c with voidFabric := true } else c

theorem chainVoided_live (n : Nat) (c : Chain) : live (chainVoided n c) = live c := by
  unfold chainVoided; split <;> rfl

theorem chainVoided_func (n : Nat) (c : Chain) : (chainVoided n c).func = c.func := by
  unfold chainVoided; split <;> rfl

theorem chainVoided_covered (n : Nat) (c : Chain) : (chainVoided n c).covered = c.covered := by
  unfold chainVoided; split <;> rfl

theorem chainVoided_of_covered {n : Nat} {c : Chain} (h : c.covered = true) : chainVoided n c = c := by
  simp [chainVoided, h]

theorem chainVoided_voidFabric {n : Nat} {c : Chain} (hl : live c = true) (hf : c.func = n) (hc : c.covered = false) :
    (chainVoided n c).voidFabric = true := by
  simp [chainVoided, hl, hf, hc]

theorem voidFabric_chains (s : State) (n : Nat) :
    (voidFabric s fun c => c.func == n && !c.covered).chains = s.chains.mapVal fun _ c => chainVoided n c := rfl

/-- The state from which an enabled log sweeps. -/
def dlVoided (s : State) (n : Nat) : State :=
  if (getFn s n).dl.active then s else voidFabric s (fun c => c.func == n && !c.covered)

theorem dlVoided_frame (s : State) (n : Nat) : dlVoided s n = { s with chains := (dlVoided s n).chains, ad := (dlVoided s n).ad } := by
  unfold dlVoided; split <;> rfl

/-! ## The commands -/

section Commands
variable {s : State} {a : Access} {f : BitVec 13} {v : Word}

theorem exec_dlDisable (h : granted s a true (vfAt a f.toNat 0x28) = true) : exec (.dlDisable a f v) s = .next (acked
    (setDl s (f.toNat + 1) { (getFn s (f.toNat + 1)).dl with size := wfld v 0 5, enable := false, active := false }) a) := by
  change execDlDisable a f v s = _
  rw [execDlDisable, hostWrite_granted _ _ _ _ h, dlCfgW, wfld_and_covering _ _ _ rfl, if_pos]
  have h7 : wbit 0xFFFFFF7F 7 = false := rfl
  rw [wbit_and, h7, Bool.and_false]
  rfl

theorem exec_dlEnable_refused (h : granted s a true (vfAt a f.toNat 0x28) = true) (hv : wfld v 0 5 < 9 ∨ 20 < wfld v 0 5) :
    exec (.dlEnable a f v) s = .next (acked (setDl s (f.toNat + 1) { (getFn s (f.toNat + 1)).dl with enRefused := true }) a) := by
  change execDlEnable a f v s = _
  rw [execDlEnable, hostWrite_granted _ _ _ _ h, dlCfgW, wfld_or_disjoint _ _ _ rfl, if_neg, if_pos hv]
  have h7 : wbit 0x80 7 = true := rfl
  rw [wbit_or, h7]
  simp

theorem exec_dlEnable (h : granted s a true (vfAt a f.toNat 0x28) = true) (h9 : 9 ≤ wfld v 0 5) (h20 : wfld v 0 5 ≤ 20) :
    exec (.dlEnable a f v) s = .next (acked (dlSweep (setDl (dlVoided s (f.toNat + 1)) (f.toNat + 1)
      { (getFn s (f.toNat + 1)).dl with
        size := wfld v 0 5, enable := true, active := true, written := 0, consumed := 0, allDirty := false, fault := false })
      (f.toNat + 1)) a) := by
  change execDlEnable a f v s = _
  rw [execDlEnable, hostWrite_granted _ _ _ _ h, dlCfgW, wfld_or_disjoint _ _ _ rfl, if_neg, if_neg (by omega)]
  · rfl
  · have h7 : wbit 0x80 7 = true := rfl
    rw [wbit_or, h7]
    simp

theorem exec_dlRound (h : granted s a true (vfAt a f.toNat 0x34) = true) (hv : wbit v 0 = true) :
    exec (.dlRound a f v) s = .next (acked (dlSweep s (f.toNat + 1)) a) := by
  change execDlRound a f v s = _
  rw [execDlRound, hostWrite_granted _ _ _ _ h, dlCmdW, if_pos hv]

theorem exec_dlAllDirtyClear (h : granted s a true (vfAt a f.toNat 0x38) = true) :
    exec (.dlAllDirtyClear a f v) s = .next (acked (dlSweep (setDl s (f.toNat + 1) { (getFn s (f.toNat + 1)).dl with
      allDirty := false, fault := (getFn s (f.toNat + 1)).dl.fault && !wbit v 1
      enRefused := (getFn s (f.toNat + 1)).dl.enRefused && !wbit v 2 }) (f.toNat + 1)) a) := by
  change execDlAllDirtyClear a f v s = _
  have h0 : wbit 1 0 = true := rfl
  have h1 : wbit 1 1 = false := rfl
  have h2 : wbit 1 2 = false := rfl
  rw [execDlAllDirtyClear, hostWrite_granted _ _ _ _ h, dlStatusW]
  simp only [w1c, wbit_or, h0, h1, h2, Bool.or_true, Bool.or_false, Bool.not_true, Bool.and_false, if_true]

end Commands

/-- The record of the function once its log is enabled, before the sweep. -/
def dlEnabled (s : State) (n size : Nat) : State :=
  setDl (dlVoided s n) n { (getFn s n).dl with
    size := size, enable := true, active := true, written := 0, consumed := 0, allDirty := false, fault := false }

theorem getFn_dlVoided (s : State) (n m : Nat) : getFn (dlVoided s n) m = getFn s m := by rw [dlVoided_frame]; rfl

theorem getPort_dlVoided (s : State) (n m : Nat) : getPort (dlVoided s n) m = getPort s m := by rw [dlVoided_frame]; rfl

/-- What an enabled log leaves: the records of functions, the chains, the filter and the waiting writes apart. -/
theorem dlSweep_dlEnabled_frame (s : State) (n size : Nat) : let t := dlSweep (dlEnabled s n size) n
    t = { s with fns := t.fns, chains := t.chains, ad := t.ad, dlFilter := t.dlFilter, ports := t.ports } :=
  let t := dlSweep (dlEnabled s n size) n
  congrArg (fun x : State => { x with fns := t.fns, chains := t.chains, dlFilter := t.dlFilter, ports := t.ports })
    (dlVoided_frame s n)

theorem mem_chains_dlEnabled {s : State} {n size : Nat} {e : Nat × Chain} (he : e ∈ (dlSweep (dlEnabled s n size) n).chains) :
    ∃ c, (e.1, c) ∈ (dlVoided s n).chains ∧ e.2 = chainSwept n c :=
  (Tbl.mem_mapVal (f := fun _ c => chainSwept n c)).mp he

/-- The accepted chains of the function whose E covers no log are void. -/
theorem voided_dlEnabled {s : State} {n size : Nat} {e : Nat × Chain} (he : e ∈ (dlSweep (dlEnabled s n size) n).chains)
    (hf : e.2.func = n) (hact : (getFn s n).dl.active = false) (hl : live e.2 = true) (hc : e.2.covered = false) :
    e.2.voidFabric = true := by
  obtain ⟨c, hmem, he⟩ := mem_chains_dlEnabled he
  rw [dlVoided, hact, if_neg Bool.false_ne_true, voidFabric_chains] at hmem
  obtain ⟨b, -, rfl⟩ := (Tbl.mem_mapVal (f := fun _ c => chainVoided n c)).mp hmem
  rw [he] at hf hl hc ⊢
  rw [chainSwept_func, chainVoided_func] at hf
  rw [chainSwept_live, chainVoided_live] at hl
  rw [chainSwept_covered, chainVoided_covered] at hc
  rw [chainSwept_voidFabric]
  exact chainVoided_voidFabric hl hf hc

/-- A chain whose E covers a log keeps its bound. -/
theorem covered_dlEnabled {s : State} {n size i : Nat} {c d : Chain} (hi : findChain s i = some c)
    (hd : findChain (dlSweep (dlEnabled s n size) n) i = some d) (hc : c.covered = true) : d.voidFabric = c.voidFabric := by
  have hswept : findChain (dlSweep (dlEnabled s n size) n) i = (findChain (dlVoided s n) i).map (chainSwept n) :=
    Tbl.find_mapVal _ (fun _ c => chainSwept n c) i
  have hvoided : findChain (dlVoided s n) i = some c := by
    unfold dlVoided
    split
    · exact hi
    · rw [findChain, voidFabric_chains, Tbl.find_mapVal, ← findChain, hi, Option.map_some, chainVoided_of_covered hc]
  rw [hswept, hvoided, Option.map_some, Option.some.injEq] at hd
  rw [← hd, chainSwept_voidFabric]

/-- Settles O47: what a sweep leaves is `dlSweep_eq`; enabling a log voids by `chainVoided`. -/
theorem dirtyLogCommands : Obligations.DirtyLogCommands := by
  rintro s a f v _ _ rfl rfl
  refine ⟨exec_dlDisable, exec_dlEnable_refused, fun h h9 h20 => ⟨_, exec_dlEnable h h9 h20,
    dlSweep_dlEnabled_frame .., ?_, fun m hm => ?_, fun e => ?_, fun e he hf => voided_dlEnabled he hf,
    fun i c d => covered_dlEnabled, fun e => results_dlSweep, fun m => ?_⟩, fun h => ?_,
    fun h hv => ⟨_, exec_dlRound h hv, rfl, mem_dlFilter_dlSweep _ _, fun e => results_dlSweep, sendQ_dlSweep s _⟩,
    fun h => ⟨_, exec_dlAllDirtyClear h, rfl, ?_, mem_dlFilter_dlSweep _ _⟩, fun t0 ha hsweep ht => ?_⟩
  · have hclk : (dlVoided s (f.toNat + 1)).clk = s.clk := by rw [dlVoided_frame]
    rw [getFn_dlSweep, setDl, getFn_setFn, getFn_dlVoided]
    simp [hclk]
  · rw [getFn_dlSweep_ne _ _ _ hm, setDl, getFn_setFn_ne _ _ _ _ hm, getFn_dlVoided]
  · have hfilter : (dlVoided s (f.toNat + 1)).dlFilter = s.dlFilter := by rw [dlVoided_frame]
    rw [← hfilter]
    exact mem_dlFilter_dlSweep ..
  · rw [← getPort_dlVoided s (f.toNat + 1) m]
    exact sendQ_dlSweep ..
  · change execDlConsumedWrite a f v s = _
    rw [execDlConsumedWrite, hostWrite_granted _ _ _ _ h]
    rfl
  · rw [getFn_dlSweep, setDl, getFn_setFn]
    rfl
  · have hlt : f.toNat + 1 < 2 ^ 14 := by have := f.isLt; omega
    change execDlSweepDone (BitVec.ofNat 14 (f.toNat + 1)) s = _
    simp only [execDlSweepDone, BitVec.toNat_ofNat, Nat.mod_eq_of_lt hlt, hsweep, ha, ht, decide_true, Bool.and_self, if_true]
    rfl

end Sys2Proof.Machine

namespace Sys2Proof.Machine

/-!
# The secrets are gone

What the zeroise strobe and the erases leave (R195, R205, R208, R321, R330): no slot, no key register, no context, no
masking key; and what a stop without a record leaves of the jobs (R205).
-/

/-! ## A state without secrets -/

/-- No slot is taken, no unit holds a key, no context is stored, no vault key stands and the device key is gone. -/
structure Wiped (s : State) : Prop where
  slots : ∀ i, (getSlot s i).kind = 0
  keys : ∀ u, (getUni s u).key = none
  ctxs : contexts s = ([], [])
  kvlt : s.kv.kvlt = none
  att : s.kv.attValid = false

/-- What such a state speaks of. -/
def secrets (s : State) : Tbl Slot × Tbl Uni × (Tbl Ctx × Tbl Ctx) × Option Bytes × Bool :=
  (s.kv.slots, s.units, contexts s, s.kv.kvlt, s.kv.attValid)

theorem Wiped.same {s t : State} (h : Wiped s) (ht : secrets t = secrets s := by rfl) : Wiped t := by
  simp only [secrets, Prod.mk.injEq] at ht
  obtain ⟨hslots, hunits, hctx, hkvlt, hatt⟩ := ht
  exact ⟨fun i => by rw [getSlot, hslots]; exact h.slots i, fun u => by rw [getUni, hunits]; exact h.keys u,
    hctx.trans h.ctxs, hkvlt.trans h.kvlt, hatt.trans h.att⟩

theorem Wiped.std {s : State} (h : Wiped s) : s.sc.std = [] := congrArg Prod.fst h.ctxs

theorem Wiped.cmp {s : State} (h : Wiped s) : s.sc.cmp = [] := congrArg Prod.snd h.ctxs

theorem OnlyRecords.secrets {s t : State} (h : OnlyRecords s t) : secrets t = secrets s := by rw [h]; rfl

theorem OnlyLogged.secrets {s t : State} (h : OnlyLogged s t) : secrets t = secrets s := by rw [h]; rfl

/-! ## The strobe (R205) -/

/-- The state in which the strobe writes the units: the contexts are erased, the scrubs of the key registers counted. -/
def strobed (s : State) : State :=
  (((eraseCtx s).units.filter (fun e => e.2.key.isSome)).map (·.1)).foldl countScrub (eraseCtx s)

theorem strobed_keeps {β : Type} (π : State → β) (h : ∀ s u, π (countScrub s u) = π s) (s : State) :
    π (strobed s) = π (eraseCtx s) := foldl_keeps π countScrub h _ _

theorem zeroize_eq (s : State) : zeroize s = { strobed s with
    units := (strobed s).units.mapVal (zeroUnit (strobed s))
    opmem := zeroSealed (strobed s)
    kv := { (strobed s).kv with
      slots := (strobed s).kv.slots.mapVal (fun _ x => x.erased), kvlt := none, kopr := none
      ready := false, erasing := true, scrubAt := some (strobed s).clk.meridian, attValid := false, dAtt := none
      drbg := (strobed s).kv.drbg.map (fun d => { d with seeded := false }), cmd := none, busy := false } } := rfl

/-- A unit behind the strobe: what it runs no longer names a context, and its key register is zero. -/
theorem getUni_zeroize (s : State) (u : Nat) : getUni (zeroize s) u = zeroUnit (strobed s) u { getUni s u with
    job := (getUni s u).job.map fun j => { j with ctxRef := none, dirty := false } } := by
  have hzero : getUni (zeroize s) u = zeroUnit (strobed s) u (getUni (strobed s) u) :=
    zeroize_eq s ▸ Tbl.get_mapVal (f := zeroUnit (strobed s)) (d := Uni.init) (strobed s).units
      (by unfold zeroUnit; dsimp only; split <;> rfl)
  have herase : getUni (eraseCtx s) u = { getUni s u with
      job := (getUni s u).job.map fun j => { j with ctxRef := none, dirty := false } } :=
    Tbl.get_mapVal (f := fun _ (x : Uni) => { x with
      job := x.job.map fun j => { j with ctxRef := none, dirty := false } }) s.units rfl
  rw [hzero, strobed_keeps (getUni · u) (fun _ _ => by rfl), herase]

theorem job_zeroize {s : State} {u : Nat} (h : (getUni s u).job = none) : (getUni (zeroize s) u).job = none := by
  rw [getUni_zeroize]
  simp [zeroUnit, scrubKey, h]

theorem wiped_zeroize (s : State) : Wiped (zeroize s) where
  slots i := by
    have hslots : getSlot (zeroize s) i = (getSlot (strobed s) i).erased :=
      zeroize_eq s ▸ Tbl.get_mapVal (f := fun _ x => Slot.erased x) (d := Slot.empty) (strobed s).kv.slots rfl
    rw [hslots]
    rfl
  keys u := by rw [getUni_zeroize]; rfl
  ctxs := by
    have hctx : contexts (zeroize s) = contexts (strobed s) := by rw [zeroize_eq]; rfl
    exact hctx.trans (strobed_keeps contexts (fun _ _ => rfl) s)
  kvlt := rfl
  att := rfl

/-- The strobe works on jobs, contexts, the vault and operand memory. -/
theorem OnlyWork.zeroize (s : State) : OnlyWork s (zeroize s) :=
  OnlyWork.trans (t := strobed s) (OnlyWork.trans (t := eraseCtx s) rfl (foldl (f := countScrub) (fun _ _ => rfl) ..))
    (by rw [zeroize_eq]; rfl)

/-! ## The vault erase behind it (R208, R321) -/

theorem OnlyWork.eraseVault (s : State) : OnlyWork s (eraseVault s) := (OnlyWork.eraseWhere ..).trans rfl

theorem wiped_eraseVault {s : State} (h : Wiped s) : Wiped (eraseVault s) where
  slots := (eraseVault_spec s).1
  keys u := ((onlyForgets_eraseWhere s fun _ => true).keys u).elim id fun hu => hu.trans (h.keys u)
  ctxs := (ChainsAmong.eraseWhere (C := fun _ => True) ⟨fun _ _ => trivial, rfl⟩ _).ctxs.trans h.ctxs
  kvlt := rfl
  att := (congrArg Kv.attValid (onlyForgets_eraseWhere s fun _ => true).vault).trans h.att

/-! ## Jobs that stop without a record (R205) -/

theorem OnlyUnit.stopUnit (s : State) (u : Nat) : OnlyUnit u s (stopUnit s u) := by
  unfold Machine.stopUnit
  dsimp only
  split
  · exact .refl u s
  · exact OnlyUnit.ite ((OnlyUnit.refl u s).abortService) ((OnlyUnit.refl u s).setUni _)

theorem job_stopUnit (s : State) (u : Nat) : (getUni (stopUnit s u) u).job = none := by
  unfold stopUnit
  dsimp only
  split
  · assumption
  · split
    · exact (abortService_unit s u).2
    · rw [getUni_setUni]

theorem OnlyWork.stopUnit (s : State) (u : Nat) : OnlyWork s (stopUnit s u) := by
  unfold Machine.stopUnit
  dsimp only
  split
  · exact .refl s
  · exact OnlyWork.ite (abortService ..) (setUni ..)

theorem OnlyWork.dropJobs (s : State) : OnlyWork s (dropJobs s) := foldl OnlyWork.stopUnit ..

/-- Units stopped one after another run nothing. -/
theorem job_foldl_stopUnit {l : List Nat} {s : State} {v : Nat} (h : v ∈ l ∨ (getUni s v).job = none) :
    (getUni (l.foldl stopUnit s) v).job = none := by
  induction l generalizing s with
  | nil => exact h.resolve_left (by simp)
  | cons u l ih =>
    refine ih ?_
    by_cases hv : v = u
    · exact .inr (hv ▸ job_stopUnit s u)
    · refine h.imp (fun hm => (List.mem_cons.mp hm).resolve_left hv) fun hn => ?_
      rw [(OnlyUnit.stopUnit s u).others v hv, hn]

theorem job_dropJobs (s : State) (u : Nat) : (getUni (dropJobs s) u).job = none := by
  refine job_foldl_stopUnit ?_
  by_cases hu : u ∈ s.units.map (·.1)
  · exact .inl hu
  · exact .inr (by rw [getUni, Tbl.get_of_notMem hu]; rfl)

end Sys2Proof.Machine

namespace Sys2Proof.Machine

/-!
# Debug authorisation

AC_DBG_CMD with its events DBG_AUTH_COMPLETE and DBG_NONCE_EXPIRE (R320, R321).
-/

/-! ## The commands (R320) -/

/-- AUTH finds nothing to refuse under the conditions of R320 alone. -/
theorem authCode_eq_zero (s : State) : authCode s = 0 ↔ (s.lc.state = 3 ∨ s.lc.state = 4) ∧ s.ac.nonceAt.isSome = true ∧
    (∀ e ∈ s.rings, e.2.active = false) ∧ (∀ e ∈ s.units, e.2.st ≠ 1) ∧
    (sha384 ([0x04] ++ s.ac.key)).take 32 = ownerHash s ∧ verify384 s.ac.key (sha384 (dbgStatement s)) s.ac.sig = true := by
  have hstate : ¬ (s.lc.state ≠ 3 ∧ s.lc.state ≠ 4) ↔ s.lc.state = 3 ∨ s.lc.state = 4 := by omega
  have hwork : ¬ (s.rings.any (fun e => e.2.active) || s.units.any (fun e => e.2.st == 1)) = true ↔
      (∀ e ∈ s.rings, e.2.active = false) ∧ ∀ e ∈ s.units, e.2.st ≠ 1 := by simp
  unfold authCode nonceValid
  split_ifs with h1 h2 h3 h4 h5
  · exact iff_of_false (by decide) fun ⟨hs, _⟩ => hstate.mpr hs h1
  · exact iff_of_false (by decide) fun ⟨_, hn, _⟩ => by simp [hn] at h2
  · exact iff_of_false (by decide) fun ⟨_, _, hr, hu, _⟩ => hwork.mpr ⟨hr, hu⟩ h3
  · exact iff_of_false (by decide) fun ⟨_, _, _, _, hk, _⟩ => h4 hk
  · exact iff_of_false (by decide) fun ⟨_, _, _, _, _, hv⟩ => by simp [hv] at h5
  · have h2' : s.ac.nonceAt.isSome = true := by simpa only [Bool.not_eq_true', Bool.not_eq_false] using h2
    exact iff_of_true rfl ⟨hstate.mp h1, h2', (hwork.mp h3).1, (hwork.mp h3).2, not_not.mp h4, by simpa using h5⟩

section Commands
variable {s : State} {a : Access} (h : granted s a true (mgmtAt a 0x400050) = true)
include h

theorem exec_dbgChallenge : exec (.dbgChallenge a) s = .next (acked (dbgCmd s 1) a) :=
  congrArg Host.Outcome.next (hostWrite_granted s a _ (fun s => dbgCmd s 1) h)

theorem exec_dbgAuth : exec (.dbgAuth a) s = .next (acked (dbgCmd s 2) a) :=
  congrArg Host.Outcome.next (hostWrite_granted s a _ (fun s => dbgCmd s 2) h)

theorem exec_dbgRelease : exec (.dbgRelease a) s = .next (acked (dbgCmd s 3) a) :=
  congrArg Host.Outcome.next (hostWrite_granted s a _ (fun s => dbgCmd s 3) h)

end Commands

theorem dbgCmd_busy {s : State} {v : Word} (hv : wfld v 0 2 ≠ 0) (h : s.ac.dbgBusy = true) : dbgCmd s v = setDbg s 6 := by
  simp [dbgCmd, hv, h]

theorem dbgCmd_idle {s : State} (h : s.ac.dbgBusy = false) :
    dbgCmd s 1 = dbgChallenge s ∧ dbgCmd s 2 = dbgAuth s ∧ dbgCmd s 3 = dbgRelease s := by
  simp [dbgCmd, wfld, fld, h]

/-- CHALLENGE draws a nonce of 32 bytes. -/
theorem dbgChallenge_spec {s : State} (h : drbgUp s 0 = true) : let t := dbgChallenge s
    t = { s with kv := t.kv, free := t.free, ac := { s.ac with
      nonceAt := some s.clk.meridian, nonce := t.ac.nonce, dbgResult := 0 } } ∧ t.ac.nonce.length = 32 := by
  have hdraw := drbgDraw_state s 0 32
  have hlen : (drbgDraw s 0 32).2.length = 32 := by rw [drbgDraw_snd, freeBytes_length]
  simp only [dbgChallenge, h, setDbg, Bool.not_true, Bool.false_eq_true, if_false]
  refine ⟨?_, hlen⟩
  rw [hdraw]

/-! ## The grant (R321) -/

/-- A new operational key changes the vault's generators and that key. -/
theorem drawOpr_state (s : State) : let t := drawOpr s
    t = { s with free := t.free, kv := { s.kv with drbg := t.kv.drbg, kopr := t.kv.kopr } } := by
  have hdraw := drbgDraw_state (reseedAll s) 0 16
  unfold drawOpr
  dsimp only
  split
  · rw [hdraw]
    rfl
  · rfl

/-- The marks of the ACCESS registers that a grant sets before its record. -/
def grantMarks (s : State) : Bool × Bool × Nat × Tbl Word × Chart := (s.ac.lodeOff, s.ac.dbgBusy, s.ac.dbgResult, s.fuses, s.chart)

/-- The state in which a grant writes its record: every secret gone, a new operational key, the Lodestone unusable. -/
def grantWiped (s : State) : State :=
  drawOpr { eraseVault (zeroize s) with ac := { (eraseVault (zeroize s)).ac with lodeOff := true } }

theorem wiped_grantWiped (s : State) : Wiped (grantWiped s) := by
  have h := wiped_eraseVault (wiped_zeroize s)
  unfold grantWiped
  exact Wiped.same (h.same (t := { eraseVault (zeroize s) with ac := _ })) (by rw [drawOpr_state]; rfl)

theorem grantMarks_grantWiped (s : State) : grantMarks (grantWiped s) = (true, s.ac.dbgBusy, s.ac.dbgResult, s.fuses, s.chart) := by
  have hwork := (OnlyWork.zeroize s).trans (OnlyWork.eraseVault (zeroize s))
  unfold grantWiped
  rw [drawOpr_state]
  simp only [grantMarks]
  rw [hwork]

theorem OnlyLogged.grantMarks {s t : State} (h : OnlyLogged s t) : grantMarks t = grantMarks s := by rw [h]; rfl

/-- A grant: behind its record GRANTED and its notice rise. -/
theorem dbgGrant_eq (s : State) : ∃ t, OnlyLogged (grantWiped s) t ∧
    dbgGrant s = acLatch { t with ac := { t.ac with granted := true } } 4 :=
  ⟨logReq (grantWiped s) 0xB true true (dbgDeviceId s ++ s.ac.dbgHash), onlyLogged_logReq .., by
    simp only [dbgGrant, grantWiped]⟩

theorem acLatch_debug (s : State) : (acLatch s 4).ac.notice.getLsbD 4 = true := by
  unfold acLatch
  split
  · assumption
  · have hbit : (BitVec.ofNat 5 (2 ^ 4)).getLsbD 4 = true := rfl
    rw [pfNotice_ac, BitVec.getLsbD_or, hbit, Bool.or_true]

theorem dbgGrant_spec (s : State) : let t := dbgGrant s
    t.ac.granted = true ∧ t.ac.notice.getLsbD 4 = true ∧ Wiped t ∧
      grantMarks t = (true, s.ac.dbgBusy, s.ac.dbgResult, s.fuses, s.chart) := by
  obtain ⟨t, ht, heq⟩ := dbgGrant_eq s
  have hlatch := onlyRecords_acLatch { t with ac := { t.ac with granted := true } } 4
  have hac := acLatch_ac { t with ac := { t.ac with granted := true } } 4
  have hmarks : grantMarks { t with ac := { t.ac with granted := true } } = _ := ht.grantMarks.trans (grantMarks_grantWiped s)
  simp only [heq]
  refine ⟨by rw [hac], acLatch_debug _, ?_, ?_⟩
  · exact (((wiped_grantWiped s).same ht.secrets).same (t := { t with ac := _ })).same hlatch.secrets
  · rw [← hmarks]
    unfold grantMarks
    rw [hac, hlatch]

/-! ## The events -/

theorem exec_dbgAuthComplete {s : State} (hup : engineUp s = true) (hb : s.ac.dbgBusy = true) : exec .dbgAuthComplete s = .next
    (let t := { s with ac := { s.ac with dbgBusy := false, dbgResult := s.ac.dbgCode } }
     if s.ac.dbgCode = 0 then dbgGrant t else t) := by
  change execDbgAuthComplete s = _
  simp [execDbgAuthComplete, hup, hb]

/-- Settles O49: the commands by `dbgCmd_busy` and `dbgCmd_idle`, the grant by `dbgGrant_spec`. -/
theorem debugAuthorisation : Obligations.DebugAuthorisation := by
  unfold Obligations.DebugAuthorisation
  refine ⟨fun s a h => ⟨fun hb => ?_, fun hb => ⟨?_, fun hup => ?_, authCode s, ?_, authCode_eq_zero s⟩⟩,
    fun s hup hb => ⟨fun hc => ?_, fun hc => ?_⟩, fun s n ha hn ht => ?_⟩
  · rw [exec_dbgChallenge h, exec_dbgAuth h, exec_dbgRelease h]
    exact ⟨congrArg (fun t => Host.Outcome.next (acked t a)) (dbgCmd_busy (by decide) hb),
      congrArg (fun t => Host.Outcome.next (acked t a)) (dbgCmd_busy (by decide) hb),
      congrArg (fun t => Host.Outcome.next (acked t a)) (dbgCmd_busy (by decide) hb)⟩
  · rw [exec_dbgRelease h, (dbgCmd_idle hb).2.2]
    rfl
  · rw [exec_dbgChallenge h, (dbgCmd_idle hb).1]
    exact ⟨_, rfl, dbgChallenge_spec hup⟩
  · rw [exec_dbgAuth h, (dbgCmd_idle hb).2.1]
    rfl
  · rw [exec_dbgAuthComplete hup hb]
    exact congrArg Host.Outcome.next (if_neg hc)
  · refine ⟨_, (exec_dbgAuthComplete hup hb).trans (congrArg Host.Outcome.next (if_pos hc)), ?_⟩
    obtain ⟨hg, hn, hw, hm⟩ := dbgGrant_spec { s with ac := { s.ac with dbgBusy := false, dbgResult := s.ac.dbgCode } }
    simp only [grantMarks, Prod.mk.injEq] at hm
    obtain ⟨hlode, hbusy, hres, hfuses, hchart⟩ := hm
    exact ⟨hg, hbusy, hres.trans hc, hlode, hn, hw.slots, hw.keys, hw.std, hw.cmp, hw.kvlt, hw.att, hfuses, hchart⟩
  · change execDbgNonceExpire s = _
    simp only [execDbgNonceExpire, ha, hn, ht, decide_true, Bool.and_self, if_true]

end Sys2Proof.Machine

namespace Sys2Proof.Machine

/-!
# The life cycle

LC_REQUEST, LC_TRANSITION_END and LC_FUSE_CMD (R325, R328, R330 to R332).
-/

/-! ## What the next bit of an operation changes (R327) -/

/-- From s to t at most the free values and the instances of the DRBG have changed. -/
def OnlyDraws (s t : State) : Prop := t = { s with free := t.free, kv := { s.kv with drbg := t.kv.drbg } }

theorem OnlyDraws.trans {s t u : State} (h : OnlyDraws s t) (k : OnlyDraws t u) : OnlyDraws s u :=
  Eq.trans k (congrArg (fun x : State => { x with free := u.free, kv := { x.kv with drbg := u.kv.drbg } }) h)

theorem onlyDraws_lodeDraw {s : State} {x : State × Bytes} (h : lodeDraw s = some x) : OnlyDraws s x.1 := by
  unfold lodeDraw at h
  split at h
  · cases h
    exact drbgDraw_state s 0 32
  · split at h
    · cases h
      exact OnlyDraws.trans (t := drbgSeed s 0) rfl (drbgDraw_state (drbgSeed s 0) 0 32)
    · cases h

theorem onlyDraws_trimSteps (s : State) (l : List FuseStep) : OnlyDraws s (trimSteps s l).1 := by
  induction l generalizing s with
  | nil => rfl
  | cons x l ih =>
    cases x with
    | bits n b =>
      unfold trimSteps
      split
      · exact ih s
      · rfl
    | erase n t =>
      unfold trimSteps
      split
      · exact ih s
      · rfl
    | draw n k =>
      unfold trimSteps
      split
      · next hx =>
        split
        · exact (onlyDraws_lodeDraw hx).trans (ih _)
        · exact onlyDraws_lodeDraw hx
      · rfl

/-- The next bit begins: the operations and the step that LC_STATUS shows. -/
theorem fuseBegin_state (s : State) : let t := fuseBegin s
    t = { s with lc := { s.lc with stepNo := t.lc.stepNo, ops := t.lc.ops }, free := t.free
                 kv := { s.kv with drbg := t.kv.drbg } } := by
  unfold fuseBegin
  split
  · rfl
  · next o r _ =>
    dsimp only
    rw [onlyDraws_trimSteps s o.steps]

/-- The state with a list of operations. -/
def withOps (s : State) (l : List FuseOp) : State := { s with lc := { s.lc with ops := l } }

/-- A new operation as it joins the list. -/
def newOp (s : State) (what : FuseWhat) (steps : List FuseStep) : FuseOp :=
  ⟨what, steps, 0, false, s.clk.meridian, (s.clk.meridian, s.bn.btime)⟩

/-- A new operation begins where no other runs. -/
theorem fuseStart_eq (s : State) (what : FuseWhat) (steps : List FuseStep) : fuseStart s what steps =
    if s.lc.ops = [] then fuseEnd 1 (fuseBegin (withOps s [newOp s what steps]))
    else withOps s (s.lc.ops ++ [newOp s what steps]) := by
  have hdef : fuseStart s what steps = if (s.lc.ops ++ [newOp s what steps]).length = 1 then
      fuseEnd 1 (fuseBegin (withOps s (s.lc.ops ++ [newOp s what steps]))) else withOps s (s.lc.ops ++ [newOp s what steps]) := rfl
  rw [hdef]
  by_cases h : s.lc.ops = []
  · rw [h]; rfl
  · rw [if_neg h, if_neg (by simpa using h)]

/-- An operation that does not end by itself stays at the head. -/
theorem fuseEnd_transition {s : State} {n k d : Nat} {l : List FuseStep} {b : Bool} {t : Nat} {p : Nat × Nat} {r : List FuseOp}
    (h : s.lc.ops = ⟨.transition n, l, d, b, t, p⟩ :: r) : fuseEnd k s = s := by
  cases k with
  | zero => rfl
  | succ k => simp only [fuseEnd, h]

/-- A requested transition begins: it waits for what runs, or its first bit begins. -/
theorem fuseStart_transition (s : State) (n : Nat) (l : List FuseStep) : let t := fuseStart s (.transition n) l
    t = { s with lc := { s.lc with stepNo := t.lc.stepNo, ops := t.lc.ops }, free := t.free
                 kv := { s.kv with drbg := t.kv.drbg } } := by
  rw [fuseStart_eq]
  split
  · rw [fuseEnd_transition (s := fuseBegin (withOps s [newOp s (.transition n) l])) rfl]
    exact fuseBegin_state (withOps s [newOp s (.transition n) l])
  · rfl

/-! ## LC_REQUEST (R328 to R330) -/

section Request
variable {s : State} {v : Word}

theorem exec_lcRequest {a : Access} (h : granted s a true (mgmtAt a 0x80004) = true) :
    exec (.lcRequest a v) s = .next (acked (lcRequest s v) a) :=
  congrArg Host.Outcome.next (hostWrite_granted s a _ (fun s => lcRequest s v) h)

/-- A refused request shows its REASON. -/
theorem lcRequest_refused {r : Nat} (hf : failedStart s = false) (hr : lcReason s v = r) (h0 : r ≠ 0) :
    lcRequest s v = { s with lc := { s.lc with reason := r } } := by
  simp [lcRequest, hf, hr, h0]

/-- A permitted request, before its erase and its first bit. -/
def lcBusy (s : State) (n : Nat) : State := { s with lc := { s.lc with reason := 0, busy := true, target := n, stepNo := 1 } }

theorem lcRequest_permitted (hf : failedStart s = false) (hr : lcReason s v = 0) : ∃ l, lcRequest s v = fuseStart
    (if wfld v 0 8 = 5 ∨ wfld v 0 8 = 6 then lcErase (lcBusy s (wfld v 0 8)) else lcBusy s (wfld v 0 8))
      (.transition (wfld v 0 8)) l := by
  simp only [lcRequest, hf, hr, Bool.false_eq_true, if_false, ne_eq, not_true]
  exact ⟨_, rfl⟩

/-- The erase of a transition works on jobs and secrets; the life-cycle registers note it. -/
theorem lcErase_spec (s : State) : Wiped (lcErase s) ∧ (lcErase s).lc = { s.lc with erased := true } ∧
    (lcErase s).fuses = s.fuses ∧ (lcErase s).chart = s.chart := by
  have hwork : OnlyWork s (zeroize (eraseVault s)) := (OnlyWork.eraseVault s).trans (OnlyWork.zeroize _)
  have hlc : (zeroize (eraseVault s)).lc = s.lc := by rw [hwork]
  refine ⟨(wiped_zeroize (eraseVault s)).same, ?_, ?_, ?_⟩
  · simp only [lcErase]
    rw [hlc]
  · have hfuses : (zeroize (eraseVault s)).fuses = s.fuses := by rw [hwork]
    exact hfuses
  · have hchart : (zeroize (eraseVault s)).chart = s.chart := by rw [hwork]
    exact hchart

/-- A transition is BUSY with its target; the state and the fuses stay, and one to RETURNED or SCRAPPED leaves no secret. -/
theorem lcRequest_begins (hf : failedStart s = false) (hr : lcReason s v = 0) : let t := lcRequest s v
    t.lc.busy = true ∧ t.lc.target = wfld v 0 8 ∧ t.lc.reason = 0 ∧ t.lc.state = s.lc.state ∧ t.fuses = s.fuses ∧
      t.chart = s.chart ∧ (wfld v 0 8 = 5 ∨ wfld v 0 8 = 6 → lodeUsable t = false ∧ Wiped t) := by
  obtain ⟨l, hl⟩ := lcRequest_permitted hf hr
  generalize hn : wfld v 0 8 = n at hl
  generalize hs1 : (if n = 5 ∨ n = 6 then lcErase (lcBusy s n) else lcBusy s n) = s1 at hl
  have h1 : s1.lc.busy = true ∧ s1.lc.target = n ∧ s1.lc.reason = 0 ∧ s1.lc.state = s.lc.state ∧ s1.fuses = s.fuses ∧
      s1.chart = s.chart ∧ (n = 5 ∨ n = 6 → Wiped s1) := by
    rw [← hs1]
    split
    · next h =>
      obtain ⟨hw, hlc, hfuses, hchart⟩ := lcErase_spec (lcBusy s n)
      rw [hlc]
      exact ⟨rfl, rfl, rfl, rfl, hfuses, hchart, fun _ => hw⟩
    · next h => exact ⟨rfl, rfl, rfl, rfl, rfl, rfl, fun h' => absurd h' h⟩
  obtain ⟨hb, ht, hreason, hstate, hfuses, hchart, hw⟩ := h1
  have hstart := fuseStart_transition s1 n l
  rw [← hl] at hstart
  dsimp only at hstart ⊢
  rw [hstart]
  refine ⟨hb, ht, hreason, hstate, hfuses, hchart, fun h => ⟨?_, (hw h).same⟩⟩
  rcases h with rfl | rfl <;> simp [lodeUsable, ht]

end Request

/-! ## LC_TRANSITION_END (R331) -/

/-- The last bit is programmed: one record, and a BLOCK reset requested. -/
theorem lcEnd_spec {s : State} {n d at_ : Nat} {b : Bool} {p : Nat × Nat} {r : List FuseOp}
    (h : s.lc.ops = ⟨.transition n, [], d, b, at_, p⟩ :: r) : let t := lcEnd s
    t = { s with lc := t.lc, lb := t.lb, pw := { s.pw with block := some (s.clk.meridian, s.bn.btime) }, free := t.free,
                 nv := t.nv, lane0 := t.lane0, lane1 := t.lane1, bn := { s.bn with erase := t.bn.erase },
                 kv := { s.kv with drbg := t.kv.drbg } } ∧ t.lc.busy = false ∧
      t.lc.lastTime = min (max (12 * d) ((s.clk.meridian - at_) / 3000)) 0xFFFFFF ∧
      (s.lb.queue.length < 32 → t.lb.queue.length = s.lb.queue.length + 1) := by
  simp only [lcEnd, h]
  generalize hlog : logReq s 0xC true true _ = s1
  have h1 : OnlyLogged s s1 := hlog ▸ onlyLogged_logReq ..
  have hclk : s1.clk = s.clk := by rw [h1]
  have hbegin := fuseBegin_state { s1 with
    lc := { s1.lc with ops := r, busy := false, lastTime := fuseTime s1 d at_ }
    pw := { s1.pw with block := some (s1.clk.meridian, s1.bn.btime) } }
  generalize fuseBegin _ = t at hbegin
  dsimp only at hbegin
  have hbt : s1.bn.btime = s.bn.btime := by rw [h1]
  have hpw : s1.pw = s.pw := by rw [h1]
  have hkv : s1.kv = s.kv := by rw [h1]
  have hlb : t.lb = s1.lb := by rw [hbegin]
  refine ⟨?_, by rw [hbegin], by rw [hbegin, fuseTime, fuseMicros, hclk], fun hq => ?_⟩
  · have hs : { s1 with
        lc := t.lc, lb := t.lb, pw := { s.pw with block := some (s.clk.meridian, s.bn.btime) }, free := t.free, nv := t.nv
        lane0 := t.lane0, lane1 := t.lane1, bn := { s1.bn with erase := t.bn.erase }
        kv := { s1.kv with drbg := t.kv.drbg } } = ({ s with
        lc := t.lc, lb := t.lb, pw := { s.pw with block := some (s.clk.meridian, s.bn.btime) }, free := t.free, nv := t.nv
        lane0 := t.lane0, lane1 := t.lane1, bn := { s.bn with erase := t.bn.erase }
        kv := { s.kv with drbg := t.kv.drbg } } : State) := by rw [h1]
    refine Eq.trans ?_ hs
    rw [hbegin, hpw, hclk, hbt]
  · rw [hlb, ← hlog]
    exact logReq_exempt_length hq ..

/-! ## LC_FUSE_CMD (R332) -/

section FuseCmd
variable {s : State} {v : Word}

theorem exec_lcFuseCmd {a : Access} (h : granted s a true (mgmtAt a 0x8000C) = true) :
    exec (.lcFuseCmd a v) s = .next (acked (lcFuseCmd s v) a) :=
  congrArg Host.Outcome.next (hostWrite_granted s a _ (fun s => lcFuseCmd s v) h)

/-- The bits of an owner field that are still to be programmed. -/
def fieldBits (s : State) (l : List Nat) : List Nat := l.filter fun b => !fuseBit s b

theorem trimSteps_bits (s : State) (n : Nat) (l : List Nat) : trimSteps s [.bits n l] =
    (s, if fieldBits s l = [] then [] else [.bits n (fieldBits s l)]) := by
  unfold trimSteps
  split
  · next h => rw [if_pos (by exact h)]; rfl
  · next h => rw [if_neg (by exact h)]; rfl

/-- The operation on an owner field: it programs what still reads 0, and ends at once where there is nothing to program. -/
theorem fuseStart_field {s : State} (l : List Nat) (hops : s.lc.ops = []) (hgo : fuseGo s = true) :
    fuseStart s .field [.bits 0 l] = if fieldBits s l = [] then withOps { s with
        lc := { s.lc with fuseBusy := false, fuseResult := 0 } } []
      else withOps s [{ newOp s .field [.bits 0 (fieldBits s l)] with run := true }] := by
  have htrim : trimSteps (withOps s [newOp s .field [.bits 0 l]]) [.bits 0 l] = (withOps s [newOp s .field [.bits 0 l]],
      if fieldBits s l = [] then [] else [.bits 0 (fieldBits s l)]) := trimSteps_bits ..
  have hgo1 (r : List FuseOp) : fuseGo (withOps s r) = true := hgo
  rw [fuseStart_eq, if_pos hops]
  have hbegin : fuseBegin (withOps s [newOp s .field [.bits 0 l]]) = withOps s [{ newOp s .field
      (if fieldBits s l = [] then [] else [.bits 0 (fieldBits s l)]) with run := decide (fieldBits s l ≠ []) }] := by
    have hdef : fuseBegin (withOps s [newOp s .field [.bits 0 l]]) =
        let x := trimSteps (withOps s [newOp s .field [.bits 0 l]]) [.bits 0 l]
        { x.1 with lc := { x.1.lc with
          stepNo := x.1.lc.stepNo
          ops := [⟨.field, x.2, 0, hasBit x.2 && fuseGo x.1, s.clk.meridian, (x.1.clk.meridian, x.1.bn.btime)⟩] } } := rfl
    rw [hdef, htrim]
    split <;> simp_all [withOps, newOp, hasBit]
  rw [hbegin]
  by_cases h : fieldBits s l = []
  · simp only [h, if_true, ne_eq, not_true, decide_false]
    rfl
  · simp only [h, if_false, ne_eq, not_false_eq_true, decide_true]
    rfl

/-- A refused command shows its result: the first of BUSY, STATE, FIELD, SUPPLY and CONFLICT (log entry 10). -/
theorem lcFuseCmd_refused :
    (s.lc.busy = true ∨ s.lc.fuseBusy = true → lcFuseCmd s v = { s with lc := { s.lc with fuseResult := 4 } }) ∧
    (s.lc.busy = false → s.lc.fuseBusy = false →
      (s.lc.state ≠ 2 → lcFuseCmd s v = { s with lc := { s.lc with fuseResult := 1 } }) ∧
      (s.lc.state = 2 → wfld v 0 2 = 0 ∨ wfld v 0 2 = 3 → lcFuseCmd s v = { s with lc := { s.lc with fuseResult := 5 } }) ∧
      (s.lc.state = 2 → wfld v 0 2 = 1 ∨ wfld v 0 2 = 2 → supplyBad s = true →
        lcFuseCmd s v = { s with lc := { s.lc with fuseResult := 3 } })) := by
  refine ⟨fun h => ?_, fun hb hf => ⟨fun h => ?_, fun h hv => ?_, fun h hv hs => ?_⟩⟩
  · rcases h with h | h <;> simp [lcFuseCmd, h]
  · simp [lcFuseCmd, hb, hf, h]
  · rcases hv with hv | hv <;> simp [lcFuseCmd, hb, hf, h, hv]
  · rcases hv with hv | hv <;> simp [lcFuseCmd, hb, hf, h, hv, hs]

/-- A permitted command finds a conflict in the field, or programs its image. -/
theorem lcFuseCmd_permitted {w n : Nat} {img : Bytes} (hb : s.lc.busy = false) (hf : s.lc.fuseBusy = false)
    (h : s.lc.state = 2) (hv : wfld v 0 2 = 1 ∨ wfld v 0 2 = 2) (hs : supplyBad s = false)
    (hw : w = if wfld v 0 2 = 1 then 32 else 48) (hn : n = if wfld v 0 2 = 1 then 8 else 12)
    (himg : img = lcDataBytes s n ++ (sha384 (lcDataBytes s n)).take 4) : lcFuseCmd s v =
      if (List.zipWith (fun x y => x &&& ~~~y) (fuseBytes s w (n + 1)) img).any (· != 0) = true then
        { s with lc := { s.lc with fuseResult := 2 } }
      else fuseStart { s with lc := { s.lc with fuseBusy := true } } .field [.bits 0 (oneBits w img)] := by
  have hfield : ¬ (wfld v 0 2 ≠ 1 ∧ wfld v 0 2 ≠ 2) := by omega
  simp only [lcFuseCmd, hb, hf, h, hs, if_neg hfield, ← hw, ← hn, ← himg, Bool.or_self, Bool.false_eq_true, if_false,
    ne_eq, not_true]

end FuseCmd

/-- Settles O53: requests by `lcRequest_refused` and `lcRequest_begins`, the end of a transition by `lcEnd_spec`, field commands by
`lcFuseCmd_refused` and `fuseStart_field`. -/
theorem lifeCycleRule : Obligations.LifeCycleRule := by
  unfold Obligations.LifeCycleRule
  refine ⟨⟨fun s a v n h hf hn => ?_, fun s n d at_ b p r ha hs hops => ?_⟩, fun s a v w n img h hw hn himg => ?_⟩
  · have refuse (r : Nat) (hr : lcReason s v = r) (h0 : r ≠ 0) :
        exec (.lcRequest a v) s = .next (acked { s with lc := { s.lc with reason := r } } a) := by
      rw [exec_lcRequest h, lcRequest_refused hf hr h0]
    refine ⟨fun hg => refuse 1 ?_ (by decide), fun h16 h8 => ⟨fun hb => refuse 5 ?_ (by decide),
      fun hb hp => refuse 2 ?_ (by decide), fun hb hp hq => refuse 3 ?_ (by decide), fun hb hp hc hd =>
      ⟨fun hs => refuse 4 ?_ (by decide), fun hs h3 ho => refuse 6 ?_ (by decide), fun hs h3 => ?_⟩⟩⟩
    · simp only [lcReason, if_pos hg]
    · simp [lcReason, h16, h8, hb]
    · simp [lcReason, h16, h8, hb, ← hn, hp]
    · rcases hq with hq | hq <;> simp [lcReason, h16, h8, hb, ← hn, hp, hq]
    · simp [lcReason, h16, h8, hb, ← hn, hp, hc, hd, hs]
    · subst h3
      rcases ho with ho | ho <;> simp [lcReason, h16, h8, hb, ← hn, hp, hc, hd, hs, ho]
    · have hr : lcReason s v = 0 := by
        by_cases hn3 : n = 3
        · subst hn3
          obtain ⟨ho, hk⟩ := h3 rfl
          simp [lcReason, h16, h8, hb, ← hn, hp, hc, hd, hs, ho, hk]
        · simp [lcReason, h16, h8, hb, ← hn, hp, hc, hd, hs, hn3]
      obtain ⟨h1, h2, h3, h4, h5, h6, h7⟩ := lcRequest_begins hf hr
      refine ⟨_, exec_lcRequest h, h1, hn ▸ h2, h3, h4, h5, h6, fun ht => ?_⟩
      obtain ⟨hl, hw⟩ := h7 (hn ▸ ht)
      exact ⟨hl, hw.att, hw.slots, hw.kvlt, hw.std, hw.cmp⟩
  · refine ⟨_, congrArg Host.Outcome.next (if_pos (by simp [ha, hs])), lcEnd_spec hops⟩
  · rw [exec_lcFuseCmd h]
    have next {t u : State} (ht : t = u) : (.next (acked t a) : Host.Outcome State Fault Refusal) = .next (acked u a) := by
      rw [ht]
    obtain ⟨hbusy, hidle⟩ := lcFuseCmd_refused (s := s) (v := v)
    refine ⟨fun hb => next (hbusy hb), fun hb hf => ?_⟩
    obtain ⟨hstate, hfield, hsupply⟩ := hidle hb hf
    refine ⟨fun hst => next (hstate hst), fun hst hv => next (hfield hst hv), fun hst hv =>
      ⟨fun hs => next (hsupply hst hv hs), fun hs hc => ?_, fun hs hc hops hstruck => ?_⟩⟩
    · rw [lcFuseCmd_permitted hb hf hst hv hs hw hn himg, if_pos hc]
    · have hgo : fuseGo s = true := by simp [fuseGo, hs, hstruck]
      rw [lcFuseCmd_permitted hb hf hst hv hs hw hn himg, if_neg (by rw [hc]; decide),
        fuseStart_field (s := { s with lc := { s.lc with fuseBusy := true } }) _ hops hgo]
      refine ⟨_, fieldBits s (oneBits w img), rfl, ?_, fun b => by simp [fieldBits], fun hne => ?_, fun hnil => ?_⟩
      · split <;> rfl
      · rw [if_neg (by exact hne)]
        exact ⟨rfl, rfl⟩
      · rw [if_pos (by exact hnil)]
        exact ⟨rfl, rfl, rfl⟩

end Sys2Proof.Machine

namespace Sys2Proof.Machine

/-!
# Resets of the core

BLOCK_RESET, TAMPER_RESET, PWR_CORE and PWR_SENTINEL (R339, R340, R347, R375 to R378).
-/

/-! ## Sets of alarm sources -/

theorem getLsbD_twoPow {k n : Nat} (hn : n < 12) : (BitVec.ofNat 12 (2 ^ k)).getLsbD n = decide (k = n) := by
  rw [BitVec.getLsbD_ofNat, Nat.testBit_two_pow]
  simp [hn]

theorem getLsbD_maskOf (l : List Nat) {n : Nat} (hn : n < 12) : (maskOf l).getLsbD n = decide (n ∈ l) := by
  have hfold (m : BitVec 12) : (l.foldl (fun m n => m ||| BitVec.ofNat 12 (2 ^ n)) m).getLsbD n =
      (m.getLsbD n || decide (n ∈ l)) := by
    induction l generalizing m with
    | nil => simp
    | cons k l ih =>
      rw [List.foldl_cons, ih, BitVec.getLsbD_or, getLsbD_twoPow hn]
      simp [Bool.or_assoc, eq_comm]
  simpa [maskOf] using hfold 0

theorem mem_srcList {m : BitVec 12} {n : Nat} : n ∈ srcList m ↔ n < 12 ∧ m.getLsbD n = true := by
  simp [srcList]

theorem getLsbD_eraseHolders (s : State) {n : Nat} (hn : n < 12) :
    (eraseHolders s).getLsbD n = true ↔ s.bn.active.getLsbD n = true ∧ bnAct s n = 2 := by
  rw [eraseHolders, getLsbD_maskOf _ hn]
  simp [mem_srcList, hn]

/-! ## BLOCK_RESET and TAMPER_RESET (R347, R376) -/

theorem exec_blockReset {s : State} {t0 : Nat × Nat} (hb : s.pw.block = some t0) (ha : active s = true)
    (hs : struck s = false) (hl : s.lc.busy = false) (hd : blockQuiet s = true ∨ blockBound s t0 = true) :
    exec .blockReset s = .next (resetCore s 3) := by
  change execBlockReset s = _
  rcases hd with hd | hd <;> simp [execBlockReset, hb, ha, hs, hl, hd]

theorem blockBound_iff (s : State) (t : Nat × Nat) : blockBound s t = true ↔ t.1 + 6000 + fabricR s ≤ s.clk.meridian ∨
    t.2 + cdiv ((6000 + fabricR s) * 32) 3000 ≤ s.bn.btime := by
  simp [blockBound]

theorem exec_tamperReset {s : State} {e : Erase} (he : s.bn.erase = some e) (ha : active s = true) (ht : e.tamper = true)
    (hs : e.scrubbed = true) (hl : e.logged = true) (hf : fuseInBit s = false) : exec .tamperReset s = .next
      { resetCore s 4 with bn := { (resetCore s 4).bn with
        erase := none, eraseHold := (resetCore s 4).bn.eraseHold ||| eraseHolders s } } := by
  change execTamperReset s = _
  simp [execTamperReset, he, ha, ht, hs, hl, hf]

/-! ## PWR_CORE (R375, R377) -/

theorem exec_pwrCore_off {s : State} (h : s.bn.vsbRst = true ∨ s.lb.scanning = true ∨ vddUp s = false) :
    exec .pwrCore s = .next s := by
  change execPwrCore s = _
  rcases h with h | h | h <;> simp [execPwrCore, h]

/-- The kind of a start-up: an ERASE still owed goes before a power loss of the Sentinel (R375). -/
def startKindOf (s : State) : Nat := if s.pw.sentinel && !s.bn.erase.isSome then 1 else 2

theorem exec_pwrCore {s : State} (hv : s.bn.vsbRst = false) (hs : s.lb.scanning = false) (hu : vddUp s = true) :
    exec .pwrCore s = .next
      { resetCore s (startKindOf s) with
        scanMode := false
        pw := { (resetCore s (startKindOf s)).pw with tamperPending := s.bn.erase.isSome, sentinel := false }
        bn := { (resetCore s (startKindOf s)).bn with
          vddRst := false, vddUp := false, vddLow := 0, erase := none
          eraseHold := if s.bn.erase.isSome then (resetCore s (startKindOf s)).bn.eraseHold ||| eraseHolders s
            else (resetCore s (startKindOf s)).bn.eraseHold } } := by
  change execPwrCore s = _
  simp only [execPwrCore, hv, hs, hu, Bool.not_true, Bool.or_self, Bool.false_eq_true, if_false]
  rfl

/-! ## PWR_SENTINEL (R340, R378) -/

/-- The count of power-ups that the Logbook keeps (R361) stays while the writer works. -/
theorem powers_lbLatch (s : State) (i : Nat) : (lbLatch s i).lb.powers = s.lb.powers := by
  unfold lbLatch
  split
  · rfl
  · rw [pfNotice_lb]

theorem powers_writeSlot (s : State) : (writeSlot s).lb.powers = s.lb.powers := by
  unfold writeSlot
  split
  · rfl
  · dsimp only
    split
    · split
      · rw [powers_lbLatch]
      · rfl
    · generalize hs1 : (if overrun s then lbLatch _ 0 else _) = s1
      have h1 : s1.lb.powers = s.lb.powers := by
        rw [← hs1]
        split
        · rw [powers_lbLatch]
        · rfl
      split
      · split
        · exact h1
        · exact h1
      · exact h1

theorem powers_drainLog (n : Nat) (s : State) : (drainLog n s).lb.powers = s.lb.powers := by
  induction n generalizing s with
  | zero => rfl
  | succ n ih => exact (ih _).trans (powers_writeSlot s)

theorem onlyLogged_drainLog (n : Nat) (s : State) : OnlyLogged s (drainLog n s) := by
  induction n generalizing s with
  | zero => exact .refl s
  | succ n ih => exact (onlyLogged_writeSlot s).trans (ih _)

/-- A torn slot changes the Logbook, its notices and the free values. -/
theorem tearSlot_state (s : State) : let t := tearSlot s
    t = { s with lb := t.lb, nv := t.nv, lane0 := t.lane0, lane1 := t.lane1, free := t.free } ∧ t.lb.powers = s.lb.powers := by
  have hlatch (x : State) (i : Nat) : lbLatch x i = { x with
      lb := (lbLatch x i).lb, nv := (lbLatch x i).nv, lane0 := (lbLatch x i).lane0, lane1 := (lbLatch x i).lane1 } :=
    Eq.trans (onlyRecords_lbLatch x i) (by rw [lbLatch_ac])
  unfold tearSlot
  split
  · exact ⟨rfl, rfl⟩
  · dsimp only
    split
    · split
      · exact ⟨by rw [hlatch]; rfl, powers_lbLatch ..⟩
      · exact ⟨rfl, rfl⟩
    · split
      · exact ⟨by rw [hlatch]; rfl, powers_lbLatch ..⟩
      · exact ⟨rfl, rfl⟩

/-- What the hold-up leaves: the queue is gone, the Logbook and what it tells, and the free values apart. -/
theorem holdUp_state (s : State) (ok : Bool) : let t := holdUp s ok
    t = { s with lb := t.lb, nv := t.nv, lane0 := t.lane0, lane1 := t.lane1, free := t.free
                 bn := { s.bn with erase := t.bn.erase } } ∧ t.lb.powers = s.lb.powers ∧ t.lb.queue = [] := by
  unfold holdUp
  cases ok with
  | true =>
    have h := onlyLogged_drainLog (2 * s.lb.queue.length) s
    refine ⟨?_, powers_drainLog .., rfl⟩
    simp only [if_true]
    rw [h]
  | false =>
    obtain ⟨h, hp⟩ := tearSlot_state s
    refine ⟨?_, hp, rfl⟩
    simp only [Bool.false_eq_true, if_false]
    rw [h]

theorem holdUp_idle {s : State} (ok : Bool) (h : s.lb.queue = []) :
    holdUp s ok = { s with lb := { s.lb with queue := [], second := false } } := by
  unfold holdUp
  cases ok <;> simp [h, drainLog, tearSlot]

theorem exec_pwrSentinel {s : State} (hr : s.bn.vsbRst = true) (hu : s.bn.vsbUp = true) : exec .pwrSentinel s = .next
    { resetCore (holdUp s s.bn.holdAtReset) 1 with
      scanMode := false
      pw := { (resetCore (holdUp s s.bn.holdAtReset) 1).pw with coreHeld := true, sentinel := true }
      bn := .reset
      ports := portsDown
      lb := { (resetCore (holdUp s s.bn.holdAtReset) 1).lb with
        powers := sat16 (resetCore (holdUp s s.bn.holdAtReset) 1).lb.powers, scanning := true, tokens := [], tokenAt := 0 } } :=
  congrArg Host.Outcome.next (if_pos (by simp [hr, hu]))

/-- Settles O46: each reset is `resetCore` of its kind; what PWR_SENTINEL keeps of the Logbook by `holdUp_state`. -/
theorem resetSurvival : Obligations.ResetSurvival := by
  unfold Obligations.ResetSurvival
  refine ⟨fun s t0 hb ha hs hl hd => ?_, fun s e he ha ht hsc hlg hf => ⟨_, exec_tamperReset he ha ht hsc hlg hf, rfl, rfl,
    rfl, rfl, fun n hn => ?_⟩, fun s => ⟨exec_pwrCore_off, fun hv hs hu => ?_⟩, fun s => ⟨fun h => ?_, fun hr hu => ?_⟩⟩
  · rw [exec_blockReset hb ha hs hl (hd.imp_right (blockBound_iff s t0).mpr)]
    rfl
  · show (s.bn.eraseHold ||| eraseHolders s).getLsbD n = true ↔ _
    rw [BitVec.getLsbD_or, Bool.or_eq_true, getLsbD_eraseHolders s hn]
  · rw [exec_pwrCore hv hs hu]
    unfold startKindOf
    cases hsen : s.pw.sentinel <;> cases her : s.bn.erase <;> rfl
  · change execPwrSentinel s = _
    rcases h with h | h <;> simp [execPwrSentinel, h]
  · obtain ⟨hstate, hpowers, hqueue⟩ := holdUp_state s s.bn.holdAtReset
    refine ⟨_, exec_pwrSentinel hr hu, ?_, congrArg sat16 hpowers, rfl, hqueue, fun hq => ?_⟩
    · generalize holdUp s s.bn.holdAtReset = x at hstate
      rw [hstate]
      rfl
    · rw [holdUp_idle _ hq]
      exact ⟨rfl, rfl, rfl⟩

end Sys2Proof.Machine

namespace Sys2Proof.Machine

/-!
# Alarms

ALARM_SOURCE, ALARM_CONDITION_END and ALARM_HOLD_END (R205, R343 to R348).
-/

/-! ## The erase of an alarm (R205, R347) -/

theorem OnlyUnits.onlyWork {s t : State} (h : OnlyUnits s t) : OnlyWork s t := by
  unfold OnlyWork
  rw [h]

theorem OnlyWork.alarmCmd (s : State) (u : Nat) : OnlyWork s (alarmCmd s u) := by
  unfold Machine.alarmCmd
  split
  · refine OnlyWork.trans (t := abortCmd s u stAlarm 0) ?_ (setUni ..)
    cases hc : (getUni s u).ar.cmd with
    | none => rw [abortCmd_none hc]; exact .refl s
    | some c => exact (abortCmd_cmd hc).1.onlyWork
  · exact .refl s

theorem OnlyWork.alarmStop (s : State) : OnlyWork s (alarmStop s) := (OnlyWork.dropJobs s).trans (foldl OnlyWork.alarmCmd ..)

/-- An update of a unit that keeps its job keeps every job. -/
theorem job_setUni {s : State} {u : Nat} {x : Uni} (h : x.job = (getUni s u).job) (v : Nat) :
    (getUni (setUni s u x) v).job = (getUni s v).job := by
  by_cases hv : v = u
  · rw [hv, getUni_setUni, h]
  · rw [getUni_setUni_ne _ _ _ _ hv]

theorem job_abortCmd (s : State) (u st dt v : Nat) : (getUni (abortCmd s u st dt) v).job = (getUni s v).job := by
  have hclear (t : State) (n : Nat) : (getUni (opdClear t u n) v).job = (getUni t v).job :=
    job_setUni (s := { t with opmem := _ }) (by rfl) v
  unfold abortCmd
  split
  · next c _ =>
    refine Eq.trans (job_setUni (by rfl) v) ?_
    exact foldl_keeps (fun t => (getUni t v).job) (fun t n => opdClear t u n) hclear (destSlots c.op c.fl c.d) s
  · rfl

theorem job_alarmCmd (s : State) (u v : Nat) : (getUni (alarmCmd s u) v).job = (getUni s v).job := by
  unfold alarmCmd
  split
  · exact (job_setUni (by rfl) v).trans (job_abortCmd ..)
  · rfl

theorem job_alarmStop (s : State) (u : Nat) : (getUni (alarmStop s) u).job = none :=
  (foldl_keeps (fun t => (getUni t u).job) alarmCmd (fun t v => job_alarmCmd t v u) _ _).trans (job_dropJobs s u)

/-- An erase leaves the clocks, the Logbook and the Binnacle, where it notes itself. -/
theorem startErase_state (s : State) (src : BitVec 12) : ∃ t e, OnlyWork s t ∧
    startErase s src = { t with bn := { t.bn with erase := e } } := by
  unfold startErase
  split
  · split
    · exact ⟨s, _, .refl s, rfl⟩
    · exact ⟨_, _, (OnlyWork.alarmStop s).trans (OnlyWork.zeroize _), rfl⟩
  · exact ⟨_, _, (OnlyWork.alarmStop s).trans (OnlyWork.zeroize _), rfl⟩

/-- An erase that starts: every secret is gone, no job runs, and the Binnacle holds its sources and its time. -/
theorem startErase_starts {s : State} {src : BitVec 12} (h : s.bn.erase = none) : Wiped (startErase s src) ∧
    (∀ u, (getUni (startErase s src) u).job = none) ∧
    (startErase s src).bn.erase = some ⟨src, s.clk.meridian, false, false, true⟩ := by
  have hwork := (OnlyWork.alarmStop s).trans (OnlyWork.zeroize (alarmStop s))
  have hclk : (zeroize (alarmStop s)).clk = s.clk := by rw [hwork]
  have hstart : startErase s src = { zeroize (alarmStop s) with bn := { (zeroize (alarmStop s)).bn with
      erase := some ⟨src, s.clk.meridian, false, false, true⟩ } } := by
    rw [← hclk]
    simp only [startErase, h]
  rw [hstart]
  exact ⟨(wiped_zeroize (alarmStop s)).same, fun u => job_zeroize (job_alarmStop s u), rfl⟩

/-! ## The marks of a report (R345, R348) -/

/-- The state in which a report has latched and counted its new sources. -/
def alarmCounted (s : State) (src : BitVec 12) : State :=
  let start := newSources s src
  let t := holdsStill s src
  let held := maskOf ((srcList start).filter (fun n => 1 ≤ bnAct s n))
  { t with bn := { t.bn with
    active := s.bn.active ||| (start &&& levelMask), latch := s.bn.latch ||| start
    cnt := s.bn.cnt.mapIdx (fun i c => if start.getLsbD i then sat32 c else c)
    holdSrc := s.bn.holdSrc ||| (held &&& levelMask)
    holdFrom := if held &&& ~~~levelMask != 0 then some s.bn.btime else s.bn.holdFrom } }

/-- The state before an erase, a record and the notice of a report: CLK_REF shows in the clock registers at once. -/
def alarmMarked (s : State) (src : BitVec 12) : State :=
  let t := soundAlarms (alarmCounted s src) (newSources s src)
  if (newSources s src).getLsbD 4 && active t then
    { t with clk := { t.clk with refOk := false, refLost := true, refGone := true } } else t

/-- The sources of the Binnacle cycle. -/
def cycleSources (s : State) (src : BitVec 12) : BitVec 12 :=
  newSources s src ||| (if s.bn.alarmAt = some s.bn.btime then s.bn.alarmSrc else 0)

theorem alarmReport_eq {s : State} {src : BitVec 12} (hv : s.bn.vsbRst = false) (hn : newSources s src ≠ 0) :
    alarmReport s src =
      let all := cycleSources s src
      let act := strongest s all
      let t := alarmRecord (if act = 2 then startErase (alarmMarked s src) all else alarmMarked s src) all act
      bnLatch { t with bn := { t.bn with alarmAt := some t.bn.btime, alarmSrc := all } } 1 := by
  have hne : (newSources s src == 0) = false := by simpa using hn
  unfold alarmReport
  simp only [hv, hne, Bool.false_eq_true, if_false]
  rfl

/-- A report that starts nothing notes that its conditions hold. -/
theorem alarmReport_none {s : State} {src : BitVec 12} (hv : s.bn.vsbRst = false) (hn : newSources s src = 0) :
    alarmReport s src = holdsStill s src := by
  simp [alarmReport, hv, hn]

theorem soundAlarms_sd (s : State) (m : BitVec 12) : ∃ sd, soundAlarms s m = { s with sd := sd } := by
  have hone (s : State) (f : Sd → Sd) : ∃ sd, sounding s 2 f = { s with sd := sd } := by
    unfold sounding
    split
    · exact ⟨_, rfl⟩
    · split <;> exact ⟨_, rfl⟩
  have hfold (l : List Nat) (t : State) : ∃ sd, l.foldl (fun s n => sounding s 2 (fun sd =>
      { sd with ext := { sd.ext with alarms := sd.ext.alarms.modify n sat32 } })) t = { t with sd := sd } := by
    induction l generalizing t with
    | nil => exact ⟨_, rfl⟩
    | cons n l ih =>
      obtain ⟨sd, h⟩ := hone t (fun sd => { sd with ext := { sd.ext with alarms := sd.ext.alarms.modify n sat32 } })
      obtain ⟨sd', h'⟩ := ih { t with sd := sd }
      exact ⟨sd', by rw [List.foldl_cons, h, h']⟩
  unfold soundAlarms
  split
  · exact hfold ..
  · exact ⟨_, rfl⟩

/-- The marks of a report stand in the Binnacle; beside it the Soundings and the clock registers have changed. -/
theorem alarmMarked_state (s : State) (src : BitVec 12) : let t := alarmMarked s src
    t = { s with sd := t.sd, clk := t.clk, bn := { s.bn with
      active := s.bn.active ||| (newSources s src &&& levelMask), latch := s.bn.latch ||| newSources s src
      cnt := s.bn.cnt.mapIdx (fun i c => if (newSources s src).getLsbD i then sat32 c else c)
      since := t.bn.since, holdSrc := t.bn.holdSrc, holdFrom := t.bn.holdFrom } } ∧
      t.clk.meridian = s.clk.meridian := by
  obtain ⟨sd, h⟩ := soundAlarms_sd (alarmCounted s src) (newSources s src)
  simp only [alarmMarked, h]
  split <;> exact ⟨rfl, rfl⟩

/-! ## The record and the notice of a report (R348) -/

/-- A record that is not exempt changes the Logbook and its notices. -/
theorem alarmRecord_weak {s : State} {src : BitVec 12} {act : Nat} (h : act ≠ 2) : OnlyRecords s (alarmRecord s src act) ∧
    (alarmRecord s src act).ac = s.ac := by
  have h2 : (act == 2) = false := by simpa using h
  unfold alarmRecord
  dsimp only
  split
  · exact ⟨rfl, rfl⟩
  · split
    · exact ⟨.refl s, rfl⟩
    · rw [h2]
      exact ⟨onlyRecords_logReq .., logReq_ac ..⟩

theorem onlyLogged_alarmRecord (s : State) (src : BitVec 12) (act : Nat) : OnlyLogged s (alarmRecord s src act) := by
  unfold alarmRecord
  dsimp only
  split
  · rfl
  · split
    · exact .refl s
    · exact onlyLogged_logReq ..

/-- A record of this cycle that waits is written anew. -/
theorem alarmRecord_waits {s : State} {src : BitVec 12} {act : Nat} (h : s.bn.alarmAt = some s.bn.btime)
    (hq : s.lb.queue.any (alarmQueued s) = true) : (alarmRecord s src act).lb.queue.length = s.lb.queue.length := by
  simp [alarmRecord, h, hq]

/-- The exempt record of an erase, where the queue has room: the Logbook alone changes. -/
theorem alarmRecord_erase {s : State} {src : BitVec 12} (hq : s.lb.queue.length < 32) :
    alarmRecord s src 2 = { s with lb := (alarmRecord s src 2).lb } ∧
      (s.bn.alarmAt ≠ some s.bn.btime → (alarmRecord s src 2).lb.queue.length = s.lb.queue.length + 1) := by
  have hlog (d : Bytes) : logReq s 4 true true d = { s with lb := (logReq s 4 true true d).lb } := by
    simp only [logReq, lbAppend, lbRoom_of_lt hq, if_true]
  unfold alarmRecord
  simp only [beq_self_eq_true, bne_self_eq_false, Bool.and_false, Bool.false_eq_true, if_false]
  split
  · next h =>
    simp only [Bool.and_eq_true, beq_iff_eq] at h
    exact ⟨rfl, fun hne => absurd h.1 hne⟩
  · exact ⟨hlog _, fun _ => logReq_exempt_length hq ..⟩

/-- The notice of the Binnacle rises. -/
theorem bnLatch_alarm (s : State) : let t := bnLatch s 1
    t = { s with bn := { s.bn with notice := t.bn.notice }, nv := t.nv, lane0 := t.lane0, lane1 := t.lane1 } ∧
      t.bn.notice.getLsbD 1 = true := by
  unfold bnLatch
  split
  · next h => exact ⟨rfl, h⟩
  · have hbit : (BitVec.ofNat 3 (2 ^ 1)).getLsbD 1 = true := rfl
    generalize hx : { s with bn := { s.bn with notice := s.bn.notice ||| BitVec.ofNat 3 (2 ^ 1) } } = x
    have hrec := (onlyRecords_pfNotice x s.bn.noticeCfg).of_lb (pfNotice_lb ..)
    rw [pfNotice_ac] at hrec
    have hbn : (pfNotice x s.bn.noticeCfg).bn = x.bn := by rw [hrec]
    refine ⟨?_, ?_⟩
    · rw [hbn]
      refine hrec.trans ?_
      rw [← hx]
    · rw [hbn, ← hx, BitVec.getLsbD_or, hbit, Bool.or_true]

/-! ## The report (R345, R348) -/

/-- What stands in the Binnacle and the configuration whatever a report does. -/
def alarmView (s : State) := (s.bn.latch, s.bn.active, s.bn.act, s.bn.cnt, s.bn.meshFail, s.bn.meshBad, s.fuses, s.chart)

theorem OnlyWork.alarmView {s t : State} (h : OnlyWork s t) : alarmView t = alarmView s := by rw [h]; rfl

theorem OnlyLogged.alarmView {s t : State} (h : OnlyLogged s t) : alarmView t = alarmView s := by rw [h]; rfl

/-- The state behind the erase that a report may start. -/
def alarmErased (s : State) (src : BitVec 12) : State :=
  if strongest s (cycleSources s src) = 2 then startErase (alarmMarked s src) (cycleSources s src) else alarmMarked s src

theorem alarmErased_state (s : State) (src : BitVec 12) : ∃ t e, OnlyWork (alarmMarked s src) t ∧
    alarmErased s src = { t with bn := { t.bn with erase := e } } := by
  unfold alarmErased
  split
  · exact startErase_state ..
  · exact ⟨_, _, .refl _, rfl⟩

/-- The state behind the record of a report, before its notice. -/
def alarmLogged (s : State) (src : BitVec 12) : State :=
  alarmRecord (alarmErased s src) (cycleSources s src) (strongest s (cycleSources s src))

/-- Time and last report stand up to the record of a report. -/
theorem alarmErased_cycle (s : State) (src : BitVec 12) : (alarmErased s src).bn.btime = s.bn.btime ∧
    (alarmErased s src).bn.alarmAt = s.bn.alarmAt ∧ (alarmErased s src).lb = s.lb := by
  obtain ⟨t, e, hwork, he⟩ := alarmErased_state s src
  obtain ⟨hm, -⟩ := alarmMarked_state s src
  have hbn : t.bn = (alarmMarked s src).bn := by rw [hwork]
  have hlb : t.lb = (alarmMarked s src).lb := by rw [hwork]
  rw [he]
  dsimp only
  rw [hbn, hlb, hm]
  exact ⟨rfl, rfl, rfl⟩

theorem alarmLogged_btime (s : State) (src : BitVec 12) : (alarmLogged s src).bn.btime = s.bn.btime := by
  have h := onlyLogged_alarmRecord (alarmErased s src) (cycleSources s src) (strongest s (cycleSources s src))
  have hbt : (alarmLogged s src).bn.btime = (alarmErased s src).bn.btime := by rw [alarmLogged, h]
  exact hbt.trans (alarmErased_cycle s src).1

/-- A report that starts something, from its record on. -/
theorem alarmReport_state {s : State} {src : BitVec 12} (hv : s.bn.vsbRst = false) (hn : newSources s src ≠ 0) :
    let t := alarmReport s src
    t = { alarmLogged s src with
      bn := { (alarmLogged s src).bn with
        alarmAt := some s.bn.btime, alarmSrc := cycleSources s src, notice := t.bn.notice }
      nv := t.nv, lane0 := t.lane0, lane1 := t.lane1 } ∧ t.bn.notice.getLsbD 1 = true := by
  have heq : alarmReport s src = bnLatch { alarmLogged s src with bn := { (alarmLogged s src).bn with
      alarmAt := some s.bn.btime, alarmSrc := cycleSources s src } } 1 := by
    rw [← alarmLogged_btime s src]
    exact alarmReport_eq hv hn
  rw [heq]
  exact bnLatch_alarm _

/-- The new sources are latched and counted, their level conditions active; actions, mesh, fuses and Chart stand. -/
theorem alarmReport_view {s : State} {src : BitVec 12} (hv : s.bn.vsbRst = false) (hn : newSources s src ≠ 0) :
    alarmView (alarmReport s src) = (s.bn.latch ||| newSources s src, s.bn.active ||| (newSources s src &&& levelMask),
      s.bn.act, s.bn.cnt.mapIdx (fun i c => if (newSources s src).getLsbD i then sat32 c else c), s.bn.meshFail,
      s.bn.meshBad, s.fuses, s.chart) := by
  obtain ⟨t, e, hwork, he⟩ := alarmErased_state s src
  obtain ⟨hm, -⟩ := alarmMarked_state s src
  calc alarmView (alarmReport s src)
      = alarmView (alarmLogged s src) := by rw [(alarmReport_state hv hn).1]; rfl
    _ = alarmView (alarmErased s src) := (onlyLogged_alarmRecord ..).alarmView
    _ = alarmView t := by rw [he]; rfl
    _ = alarmView (alarmMarked s src) := hwork.alarmView
    _ = _ := by rw [hm]; rfl

/-- What an erase works on. -/
def keyStores (s : State) := (s.bn.erase, s.kv, s.sc, s.units)

/-- A report whose strongest action is below ERASE leaves keys and contexts. -/
theorem alarmReport_weak {s : State} {src : BitVec 12} (hv : s.bn.vsbRst = false) (hn : newSources s src ≠ 0)
    (hw : strongest s (cycleSources s src) ≠ 2) : keyStores (alarmReport s src) = keyStores s := by
  obtain ⟨hm, -⟩ := alarmMarked_state s src
  obtain ⟨hrec, -⟩ := alarmRecord_weak (s := alarmMarked s src) (src := cycleSources s src) hw
  have hlogged : alarmLogged s src = alarmRecord (alarmMarked s src) (cycleSources s src) (strongest s (cycleSources s src)) := by
    rw [alarmLogged, alarmErased, if_neg hw]
  calc keyStores (alarmReport s src)
      = keyStores (alarmLogged s src) := by rw [(alarmReport_state hv hn).1]; rfl
    _ = keyStores (alarmMarked s src) := by rw [hlogged, hrec]; rfl
    _ = keyStores s := by rw [hm]; rfl

/-- A report that starts an erase: the secrets are gone, no job runs, the erase and its record stand. -/
theorem alarmReport_erases {s : State} {src : BitVec 12} (hv : s.bn.vsbRst = false) (hn : newSources s src ≠ 0)
    (hw : strongest s (cycleSources s src) = 2) (he : s.bn.erase = none) (hq : s.lb.queue.length < 32) :
    let t := alarmReport s src
    t.bn.erase = some ⟨cycleSources s src, s.clk.meridian, false, false, true⟩ ∧ Wiped t ∧ (∀ u, (getUni t u).job = none) ∧
      (s.bn.alarmAt ≠ some s.bn.btime → t.lb.queue.length = s.lb.queue.length + 1) := by
  obtain ⟨hm, hclk⟩ := alarmMarked_state s src
  have hme : (alarmMarked s src).bn.erase = none := by rw [hm]; exact he
  obtain ⟨hwiped, hjobs, hstart⟩ := startErase_starts (src := cycleSources s src) hme
  have herased : alarmErased s src = startErase (alarmMarked s src) (cycleSources s src) := by rw [alarmErased, if_pos hw]
  rw [← herased] at hwiped hjobs hstart
  obtain ⟨hbt, hat, hlb⟩ := alarmErased_cycle s src
  obtain ⟨hrec, hlen⟩ := alarmRecord_erase (s := alarmErased s src) (src := cycleSources s src) (by rw [hlb]; exact hq)
  have hlogged : alarmLogged s src = { alarmErased s src with lb := (alarmLogged s src).lb } := by
    rw [alarmLogged, hw]; exact hrec
  have hlen' : s.bn.alarmAt ≠ some s.bn.btime → (alarmLogged s src).lb.queue.length = s.lb.queue.length + 1 := by
    rw [alarmLogged, hw, ← hlb, ← hbt, ← hat]; exact hlen
  have hstate := (alarmReport_state hv hn).1
  generalize alarmReport s src = t at hstate
  have ht : (t.bn.erase, t.units, t.lb) = ((alarmErased s src).bn.erase, (alarmErased s src).units, (alarmLogged s src).lb) := by
    rw [hstate]
    dsimp only
    rw [hlogged]
  have hsec : secrets t = secrets (alarmErased s src) := by rw [hstate, hlogged]; rfl
  simp only [Prod.mk.injEq] at ht
  obtain ⟨hte, htu, htl⟩ := ht
  refine ⟨hte.trans (hstart.trans (by rw [hclk])), hwiped.same hsec, fun u => ?_, fun h => by rw [htl]; exact hlen' h⟩
  rw [getUni, htu]
  exact hjobs u

theorem alarmReport_waits {s : State} {src : BitVec 12} (hv : s.bn.vsbRst = false) (hn : newSources s src ≠ 0)
    (hat : s.bn.alarmAt = some s.bn.btime) (hq : s.lb.queue.any (alarmQueued s) = true) :
    (alarmReport s src).lb.queue.length = s.lb.queue.length := by
  obtain ⟨hbt, ha, hlb⟩ := alarmErased_cycle s src
  have hlen := alarmRecord_waits (s := alarmErased s src) (src := cycleSources s src)
    (act := strongest s (cycleSources s src)) (by rw [ha, hbt]; exact hat) (by
      have hqueued : alarmQueued (alarmErased s src) = alarmQueued s := by
        funext r
        rw [alarmQueued, alarmQueued, hbt]
      rw [hlb, hqueued]
      exact hq)
  rw [(alarmReport_state hv hn).1]
  exact hlen.trans (by rw [hlb])

/-! ## The mesh (R344) -/

theorem getLsbD_foldl_or {w : Nat} (g : Nat → Nat) (l : List Nat) (m : BitVec w) {n : Nat} (hn : n < w) :
    (l.foldl (fun m i => m ||| BitVec.ofNat w (2 ^ g i)) m).getLsbD n = (m.getLsbD n || l.any (g · == n)) := by
  induction l generalizing m with
  | nil => simp
  | cons k l ih =>
    rw [List.foldl_cons, ih, BitVec.getLsbD_or, BitVec.getLsbD_ofNat, Nat.testBit_two_pow]
    simp [hn, Bool.or_assoc, Bool.beq_eq_decide_eq]

theorem Tbl.get_foldl_set {α : Type} (l : List Nat) (x d : α) (t : Tbl α) (k : Nat) :
    Tbl.get (l.foldl (fun t i => t.set i x) t) d k = if k ∈ l then x else t.get d k := by
  induction l generalizing t with
  | nil => rfl
  | cons i l ih =>
    rw [List.foldl_cons, ih]
    by_cases hk : k = i
    · subst hk; simp
    · rw [Tbl.get_set_ne _ _ _ _ _ hk]; simp [hk]

/-- A pair fails with the second consecutive bit in which a line of it disagrees. -/
theorem meshFail_meshReport (s : State) (mesh : BitVec 32) {i : Nat} (hi : i < 16) :
    (meshReport s mesh).bn.meshFail.getLsbD i = (s.bn.meshFail.getLsbD i || (s.bn.meshEn.getLsbD i &&
      ((mesh.getLsbD i && s.bn.meshBad.get 0 i == s.bn.btime / 32 + 1) ||
        (mesh.getLsbD (16 + i) && s.bn.meshBad.get 0 (16 + i) == s.bn.btime / 32 + 1)))) := by
  have hany : (meshTwice s mesh).any (fun k => k % 16 == i) = (s.bn.meshEn.getLsbD i &&
      ((mesh.getLsbD i && s.bn.meshBad.get 0 i == s.bn.btime / 32 + 1) ||
        (mesh.getLsbD (16 + i) && s.bn.meshBad.get 0 (16 + i) == s.bn.btime / 32 + 1))) := by
    rw [Bool.eq_iff_iff]
    simp only [meshTwice, meshLines, meshBitNo, List.any_eq_true, List.mem_filter, List.mem_range, Bool.and_eq_true,
      Bool.or_eq_true, beq_iff_eq]
    constructor
    · rintro ⟨k, ⟨⟨hk, hm, he⟩, hb⟩, rfl⟩
      refine ⟨he, ?_⟩
      rcases Nat.lt_or_ge k 16 with h | h
      · rw [Nat.mod_eq_of_lt h]
        exact .inl ⟨hm, hb⟩
      · rw [show 16 + k % 16 = k by omega]
        exact .inr ⟨hm, hb⟩
    · rintro ⟨he, ⟨hm, hb⟩ | ⟨hm, hb⟩⟩
      · exact ⟨i, ⟨⟨by omega, hm, by rwa [Nat.mod_eq_of_lt hi]⟩, hb⟩, Nat.mod_eq_of_lt hi⟩
      · exact ⟨16 + i, ⟨⟨by omega, hm, by rwa [show (16 + i) % 16 = i by omega]⟩, hb⟩, by omega⟩
  rw [← hany]
  exact getLsbD_foldl_or (· % 16) _ _ hi

/-- The bit in which a line disagreed is noted, of the lines of enabled pairs. -/
theorem meshBad_meshReport (s : State) (mesh : BitVec 32) {i : Nat} (hi : i < 32) :
    (meshReport s mesh).bn.meshBad.get 0 i =
      if (mesh.getLsbD i && s.bn.meshEn.getLsbD (i % 16)) = true then s.bn.btime / 32 + 2 else s.bn.meshBad.get 0 i := by
  refine (Tbl.get_foldl_set (meshLines s mesh) _ _ _ i).trans ?_
  have hmem : i ∈ meshLines s mesh ↔ (mesh.getLsbD i && s.bn.meshEn.getLsbD (i % 16)) = true := by
    simp [meshLines, hi]
  by_cases h : i ∈ meshLines s mesh
  · rw [if_pos h, if_pos (hmem.mp h)]; rfl
  · rw [if_neg h, if_neg (mt hmem.mpr h)]

/-- A report as the mesh sees it, and the sources that are judged with it. -/
def meshSeen (s : State) (src : BitVec 12) (mesh : BitVec 32) : State := if src.getLsbD 0 then meshReport s mesh else s

/-- The sources of a report that the sensors judge; MESH only where a pair has failed (R344; log entry 58). -/
def judged (s : State) (src : BitVec 12) : BitVec 12 :=
  if s.bn.meshFail == 0 then src &&& sensorMask &&& 0xFFE else src &&& sensorMask

theorem exec_alarmSource {s : State} (src : BitVec 12) (mesh : BitVec 32) (hv : s.bn.vsbRst = false) :
    exec (.alarmSource src mesh) s = .next (alarmReport (meshSeen s src mesh) (judged (meshSeen s src mesh) src)) := by
  have hbit : (src &&& sensorMask).getLsbD 0 = src.getLsbD 0 := by
    have hmask : sensorMask.getLsbD 0 = true := rfl
    rw [BitVec.getLsbD_and, hmask, Bool.and_true]
  change execAlarmSource src mesh s = _
  simp only [execAlarmSource, hv, Bool.false_eq_true, if_false, hbit]
  rfl

theorem meshSeen_state (s : State) (src : BitVec 12) (mesh : BitVec 32) : let t := meshSeen s src mesh
    t = { s with bn := { s.bn with meshFail := t.bn.meshFail, meshAt := t.bn.meshAt, meshBad := t.bn.meshBad } } := by
  unfold meshSeen
  split <;> rfl

/-! ## ALARM_CONDITION_END and ALARM_HOLD_END (R343 to R345) -/

/-- Whether the condition of source k has not ended (R343). -/
def conditionHolds (s : State) (k : Nat) : Bool :=
  s.bn.vsbRst || k == 2 || k == 7 || !isLevel k || !s.bn.active.getLsbD k || (k == 0 && s.bn.meshFail != 0) ||
    (k == 3 && !s.clk.lock) || decide (s.bn.btime < s.bn.since.get 0 k + endSpan k)

theorem exec_alarmConditionEnd (s : State) (n : BitVec 4) (mesh : BitVec 16) (hn : n ≠ 0) :
    exec (.alarmConditionEnd n mesh) s = .next (if conditionHolds s n.toNat then s else alarmEnd s n.toNat) := by
  have h0 : n.toNat ≠ 0 := fun h => hn (BitVec.eq_of_toNat_eq h)
  change execAlarmConditionEnd n mesh s = _
  simp only [execAlarmConditionEnd, h0, false_and, if_false]
  rfl

theorem exec_alarmConditionEnd_mesh (s : State) (mesh : BitVec 16) (hv : s.bn.vsbRst = false) :
    exec (.alarmConditionEnd 0 mesh) s =
      .next (if conditionHolds (meshGood s mesh) 0 then meshGood s mesh else alarmEnd (meshGood s mesh) 0) := by
  change execAlarmConditionEnd 0 mesh s = _
  have hz : (0 : BitVec 4).toNat = 0 := rfl
  simp only [execAlarmConditionEnd, hz, hv, and_self, if_true]
  rfl

/-- LIGHT, CLK_ROOT and CLK_REF are the conditions that a report ends by itself; the others stay (R343). -/
theorem conditionHolds_other {s : State} {n : BitVec 4} (h0 : n ≠ 0) (h1 : n ≠ 1) (h3 : n ≠ 3) (h4 : n ≠ 4) :
    conditionHolds s n.toNat = true := by
  have hn : (n.toNat == 2 || n.toNat == 7 || !isLevel n.toNat) = true := by
    revert h0 h1 h3 h4
    revert n
    decide
  simp only [Bool.or_eq_true] at hn
  unfold conditionHolds
  rcases hn with (h | h) | h <;> simp [h]

theorem meshFail_meshGood (s : State) (mesh : BitVec 16) {i : Nat} (hi : i < 16) :
    (meshGood s mesh).bn.meshFail.getLsbD i =
      (s.bn.meshFail.getLsbD i && !(mesh.getLsbD i && decide (s.bn.meshAt.get 0 i + 2048 ≤ s.bn.btime))) := by
  have hok (l : List Nat) : (l.foldl (fun m i => m ||| BitVec.ofNat 16 (2 ^ i)) (0 : BitVec 16)).getLsbD i =
      decide (i ∈ l) := by
    rw [getLsbD_foldl_or (fun i => i) l 0 hi]
    simp [List.any_beq']
  simp only [meshGood, BitVec.getLsbD_and, BitVec.getLsbD_not, hi, decide_true, Bool.true_and, hok, List.mem_filter,
    List.mem_range, true_and]
  simp

/-- The condition of the mesh ends, and leaves the clocks. -/
theorem alarmEnd_mesh (s : State) : alarmEnd s 0 = { s with bn := { s.bn with
    active := s.bn.active &&& ~~~1, holdSrc := s.bn.holdSrc &&& ~~~1
    holdFrom := if s.bn.holdSrc.getLsbD 0 then some s.bn.btime else s.bn.holdFrom } } := by
  simp [alarmEnd]

/-- ALARM_CONDITION_END of the mesh: it stays active while a pair is bad. -/
theorem alarmConditionEnd_mesh {s : State} (mesh : BitVec 16) (hv : s.bn.vsbRst = false)
    (hs : s.bn.since.get 0 0 ≤ s.bn.btime) : ∃ t, exec (.alarmConditionEnd 0 mesh) s = .next t ∧
      t = { s with bn := { s.bn with
        meshFail := t.bn.meshFail, active := t.bn.active, holdSrc := t.bn.holdSrc, holdFrom := t.bn.holdFrom } } ∧
      (∀ i, i < 16 → t.bn.meshFail.getLsbD i =
        (s.bn.meshFail.getLsbD i && !(mesh.getLsbD i && decide (s.bn.meshAt.get 0 i + 2048 ≤ s.bn.btime)))) ∧
      ∀ n, n < 12 → t.bn.active.getLsbD n = (s.bn.active.getLsbD n && (n != 0 || t.bn.meshFail != 0)) := by
  refine ⟨_, exec_alarmConditionEnd_mesh s mesh hv, ?_⟩
  have hfail (i : Nat) (hi : i < 16) := meshFail_meshGood s mesh hi
  have hact : (meshGood s mesh).bn.active = s.bn.active := rfl
  have hlevel : isLevel 0 = true := rfl
  have hholds : conditionHolds (meshGood s mesh) 0 = (!s.bn.active.getLsbD 0 || (meshGood s mesh).bn.meshFail != 0) := by
    have hdue : ¬ (meshGood s mesh).bn.btime < (meshGood s mesh).bn.since.get 0 0 + endSpan 0 := Nat.not_lt.mpr hs
    have hv' : (meshGood s mesh).bn.vsbRst = false := hv
    simp [conditionHolds, hdue, hv', hlevel, hact]
  rw [hholds]
  split
  · next h =>
    refine ⟨rfl, hfail, fun n _ => ?_⟩
    rw [hact]
    rcases Nat.eq_zero_or_pos n with rfl | hn
    · simp only [Bool.or_eq_true, Bool.not_eq_true'] at h
      rcases h with h | h
      · simp only [h, Bool.false_and]
      · simp only [h, Bool.or_true, Bool.and_true]
    · have hn0 : (n != 0) = true := by simpa using Nat.ne_of_gt hn
      simp only [hn0, Bool.true_or, Bool.and_true]
  · next h =>
    simp only [Bool.or_eq_true, Bool.not_eq_true', not_or, Bool.not_eq_false, Bool.not_eq_true] at h
    obtain ⟨-, hgood⟩ := h
    rw [alarmEnd_mesh]
    refine ⟨rfl, hfail, fun n hn => ?_⟩
    have hone : (1 : BitVec 12).getLsbD n = decide (n = 0) := by
      rw [show (1 : BitVec 12) = BitVec.ofNat 12 (2 ^ 0) from rfl, getLsbD_twoPow hn]
      simp [eq_comm]
    show (s.bn.active &&& ~~~1).getLsbD n = (s.bn.active.getLsbD n && (n != 0 || (meshGood s mesh).bn.meshFail != 0))
    rw [hgood, BitVec.getLsbD_and, BitVec.getLsbD_not, hone]
    by_cases h0 : n = 0 <;> simp [hn, h0]

/-- Settles O54: what a report starts by `alarmReport_view`, `alarmReport_weak` and `alarmReport_erases`; the mesh by
`meshFail_meshReport`; the ends by `exec_alarmConditionEnd`. -/
theorem alarmCommands : Obligations.AlarmCommands := by
  unfold Obligations.AlarmCommands
  refine ⟨fun s src hit start all mesh fail hv hfail hhit hstart hall => ?_, fun s src mesh hv => ?_,
    fun s n mesh m span hv hn hm hspan => ⟨fun h1 h3 h4 => ?_, fun h => ?_, fun h ha hs => ?_⟩,
    fun s mesh hv hs => alarmConditionEnd_mesh mesh hv hs, fun s t0 hh hsrc => ⟨fun h => ?_, fun h => ?_⟩⟩
  · have hx := meshSeen_state s src mesh
    have hxfail : (meshSeen s src mesh).bn.meshFail = fail := by
      refine BitVec.eq_of_getLsbD_eq fun i hi => ?_
      rw [hfail i hi, meshSeen]
      split
      · next h => rw [meshFail_meshReport s mesh hi, h, Bool.true_and]
      · next h => simp only [Bool.eq_false_iff.mpr h, Bool.false_and, Bool.or_false]
    have hxbad (i : Nat) (hi : i < 32) : (meshSeen s src mesh).bn.meshBad.get 0 i =
        if (src.getLsbD 0 && mesh.getLsbD i && s.bn.meshEn.getLsbD (i % 16)) = true then s.bn.btime / 32 + 2
        else s.bn.meshBad.get 0 i := by
      rw [meshSeen]
      split
      · next h => rw [meshBad_meshReport s mesh hi, h, Bool.true_and]
      · next h => simp only [Bool.eq_false_iff.mpr h, Bool.false_and, Bool.false_eq_true, if_false]
    have hjudged : judged (meshSeen s src mesh) src = hit := by
      have hall1 : (0xFFF : BitVec 12) = BitVec.allOnes 12 := rfl
      rw [judged, hxfail, hhit, sensorMask, hall1]
      by_cases hf : fail = 0
      · rw [if_pos (by simpa using hf), if_pos hf]
      · rw [if_neg (by simpa using hf), if_neg hf, BitVec.and_allOnes]
    have hexec := exec_alarmSource src mesh hv
    rw [hjudged] at hexec
    generalize meshSeen s src mesh = x at hx hxfail hxbad hexec
    have hxv : x.bn.vsbRst = false := by rw [hx]; exact hv
    have hxnew : newSources x hit = start := by rw [hstart, hx]; rfl
    have hxcyc : cycleSources x hit = all := by rw [cycleSources, hxnew, hall, hx]
    have hxstr : strongest x all = strongest s all := by rw [hx]; rfl
    refine ⟨_, hexec, ?_⟩
    by_cases h0 : start = 0
    · have hxnone := alarmReport_none hxv (hxnew.trans h0)
      have hbn : (alarmReport x hit).bn.meshFail = x.bn.meshFail ∧ (alarmReport x hit).bn.meshBad = x.bn.meshBad := by
        rw [hxnone]; exact ⟨rfl, rfl⟩
      refine ⟨hbn.1.trans hxfail, fun i hi => by rw [hbn.2, hxbad i hi], fun _ => ?_, fun h => absurd h0 h⟩
      rw [hxnone, ← hxfail, hx]
      rfl
    · have hxn : newSources x hit ≠ 0 := hxnew ▸ h0
      have hview := alarmReport_view hxv hxn
      simp only [alarmView, Prod.mk.injEq, hxnew] at hview
      obtain ⟨hlatch, hactive, hact, hcnt, hmf, hmb, hfuses, hchart⟩ := hview
      obtain ⟨hstate, hnotice⟩ := alarmReport_state hxv hxn
      rw [hxcyc] at hstate
      refine ⟨hmf.trans hxfail, fun i hi => by rw [hmb, hxbad i hi], fun h => absurd h h0, fun _ => ⟨?_, ?_, ?_, hnotice,
        fun n hn => ?_, ?_, ?_, ?_, ?_, fun hat hq => ?_, fun hw => ?_, fun hw he hq => ?_⟩⟩
      · rw [hlatch, hx]
      · rw [hactive, hx]; rfl
      · rw [hact, hx]
      · have hxc : x.bn.cnt = s.bn.cnt := by rw [hx]
        rw [hcnt, hxc]
        simp [List.getD_eq_getElem?_getD, hn]
      · rw [hstate, hx]
      · rw [hstate]
      · rw [hfuses, hx]
      · rw [hchart, hx]
      · have hlb : x.lb = s.lb := by rw [hx]
        have hqueued : alarmQueued x = alarmQueued s := by rw [hx]; rfl
        have hxat : x.bn.alarmAt = some x.bn.btime := by rw [hx]; exact hat
        rw [alarmReport_waits hxv hxn hxat (by rw [hlb, hqueued]; exact hq), hlb]
      · have hweak := alarmReport_weak hxv hxn (by rw [hxcyc, hxstr]; exact hw)
        have hxkeys : keyStores x = keyStores s := by rw [hx]; rfl
        rw [hxkeys] at hweak
        simpa [keyStores] using hweak
      · have hlb : x.lb = s.lb := by rw [hx]
        have hxat : x.bn.alarmAt = s.bn.alarmAt ∧ x.bn.btime = s.bn.btime := by rw [hx]; exact ⟨rfl, rfl⟩
        have hclk : x.clk = s.clk := by rw [hx]
        obtain ⟨herase, hwiped, hjobs, hlen⟩ := alarmReport_erases hxv hxn (by rw [hxcyc, hxstr]; exact hw)
          (by rw [hx]; exact he) (by rw [hlb]; exact hq)
        rw [hxcyc, hclk] at herase
        rw [hxat.1, hxat.2, hlb] at hlen
        exact ⟨herase, hwiped.slots, fun u => ⟨hjobs u, hwiped.keys u⟩, hwiped.kvlt, hwiped.std, hwiped.cmp, hlen⟩
  · change execAlarmSource src mesh s = _
    simp [execAlarmSource, hv]
  · rw [exec_alarmConditionEnd s n mesh hn, if_pos (conditionHolds_other hn h1 h3 h4)]
  · rw [exec_alarmConditionEnd s n mesh hn, if_pos]
    by_cases hother : n ≠ 1 ∧ n ≠ 3 ∧ n ≠ 4
    · exact conditionHolds_other hn hother.1 hother.2.1 hother.2.2
    · have hend : endSpan n.toNat = span := by
        rw [hspan]
        revert hother
        clear h hm hspan hn
        revert n
        decide
      rcases h with h | h | ⟨rfl, h⟩
      · simp only [conditionHolds, h, Bool.not_false, Bool.or_true, Bool.true_or]
      · simp only [conditionHolds, hend, h, decide_true, Bool.or_true]
      · simp only [conditionHolds, h, Bool.not_false, Bool.and_true, BitVec.reduceToNat, beq_self_eq_true, Bool.or_true,
          Bool.true_or]
  · rw [exec_alarmConditionEnd s n mesh hn, if_neg]
    · simp only [alarmEnd, hm]
      rcases h with rfl | rfl | ⟨rfl, -⟩ <;> rfl
    · have hdue : decide (s.bn.btime < s.bn.since.get 0 n.toNat + endSpan n.toNat) = false := by
        rw [show endSpan n.toNat = span by rcases h with rfl | rfl | ⟨rfl, -⟩ <;> exact hspan.symm]
        simpa using hs
      generalize hbad : (s.bn.meshFail != 0) = bad
      rcases h with rfl | rfl | ⟨rfl, hlock⟩
      · simp only [conditionHolds, hdue, hv, ha, hbad]
        generalize s.clk.lock = l
        clear hbad; revert bad l
        decide
      · simp only [conditionHolds, hdue, hv, ha, hbad]
        generalize s.clk.lock = l
        clear hbad; revert bad l
        decide
      · simp only [conditionHolds, hdue, hv, ha, hbad, hlock]
        clear hbad; revert bad
        decide
  · change execAlarmHoldEnd s = _
    simp [execAlarmHoldEnd, hh, hsrc, h]
  · change execAlarmHoldEnd s = _
    simp [execAlarmHoldEnd, hh, Nat.not_le.mpr h]

end Sys2Proof.Machine

/-! # The Soundings (R358, R359) -/

namespace Sys2Proof.Machine

/-! ## SD_FREEZE -/

theorem sdFreezeW_set {s : State} {v : Word} (h : wbit v 0 = true) : sdFreezeW s v =
    if s.sd.frozen then s else { s with sd := { s.sd with frozen := true, freezeAt := s.clk.meridian } } := if_pos h

theorem sdFreezeW_clear {s : State} {v : Word} (h : wbit v 0 = false) :
    sdFreezeW s v = { s with sd := { s.sd with frozen := false } } := if_neg (by simp [h])

/-! ## SD_CMD -/

theorem sdCmdW_busy {s : State} {w : Word} (h : s.sd.clearing ≠ 0) : sdCmdW s w = s := if_pos h

/-- A clear takes exactly the areas of the bits set (R359). -/
theorem sdCmdW_idle {s : State} {w : Word} (h : s.sd.clearing = 0) : sdCmdW s w =
    { s with sd := { s.sd with
      clearing := BitVec.ofNat 3 w.toNat
      clearEnd := s.clk.meridian + clearTime w
      hist := if wbit w 0 then [] else s.sd.hist
      sums := if wbit w 0 then [] else s.sd.sums
      rings := if wbit w 1 then [] else s.sd.rings
      ext := if wbit w 2 then .init else s.sd.ext } } := if_neg (not_not.mpr h)

theorem clearing_getLsbD (w : Word) {n : Nat} (h : n < 3) : (BitVec.ofNat 3 w.toNat).getLsbD n = w.getLsbD n := by
  rw [BitVec.getLsbD_ofNat, decide_eq_true h, Bool.true_and, BitVec.testBit_toNat]

/-- The three commands write SD_CMD, each with its own bit. -/
theorem exec_sdClear {s : State} {a : Access} {v w : Word} {i : Instr}
    (hg : granted s a true (mgmtAt a 0xB000C) = true)
    (h : (i, w) ∈ [(Instr.sdClearPools a v, v ||| 1), (.sdClearRings a v, v ||| 2), (.sdClearDevice a v, v ||| 4)]) :
    exec i s = .next (acked (sdCmdW s w) a) := by
  simp only [List.mem_cons, List.not_mem_nil, or_false, Prod.mk.injEq] at h
  obtain ⟨rfl, rfl⟩ | ⟨rfl, rfl⟩ | ⟨rfl, rfl⟩ := h <;> exact congrArg Host.Outcome.next (hostWrite_granted s a _ _ hg)

/-- Settles O57: the register writes by `sdFreezeW_set` and `sdCmdW_idle`, the two ends by their guards. -/
theorem soundingsCommands : Obligations.SoundingsCommands := by
  unfold Obligations.SoundingsCommands
  refine ⟨fun s a v hg => ⟨?_, ?_⟩, fun s ha hf => ⟨fun h => ?_, fun h => ?_⟩, fun s a v w i hg hi => ?_, fun s hr h => ?_⟩
  · rw [← sdFreezeW_set (v := v ||| 1) (by rw [wbit_or]; exact Bool.or_true _)]
    exact congrArg Host.Outcome.next (hostWrite_granted s a _ _ hg)
  · rw [← sdFreezeW_clear (v := v &&& 0xFFFFFFFE) (by rw [wbit_and]; exact Bool.and_false _)]
    exact congrArg Host.Outcome.next (hostWrite_granted s a _ _ hg)
  · exact congrArg Host.Outcome.next (if_pos (by simp [ha, hf, h]))
  · exact congrArg Host.Outcome.next (if_neg (by simp [h]))
  · rw [exec_sdClear hg hi]
    refine ⟨fun h => by rw [sdCmdW_busy h], fun h => ⟨_, rfl, ?_⟩⟩
    rw [sdCmdW_idle h]
    exact ⟨rfl, fun n => clearing_getLsbD w, fun h0 => ⟨if_pos h0, if_pos h0⟩,
      fun h0 => ⟨if_neg (by simp [h0]), if_neg (by simp [h0])⟩, rfl, rfl⟩
  · exact congrArg Host.Outcome.next (if_pos ⟨hr, h⟩)

end Sys2Proof.Machine

/-! # The Logbook writer, its tokens and its scan (R360, R361, R363, R364) -/

namespace Sys2Proof.Machine

/-! ## The latches of the Logbook (R368) -/

/-- A latch of the Logbook raises its bit of LB_NOTICE, and sends a notice. -/
theorem lbLatch_state (s : State) (i : Nat) : let t := lbLatch s i
    t = { s with lb := { s.lb with notice := t.lb.notice }, nv := t.nv, lane0 := t.lane0, lane1 := t.lane1 } := by
  unfold lbLatch
  split
  · rfl
  · generalize hx : { s with lb := { s.lb with notice := s.lb.notice ||| BitVec.ofNat 3 (2 ^ i) } } = x
    have hrec := (onlyRecords_pfNotice x s.lb.noticeCfg).of_lb (pfNotice_lb ..)
    rw [pfNotice_ac] at hrec
    dsimp only
    rw [pfNotice_lb]
    refine hrec.trans ?_
    rw [← hx]

theorem lbLatch_pinnedFull (s : State) : (lbLatch s 2).lb.notice.getLsbD 2 = true := by
  unfold lbLatch
  split
  · assumption
  · have hbit : (BitVec.ofNat 3 (2 ^ 2)).getLsbD 2 = true := rfl
    rw [pfNotice_lb, BitVec.getLsbD_or, hbit, Bool.or_true]

/-! ## The writer (R360, R363) -/

/-- A pinned record in its pinned slot (R360). -/
def pinWritten (s : State) (r : LogRec) : State :=
  { s with lb := { s.lb with
    slots := s.lb.slots.set s.lb.pinned (logBytes s r), pinned := s.lb.pinned + 1, second := true } }

/-- A record in its circular slot (R360). -/
def ringWritten (s : State) (r : LogRec) (rest : List LogRec) : State :=
  { s with lb := { s.lb with
    slots := s.lb.slots.set s.lb.next (logBytes s r), next := nextSlot s.lb.next, seq := (s.lb.seq + 1) % 2 ^ 32
    second := false, queue := rest } }

theorem writeSlot_nil {s : State} (h : s.lb.queue = []) : writeSlot s = s := by
  unfold writeSlot
  rw [h]

theorem writeSlot_pin {s : State} {r : LogRec} {rest : List LogRec} (hq : s.lb.queue = r :: rest) (hp : r.pin = true)
    (h2 : s.lb.second = false) (hlt : s.lb.pinned < 256) :
    writeSlot s = if s.lb.pinned = 255 then lbLatch (pinWritten s r) 2 else pinWritten s r := by
  unfold writeSlot
  rw [hq]
  dsimp only
  rw [if_pos (by simp [hp, h2, hlt])]
  rfl

/-- Beside the record that the circular slot takes, the writer latches at most an overrun. -/
theorem writeSlot_ring {s : State} {r : LogRec} {rest : List LogRec} (hq : s.lb.queue = r :: rest)
    (h : r.pin = false ∨ s.lb.second = true ∨ 256 ≤ s.lb.pinned) : let t := writeSlot s
    t.lb = { (ringWritten s r rest).lb with notice := t.lb.notice } := by
  have hcond : ¬ (r.pin && !s.lb.second && decide (s.lb.pinned < 256)) = true := by
    rcases h with h | h | h <;> simp [h]
  have hlb : (writeSlot s).lb =
      (if overrun s then lbLatch (ringWritten s r rest) 0 else ringWritten s r rest).lb := by
    unfold writeSlot
    rw [hq]
    dsimp only
    rw [if_neg hcond]
    (repeat' split) <;> rfl
  dsimp only
  rw [hlb]
  split
  · have hnotice := congrArg State.lb (lbLatch_state (ringWritten s r rest) 0)
    exact hnotice
  · rfl

theorem nextSlot_eq (n : Nat) : nextSlot n = if n < 16383 then n + 1 else 256 := by
  unfold nextSlot
  split <;> split <;> omega

/-! ## The scan (R363) -/

/-- Two tables that hold the same good records in the slots from lo on have the same newest one. -/
theorem newest_filter {l : Tbl Bytes} {lo hi : Nat} {p : Nat × Bytes → Bool}
    (h : ∀ e ∈ l, (e.1 < hi || !recordOk e.2) = (!p e || e.1 < lo || !recordOk e.2)) :
    newest lo (l.filter p) = newest hi l := by
  unfold newest
  rw [List.foldl_filter]
  refine List.foldl_ext _ _ _ fun best e he => ?_
  rw [h e he]
  cases p e <;> simp

/-- Where no pinned record is ahead of the newest circular one, that one has the last SEQ (log 65). -/
theorem lastSeq_newest {l : Tbl Bytes} {i : Nat} {q : Word} (hn : newest 256 l = some (i, q))
    (h : ∀ e ∈ l, e.1 < 256 → recordOk e.2 = true →
      ¬ (0 < posDiff (wordAt e.2 0) q ∧ posDiff (wordAt e.2 0) q ≤ 16128)) : lastSeq l = some q := by
  unfold lastSeq
  rw [hn]
  dsimp only
  rw [newest_filter (hi := 256) fun e he => ?_, hn]
  · rfl
  · by_cases hlt : e.1 < 256
    · cases hok : recordOk e.2
      · simp
      · simp only [decide_eq_false (h e he hlt hok), hlt, not_le.mpr hlt]; rfl
    · simp [hlt, Nat.le_of_not_lt hlt]

theorem scanLog_state (s : State) : let t := scanLog s
    t = { s with lb := { s.lb with torn := t.lb.torn, scanning := false, seq := t.lb.seq, next := t.lb.next } } ∧
      t.lb.seq = ((lastSeq s.lb.slots).map (·.toNat)).getD s.lb.seq ∧
      t.lb.next = ((newest 256 s.lb.slots).map (nextSlot ·.1)).getD s.lb.next := by
  simp only [scanLog]
  cases lastSeq s.lb.slots <;> cases newest 256 s.lb.slots <;> exact ⟨rfl, rfl, rfl⟩

/-- The scan ends; the core starts when VDD_CORE is up (R375). -/
theorem exec_logbookScanDone {s : State} (h : s.lb.scanning = true) : ∃ t, exec .logbookScanDone s = .next t ∧
    t.lb = (scanLog s).lb ∧ t.pw.coreHeld = (s.pw.coreHeld && s.bn.vddRst) := by
  have hpw : (scanLog s).pw = s.pw ∧ (scanLog s).bn = s.bn := by rw [(scanLog_state s).1]; exact ⟨rfl, rfl⟩
  refine ⟨_, congrArg Host.Outcome.next (if_pos h), ?_⟩
  dsimp only
  rw [hpw.1, hpw.2]
  split
  · next hc =>
    rw [Bool.and_eq_true, Bool.not_eq_true'] at hc
    exact ⟨rfl, by rw [hc.2, Bool.and_false]⟩
  · next hc =>
    refine ⟨rfl, ?_⟩
    rw [hpw.1]
    revert hc
    cases s.pw.coreHeld <;> cases s.bn.vddRst <;> simp

/-- Settles O58: the two slots of a record by `writeSlot_pin` and `writeSlot_ring`, the scan by `scanLog_state` and
`lastSeq_newest`. -/
theorem logbookWriter : Obligations.LogbookWriter := by
  unfold Obligations.LogbookWriter
  refine ⟨fun s h => congrArg Host.Outcome.next ?_, fun s r rest hscan hq => ⟨fun hp h2 hlt => ⟨_, rfl, ?_⟩,
    fun h => ⟨_, rfl, ?_⟩⟩, fun s h => ⟨_, congrArg Host.Outcome.next (if_pos h), rfl, fun k => ?_⟩, fun s hscan => ?_⟩
  · split
    · rfl
    · next hns => exact writeSlot_nil (h.resolve_left hns)
  · rw [if_neg (by simp [hscan]), writeSlot_pin hq hp h2 hlt]
    by_cases hlast : s.lb.pinned = 255
    · have hstate := lbLatch_state (pinWritten s r) 2
      have hslots : (lbLatch (pinWritten s r) 2).lb.slots = s.lb.slots.set s.lb.pinned (logBytes s r) := by rw [hstate]; rfl
      rw [if_pos hlast]
      refine ⟨?_, fun h => absurd hlast h, fun _ => lbLatch_pinnedFull _, ?_, fun i hi => ?_⟩
      · rw [hslots]; exact hstate
      · rw [hslots, Tbl.find_set_same]
      · rw [hslots, Tbl.find_set_ne _ _ _ _ hi]
    · rw [if_neg hlast]
      exact ⟨rfl, fun _ => ⟨rfl, rfl, rfl, rfl⟩, fun h => absurd h hlast, Tbl.find_set_same .., fun i hi =>
        Tbl.find_set_ne _ _ _ _ hi⟩
  · rw [if_neg (by simp [hscan])]
    have hlb := writeSlot_ring hq h
    have honly := onlyLogged_writeSlot s
    generalize writeSlot s = t at hlb honly
    rw [hlb]
    refine ⟨Tbl.find_set_same .., nextSlot_eq _, rfl, rfl, rfl, rfl, fun i hi => Tbl.find_set_ne _ _ _ _ hi, ?_, ?_⟩
    · rw [honly]
    · rw [honly]
  · exact Tbl.get_mapVal s.lb.tokens (f := fun _ t => min 8 (t + 1)) rfl
  · obtain ⟨hstate, hseq, hnext⟩ := scanLog_state s
    obtain ⟨t, hx, hlb, hheld⟩ := exec_logbookScanDone hscan
    have hslots : (scanLog s).lb.slots = s.lb.slots ∧ (scanLog s).lb.pinned = s.lb.pinned ∧ (scanLog s).lb.scanning = false := by
      rw [hstate]; exact ⟨rfl, rfl, rfl⟩
    refine ⟨t, hx, ?_⟩
    rw [hlb]
    refine ⟨hslots.2.2, hslots.1, hslots.2.1, hheld, fun h => by rw [hseq, h]; rfl, fun q h => by rw [hseq, h]; rfl,
      fun i q hn h => by rw [hseq, lastSeq_newest hn h]; rfl, fun h => by rw [hnext, h]; rfl,
      fun i q hn => by rw [hnext, hn, ← nextSlot_eq]; rfl⟩

end Sys2Proof.Machine

/-! # Transactions that come to issue, and what of the Binnacle a command leaves -/

namespace Sys2Proof.Machine

/-! ## Issue of a transaction (R302, R310) -/

/-- From s to t at most the ports, the dirty-page logs and the records of refusals have changed. -/
def OnlyIssued (s t : State) : Prop :=
  t = { s with ports := t.ports, ac := t.ac, lb := t.lb, nv := t.nv, lane0 := t.lane0, lane1 := t.lane1, fns := t.fns
               dlFilter := t.dlFilter }

theorem OnlyRecords.issued {s t : State} (h : OnlyRecords s t) : OnlyIssued s t := by
  unfold OnlyIssued
  have hports : t.ports = s.ports := by rw [h]
  have hfns : t.fns = s.fns := by rw [h]
  have hdl : t.dlFilter = s.dlFilter := by rw [h]
  rw [hports, hfns, hdl]
  exact h

namespace OnlyIssued

theorem refl (s : State) : OnlyIssued s s := rfl

theorem trans {s t u : State} (h : OnlyIssued s t) (k : OnlyIssued t u) : OnlyIssued s u :=
  Eq.trans k (congrArg (fun x : State => { x with
    ports := u.ports, ac := u.ac, lb := u.lb, nv := u.nv, lane0 := u.lane0, lane1 := u.lane1, fns := u.fns
    dlFilter := u.dlFilter }) h)

theorem setPort (s : State) (n : Nat) (p : Port) : OnlyIssued s (setPort s n p) := rfl

theorem refuseTxn (s : State) (n : Nat) (t : Txn) (v : Verdict) : OnlyIssued s (refuseTxn s n t v) := by
  have h := (onlyRecords_outViolation s t.addr (ovInfo t.write (dmaPl s t.func) n t.func (v.rule == 0x7FFF)) v.rule).issued
  exact h

/-- The entry of a dirty-page log goes out, is suppressed, is dropped or is refused. -/
theorem dlPage {s t : State} {f n page : Nat} {who : Origin} {pools : List Nat}
    (h : dlPage s f n page who pools = some t) : OnlyIssued s t := by
  unfold Machine.dlPage at h
  dsimp only at h
  split at h
  · cases h; rfl
  · split at h
    · cases h; rfl
    · split at h
      · cases h
      · split at h
        · cases h
          split <;> rfl
        · cases h
          exact (refuseTxn s n _ _).trans rfl

theorem dlBefore {s t : State} {n : Nat} {x : Txn} (h : dlBefore s n x = some t) : OnlyIssued s t := by
  unfold Machine.dlBefore at h
  split at h
  · exact dlPage h
  · cases h; rfl

theorem comesToIssue (s : State) (n : Nat) (t : Txn) : OnlyIssued s (comesToIssue s n t).1 := by
  unfold Machine.comesToIssue
  split
  · exact refl s
  · split
    · exact refl s
    · next u hu =>
      refine trans (dlBefore hu) ?_
      dsimp only
      split
      · exact refl u
      · split
        · exact refuseTxn ..
        · exact setPort ..

theorem queueWait {s : State} (n : Nat) {x : State × Issue} (h : OnlyIssued s x.1) : OnlyIssued s (queueWait n x).1 := by
  obtain ⟨s1, i⟩ := x
  cases i with
  | waits t => exact trans h (setPort ..)
  | issued v => exact h
  | refused => exact h

theorem issueTxn (s : State) (n : Nat) (t : Txn) : OnlyIssued s (issueTxn s n t).1 := by
  rw [issueTxn_eq]
  refine queueWait n ?_
  split
  · exact comesToIssue ..
  · exact refl s

theorem issueAll (s : State) (port func : Nat) (write : Bool) (data : Bytes) (who : Origin) (pools : List Nat)
    (l : List (Nat × Nat × Nat)) : OnlyIssued s (issueAll s port func write data who pools l).1 := by
  induction l generalizing s with
  | nil => exact refl s
  | cons p l ih =>
    obtain ⟨o, a, n⟩ := p
    unfold Machine.issueAll
    have hone (d : Bytes) : OnlyIssued s (issueOne s port func write a n o d who pools).1 := issueTxn s port _
    generalize (if write then (data.drop o).take n else []) = d
    generalize hx : issueOne s port func write a n o d who pools = x
    have hs := hone d
    rw [hx] at hs
    obtain ⟨s1, b⟩ := x
    cases b with
    | true => exact hs.trans (ih s1)
    | false => exact hs

theorem startRead (s : State) (port func addr len : Nat) (who : Origin) (pools : List Nat) :
    OnlyIssued s (startRead s port func addr len who pools).1 := issueAll ..

end OnlyIssued

/-! ## What a command of the core leaves: the fuses, and the Binnacle but for the mark of an erase's record -/

/-- The fuses, and the Binnacle but for its erase. -/
def watch (s : State) : Bn × Tbl Word := ({ s.bn with erase := none }, s.fuses)

theorem ite_watch {c : Prop} [Decidable c] {a b : State} {m : Bn × Tbl Word} (ha : watch a = m) (hb : watch b = m) :
    watch (if c then a else b) = m := by
  split
  · exact ha
  · exact hb

theorem OnlyWork.watch {s t : State} (h : OnlyWork s t) : watch t = watch s := by rw [h]; rfl

theorem OnlyLogged.watch {s t : State} (h : OnlyLogged s t) : watch t = watch s := by rw [h]; rfl

theorem OnlyRecords.watch {s t : State} (h : OnlyRecords s t) : watch t = watch s := by rw [h]; rfl

theorem OnlyIssued.watch {s t : State} (h : OnlyIssued s t) : watch t = watch s := by rw [h]; rfl

theorem OnlyFuseOps.watch {s t : State} (h : OnlyFuseOps s t) : watch t = watch s := by rw [h]; rfl

theorem OnlyDraws.watch {s t : State} (h : OnlyDraws s t) : watch t = watch s := by rw [h]; rfl

theorem OnlySc.watch {s t : State} (h : OnlySc s t) : watch t = watch s := by rw [h]; rfl

/-! ## The commands of the vault (R206) -/

@[simp] theorem kvResult_watch (s : State) (n : Nat) : watch (kvResult s n) = watch s := rfl

@[simp] theorem kvFound_watch (s : State) (i : Nat) (bad : Bool) : watch (kvFound s i bad) = watch s := by
  unfold kvFound slotParity
  dsimp only
  (repeat' split) <;> rfl

@[simp] theorem putSlot_watch (s : State) (i : Nat) (attr : Word) (key pubh : Bytes) : watch (putSlot s i attr key pubh) = watch s := by
  unfold putSlot
  split
  · rfl
  · dsimp only
    split
    · rfl
    · refine Eq.trans (foldl_keeps watch _ (fun x k => ?_) _ _) rfl
      rfl

theorem drbgDraw_watch (s : State) (k n : Nat) : watch (drbgDraw s k n).1 = watch s := (onlyFuseOps_drbgDraw s k n).watch

theorem kvGenerate_watch (s : State) (c : KvCmd) : watch (kvGenerate s c) = watch s := by
  have hdraw (a : Word) : watch (kvDraw s c a) = watch s := by
    have hput (k : Bytes) : watch (kvResult (putSlot (drbgDraw s 0 c.klen).1 c.idx a k []) 0) = watch s := by
      rw [kvResult_watch, putSlot_watch, drbgDraw_watch]
    exact ite_watch (drbgDraw_watch ..) (hput _)
  unfold kvGenerate
  dsimp only
  (repeat' split) <;> simp [hdraw]

theorem kvUnwrapped_watch (s : State) (c : KvCmd) (b : Bytes) : watch (kvUnwrapped s c b) = watch s := by
  unfold kvUnwrapped
  dsimp only
  (repeat' split) <;> simp

theorem kvStore_watch (s : State) (c : KvCmd) (b : Bytes) : watch (kvStore s c b) = watch s := by
  have h := (OnlyIssued.issueAll s 0 0 true b .kvWrite [] (pieces c.dst b.length)).watch
  unfold kvStore
  dsimp only
  split <;> exact h

theorem kvAttested_watch (s : State) (c : KvCmd) (b : Bytes) : watch (kvAttested s c b) = watch s := by
  unfold kvAttested
  split
  · dsimp only
    split
    · rfl
    · rw [kvStore_watch, drbgDraw_watch]
  · rfl

theorem kvRead_watch (s : State) : watch (kvRead s) = watch s := by
  unfold kvRead
  (repeat' split) <;> simp [kvUnwrapped_watch, kvAttested_watch]

theorem kvFetch_watch (s : State) (c : KvCmd) (len : Nat) : watch (kvFetch s c len) = watch s :=
  (kvRead_watch _).trans (OnlyIssued.startRead ..).watch

theorem kvWrap_watch (s : State) (c : KvCmd) : watch (kvWrap s c) = watch s := by
  unfold kvWrap
  dsimp only
  (repeat' split) <;> simp [kvStore_watch]

theorem kvAttest_watch (s : State) (c : KvCmd) : watch (kvAttest s c) = watch s := by
  unfold kvAttest
  dsimp only
  (repeat' split) <;> simp [kvFetch_watch]

theorem kvStart_watch (s : State) (c : KvCmd) : watch (kvStart s c) = watch s := by
  unfold kvStart
  generalize hx : { s with kv := { s.kv with busy := true, cmd := some c, outLen := _ } } = x
  have hw : watch x = watch s := by rw [← hx]; rfl
  have hpeek (t : State) : watch (kvPeek t c.idx) = watch t := rfl
  have herase (l : List Nat) : watch (eraseSlots x l) = watch x := (OnlyWork.eraseSlots x l).watch
  rw [← hw]
  dsimp only
  split
  · split
    · rfl
    · rw [kvResult_watch, hpeek, kvFound_watch]
  · split
    · rfl
    · split
      · rfl
      · rw [kvResult_watch, herase]
  · exact kvGenerate_watch ..
  · split
    · rfl
    · exact kvFetch_watch ..
  · exact kvWrap_watch ..
  · exact kvAttest_watch ..
  · have howner : OnlyWork x (eraseFn x c.func) := (OnlyWork.eraseWhere ..).trans (OnlyWork.foldl OnlyWork.scrubUnit ..)
    exact howner.watch
  · exact (OnlyWork.eraseVault x).watch

/-! ## The commands of the context store and of the Chart (R116, R267) -/

theorem onlySc_scStart (s : State) (op kind i : Nat) : OnlySc s (scStart s op kind i) :=
  .ite rfl (.ite rfl (.ite rfl (.ite rfl (.ite rfl (onlySc_scApply ..)))))

theorem chLoad_watch (s : State) (keep : Bool) : watch (chLoad s keep) = watch s := by
  have hbegin : watch (chartBegin s keep) = watch s := by
    have hfall (t : State) (p : Nat) : watch (enterFallback t p 4) = watch t := by
      rw [enterFallback_chart]; rfl
    have hpools := foldl_keeps watch (fun t p => enterFallback t p 4) hfall (s.chart.pools.map (·.pool)) s
    unfold chartBegin
    dsimp only
    refine Eq.trans ?_ hpools
    exact (OnlyIssued.startRead ..).watch
  exact ite_watch rfl (ite_watch rfl (ite_watch rfl (ite_watch rfl (ite_watch rfl hbegin))))

theorem chAdvance_watch (s : State) : watch (chAdvance s) = watch s := by
  have hstart (t : State) (w : FuseWhat) (l : List FuseStep) : watch (fuseStart t w l) = watch t := by
    rw [fuseStart_eq]
    split
    · exact ((onlyFuseOps_fuseBegin _).trans (onlyFuseOps_fuseEnd 1 _)).watch
    · rfl
  exact ite_watch rfl (ite_watch rfl (ite_watch rfl (hstart ..)))

end Sys2Proof.Machine

/-! # The supply monitor (R339 to R343) -/

namespace Sys2Proof.Machine

/-! ## NOSTART_HOLD_END (R341) -/

/-- The commands that a no-start hold delayed start; the hold is over, and no fuse has changed. -/
theorem watch_holdEnded (s : State) : watch (holdEnded s) = watch { s with bn := { s.bn with nostart := false } } := by
  have hfuse (t : State) : watch (fuseResume t) = watch t := by
    unfold fuseResume
    split
    · exact (onlyFuseOps_fuseBegin t).watch
    · rfl
  have hsc (t : State) : watch (scRelease t) = watch t := by
    unfold scRelease
    split
    · exact ite_watch rfl (onlySc_scStart ..).watch
    · rfl
  have hkv (t : State) : watch (kvRelease t) = watch t := by
    unfold kvRelease
    split
    · exact ite_watch (kvStart_watch ..) rfl
    · rfl
  have hch (t : State) : watch (chRelease t) = watch t := by
    unfold chRelease chJudge
    split
    · exact ite_watch rfl (ite_watch (chLoad_watch ..) (ite_watch (chAdvance_watch ..) rfl))
    · rfl
  rw [holdEnded, hch, hkv, hsc, hfuse]

theorem nostartHoldEnd_ends {s : State} (hn : s.bn.nostart = true) (hv : s.bn.vsbWarn = false) (hd : s.bn.vddWarn = false)
    (h : s.bn.warnEnd + 336 ≤ s.bn.btime) : ∃ t, exec .nostartHoldEnd s = .next t ∧ t.bn.nostart = false ∧
      t.fuses = s.fuses ∧ (active s = false → t = { s with bn := { s.bn with nostart := false } }) := by
  refine ⟨_, congrArg Host.Outcome.next (if_pos (by simp [hn, hv, hd, h])), ?_⟩
  split
  · next ha =>
    have hw := watch_holdEnded s
    exact ⟨congrArg (fun x : Bn × Tbl Word => x.1.nostart) hw, congrArg Prod.snd hw, fun hi => by simp [ha] at hi⟩
  · exact ⟨rfl, rfl, fun _ => rfl⟩

/-! ## SUPPLY_GROUP_CLOSE (R342) -/

/-- A record of a group leaves the group's registers, where every field but the mark of an erase stays. -/
theorem closeGroup_open {s : State} {g : Group} (h : s.bn.group = some g) (reset vddReset : Bool) : ∃ m,
    OnlyLogged { s with bn := { s.bn with
      group := none, dipMin := m, dipTime := word (min g.below 0xFFFFFF + 2 ^ 24 * min g.count 255)
      dipSpan := word (min (g.last - g.first) 0xFFFFFFFF), dipGroups := sat32 s.bn.dipGroups } }
      (closeGroup s reset vddReset) := by
  unfold closeGroup
  rw [h]
  exact ⟨_, onlyLogged_logReq ..⟩

theorem supplyGroupClose_closes {s : State} {g : Group} (hg : s.bn.group = some g) (hv : s.bn.vsbWarn = false)
    (hd : s.bn.vddWarn = false) (h : g.last + 33600 ≤ s.bn.btime) :
    ∃ t, exec .supplyGroupClose s = .next t ∧ t.bn.group = none ∧
      t.bn.dipGroups = sat32 s.bn.dipGroups ∧ t.bn.dipSpan = word (min (g.last - g.first) 0xFFFFFFFF) ∧
      t.bn.dipTime = word (min g.below 0xFFFFFF + 2 ^ 24 * min g.count 255) ∧
      t.bn.act = s.bn.act ∧ t.kv = s.kv ∧ t.units = s.units := by
  obtain ⟨m, hlog⟩ := closeGroup_open hg false false
  have hx : exec .supplyGroupClose s = .next (closeGroup s false false) := by
    change execSupplyGroupClose s = _
    simp [execSupplyGroupClose, hg, hv, hd, h]
  refine ⟨_, hx, ?_⟩
  rw [hlog]
  exact ⟨rfl, rfl, rfl, rfl, rfl, rfl, rfl⟩

/-! ## SUPPLY_SAMPLE -/

/-- The state in which a sample has been taken: the registers, the warnings, the levels below reset and the group (R339 to R342). -/
def sampleTaken (s : State) (v d : Nat) (hot cold : BitVec 8) : State :=
  let w1 := decide (v < if s.bn.vsbWarn = true then 4400 else 4300)
  let w2 := decide (d < if s.bn.vddWarn = true then 700 else 690)
  let fall := (s.bn.vsbWarn && !w1) || (s.bn.vddWarn && !w2)
  let r1 := w1 && !s.bn.vsbWarn
  let r2 := w2 && !s.bn.vddWarn
  { s with bn := { s.bn with
    btime := s.bn.btime + 1, vsb := v / 24, vdd := d, hot := hot, cold := cold, vsbWarn := w1, vddWarn := w2
    vsbLow := if v < 3800 then s.bn.vsbLow + 1 else 0, vddLow := if d < 650 then s.bn.vddLow + 1 else 0
    group := groupSample s.bn.group (s.bn.btime + 1) (v / 24) d (r1 || r2) fall (w1 || w2) (b2n r1 + b2n r2)
    nostart := s.bn.nostart || w1 || w2, warnEnd := if fall && !w1 && !w2 then s.bn.btime + 1 else s.bn.warnEnd } }

/-- From s to t at most the notice of the Binnacle, the Soundings and the voided chains have changed. -/
def OnlyHeard (s t : State) : Prop :=
  t = { s with
    bn := { s.bn with notice := t.bn.notice }, sd := t.sd, chains := t.chains, ad := t.ad, nv := t.nv, lane0 := t.lane0
    lane1 := t.lane1 }

theorem OnlyHeard.trans {s t u : State} (h : OnlyHeard s t) (k : OnlyHeard t u) : OnlyHeard s u :=
  Eq.trans k (congrArg (fun x : State => { x with
    bn := { x.bn with notice := u.bn.notice }, sd := u.sd, chains := u.chains, ad := u.ad, nv := u.nv, lane0 := u.lane0
    lane1 := u.lane1 }) h)

theorem OnlyHeard.ite {s a b : State} {c : Prop} [Decidable c] (ha : OnlyHeard s a) (hb : OnlyHeard s b) :
    OnlyHeard s (if c then a else b) := by
  split
  · exact ha
  · exact hb

theorem onlyHeard_soundSample (s : State) (v d : Nat) (hot cold : BitVec 8) : OnlyHeard s (soundSample s v d hot cold) :=
  .ite (.ite rfl (.ite rfl rfl)) rfl

/-- The notice of the Binnacle rises, or stands. -/
theorem onlyHeard_bnLatch (s : State) (i : Nat) : OnlyHeard s (bnLatch s i) := by
  unfold bnLatch
  refine .ite rfl ?_
  generalize hx : { s with bn := { s.bn with notice := s.bn.notice ||| BitVec.ofNat 3 (2 ^ i) } } = x
  have hrec := (onlyRecords_pfNotice x s.bn.noticeCfg).of_lb (pfNotice_lb ..)
  rw [pfNotice_ac] at hrec
  refine OnlyHeard.trans (t := x) (by rw [← hx]; rfl) ?_
  generalize pfNotice x s.bn.noticeCfg = y at hrec
  rw [hrec]
  rfl

/-- The state before the report of a sample: TEMP and OVERVOLT may have ended (R343). -/
def sensorEnded (s : State) (v d : Nat) (hot cold : BitVec 8) : State :=
  let low := if v < 20000 ∧ d < 850 then s.bn.overEnd + 1 else 0
  let s := { s with bn := { s.bn with
    overVsb := if 20000 < v then s.bn.overVsb + 1 else 0, overVdd := if 850 < d then s.bn.overVdd + 1 else 0
    overEnd := low } }
  let s := if (s.bn.btime % 32 == 0) && decide (hot.toInt ≤ 115 ∧ -45 ≤ cold.toInt) && s.bn.active.getLsbD 2 then alarmEnd s 2
    else s
  if 32 ≤ low ∧ s.bn.active.getLsbD 7 = true then alarmEnd s 7 else s

/-- The sources that a sample reports (R343). -/
def sensorSrc (s : State) (v d : Nat) (hot cold : BitVec 8) : BitVec 12 :=
  srcIf ((s.bn.btime % 32 == 0) && decide (120 < hot.toInt ∨ cold.toInt < -50)) 2 |||
    srcIf (decide (32 ≤ (if 20000 < v then s.bn.overVsb + 1 else 0) ∨ 4 ≤ (if 850 < d then s.bn.overVdd + 1 else 0))) 7

theorem sensorSample_eq (s : State) (v d : Nat) (hot cold : BitVec 8) :
    sensorSample s v d hot cold = alarmReport (sensorEnded s v d hot cold) (sensorSrc s v d hot cold) := rfl

/-- A sample is heard, then its sensors are judged. -/
theorem supplySample_eq (s : State) (v d : Nat) (hot cold : BitVec 8) : ∃ x, OnlyHeard (sampleTaken s v d hot cold) x ∧
    supplySample s v d hot cold = alarmReport (sensorEnded x v d hot cold) (sensorSrc x v d hot cold) := by
  have hw1 : (if s.bn.vsbWarn = true then decide (v < 4400) else decide (v < 4300)) =
      decide (v < if s.bn.vsbWarn = true then 4400 else 4300) := by split <;> rfl
  have hw2 : (if s.bn.vddWarn = true then decide (d < 700) else decide (d < 690)) =
      decide (d < if s.bn.vddWarn = true then 700 else 690) := by split <;> rfl
  have hsound := onlyHeard_soundSample (sampleTaken s v d hot cold) (v / 24) d hot cold
  have hvoid {c : Prop} [Decidable c] : OnlyHeard (soundSample (sampleTaken s v d hot cold) (v / 24) d hot cold)
      (if c then voidSupply (soundSample (sampleTaken s v d hot cold) (v / 24) d hot cold)
        else soundSample (sampleTaken s v d hot cold) (v / 24) d hot cold) := .ite rfl rfl
  unfold supplySample
  rw [hw1, hw2]
  exact ⟨_, .ite ((hsound.trans hvoid).trans (onlyHeard_bnLatch ..)) (hsound.trans hvoid), sensorSample_eq ..⟩

/-! ## What a report leaves of a sample -/

/-- What the samples write, and the fuses. -/
def sampleView (s : State) :=
  (s.bn.btime, s.bn.vsb, s.bn.vdd, s.bn.hot, s.bn.cold, s.bn.vsbWarn, s.bn.vddWarn, s.bn.nostart, s.bn.vsbLow, s.bn.vddLow,
    s.bn.vddUp, s.bn.vsbRst, s.bn.vddRst, s.pw, s.fuses)

theorem OnlyWork.sampleView {s t : State} (h : OnlyWork s t) : sampleView t = sampleView s := by rw [h]; rfl

theorem OnlyLogged.sampleView {s t : State} (h : OnlyLogged s t) : sampleView t = sampleView s := by rw [h]; rfl

theorem alarmReport_sampleView {s : State} (src : BitVec 12) (hv : s.bn.vsbRst = false) :
    sampleView (alarmReport s src) = sampleView s := by
  by_cases hn : newSources s src = 0
  · rw [alarmReport_none hv hn]; rfl
  · obtain ⟨t, e, hwork, he⟩ := alarmErased_state s src
    obtain ⟨hm, -⟩ := alarmMarked_state s src
    calc sampleView (alarmReport s src)
        = sampleView (alarmLogged s src) := by rw [(alarmReport_state hv hn).1]; rfl
      _ = sampleView (alarmErased s src) := (onlyLogged_alarmRecord ..).sampleView
      _ = sampleView t := by rw [he]; rfl
      _ = sampleView (alarmMarked s src) := hwork.sampleView
      _ = sampleView s := by rw [hm]; rfl

/-- A report makes its new level sources active and latches all new ones. -/
theorem alarmReport_marks {s : State} (src : BitVec 12) (hv : s.bn.vsbRst = false) :
    (alarmReport s src).bn.active = s.bn.active ||| (newSources s src &&& levelMask) ∧
      (alarmReport s src).bn.latch = s.bn.latch ||| newSources s src := by
  by_cases hn : newSources s src = 0
  · rw [alarmReport_none hv hn, hn]
    exact ⟨BitVec.or_zero.symm, BitVec.or_zero.symm⟩
  · have h := alarmReport_view hv hn
    simp only [alarmView, Prod.mk.injEq] at h
    exact ⟨h.2.1, h.1⟩

/-! ## The erase that a report may start (R347) -/

/-- An erase runs that has zeroed the core. -/
def tampered (s : State) : Bool := s.bn.erase.any (·.tamper)

/-- The stores that an erase works on. -/
def stores (s : State) := (s.kv, s.sc, s.units)

theorem OnlyRecords.tampered {s t : State} (h : OnlyRecords s t) : tampered t = tampered s := by rw [h]; rfl

theorem writeSlot_tampered (s : State) : tampered (writeSlot s) = tampered s := by
  have hlatch (t : State) (i : Nat) : tampered (lbLatch t i) = tampered t := (onlyRecords_lbLatch t i).tampered
  unfold writeSlot
  split
  · rfl
  · dsimp only
    split
    · split
      · exact hlatch ..
      · rfl
    · generalize hx : (if overrun s then lbLatch _ 0 else _) = x
      have h : tampered x = tampered s := by
        rw [← hx]
        split
        · exact hlatch ..
        · rfl
      rw [← h]
      split
      · next e he =>
        split
        · simp [tampered, he]
        · rfl
      · rfl

theorem logReq_tampered (s : State) (type : Nat) (pin exempt : Bool) (data : Bytes) :
    tampered (logReq s type pin exempt data) = tampered s := by
  have hroom (n : Nat) (t : State) : tampered (lbRoom n t) = tampered t := by
    induction n generalizing t with
    | zero => rfl
    | succ n ih =>
      unfold lbRoom
      split
      · rfl
      · exact (ih _).trans (writeSlot_tampered t)
  cases exempt with
  | false => exact (onlyRecords_logReq ..).tampered
  | true => exact hroom 2 s

theorem alarmRecord_tampered (s : State) (src : BitVec 12) (act : Nat) : tampered (alarmRecord s src act) = tampered s := by
  unfold alarmRecord
  dsimp only
  split
  · rfl
  · split
    · rfl
    · exact logReq_tampered ..

/-- An erase that zeroes the core is one that tampers from then on. -/
theorem startErase_stores (s : State) (src : BitVec 12) : stores (startErase s src) = stores s ∧ tampered (startErase s src) = tampered s ∨
    tampered s = false ∧ tampered (startErase s src) = true := by
  unfold startErase
  split
  · next e he =>
    split
    · next ht => exact .inl ⟨rfl, by simp [tampered, he, ht]⟩
    · next ht => exact .inr ⟨by simp [tampered, he, ht], rfl⟩
  · next he => exact .inr ⟨by simp [tampered, he], rfl⟩

theorem alarmReport_stores {s : State} (src : BitVec 12) (hv : s.bn.vsbRst = false) :
    stores (alarmReport s src) = stores s ∧ tampered (alarmReport s src) = tampered s ∨
      tampered s = false ∧ tampered (alarmReport s src) = true := by
  by_cases hn : newSources s src = 0
  · rw [alarmReport_none hv hn]; exact .inl ⟨rfl, rfl⟩
  · obtain ⟨hm, -⟩ := alarmMarked_state s src
    have hmarked : stores (alarmMarked s src) = stores s ∧ tampered (alarmMarked s src) = tampered s := by
      rw [hm]; exact ⟨rfl, rfl⟩
    have herased : stores (alarmErased s src) = stores s ∧ tampered (alarmErased s src) = tampered s ∨
        tampered s = false ∧ tampered (alarmErased s src) = true := by
      rw [← hmarked.1, ← hmarked.2]
      unfold alarmErased
      split
      · exact startErase_stores ..
      · exact .inl ⟨rfl, rfl⟩
    have hs : stores (alarmReport s src) = stores (alarmErased s src) := by
      rw [(alarmReport_state hv hn).1]
      change stores (alarmLogged s src) = _
      rw [alarmLogged, onlyLogged_alarmRecord]
      rfl
    have ht : tampered (alarmReport s src) = tampered (alarmErased s src) := by
      rw [(alarmReport_state hv hn).1]
      exact alarmRecord_tampered ..
    rwa [hs, ht]

/-! ## TEMP and OVERVOLT (R343) -/

theorem alarmEnd_active (s : State) (k : Nat) {n : Nat} (hn : n < 12) :
    (alarmEnd s k).bn.active.getLsbD n = (s.bn.active.getLsbD n && n != k) := by
  have hbit : (BitVec.ofNat 12 (2 ^ k)).getLsbD n = decide (n = k) := by
    rw [getLsbD_twoPow hn]
    simp [eq_comm]
  change (s.bn.active &&& ~~~BitVec.ofNat 12 (2 ^ k)).getLsbD n = _
  rw [BitVec.getLsbD_and, BitVec.getLsbD_not, hbit]
  by_cases h : n = k <;> simp [h, hn]

/-- The active sources where one of them may end. -/
theorem alarmEnd_if {c : Prop} [Decidable c] (s : State) (k : Nat) {n : Nat} (hn : n < 12) :
    (if c then alarmEnd s k else s).bn.active.getLsbD n = (s.bn.active.getLsbD n && !(decide c && n == k)) := by
  split
  · next h =>
    rw [alarmEnd_active _ _ hn, decide_eq_true h, Bool.true_and]
    rfl
  · next h => simp [h]

theorem srcIf_getLsbD (b : Bool) (k : Nat) {n : Nat} (hn : n < 12) : (srcIf b k).getLsbD n = (b && n == k) := by
  unfold srcIf
  split
  · next h =>
    rw [getLsbD_twoPow hn, h]
    simp [eq_comm, Bool.beq_eq_decide_eq]
  · next h => simp [h]

/-- Before its report a sample has changed the counters of OVERVOLT, and what has ended. -/
theorem sensorEnded_state (s : State) (v d : Nat) (hot cold : BitVec 8) : let t := sensorEnded s v d hot cold
    t = { s with
      clk := t.clk
      bn := { s.bn with
        active := t.bn.active, holdSrc := t.bn.holdSrc, holdFrom := t.bn.holdFrom, overVsb := t.bn.overVsb
        overVdd := t.bn.overVdd, overEnd := t.bn.overEnd } } := by
  simp only [sensorEnded]
  (repeat' split) <;> rfl

/-- TEMP ends with a good sample of its turn, OVERVOLT with the 32nd low one. -/
theorem sensorEnded_active (s : State) (v d : Nat) (hot cold : BitVec 8) : let t := sensorEnded s v d hot cold
    t.bn.active.getLsbD 2 = (s.bn.active.getLsbD 2 &&
      !((s.bn.btime % 32 == 0) && decide (hot.toInt ≤ 115 ∧ -45 ≤ cold.toInt))) ∧
    t.bn.active.getLsbD 7 = (s.bn.active.getLsbD 7 &&
      !decide (32 ≤ if v < 20000 ∧ d < 850 then s.bn.overEnd + 1 else 0)) := by
  simp only [sensorEnded, alarmEnd_if _ 7 (n := 2) (by decide), alarmEnd_if _ 2 (n := 2) (by decide),
    alarmEnd_if _ 7 (n := 7) (by decide), alarmEnd_if _ 2 (n := 7) (by decide), Bool.decide_and]
  generalize decide (32 ≤ if v < 20000 ∧ d < 850 then s.bn.overEnd + 1 else 0) = low
  generalize (s.bn.btime % 32 == 0) = turn
  generalize decide (hot.toInt ≤ 115) = warm
  generalize decide (-45 ≤ cold.toInt) = mild
  generalize s.bn.active.getLsbD 2 = temp
  generalize s.bn.active.getLsbD 7 = overvolt
  revert low turn warm mild temp overvolt
  decide

/-! ## The reset levels (R339) -/

/-- A sample behind its report: below a reset level the core is held. -/
def levelsJudged (s : State) : State :=
  if 2 ≤ s.bn.vsbLow then vsbReset s else if 2 ≤ s.bn.vddLow ∧ vddUp s = true then vddReset s else s

/-- What of a sample a reset of its supply leaves. -/
def resetView (s : State) :=
  (s.bn.btime, s.bn.vsb, s.bn.vdd, s.bn.hot, s.bn.cold, s.bn.vsbWarn, s.bn.vddWarn, s.bn.nostart, s.bn.vsbLow, s.bn.vddLow,
    s.fuses, s.bn.active, s.bn.latch, stores s)

theorem OnlyLogged.resetView {s t : State} (h : OnlyLogged s t) : resetView t = resetView s := by rw [h]; rfl

theorem closeGroup_resetView (s : State) (reset vddReset : Bool) :
    resetView (closeGroup s reset vddReset) = resetView s ∧ tampered (closeGroup s reset vddReset) = tampered s := by
  unfold closeGroup
  split
  · exact ⟨rfl, rfl⟩
  · exact ⟨(onlyLogged_logReq ..).resetView, logReq_tampered ..⟩

theorem levelsJudged_view (s : State) :
    resetView (levelsJudged s) = resetView s ∧ tampered (levelsJudged s) = tampered s := by
  have hrecord : resetView (resetRecord s) = resetView s ∧ tampered (resetRecord s) = tampered s := by
    unfold resetRecord
    split
    · exact closeGroup_resetView ..
    · exact ⟨(onlyLogged_logReq ..).resetView, logReq_tampered ..⟩
  unfold levelsJudged
  split
  · exact hrecord
  · split
    · exact closeGroup_resetView s true true
    · exact ⟨rfl, rfl⟩

/-- The core is held, and no port has a credit (R389). -/
theorem getPort_holdCore (s : State) {n : Nat} (hn : n < 8) : getPort (holdCore s) n = .down := by
  change portsDown.get _ n = _
  have h : ∀ n < 8, portsDown.get .init n = .down := by decide
  exact h n hn

theorem exec_supplySample {s : State} (vsb vdd : BitVec 16) (hot cold : BitVec 8) (hv : s.bn.vsbRst = false) :
    exec (.supplySample vsb vdd hot cold) s = .next (levelsJudged
      (let t := supplySample s vsb.toNat vdd.toNat hot cold
       { t with bn := { t.bn with vddUp := t.bn.vddUp || (t.bn.vddRst && decide (670 ≤ vdd.toNat)) } })) :=
  congrArg Host.Outcome.next (if_neg (by simp [hv]))

/-! ## A sample and its report -/

/-- What a sample shows, whatever its report does. -/
theorem supplySample_view {s : State} (v d : Nat) (hot cold : BitVec 8) (hv : s.bn.vsbRst = false) :
    sampleView (supplySample s v d hot cold) = sampleView (sampleTaken s v d hot cold) := by
  obtain ⟨x, hx, heq⟩ := supplySample_eq s v d hot cold
  have hy := sensorEnded_state x v d hot cold
  have hview : sampleView (sensorEnded x v d hot cold) = sampleView (sampleTaken s v d hot cold) := by
    rw [hy, hx]; rfl
  have hrst : (sensorEnded x v d hot cold).bn.vsbRst = false := by rw [hy, hx]; exact hv
  rw [heq, alarmReport_sampleView _ hrst, hview]

/-- An erase that a sample starts leaves its mark; without one the stores stay. -/
theorem supplySample_stores {s : State} (v d : Nat) (hot cold : BitVec 8) (hv : s.bn.vsbRst = false)
    (h : tampered (supplySample s v d hot cold) = tampered s) : stores (supplySample s v d hot cold) = stores s := by
  obtain ⟨x, hx, heq⟩ := supplySample_eq s v d hot cold
  have hy := sensorEnded_state x v d hot cold
  have hrst : (sensorEnded x v d hot cold).bn.vsbRst = false := by rw [hy, hx]; exact hv
  have hbefore : stores (sensorEnded x v d hot cold) = stores s ∧ tampered (sensorEnded x v d hot cold) = tampered s := by
    rw [hy, hx]; exact ⟨rfl, rfl⟩
  rw [heq] at h ⊢
  obtain ⟨hs, -⟩ | ⟨hoff, hon⟩ := alarmReport_stores (sensorSrc x v d hot cold) hrst
  · exact hs.trans hbefore.1
  · rw [hon, ← hbefore.2, hoff] at h
    cases h

/-- In the next Binnacle cycle the condition of level source k may have ended; where it holds and the source has not been
reported in that cycle, it starts. -/
structure Marked (s t : State) (k : Nat) (holds ends : Bool) : Prop where
  active : t.bn.active.getLsbD k = (s.bn.active.getLsbD k && !ends || holds && !(s.bn.active.getLsbD k && !ends) &&
    !(decide (s.bn.alarmAt = some (s.bn.btime + 1)) && s.bn.alarmSrc.getLsbD k))
  latch : t.bn.latch.getLsbD k = (s.bn.latch.getLsbD k || holds && !(s.bn.active.getLsbD k && !ends) &&
    !(decide (s.bn.alarmAt = some (s.bn.btime + 1)) && s.bn.alarmSrc.getLsbD k))

namespace Marked
variable {s t : State} {k : Nat} {holds ends : Bool}

theorem starts (h : Marked s t k holds ends) (hh : holds = true) (ha : s.bn.active.getLsbD k = false)
    (hat : s.bn.alarmAt ≠ some (s.bn.btime + 1)) : t.bn.latch.getLsbD k = true ∧ t.bn.active.getLsbD k = true := by
  rw [h.latch, h.active, hh, ha, decide_eq_false hat]
  simp

theorem stops (h : Marked s t k holds ends) (hh : holds = false) (he : ends = true) : t.bn.active.getLsbD k = false := by
  rw [h.active, hh, he]
  simp

end Marked

/-- TEMP is judged in its turn, OVERVOLT by the counters of its samples (R343). -/
theorem supplySample_marks {s : State} (v d : Nat) (hot cold : BitVec 8) (hv : s.bn.vsbRst = false) :
    let t := supplySample s v d hot cold
    let turn := (s.bn.btime + 1) % 32 == 0
    Marked s t 2 (turn && decide (120 < hot.toInt ∨ cold.toInt < -50))
      (turn && decide (hot.toInt ≤ 115 ∧ -45 ≤ cold.toInt)) ∧
    Marked s t 7 (decide (32 ≤ (if 20000 < v then s.bn.overVsb + 1 else 0) ∨ 4 ≤ (if 850 < d then s.bn.overVdd + 1 else 0)))
      (decide (32 ≤ if v < 20000 ∧ d < 850 then s.bn.overEnd + 1 else 0)) := by
  obtain ⟨x, hx, heq⟩ := supplySample_eq s v d hot cold
  have hxbn : x.bn.btime = s.bn.btime + 1 ∧ x.bn.active = s.bn.active ∧ x.bn.overVsb = s.bn.overVsb ∧
      x.bn.overVdd = s.bn.overVdd ∧ x.bn.overEnd = s.bn.overEnd := by
    rw [hx]; exact ⟨rfl, rfl, rfl, rfl, rfl⟩
  obtain ⟨htime, hxact, hov, hod, hoe⟩ := hxbn
  have hy := sensorEnded_state x v d hot cold
  obtain ⟨h2, h7⟩ := sensorEnded_active x v d hot cold
  rw [hxact, htime] at h2
  rw [hxact, hoe] at h7
  have hsrc (n : Nat) (hn : n < 12) : (sensorSrc x v d hot cold).getLsbD n =
      ((((s.bn.btime + 1) % 32 == 0) && decide (120 < hot.toInt ∨ cold.toInt < -50)) && n == 2 ||
        decide (32 ≤ (if 20000 < v then s.bn.overVsb + 1 else 0) ∨ 4 ≤ (if 850 < d then s.bn.overVdd + 1 else 0)) && n == 7) := by
    rw [sensorSrc, BitVec.getLsbD_or, srcIf_getLsbD _ _ hn, srcIf_getLsbD _ _ hn, htime, hov, hod]
  generalize sensorEnded x v d hot cold = y at hy h2 h7 heq
  have hybn : y.bn.vsbRst = false ∧ y.bn.alarmAt = s.bn.alarmAt ∧ y.bn.alarmSrc = s.bn.alarmSrc ∧
      y.bn.latch = s.bn.latch ∧ y.bn.btime = s.bn.btime + 1 := by
    rw [hy, hx]; exact ⟨hv, rfl, rfl, rfl, rfl⟩
  obtain ⟨hrst, hat, has, hlatch, hytime⟩ := hybn
  obtain ⟨hact, hlat⟩ := alarmReport_marks (sensorSrc x v d hot cold) hrst
  have hlevel : levelMask.getLsbD 2 = true ∧ levelMask.getLsbD 7 = true := ⟨rfl, rfl⟩
  have hn2 : 2 < 12 := by decide
  have hn7 : 7 < 12 := by decide
  dsimp only
  rw [heq]
  refine ⟨⟨?_, ?_⟩, ⟨?_, ?_⟩⟩
  · rw [hact, BitVec.getLsbD_or, BitVec.getLsbD_and, newSources_getLsbD _ _ hn2, h2, hsrc 2 hn2, hlevel.1, hat, has, hytime]
    simp
  · rw [hlat, BitVec.getLsbD_or, newSources_getLsbD _ _ hn2, h2, hsrc 2 hn2, hlevel.1, hat, has, hytime, hlatch]
    simp
  · rw [hact, BitVec.getLsbD_or, BitVec.getLsbD_and, newSources_getLsbD _ _ hn7, h7, hsrc 7 hn7, hlevel.2, hat, has, hytime]
    simp
  · rw [hlat, BitVec.getLsbD_or, newSources_getLsbD _ _ hn7, h7, hsrc 7 hn7, hlevel.2, hat, has, hytime, hlatch]
    simp

/-! ## The obligation -/

theorem levelsJudged_vsb {s : State} (h : 2 ≤ s.bn.vsbLow) : let t := levelsJudged s
    t.bn.vsbRst = true ∧ t.bn.vsbUp = false ∧ t.pw.coreHeld = true ∧ ∀ n, n < 8 → getPort t n = .down := by
  have ht : levelsJudged s = vsbReset s := if_pos h
  dsimp only
  rw [ht]
  exact ⟨rfl, rfl, rfl, fun n => getPort_holdCore _⟩

theorem levelsJudged_vdd {s : State} (h1 : s.bn.vsbLow < 2) (h2 : 2 ≤ s.bn.vddLow) (hup : vddUp s = true) :
    let t := levelsJudged s
    t.bn.vddUp = false ∧ t.bn.vddRst = true ∧ t.pw.coreHeld = true ∧ ∀ n, n < 8 → getPort t n = .down := by
  have ht : levelsJudged s = vddReset s := by
    rw [levelsJudged, if_neg (Nat.not_le.mpr h1), if_pos ⟨h2, hup⟩]
  dsimp only
  rw [ht]
  exact ⟨rfl, rfl, rfl, fun n => getPort_holdCore _⟩

theorem levelsJudged_none {s : State} (h1 : s.bn.vsbLow < 2) (h2 : s.bn.vddLow < 2) : levelsJudged s = s := by
  rw [levelsJudged, if_neg (Nat.not_le.mpr h1), if_neg fun h => Nat.not_le.mpr h2 h.1]

/-- Settles O56: a sample by `supplySample_view`, `supplySample_marks` and `supplySample_stores`, its reset levels by
`levelsJudged_vsb` and `levelsJudged_vdd`; the ends of a hold and of a group by their lemmas. -/
theorem supplyMonitor : Obligations.SupplyMonitor := by
  unfold Obligations.SupplyMonitor
  refine ⟨fun s vsb vdd hot cold hv => congrArg Host.Outcome.next (if_pos hv), fun s vsb vdd hot cold hv => ?_,
    fun s hn hv hd => ⟨nostartHoldEnd_ends hn hv hd, fun h => congrArg Host.Outcome.next (if_neg ?_)⟩,
    fun s g hg hv hd h => supplyGroupClose_closes hg hv hd h⟩
  · have hview := supplySample_view vsb.toNat vdd.toNat hot cold hv
    have hstores := supplySample_stores vsb.toNat vdd.toNat hot cold hv
    obtain ⟨htemp, hover⟩ := supplySample_marks vsb.toNat vdd.toNat hot cold hv
    have hexec := exec_supplySample vsb vdd hot cold hv
    generalize supplySample s vsb.toNat vdd.toNat hot cold = r at hview hstores htemp hover hexec
    generalize hz : { r with bn := { r.bn with vddUp := r.bn.vddUp || (r.bn.vddRst && decide (670 ≤ vdd.toNat)) } } = z at hexec
    simp only [sampleView, sampleTaken, Prod.mk.injEq] at hview
    obtain ⟨hbtime, hvsb, hvdd, hhot, hcold, hw1, hw2, hns, hl1, hl2, hup, hr1, hr2, hpw, hfuses⟩ := hview
    have hzbn : z.bn = { r.bn with vddUp := r.bn.vddUp || (r.bn.vddRst && decide (670 ≤ vdd.toNat)) } ∧ z.pw = r.pw := by
      rw [← hz]; exact ⟨rfl, rfl⟩
    obtain ⟨hzb, hzpw⟩ := hzbn
    have hzview : resetView z = resetView r ∧ tampered z = tampered r := by rw [← hz]; exact ⟨rfl, rfl⟩
    obtain ⟨hrview, htampered⟩ := levelsJudged_view z
    rw [hzview.1] at hrview
    rw [hzview.2] at htampered
    have hzl1 : z.bn.vsbLow = r.bn.vsbLow := by rw [hzb]
    have hzl2 : z.bn.vddLow = r.bn.vddLow := by rw [hzb]
    have hvsbReset := levelsJudged_vsb (s := z)
    have hvddReset := levelsJudged_vdd (s := z)
    have hnone := levelsJudged_none (s := z)
    rw [hzl1] at hvsbReset hvddReset hnone
    rw [hzl2] at hvddReset hnone
    refine ⟨_, hexec, ?_⟩
    generalize levelsJudged z = t at hrview htampered hvsbReset hvddReset hnone
    simp only [resetView, Prod.mk.injEq] at hrview
    obtain ⟨kbtime, kvsb, kvdd, khot, kcold, kw1, kw2, kns, kl1, kl2, kfuses, kact, klatch, kstores⟩ := hrview
    rw [kbtime, hbtime, kl1, kl2, kw1, kw2, kact, klatch]
    refine ⟨rfl, kvsb.trans hvsb, kvdd.trans hvdd, khot.trans hhot, kcold.trans hcold, hw1, hw2, ?_, hl1, hl2, hvsbReset,
      fun h1 h2 => ?_, fun h1 h2 h => hvddReset h1 h2 ?_, fun h1 h2 => ?_, fun h => ?_, kfuses.trans hfuses,
      fun hturn hbad ha hat => htemp.starts ?_ ha hat, fun hturn hhot hcold => ?_, fun h ha hat => hover.starts ?_ ha hat,
      fun h1 h2 h3 => ?_⟩
    · rw [kns, hns, hw1, hw2]
    · rw [hnone h1 h2, hzb, hup, hr2]
      exact ⟨rfl, rfl⟩
    · rw [vddUp, hzb, hr2, hup]
      rcases h with h | h <;> simp [h]
    · rw [hnone h1 h2, hzpw, hpw, hzb]
      exact ⟨rfl, hr1.trans hv⟩
    · have hsame : tampered r = tampered s := by rw [← htampered, tampered, h]; rfl
      have hall := kstores.trans (hstores hsame)
      simp only [stores, Prod.mk.injEq] at hall
      exact hall
    · rw [hturn, decide_eq_true hbad]; rfl
    · refine htemp.stops ?_ ?_
      · rw [decide_eq_false (by omega), Bool.and_false]
      · rw [hturn, decide_eq_true ⟨hhot, hcold⟩]; rfl
    · refine decide_eq_true ?_
      rcases h with ⟨h, h'⟩ | ⟨h, h'⟩
      · rw [if_pos h]; omega
      · rw [if_pos h]; omega
    · refine hover.stops (decide_eq_false ?_) (decide_eq_true ?_)
      · rw [if_neg (by omega), if_neg (by omega)]; decide
      · rw [if_pos ⟨h1, h2⟩]; omega
  · simp [Nat.not_le.mpr h]

end Sys2Proof.Machine

/-! # The root PLL and the start-up sequencer (R369, R379 to R381) -/

namespace Sys2Proof.Machine

/-! ## PLL_LOCK, PLL_LOCK_LOST and PLL_LOCK_RETRY -/

theorem pllLock_locks {s : State} (khz : BitVec 18) (time : BitVec 16) (hl : s.clk.lock = false) (hc : s.pw.coreHeld = false)
    (hs : s.scanMode = false) (h2 : s.pw.mode ≠ .a2) (h3 : s.pw.mode ≠ .a3) : ∃ t, exec (.pllLock khz time) s = .next t ∧
      t = { s with clk := t.clk, pw := t.pw, bn := { s.bn with since := s.bn.since.set 3 s.bn.btime } } ∧ t.clk = { s.clk with
        lock := true, bypass := false, refOk := true, refGone := false, refKhz := khz, lockTime := time } ∧
      t.pw.pswAck = .allOnes 23 ∧
      t.pw.step = (if s.pw.step = 1 ∧ s.pw.mode = .run then 2 else s.pw.step) ∧ t.pw.mode = s.pw.mode := by
  refine ⟨_, congrArg Host.Outcome.next (if_neg (by simp [hl, hc, hs, h2, h3])), ?_⟩
  dsimp only
  split <;> exact ⟨rfl, rfl, rfl, rfl, rfl⟩

/-- A report without CLK_REF leaves the clock registers. -/
theorem alarmReport_clk {s : State} {src : BitVec 12} (h : src.getLsbD 4 = false) : (alarmReport s src).clk = s.clk := by
  by_cases hv : s.bn.vsbRst = true
  · exact congrArg State.clk (if_pos hv)
  · rw [Bool.not_eq_true] at hv
    by_cases hn : newSources s src = 0
    · rw [alarmReport_none hv hn]; rfl
    · have hnew : (newSources s src).getLsbD 4 = false := by
        rw [newSources_getLsbD _ _ (by decide), h, Bool.false_and, Bool.false_and]
      have hmarked : (alarmMarked s src).clk = s.clk := by
        obtain ⟨sd, hsd⟩ := soundAlarms_sd (alarmCounted s src) (newSources s src)
        simp only [alarmMarked, hsd, hnew, Bool.false_and, Bool.false_eq_true, if_false]
        rfl
      obtain ⟨t, e, hwork, he⟩ := alarmErased_state s src
      have hlog := onlyLogged_alarmRecord (alarmErased s src) (cycleSources s src) (strongest s (cycleSources s src))
      calc (alarmReport s src).clk
          = (alarmLogged s src).clk := by rw [(alarmReport_state hv hn).1]
        _ = (alarmErased s src).clk := by rw [alarmLogged, hlog]
        _ = t.clk := by rw [he]
        _ = (alarmMarked s src).clk := by rw [hwork]
        _ = s.clk := hmarked

theorem pllLockLost_reports {s : State} (hl : s.clk.lock = true) (ha : active s = true) :
    ∃ t, exec .pllLockLost s = .next t ∧
      t.clk.lock = false ∧ t.clk.bypass = true ∧ t.clk.lockLost = true ∧ t.clk.meridian = s.clk.meridian ∧
      (s.bn.vsbRst = false → s.bn.active.getLsbD 3 = false →
        s.bn.alarmAt ≠ some s.bn.btime ∨ s.bn.alarmSrc.getLsbD 3 = false → t.bn.latch.getLsbD 3 = true) := by
  have hx : exec .pllLockLost s = .next (alarmReport { s with clk := { s.clk with
      lock := false, bypass := true, lockLost := true } } 0x008) := congrArg Host.Outcome.next (if_pos (by simp [hl, ha]))
  refine ⟨_, hx, ?_⟩
  have hnoRef : (0x008 : BitVec 12).getLsbD 4 = false := rfl
  have hroot : (0x008 : BitVec 12).getLsbD 3 = true := rfl
  rw [alarmReport_clk hnoRef]
  refine ⟨rfl, rfl, rfl, rfl, fun hv hact hfresh => ?_⟩
  generalize hy : { s with clk := { s.clk with lock := false, bypass := true, lockLost := true } } = y
  have hybn : y.bn = s.bn := by rw [← hy]
  have hdone : (decide (y.bn.alarmAt = some y.bn.btime) && y.bn.alarmSrc.getLsbD 3) = false := by
    rw [hybn]
    rcases hfresh with h | h
    · rw [decide_eq_false h, Bool.false_and]
    · rw [h, Bool.and_false]
  rw [(alarmReport_marks _ (hybn ▸ hv)).2, BitVec.getLsbD_or, newSources_getLsbD _ _ (by decide), hroot, hdone, hybn, hact]
  simp

theorem onlyLogged_startRecord (s : State) (step error : Nat) : OnlyLogged s (startRecord s step error) := onlyLogged_logReq ..

theorem startRecord_length {s : State} (step error : Nat) (h : s.lb.queue.length < 32) :
    (startRecord s step error).lb.queue.length = s.lb.queue.length + 1 := logReq_exempt_length h ..

theorem pllLockRetry_shows {s : State} (noRef : Bool) (h1 : s.pw.step = 1) (hl : s.clk.lock = false) (ha : active s = true) :
    ∃ t, exec (.pllLockRetry noRef) s = .next t ∧
      t = { s with
        clk := t.clk, pw := t.pw, lb := t.lb, nv := t.nv, lane0 := t.lane0, lane1 := t.lane1
        bn := { s.bn with erase := t.bn.erase } } ∧
      t.clk = { s.clk with refOk := !noRef, refGone := noRef } ∧ t.pw.error = (if noRef then 0x101 else 0x102) ∧ t.pw.step = 1 ∧
      (s.lb.queue.length < 32 →
        t.lb.queue.length = s.lb.queue.length + if s.pw.error = 0x101 ∨ s.pw.error = 0x102 then 0 else 1) := by
  have hx : exec (.pllLockRetry noRef) s = .next (
      let code := if noRef then 0x101 else 0x102
      let t := { s with
        clk := { s.clk with refOk := !noRef, refGone := noRef }
        pw := { s.pw with error := code, micros := s.pw.micros + 50 } }
      if s.pw.error = 0x101 ∨ s.pw.error = 0x102 then t else startRecord t 1 code) :=
    congrArg Host.Outcome.next (if_pos (by simp [h1, hl, ha]))
  refine ⟨_, hx, ?_⟩
  dsimp only
  split
  · exact ⟨rfl, rfl, rfl, h1, fun _ => rfl⟩
  · generalize hy : { s with clk := _, pw := _ } = y
    have hlog := onlyLogged_startRecord y 1 (if noRef = true then 0x101 else 0x102)
    have hlen := startRecord_length (s := y) 1 (if noRef = true then 0x101 else 0x102)
    generalize startRecord y 1 (if noRef = true then 0x101 else 0x102) = z at hlog hlen
    have hclk : z.clk = y.clk := by rw [hlog]
    have hpw : z.pw = y.pw := by rw [hlog]
    rw [hclk, hpw]
    refine ⟨Eq.trans hlog ?_, ?_, ?_, ?_, ?_⟩
    · rw [← hy]
    · rw [← hy]
    · rw [← hy]
    · rw [← hy]; exact h1
    · rw [← hy] at hlen
      exact hlen

/-! ## STARTUP_STEP_END (R379, R380) -/

/-- The state with the time of a start-up step added. -/
def stepTimed (s : State) (env : StepEnv) : State := { s with pw := { s.pw with micros := s.pw.micros + env.micros.toNat } }

theorem exec_startupStepEnd {s : State} (env : StepEnv) (hup : engineUp s = true) (hm : s.pw.mode = .run) :
    exec (.startupStepEnd env) s = .next (match s.pw.step with
      | 2 => endSelfTest (stepTimed s env) env
      | 3 => endFuseRead (stepTimed s env)
      | 4 => endKeys (stepTimed s env)
      | 6 => endActivate (stepTimed s env) env
      | _ => s) := congrArg Host.Outcome.next (if_neg (by simp [hup, hm]))

/-- A failed start-up shows its code, and discards a held CH_CMD (R380). -/
theorem startFail_state (s : State) (code : Nat) : let t := startFail s code
    t.pw.step = 15 ∧ t.ch.held = none ∧ t.pw.error = code := ⟨rfl, rfl, rfl⟩

theorem endSelfTest_passes {s : State} {env : StepEnv} (h1 : env.drbgFail = false) (h2 : env.entropyFail = false)
    (h3 : env.verifierFail = false) (h4 : env.deriveFail = false) : let t := endSelfTest s env
    t.pw.step = 3 ∧ t.kv.startupDone = true ∧ t.pw.katDone = true := by
  simp only [endSelfTest, h1, h2, h3, h4, Bool.false_eq_true, if_false, and_self]

/-- The first test that failed decides the code (log entry 36). -/
theorem endSelfTest_fails {s : State} {env : StepEnv}
    (h : env.drbgFail = true ∨ env.entropyFail = true ∨ env.verifierFail = true ∨ env.deriveFail = true) : let t := endSelfTest s env
    t.pw.step = 15 ∧ t.ch.held = none ∧ t.pw.error = (if env.drbgFail then 0x0202 else if env.entropyFail then 0x0203
      else if env.verifierFail then 0x0204 else 0x0205) := by
  simp only [endSelfTest]
  generalize (if env.entropyFail = true then healthFail _ else _ : State) = x
  split
  · exact startFail_state ..
  · next h1 =>
    split
    · exact startFail_state ..
    · next h2 =>
      split
      · exact startFail_state ..
      · next h3 =>
        rw [if_pos (((h.resolve_left h1).resolve_left h2).resolve_left h3)]
        exact startFail_state ..

/-- The fuse read ends in a state that needs no resumption and no burn (R333). -/
theorem endFuseRead_settles {s : State} {n : Nat} (ho : s.lc.ops = []) (hd : decodeFuses s = .state n) (h5 : n ≠ 5) (h6 : n ≠ 6) :
    let t := endFuseRead s
    t.pw.step = 4 ∧ t.lc.state = n ∧ t.bn.lcKnown = some n ∧ t.fuses = s.fuses := by
  have hread : fuseRead s = (lcSettle s n, true) := by
    unfold fuseRead
    simp [ho, hd, toBurn, h5, h6]
  have hsettle : (lcSettle s n).lc.state = n ∧ (lcSettle s n).bn.lcKnown = some n ∧ (lcSettle s n).fuses = s.fuses := by
    have hpass {c : Prop} [Decidable c] (y : State) (hy : y.lc.state = n ∧ y.fuses = s.fuses) :
        let t := lcPass (if c then lcDecodeLog y n else y) n
        t.lc.state = n ∧ t.bn.lcKnown = some n ∧ t.fuses = s.fuses := by
      split
      · have hlog : OnlyLogged y (lcDecodeLog y n) := onlyLogged_logReq ..
        refine ⟨(congrArg Lc.state hlog.lc).trans hy.1, rfl, Eq.trans ?_ hy.2⟩
        change (lcDecodeLog y n).fuses = y.fuses
        rw [hlog]
      · exact ⟨hy.1, rfl, hy.2⟩
    exact hpass { s with lc := { s.lc with state := n, target := _, stepNo := _ } } ⟨rfl, rfl⟩
  have hscrub (z : State) : (keyScrubs z).pw = z.pw ∧ (keyScrubs z).lc = z.lc ∧ (keyScrubs z).bn = z.bn ∧
      (keyScrubs z).fuses = z.fuses := by
    unfold keyScrubs
    split <;> exact ⟨rfl, rfl, rfl, rfl⟩
  unfold endFuseRead
  rw [hread]
  dsimp only
  rw [if_pos rfl, (hscrub _).1, (hscrub _).2.1, (hscrub _).2.2.1, (hscrub _).2.2.2]
  exact ⟨rfl, hsettle⟩

/-- An erase hold keeps step 4 waiting (R347). -/
theorem endKeys_waits {s : State} (h : eraseHold s = true) : endKeys s = { s with pw := { s.pw with error := 0x0402 } } := if_pos h

theorem endKeys_fails {s : State} (h : eraseHold s = false) (hf : s.kv.healthFail = true) : endKeys s = startFail s 0x0401 := by
  unfold endKeys
  rw [if_neg (by simp [h]), if_pos hf]

/-- From s to t at most the vault and the free values have changed. -/
def OnlyKv (s t : State) : Prop := t = { s with kv := t.kv, free := t.free }

namespace OnlyKv

theorem trans {s t u : State} (h : OnlyKv s t) (k : OnlyKv t u) : OnlyKv s u :=
  Eq.trans k (congrArg (fun x : State => { x with kv := u.kv, free := u.free }) h)

theorem drbgSeeds (s : State) (l : List Nat) : OnlyKv s (l.foldl (fun s k => drbgSeed s k) s) := by
  induction l generalizing s with
  | nil => rfl
  | cons k l ih => exact trans (t := drbgSeed s k) rfl (ih _)

theorem drbgDraw (s : State) (k n : Nat) : OnlyKv s (drbgDraw s k n).1 := by
  unfold OnlyKv
  rw [drbgDraw_state s k n]

theorem eraseAllEnds (s : State) (n : Nat) : OnlyKv s (eraseAllEnds s n) := by
  unfold Machine.eraseAllEnds
  split <;> rfl

end OnlyKv

theorem chRelease_none {s : State} (h : s.ch.held = none) : chRelease s = s := by
  unfold chRelease
  rw [h]

/-- Step 4 ends: the masking keys are drawn, the context store and the vault are READY, every waiting FLR is answered. -/
theorem endKeys_ready {s : State} (h : eraseHold s = false) (hf : s.kv.healthFail = false) (hh : s.ch.held = none) : let t := endKeys s
    t.pw.step = 5 ∧ t.kv.ready = true ∧ t.sc.ready = true ∧
      t.kv.kvlt.isSome = true ∧ t.kv.kopr.isSome = true ∧ t.sc.kctx.isSome = true ∧ t.fdn = s.fdn ++ s.flrPend ∧
      t.kv.erasing = false ∧ t.sc.erasing = false ∧ t.sc.scrubLeft = 0 ∧ t.flrPend = [] ∧ t.chart = s.chart := by
  unfold endKeys
  rw [if_neg (by simp [h]), if_neg (by simp [hf])]
  dsimp only
  generalize hx0 : (List.range 8).foldl (fun s k => drbgSeed s k) s = x0
  generalize hctx : drbgDraw x0 0 32 = kctx
  generalize hopr : drbgDraw kctx.1 0 16 = kopr
  generalize hvlt : drbgDraw kopr.1 0 32 = kvlt
  have hx : OnlyKv s (eraseAllEnds kvlt.1 0) := by
    rw [← hvlt, ← hopr, ← hctx, ← hx0]
    exact (OnlyKv.drbgSeeds ..).trans ((OnlyKv.drbgDraw ..).trans ((OnlyKv.drbgDraw ..).trans ((OnlyKv.drbgDraw ..).trans
      (OnlyKv.eraseAllEnds ..))))
  generalize eraseAllEnds kvlt.1 0 = x at hx
  have hheld : x.ch.held = none := by rw [hx]; exact hh
  have hflr : x.fdn ++ x.flrPend = s.fdn ++ s.flrPend := by rw [hx]
  have hchart : x.chart = s.chart := by rw [hx]
  rw [chRelease_none (by exact hheld)]
  exact ⟨rfl, rfl, rfl, rfl, rfl, rfl, hflr, rfl, rfl, rfl, rfl, hchart⟩

theorem getHelm_helmTested (bad : List Nat) (s : State) (k h : Nat) : getHelm (helmTested bad s k) h =
    if h = k then (if bad.contains k then { getHelm s k with kat := 1, st := 3, trap := 4 } else { getHelm s k with kat := 3 })
    else getHelm s h := by
  have hset (x : Helm) : getHelm (setHelm s k x) h = if h = k then x else getHelm s h := by
    by_cases hk : h = k
    · rw [if_pos hk, hk]; exact Tbl.get_set_same ..
    · rw [if_neg hk]; exact Tbl.get_set_ne _ _ _ _ _ hk
  unfold helmTested
  dsimp only
  split <;> exact hset _

/-- A Helm whose test failed is in HALT behind its test, and stays so through the others'. -/
theorem helmTested_failed {bad : List Nat} {h : Nat} (hb : h ∈ bad) (l : List Nat) (s : State)
    (hs : h ∈ l ∨ (getHelm s h).st = 3 ∧ (getHelm s h).trap = 4) :
    (getHelm (l.foldl (helmTested bad) s) h).st = 3 ∧ (getHelm (l.foldl (helmTested bad) s) h).trap = 4 := by
  induction l generalizing s with
  | nil => simpa using hs
  | cons k l ih =>
    refine ih _ ?_
    rw [getHelm_helmTested]
    by_cases hk : h = k
    · subst hk
      exact .inr (by rw [if_pos rfl, if_pos (by simpa using hb)]; exact ⟨rfl, rfl⟩)
    · rw [if_neg hk]
      exact hs.imp_left fun hm => (List.mem_cons.mp hm).resolve_left hk

theorem startReady_state (s : State) : let t := startReady s
    t.pw.step = 7 ∧ t.pw.ready = true ∧ t.pw.startLogged = true ∧ t.helms = s.helms := by
  have hplace (x : State) : (placeAtt x).pw = x.pw ∧ (placeAtt x).helms = x.helms := by
    unfold placeAtt
    split
    · exact ⟨rfl, rfl⟩
    · split <;> exact ⟨rfl, rfl⟩
  unfold startReady
  dsimp only
  rw [(hplace _).1, (hplace _).2]
  split
  · next h => exact ⟨rfl, rfl, h, rfl⟩
  · generalize hy : { s with pw := { s.pw with step := 7, ready := true } } = y
    have hlog := onlyLogged_startRecord y 7 s.pw.error
    have hpw : (startRecord y 7 s.pw.error).pw = y.pw ∧ (startRecord y 7 s.pw.error).helms = y.helms := by
      rw [hlog]; exact ⟨rfl, rfl⟩
    dsimp only
    rw [hpw.1, hpw.2, ← hy]
    exact ⟨rfl, rfl, rfl, rfl⟩

/-- Step 6 ends: READY, and the Helms whose tests failed are in HALT (R234, R253). -/
theorem endActivate_ready (s : State) (env : StepEnv) : let t := endActivate s env
    t.pw.step = 7 ∧ t.pw.ready = true ∧ t.pw.startLogged = true ∧
      ∀ h ∈ env.helmFail, (getHelm t h.toNat).st = 3 ∧ (getHelm t h.toNat).trap = 4 := by
  unfold endActivate
  dsimp only
  obtain ⟨hstep, hready, hlogged, hhelms⟩ := startReady_state _
  refine ⟨hstep, hready, hlogged, fun h hh => ?_⟩
  rw [getHelm, hhelms]
  dsimp only
  rw [foldl_keeps State.helms (fun s u => setUni s u { getUni s u with st := 4 }) (fun _ _ => rfl)]
  exact helmTested_failed (List.mem_map_of_mem hh) _ s (.inl (List.mem_range.mpr h.isLt))

/-- Settles O59: the PLL by `pllLock_locks`, `pllLockLost_reports` and `pllLockRetry_shows`, each step of the start-up by the
lemma about its end. -/
theorem clockAndStartup : Obligations.ClockAndStartup := by
  unfold Obligations.ClockAndStartup
  refine ⟨⟨fun s khz time => pllLock_locks khz time, fun s => pllLockLost_reports, fun s noRef => pllLockRetry_shows noRef⟩,
    fun s env hup hm => ?_⟩
  have hexec := exec_startupStepEnd env hup hm
  refine ⟨fun h h1 h2 h3 h4 => ?_, fun h hfail => ?_, fun n h ho hd h5 h6 => ?_, fun h hhold => ?_, fun h hhold hf => ?_,
    fun h hhold hf hh => ?_, fun h => ?_⟩
  all_goals
    rw [h] at hexec
    refine ⟨_, hexec, ?_⟩
  · exact endSelfTest_passes h1 h2 h3 h4
  · exact endSelfTest_fails hfail
  · exact endFuseRead_settles ho hd h5 h6
  · rw [endKeys_waits (by exact hhold)]
    exact ⟨h, rfl, rfl, rfl⟩
  · rw [endKeys_fails (by exact hhold) (by exact hf)]
    exact ⟨rfl, rfl⟩
  · exact endKeys_ready (s := stepTimed s env) hhold hf hh
  · exact endActivate_ready ..

end Sys2Proof.Machine

/-! # Power requests, A2 and A3, the power switches and the test modes (R325, R371 to R374, R399, R402, R403) -/

namespace Sys2Proof.Machine

/-! ## PW_REQ (R372) -/

section Request
variable {s : State} {a : Access}

theorem exec_pwReqA2 (h : granted s a true (mgmtAt a 0xA0108) = true) :
    exec (.pwReqA2 a) s = .next (acked (pwReq s true) a) := congrArg Host.Outcome.next (hostWrite_granted s a _ _ h)

theorem exec_pwReqA3 (h : granted s a true (mgmtAt a 0xA0108) = true) :
    exec (.pwReqA3 a) s = .next (acked (pwReq s false) a) := congrArg Host.Outcome.next (hostWrite_granted s a _ _ h)

/-- A refused request shows its reason. -/
theorem pwReq_refused {a2 : Bool} (hf : failedStart s = false) (hb : s.pw.reqBusy = false) (h : pwJudge s a2 ≠ 0) :
    pwReq s a2 = { s with pw := { s.pw with reqResult := pwJudge s a2 } } := by
  unfold pwReq
  rw [if_neg (by simp [hf, hb])]
  exact if_pos h

/-- The state in which the entry to A2 begins. -/
def a2Begun (s : State) : State := { s with pw := { s.pw with reqResult := 0, reqBusy := true, mode := .a2Entry } }

theorem pwReq_a2 (hf : failedStart s = false) (hb : s.pw.reqBusy = false) (h : pwJudge s true = 0) :
    pwReq s true = dropKept (a2Begun s) := by
  unfold pwReq
  rw [if_neg (by simp [hf, hb])]
  dsimp only
  rw [h, if_neg (by simp), if_pos rfl]
  rfl

theorem pwReq_a3 (hf : failedStart s = false) (hb : s.pw.reqBusy = false) (h : pwJudge s false = 0) :
    pwReq s false = { zeroize { s with pw := { s.pw with reqResult := 0 } } with
      pw := { s.pw with reqResult := 0, mode := .a3, pdA3Ready := true } } := by
  have hpw : (zeroize { s with pw := { s.pw with reqResult := 0 } }).pw = { s.pw with reqResult := 0 } := by
    rw [OnlyWork.zeroize]
  unfold pwReq
  rw [if_neg (by simp [hf, hb])]
  dsimp only
  rw [h, if_neg (by simp), if_neg (by simp), hpw]

end Request

/-- An accepted entry finds no segment that waits (R372). -/
theorem nextSeg_of_judged {s : State} (h : pwJudge s true = 0) (p : Nat) : nextSeg s p = none := by
  have hwork : hasWork s = false := by
    by_contra hw
    rw [Bool.not_eq_false] at hw
    revert h
    unfold pwJudge
    rw [hw]
    (repeat' split) <;> simp_all
  simp only [hasWork, Bool.or_eq_false_iff, List.any_eq_false, Bool.or_eq_true, beq_iff_eq, not_or, List.any_eq_true, not_exists,
    not_and] at hwork
  obtain ⟨⟨⟨hsegs, -⟩, -⟩, -⟩ := hwork
  refine List.foldlRecOn (motive := (· = none)) s.chains _ rfl fun best hb e he => ?_
  have hnone : e.2.segs.findIdx? (segWaits p) = none := by
    rw [List.findIdx?_eq_none_iff]
    intro g hg
    have := (hsegs e he g hg)
    simp_all [segWaits]
  rw [hnone]
  exact hb

/-- Keys that no segment will use leave the units, and are counted. -/
theorem dropKept_state (s : State) : let t := dropKept s
    t = { s with units := t.units, cnts := t.cnts } := by
  have hfold (l : List Nat) (x : State) : let t := l.foldl scrubUnit x
      t = { x with units := t.units, cnts := t.cnts } := by
    induction l generalizing x with
    | nil => rfl
    | cons u l ih => exact Eq.trans (ih (scrubUnit x u)) rfl
  exact hfold _ s

/-- An accepted entry scrubs the key of every unit that nobody uses (R119, R378). -/
theorem a2_keys {s : State} (h : pwJudge s true = 0) {u : Nat} (hj : (getUni s u).job = none) (hs : (getUni s u).sched = false)
    (hv : (getUni s u).vault = false) : (getUni (dropKept (a2Begun s)) u).key = none := by
  have hu : getUni (a2Begun s) u = getUni s u := rfl
  have hnext : sameNext (a2Begun s) u (keptFor (getUni (a2Begun s) u)) = false := by
    have hseg (p : Nat) : nextSeg (a2Begun s) p = none := nextSeg_of_judged h p
    unfold sameNext
    split
    · rw [hseg]; exact Bool.and_false _
    · exact Bool.and_false _
  unfold dropKept
  rw [getUni_foldl_scrubUnit]
  split
  · rfl
  · next hmem =>
    rw [hu]
    by_contra hkey
    have hin : u ∈ s.units.map (·.1) := by
      by_contra hnot
      exact hkey (by rw [getUni, Tbl.get_of_notMem hnot]; rfl)
    refine hmem (List.mem_filter.mpr ⟨hin, ?_⟩)
    rw [hnext, hu]
    simp [keepsTile, hj, hs, hv, Option.isSome_iff_ne_none.mpr hkey]

/-! ## A2 (R371, R373, R403) -/

theorem a2EntryComplete_enters {s : State} (hm : s.pw.mode = .a2Entry) (hq : portsQuiet s = true) (ha : active s = true) :
    exec .a2EntryComplete s = .next { s with
      clk := { Clk.reset with meridian := s.clk.meridian, slow := s.clk.slow, refGone := s.clk.refGone }
      pw := { s.pw with
        mode := (if s.pw.pdWake = true ∨ s.pw.flrWake ≠ [] then .a2Exit else .a2)
        reqBusy := false, pdA2Ready := true, pdWakeAck := false, a2At := s.bn.btime, pswAck := 0 } } := by
  refine congrArg Host.Outcome.next ((if_pos ⟨hm, hq, ha⟩).trans ?_)
  have hc : (s.pw.pdWake || !s.pw.flrWake.isEmpty) = true ↔ s.pw.pdWake = true ∨ s.pw.flrWake ≠ [] := by simp
  by_cases h : s.pw.pdWake = true ∨ s.pw.flrWake ≠ []
  · rw [if_pos (hc.mpr h), if_pos h]
    exact if_pos rfl
  · rw [if_neg (mt hc.mp h), if_neg h]

theorem pdWake_wakes (s : State) :
    (s.pw.mode = .a2 → exec .pdWake s = .next { s with pw := { s.pw with mode := .a2Exit, pdWake := true } }) ∧
    (s.pw.mode = .a2Entry → exec .pdWake s = .next { s with pw := { s.pw with pdWake := true } }) ∧
    (s.pw.mode ≠ .a2 → s.pw.mode ≠ .a2Entry → exec .pdWake s = .next s) := by
  refine ⟨fun h => congrArg Host.Outcome.next ((if_pos (.inl h)).trans (if_pos h)), fun h =>
    congrArg Host.Outcome.next ((if_pos (.inr h)).trans (if_neg ?_)), fun h h' =>
    congrArg Host.Outcome.next (if_neg (not_or.mpr ⟨h, h'⟩))⟩
  intro ha
  rw [h] at ha
  cases ha

/-- The exit from A2, before the FLR requests that waited are taken. -/
def a2Left (s : State) : State := let t := exitA2 s; { t with pw := { t.pw with flrWake := [] } }

theorem a2ExitComplete_leaves {s : State} (hm : s.pw.mode = .a2Exit) (hl : s.clk.lock = true) (hc : s.pw.coreHeld = false) :
    exec .a2ExitComplete s = .next (s.pw.flrWake.foldl flrBeat (a2Left s)) :=
  congrArg Host.Outcome.next (if_pos (by simp [hm, hl, hc]))

/-- Every DRBG reseeds or, in HEALTH_FAIL, gives no output (R203, R204). -/
theorem a2Left_drbg (s : State) : (s.kv.healthFail = true → ∀ d ∈ (a2Left s).kv.drbg, d.seeded = false) ∧
    (s.kv.healthFail = false → ∀ d ∈ (a2Left s).kv.drbg, d = ⟨true, 0, s.clk.meridian⟩) := by
  have hdrbg : (a2Left s).kv.drbg = s.kv.drbg.map (fun d =>
    if s.kv.healthFail then { d with seeded := false } else ⟨true, 0, s.clk.meridian⟩) := rfl
  rw [hdrbg]
  constructor
  · rintro h d hd
    rw [h] at hd
    obtain ⟨e, -, rfl⟩ := List.mem_map.mp hd
    rfl
  · rintro h d hd
    rw [h] at hd
    obtain ⟨e, -, rfl⟩ := List.mem_map.mp hd
    rfl

/-! ## The power switches (R403) -/

theorem powerSwitchLoss_holds {s : State} {g : BitVec 5} (hg : g.toNat < 23) (hm : s.pw.mode ≠ .a2)
    (hack : s.pw.pswAck.getLsbD g.toNat = true) : ∃ t, exec (.powerSwitchLoss g) s = .next t ∧ t = { s with
        pw := { s.pw with coreHeld := true, pswAck := t.pw.pswAck }
        ports := t.ports
        lane0 := .init, lane1 := .init, fdn := [], tpq := [], fpPerr := none, tp0 := [], tp1 := [], dbg := []
        dbgIn := ⟨[], false⟩ } ∧ (∀ n, n < 8 → getPort t n = .down) ∧
      ∀ n, n < 23 → t.pw.pswAck.getLsbD n = (s.pw.pswAck.getLsbD n && n != g.toNat) := by
  refine ⟨_, congrArg Host.Outcome.next (if_pos ⟨hg, hm, hack⟩), rfl, fun n => getPort_holdCore _, fun n hn => ?_⟩
  have hbit : (BitVec.ofNat 23 (2 ^ g.toNat)).getLsbD n = decide (n = g.toNat) := by
    rw [BitVec.getLsbD_ofNat, Nat.testBit_two_pow]
    simp [hn, eq_comm]
  change (s.pw.pswAck &&& ~~~BitVec.ofNat 23 (2 ^ g.toNat)).getLsbD n = _
  rw [BitVec.getLsbD_and, BitVec.getLsbD_not, hbit]
  by_cases h : n = g.toNat <;> simp [h, hn, hg]

/-! ## The test modes (R325, R399) -/

/-- What the test group starts first leaves no secret and no job. -/
theorem zeroOnly_wiped (s : State) : Wiped (zeroOnly s) ∧ (∀ u, (getUni (zeroOnly s) u).job = none) ∧
    (zeroOnly s).kv.ready = false ∧ (zeroOnly s).sc.ready = false ∧ (zeroOnly s).fuses = s.fuses ∧
    (zeroOnly s).scanMode = s.scanMode := by
  have hwork := (OnlyWork.dropJobs s).trans (OnlyWork.zeroize (dropJobs s))
  have hsc : (zeroize (dropJobs s)).sc.ready = (eraseCtx (dropJobs s)).sc.ready := by
    rw [zeroize_eq]
    exact strobed_keeps (fun t => t.sc.ready) (fun _ _ => rfl) _
  refine ⟨(wiped_zeroize (dropJobs s)).same, fun u => job_zeroize (job_dropJobs s u), rfl, hsc, ?_, ?_⟩
  · change (zeroize (dropJobs s)).fuses = s.fuses
    rw [hwork]
  · change (zeroize (dropJobs s)).scanMode = s.scanMode
    rw [hwork]

theorem testEnabled_field {s : State} (h : s.lc.state = 3 ∨ s.lc.state = 4) : testEnabled s = false := by
  rcases h with h | h <;> simp [testEnabled, h]

/-- Settles O60: the requests by `pwReq_refused`, `a2_keys` and `wiped_zeroize`, the modes by their guards, the test group by
`zeroOnly_wiped`. -/
theorem powerRule : Obligations.PowerRule := by
  unfold Obligations.PowerRule
  refine ⟨⟨fun s a hg hf hb => ⟨fun h => ?_, fun h => ⟨_, (exec_pwReqA2 hg).trans (by rw [pwReq_a2 hf hb h]), ?_, fun u => ?_,
      fun u hj hs hv => a2_keys h hj hs hv⟩, fun h => ?_, fun h => ?_⟩,
    fun s => a2EntryComplete_enters, fun s => pdWake_wakes s,
    fun s hm hl hc => ⟨_, a2Left s, a2ExitComplete_leaves hm hl hc, rfl, rfl, a2Left_drbg s⟩,
    fun s g => ⟨powerSwitchLoss_holds, fun h => congrArg Host.Outcome.next (if_neg ?_)⟩⟩,
    fun s ht hs => ⟨?_, ?_⟩, fun s h => ?_, fun s h => ?_⟩
  · rw [exec_pwReqA2 hg, pwReq_refused hf hb h]
  · exact dropKept_state (a2Begun s)
  · exact (getUni_dropKept (a2Begun s) u).imp id fun hk => ⟨keepsTile_unused hk.1, hk.2⟩
  · rw [exec_pwReqA3 hg, pwReq_refused hf hb h]
  · refine ⟨_, (exec_pwReqA3 hg).trans (by rw [pwReq_a3 hf hb h]), rfl, ?_⟩
    have hw := wiped_zeroize { s with pw := { s.pw with reqResult := 0 } }
    have hfuses : (zeroize { s with pw := { s.pw with reqResult := 0 } }).fuses = s.fuses := by rw [OnlyWork.zeroize]
    exact ⟨hw.slots, hw.kvlt, hw.std, hw.cmp, hfuses⟩
  · rintro ⟨h1, h2, h3⟩
    rcases h with h | h | h
    · omega
    · exact h2 h
    · rw [h] at h3; cases h3
  · obtain ⟨hw, hjobs, hkv, hsc, hfuses, -⟩ := zeroOnly_wiped s
    refine ⟨_, congrArg Host.Outcome.next (if_pos (by simp [ht, hs])), rfl, hw.slots, fun u => ⟨hw.keys u, hjobs u⟩, hw.std, hw.cmp,
      hw.kvlt, hkv, hsc, hfuses⟩
  · obtain ⟨hw, hjobs, hkv, hsc, hfuses, hscan⟩ := zeroOnly_wiped s
    exact ⟨_, congrArg Host.Outcome.next (if_pos (by simp [ht, hs])), hscan.trans hs, hw.slots, fun u => ⟨hw.keys u, hjobs u⟩, hw.std,
      hw.cmp, hw.kvlt, hkv, hsc, hfuses⟩
  · have ht := testEnabled_field h
    exact ⟨congrArg Host.Outcome.next (if_neg (by simp [ht])), congrArg Host.Outcome.next (if_neg (by simp [ht]))⟩
  · exact ⟨_, congrArg Host.Outcome.next (if_pos h), rfl, fun n => getPort_holdCore _⟩

end Sys2Proof.Machine

/-! # The function port, its lanes and the credits (R369, R383, R385, R386, R393 to R395) -/

namespace Sys2Proof.Machine

/-! ## PENDING_QUERY -/

theorem readPending_iff (s : State) (f : Nat) :
    readPending s f = true ↔ ∃ e ∈ s.ports, ∃ x ∈ e.2.out, x.write = false ∧ x.func = f := by
  simp [readPending]

/-! ## The lanes (R52, R393, R394) -/

theorem getLane_setLane (s : State) (odd : Bool) (l : Lane) : getLane (setLane s odd l) odd = l := by cases odd <;> rfl

theorem setLane_setLane (s : State) (odd : Bool) (l m : Lane) : setLane (setLane s odd l) odd m = setLane s odd m := by
  cases odd <;> rfl

theorem setLane_self (s : State) (odd : Bool) : setLane s odd (getLane s odd) = s := by cases odd <;> rfl

theorem laneUp_setLane (s : State) (odd : Bool) (l : Lane) : laneUp (setLane s odd l) = laneUp s := by cases odd <;> rfl

theorem controlCycle_setLane (s : State) (odd : Bool) (l : Lane) : controlCycle (setLane s odd l) = controlCycle s := by
  cases odd <;> rfl

/-- A lane in which a beat can leave now: it has a credit, its port runs, and none has left in this CCLK cycle. -/
def laneSends (s : State) (l : Lane) : Prop :=
  l.crd ≠ 0 ∧ laneUp s = true ∧ l.sent.head?.map (·.2) ≠ some (controlCycle s)

theorem flushLane_holds {s : State} {odd : Bool} (h : ¬ laneSends s (getLane s odd)) : flushLane s odd = s := by
  unfold flushLane
  dsimp only
  split
  · refine if_pos ?_
    by_contra hn
    simp only [not_or, Bool.not_eq_false] at hn
    exact h hn
  · rfl

theorem flushLane_empty {s : State} {odd : Bool} (h : (getLane s odd).waiting = []) : flushLane s odd = s := by
  unfold flushLane
  dsimp only
  rw [h]

theorem flushLane_sends {s : State} {odd : Bool} {x : Note} {r : List Note} (hw : (getLane s odd).waiting = x :: r)
    (h : laneSends s (getLane s odd)) : flushLane s odd =
      let t := setLane s odd { getLane s odd with
        crd := (getLane s odd).crd - 1, waiting := r, sent := (x, controlCycle s) :: (getLane s odd).sent.take 1 }
      if x.again then t else setNv t x.func x.vec { getNv t x.func x.vec with count := sat32 (getNv t x.func x.vec).count } := by
  obtain ⟨hc, hu, hs⟩ := h
  unfold flushLane
  dsimp only
  rw [hw]
  dsimp only
  rw [if_neg (by simp [hc, hu, hs])]

/-! ## FP_HOST_PERR (R394) -/

/-- The beat of the flagged cycle, where the lane sent one. -/
def flagged (s : State) (l : Lane) : Option (Note × Nat) := l.sent.find? (fun x => x.2 + 1 == controlCycle s)

/-- A lane behind FP_HOST_PERR: its beat of the flagged cycle is sent again with a credit of its own, or goes ahead of those that
wait. -/
def resentLane (s : State) (l : Lane) : Lane :=
  match flagged s l with
  | none => l
  | some x =>
    if l.crd = 0 ∨ l.sent.head?.map (·.2) = some (controlCycle s) then { l with waiting := { x.1 with again := true } :: l.waiting }
    else { l with crd := l.crd - 1, sent := ({ x.1 with again := true }, controlCycle s) :: l.sent.take 1 }

theorem resend_eq {s : State} (odd : Bool) (hu : laneUp s = true) : resend s odd = setLane s odd (resentLane s (getLane s odd)) := by
  unfold resend resentLane flagged
  dsimp only
  split
  · next x hx =>
    rw [hx]
    dsimp only
    generalize hy : setLane s odd { getLane s odd with waiting := { x.1 with again := true } :: (getLane s odd).waiting } = y
    have hl : getLane y odd = { getLane s odd with waiting := { x.1 with again := true } :: (getLane s odd).waiting } := by
      rw [← hy, getLane_setLane]
    have hcyc : controlCycle y = controlCycle s := by rw [← hy, controlCycle_setLane]
    have hup : laneUp y = true := by rw [← hy, laneUp_setLane, hu]
    split
    · next h =>
      rw [flushLane_holds, hy]
      rintro ⟨hc, -, hs⟩
      rw [hl] at hc hs
      rw [hcyc] at hs
      exact h.elim hc hs
    · next h =>
      rw [not_or] at h
      rw [flushLane_sends (congrArg Lane.waiting hl) ⟨by rw [hl]; exact h.1, hup, by rw [hl, hcyc]; exact h.2⟩, hl, hcyc]
      dsimp only
      rw [if_pos rfl, ← hy, setLane_setLane]
  · next hx =>
    rw [hx, setLane_self]

theorem fpHostPerr_resends {s : State} (hp : ported s = true) (hst : struck s = false) : ∃ t, exec .fpHostPerr s = .next t ∧
    t = { s with lane0 := t.lane0, lane1 := t.lane1 } ∧ ∀ odd, getLane t odd = resentLane s (getLane s odd) := by
  have hu : laneUp s = true := by simp [laneUp, hp, hst]
  have hx : exec .fpHostPerr s = .next (resend (resend s false) true) := congrArg Host.Outcome.next (if_pos hp)
  have h0 := resend_eq false hu
  generalize hy : resend s false = y at hx h0
  have huy : laneUp y = true := by rw [h0, laneUp_setLane, hu]
  refine ⟨_, hx, ?_⟩
  rw [resend_eq true huy, h0]
  exact ⟨rfl, fun odd => by cases odd <;> rfl⟩

/-! ## A credit of a lane (R393) -/

theorem exec_crdNotice {s : State} (odd : Bool) (hp : ported s = true) : exec (.crdPulse (.notice odd)) s =
    .next (flushLane (setLane s odd { getLane s odd with crd := min ((getLane s odd).crd + 1) 1024 }) odd) :=
  congrArg Host.Outcome.next (if_pos hp)

/-- The notice that waits longest leaves with the credit. -/
theorem crdNotice_sends {s : State} {odd : Bool} {x : Note} {r : List Note} (hp : ported s = true) (hst : struck s = false)
    (hc : (getLane s odd).crd = 0) (hw : (getLane s odd).waiting = x :: r)
    (hs : (getLane s odd).sent.head?.map (·.2) ≠ some (controlCycle s)) (hx : x.again = false) :
    exec (.crdPulse (.notice odd)) s = .next (setNv (setLane s odd { getLane s odd with
        crd := 0, waiting := r, sent := (x, controlCycle s) :: (getLane s odd).sent.take 1 }) x.func x.vec
        { getNv s x.func x.vec with count := sat32 (getNv s x.func x.vec).count }) := by
  rw [exec_crdNotice odd hp, hc]
  generalize hy : setLane s odd { getLane s odd with crd := min (0 + 1) 1024 } = y
  have hl : getLane y odd = { getLane s odd with crd := 1 } := by rw [← hy, getLane_setLane]; rfl
  have hcyc : controlCycle y = controlCycle s := by rw [← hy, controlCycle_setLane]
  have hup : laneUp y = true := by rw [← hy, laneUp_setLane]; simp [laneUp, hp, hst]
  rw [flushLane_sends ((congrArg Lane.waiting hl).trans hw) ⟨by rw [hl]; simp, hup, by rw [hl, hcyc]; exact hs⟩, hl, hcyc, ← hy]
  dsimp only
  rw [if_neg (by simp [hx]), setLane_setLane]
  cases odd <;> rfl

/-! ## What the host chip takes (R390, R393, R395; log entry 56) -/

/-- The ready inputs, and what waits at the outputs that they rule. -/
def hostView (s : State) := (s.ready, s.tpq, s.tp0, s.tp1, s.fdn, s.dbg)

theorem ite_hostView {c : Prop} [Decidable c] {a b s : State} (ha : hostView a = hostView s) (hb : hostView b = hostView s) :
    hostView (if c then a else b) = hostView s := by
  split
  · exact ha
  · exact hb

theorem OnlyRecords.hostView {s t : State} (h : OnlyRecords s t) : hostView t = hostView s := by rw [h]; rfl

theorem OnlyKv.hostView {s t : State} (h : OnlyKv s t) : hostView t = hostView s := by rw [h]; rfl

theorem OnlySc.hostView {s t : State} (h : OnlySc s t) : hostView t = hostView s := by rw [h]; rfl

theorem OnlyFuseOps.hostView {s t : State} (h : OnlyFuseOps s t) : hostView t = hostView s := by rw [h]; rfl

theorem onlyKv_putSlot (s : State) (i : Nat) (attr : Word) (key pubh : Bytes) : OnlyKv s (putSlot s i attr key pubh) := by
  have hfold (f : Nat → Slot) (g : Nat → Nat) (l : List Nat) (x : State) :
      OnlyKv x (l.foldl (fun s k => setSlot s (g k) (f k)) x) := by
    induction l generalizing x with
    | nil => rfl
    | cons k l ih => exact OnlyKv.trans (t := setSlot x (g k) (f k)) rfl (ih _)
  unfold putSlot
  split
  · rfl
  · dsimp only
    split
    · rfl
    · exact OnlyKv.trans (t := setSlot s i _) rfl (hfold _ _ _ _)

theorem onlyKv_ite {c : Prop} [Decidable c] {s a b : State} (ha : OnlyKv s a) (hb : OnlyKv s b) :
    OnlyKv s (if c then a else b) := by
  split
  · exact ha
  · exact hb

theorem onlyKv_kvGenerate (s : State) (c : KvCmd) : OnlyKv s (kvGenerate s c) := by
  have hresult (n : Nat) : OnlyKv s (kvResult s n) := rfl
  have hput (x : State) (a : Word) (k : Bytes) : OnlyKv x (kvResult (putSlot x c.idx a k []) 0) :=
    (onlyKv_putSlot ..).trans rfl
  have hdraw (a : Word) : OnlyKv s (kvDraw s c a) := onlyKv_ite (.drbgDraw ..) ((OnlyKv.drbgDraw s 0 c.klen).trans (hput _ _ _))
  unfold kvGenerate
  split
  · exact hresult _
  · exact onlyKv_ite (hresult _) (onlyKv_ite (hresult _) (hdraw _))

/-- The end of a control cycle: the outputs give what the host chip is ready for. -/
theorem controlEdge_hostView (s : State) : hostView (controlEdge s) = hostView (hostTakes s) := by
  have hsample (x : State) (p : Nat) : hostView (famineSample (iqSample x p) p) = hostView x := by
    change hostView (iqSample x p) = hostView x
    unfold iqSample iqMessage
    exact ite_hostView (onlyRecords_pfNotice ..).hostView rfl
  have hclock (x : State) (g : Nat) : hostView (famineClock x g) = hostView x := by rw [famineClock_eq]; rfl
  have hfuse (x : State) : hostView (fuseResume x) = hostView x := by
    unfold fuseResume
    split
    · exact (onlyFuseOps_fuseBegin x).hostView
    · rfl
  have hscrub (x : State) : hostView (keyScrubs x) = hostView x := ite_hostView rfl rfl
  have htakes {x y : State} (h : hostView x = hostView y) : hostView (hostTakes x) = hostView (hostTakes y) := by
    simp only [hostView, Prod.mk.injEq] at h
    obtain ⟨h0, h1, h2, h3, h4, h5⟩ := h
    simp only [hostView, hostTakes, h0, h1, h2, h3, h4, h5]
  have hredraw (x : State) : hostView (kvRedraw x) = hostView x := by
    unfold kvRedraw
    split
    · exact ite_hostView (onlyKv_kvGenerate ..).hostView rfl
    · rfl
  have hphase (x : State) : hostView (chartPhase x) = hostView x := ite_hostView rfl (ite_hostView rfl rfl)
  unfold controlEdge
  dsimp only
  generalize hx : (s.pools.map (·.1)).foldl (fun s p => famineSample (iqSample s p) p) s = x
  have h1 : hostView x = hostView s := hx ▸ foldl_keeps hostView (fun s p => famineSample (iqSample s p) p) hsample _ s
  generalize hz : List.foldl famineClock _ _ = z
  have h3 : hostView z = hostView s := hz ▸ (foldl_keeps hostView famineClock hclock _ _).trans h1
  have h4 : hostView (hostTakes (keyScrubs (fuseResume z))) = hostView (hostTakes s) :=
    htakes ((hscrub _).trans ((hfuse z).trans h3))
  rw [← h4]
  exact ite_hostView ((hphase _).trans ((hredraw _).trans (onlySc_scWaiting _).hostView)) rfl

theorem countCycle_hostView (s : State) : hostView (countCycle s) = hostView s :=
  foldl_keeps hostView (fun s u => count s u (fun c => { c with busy := (c.busy + 1) % 2 ^ 64 })) (fun _ _ => rfl) _ s

theorem step_hostView {s : State} (h : edgeQuiet s = true) : ∃ t, step s = .next t ∧ hostView t = hostView (hostTakes s) := by
  simp only [edgeQuiet, Bool.and_eq_true, List.isEmpty_iff, beq_iff_eq, List.all_eq_true] at h
  obtain ⟨⟨⟨⟨⟨⟨⟨hpend, hpow⟩, hlock⟩, hmod⟩, hrst⟩, hports⟩, h0⟩, h1⟩ := h
  have hcycle : rootCycle s = countCycle (controlEdge s) := by
    simp [rootCycle, hpow, hlock, leave_quiet hports h0 h1, hmod, cycleEdge, hrst]
  exact ⟨_, step_of_pending_nil hpend, by rw [hcycle, countCycle_hostView, controlEdge_hostView]⟩

/-! ## A credit of an initiator port (R383, R385, R386) -/

theorem getPort_setPort_ne (s : State) {m n : Nat} (p : Port) (h : m ≠ n) : getPort (setPort s n p) m = getPort s m :=
  Tbl.get_set_ne _ _ _ _ _ h

/-- No beat waits for a credit: nothing is sent. -/
theorem spendBeats_sent {l : List Txn} (h : ∀ x ∈ l, x.left = 0) (n : Nat) : spendBeats n l = (n, l) := by
  induction l generalizing n with
  | nil => rfl
  | cons x l ih =>
    have hx : x.left = 0 := h x (List.mem_cons_self ..)
    rw [spendBeats, hx]
    simp only [Nat.min_zero, Nat.sub_zero, ih fun y hy => h y (List.mem_cons_of_mem _ hy)]
    cases x
    subst hx
    rfl

theorem spendBeats_none (l : List Txn) : spendBeats 0 l = (0, l) := by
  induction l with
  | nil => rfl
  | cons x l ih =>
    rw [spendBeats]
    simp [ih]

theorem sendBeats_sent {p : Port} (h : ∀ x ∈ p.out, x.left = 0) : sendBeats p = p := by
  rw [sendBeats, spendBeats_sent h]

/-- One credit carries the beat that waits first. -/
theorem sendBeats_one {p : Port} {x : Txn} {r : List Txn} (hc : p.wdCrd = 1) (ho : p.out = x :: r) (hx : x.left ≠ 0) :
    sendBeats p = { p with wdCrd := 0, out := { x with left := x.left - 1 } :: r } := by
  have hmin : min 1 x.left = 1 := by omega
  rw [sendBeats, hc, ho, spendBeats, hmin, spendBeats_none]

theorem exec_crdReq {s : State} {n : BitVec 3} (h : running s = true) : exec (.crdPulse (.req n)) s = .next (pump (setPort s n.toNat
    (sendBeats { getPort s n.toNat with reqCrd := min ((getPort s n.toNat).reqCrd + 1) 1024 })) n.toNat) :=
  congrArg Host.Outcome.next (if_pos h)

theorem exec_crdWd {s : State} {n : BitVec 3} (h : running s = true) : exec (.crdPulse (.wd n)) s = .next (pump (setPort s n.toNat
    (sendBeats { getPort s n.toNat with wdCrd := min ((getPort s n.toNat).wdCrd + 1) 1024 })) n.toNat) :=
  congrArg Host.Outcome.next (if_pos h)

theorem pump_empty {s : State} {n : Nat} (h : (getPort s n).sendQ = []) : pump s n = s := by
  rw [pump, h]
  rfl

/-! ## What waits at a port without a credit (R302, R310) -/

/-- Without a request credit a transaction waits; the page that it dirties may be dealt with (R302). -/
theorem comesToIssue_noCredit {s : State} {n : Nat} (hc : (getPort s n).reqCrd = 0) (t : Txn) : ∃ F x,
    comesToIssue s n t = ({ s with fns := F }, .waits x) ∧ { x with paged := true } = { t with paged := true } := by
  have hcan (w : Bool) (a l : Nat) : portCan (getPort s n) w a l = false := by simp [portCan, hc]
  have hbefore (u : State) (hu : dlBefore s n t = some u) : ∃ F, u = { s with fns := F } := by
    unfold dlBefore dlPage at hu
    simp only [hcan, Bool.not_false, if_true] at hu
    split at hu
    · split at hu
      · cases hu; exact ⟨_, rfl⟩
      · split at hu
        · cases hu; exact ⟨_, rfl⟩
        · cases hu
    · cases hu; exact ⟨_, rfl⟩
  unfold comesToIssue
  split
  · exact ⟨s.fns, t, rfl, rfl⟩
  · split
    · exact ⟨s.fns, t, rfl, rfl⟩
    · next u hu =>
      obtain ⟨F, rfl⟩ := hbefore u hu
      have hport : getPort { s with fns := F } n = getPort s n := rfl
      refine ⟨F, { t with paged := true }, ?_, rfl⟩
      dsimp only
      rw [hport, hcan]
      rfl

theorem pumpN_waits {s t : State} {k n : Nat} {x y : Txn} {r : List Txn} (hq : (getPort s n).sendQ = x :: r)
    (hl : outputLost s x = none) (hc : comesToIssue (setPort s n { getPort s n with sendQ := r }) n x = (t, .waits y)) :
    pumpN (k + 1) s n = setPort t n { getPort t n with sendQ := y :: (getPort t n).sendQ } := by
  unfold pumpN
  simp only [hq, hl, hc]

theorem pumpN_issues {s t : State} {k n : Nat} {x : Txn} {r : List Txn} {v : Verdict} (hq : (getPort s n).sendQ = x :: r)
    (hl : outputLost s x = none) (hc : comesToIssue (setPort s n { getPort s n with sendQ := r }) n x = (t, .issued v)) :
    pumpN (k + 1) s n = pumpN k (reapOf (txnIssued t x v) x.who) n := by
  conv_lhs => unfold pumpN
  simp only [hq, hl, hc]

/-- Pumped without a request credit a port keeps what waits. -/
theorem pumpN_noCredit {s : State} {n : Nat} (k : Nat) (hc : (getPort s n).reqCrd = 0)
    (hl : ∀ y ∈ (getPort s n).sendQ, outputLost s y = none) : let t := pumpN k s n
    t = { s with ports := t.ports, fns := t.fns } ∧ (getPort t n).reqCrd = 0 ∧ (getPort t n).out = (getPort s n).out ∧
      (getPort t n).sendQ.map (fun y => { y with paged := true }) = (getPort s n).sendQ.map (fun y => { y with paged := true }) ∧
      ∀ m, m ≠ n → getPort t m = getPort s m := by
  cases k with
  | zero => exact ⟨rfl, hc, rfl, rfl, fun _ _ => rfl⟩
  | succ k =>
    cases hq : (getPort s n).sendQ with
    | nil =>
      have hsame : pumpN (k + 1) s n = s := by
        unfold pumpN
        simp only [hq]
      dsimp only
      rw [hsame]
      exact ⟨rfl, hc, rfl, by rw [hq], fun _ _ => rfl⟩
    | cons x r =>
      have hcrd : (getPort (setPort s n { getPort s n with sendQ := r }) n).reqCrd = 0 := by rw [getPort_setPort]; exact hc
      obtain ⟨F, y, hcomes, hpaged⟩ := comesToIssue_noCredit hcrd x
      have hport : getPort { setPort s n { getPort s n with sendQ := r } with fns := F } n = { getPort s n with sendQ := r } :=
        getPort_setPort ..
      rw [pumpN_waits hq (hl x (by rw [hq]; exact List.mem_cons_self ..)) hcomes, hport]
      simp only [getPort_setPort, List.map_cons, hpaged]
      exact ⟨rfl, hc, trivial, trivial, fun m hm => (getPort_setPort_ne _ _ hm).trans (getPort_setPort_ne _ _ hm)⟩

/-! ## A read that leaves with its credit (R310) -/

theorem Tbl.find_del {α : Type} (t : Tbl α) (k m : Nat) : (t.del k).find m = if m = k then none else t.find m := by
  induction t with
  | nil => simp [Tbl.del, Tbl.find]
  | cons e t ih =>
    obtain ⟨i, x⟩ := e
    unfold Tbl.del at ih ⊢
    by_cases hi : i = k
    · subst hi
      rw [List.filter_cons_of_neg (by simp), ih]
      by_cases hm : m = i
      · simp [hm]
      · simp [hm, Tbl.find, Ne.symm hm]
    · rw [List.filter_cons_of_pos (by simpa using hi)]
      by_cases hm : i = m
      · subst hm
        simp [Tbl.find, hi]
      · rw [Tbl.find, if_neg hm, Tbl.find, if_neg hm, ih]

/-- Of a chain that is forgotten nothing is left; every other stays. -/
theorem reapOf_chains (s : State) (o : Origin) : ∃ C, reapOf s o = { s with chains := C } ∧
    ∀ id, C.find id = none ∨ C.find id = s.chains.find id := by
  unfold reapOf reap
  split
  · next c _ =>
    split
    · exact ⟨s.chains, rfl, fun id => .inr rfl⟩
    · split
      · exact ⟨s.chains, rfl, fun id => .inr rfl⟩
      · refine ⟨s.chains.del c, rfl, fun id => ?_⟩
        rw [Tbl.find_del]
        split
        · exact .inl rfl
        · exact .inr rfl
  · exact ⟨s.chains, rfl, fun id => .inr rfl⟩

/-- An output that no target's loss stops is not stopped by a chain that is forgotten. -/
theorem outputLost_forgotten {s : State} (P : Tbl Port) {C : Tbl Chain} (hC : ∀ id, C.find id = none ∨ C.find id = s.chains.find id)
    {t : Txn} (h : outputLost s t = none) : outputLost { s with ports := P, chains := C } t = none := by
  have hopen : portsOpen { s with ports := P, chains := C } = portsOpen s := rfl
  have hlost (c : Chain) : lostTarget { s with ports := P, chains := C } c = lostTarget s c := rfl
  unfold outputLost at h ⊢
  split
  · next id idx _ =>
    rw [hopen]
    have hfind : findChain { s with ports := P, chains := C } id = none ∨
        findChain { s with ports := P, chains := C } id = findChain s id := hC id
    rcases hfind with hf | hf
    · rw [hf]
      split
      · rfl
      · rfl
    · rw [hf]
      simp only [hlost]
      simp_all
  · rfl

theorem txnIssued_input {s : State} {x : Txn} (h : ∀ c i, x.who ≠ .output c i) (v : Verdict) : txnIssued s x v = s := by
  unfold txnIssued
  split
  · next c i hx => exact absurd hx (h c i)
  all_goals rfl

/-- A read as it leaves under its verdict. -/
def readSent (s : State) (x : Txn) (g : Nat) : Txn :=
  { x with
    tag := g, pl := dmaPl s x.func, ca := (judgeOut s x.func false x.addr).ca, ord := (judgeOut s x.func false x.addr).ord
    at_ := s.clk.meridian, left := 0, paged := true }

/-- A read that leaves takes a tag and its credit. -/
theorem comesToIssue_read {s : State} {n : Nat} {p : Port} {x : Txn} {g : Nat} (hp : getPort s n = p) (hup : engineUp s = true)
    (hb : blockReq s = false) (hc : p.reqCrd = 1) (hg : freeTag p = some g) (hw : x.write = false)
    (hleft : ∀ y ∈ p.out, y.left = 0) (hroom : beatsOut p + beats x.addr x.len ≤ 1024)
    (hok : ∀ y ∈ pieces x.addr (x.len + x.rest), (judgeOut s x.func false y.2.1).ok = true) :
    comesToIssue s n x =
      (setPort s n { p with reqCrd := 0, out := p.out ++ [readSent s x g] }, .issued (judgeOut s x.func false x.addr)) := by
  have hcan : portCan p x.write x.addr x.len = true := by simp [portCan, hc, hg, hroom]
  have hsent : sendBeats { p with reqCrd := 0, out := p.out ++ [readSent s x g] } =
      { p with reqCrd := 0, out := p.out ++ [readSent s x g] } := by
    refine sendBeats_sent fun y hy => ?_
    rcases List.mem_append.mp hy with hy | hy
    · exact hleft y hy
    · rw [List.mem_singleton.mp hy]; rfl
  rw [comesToIssue_issued (by simp [portsOpen, hup, hb]) (by simp [hw]) (by rw [hp]; exact hcan) (by rw [hw]; exact hok), hw]
  refine Prod.ext ?_ rfl
  dsimp only
  rw [← hsent, sendTxn, hp, hg, hc]
  cases x
  subst hw
  rfl

/-- The read of a port's head leaves with a credit that finds none; what waits behind it stays. -/
theorem crdReq_reads {s : State} {n : BitVec 3} {p : Port} {x : Txn} {q : List Txn} {g : Nat} (hp : p = getPort s n.toNat)
    (hup : engineUp s = true)
    (hb : blockReq s = false) (hc : p.reqCrd = 0) (hq : p.sendQ = x :: q)
    (hg : freeTag p = some g) (hw : x.write = false) (hwho : ∀ c i, x.who ≠ .output c i)
    (hlost : ∀ y ∈ q, outputLost s y = none) (hleft : ∀ y ∈ p.out, y.left = 0)
    (hroom : beatsOut p + beats x.addr x.len ≤ 1024)
    (hok : ∀ y ∈ pieces x.addr (x.len + x.rest), (judgeOut s x.func false y.2.1).ok = true) :
    ∃ t, exec (.crdPulse (.req n)) s = .next t ∧ t = { s with ports := t.ports, chains := t.chains, fns := t.fns } ∧
      (getPort t n.toNat).reqCrd = 0 ∧ (getPort t n.toNat).out = p.out ++ [readSent s x g] ∧
      (getPort t n.toNat).sendQ.map (fun y => { y with paged := true }) = q.map (fun y => { y with paged := true }) ∧
      ∀ m, m ≠ n.toNat → getPort t m = getPort s m := by
  have hrun : running s = true := by
    rw [engineUp, Bool.and_eq_true] at hup
    exact hup.1
  have hone : min (0 + 1) 1024 = 1 := rfl
  rw [exec_crdReq hrun, ← hp, hc, hone, sendBeats_sent (by exact hleft)]
  generalize n.toNat = N
  have hport : getPort (setPort s N { p with reqCrd := 1 }) N = { p with reqCrd := 1 } := getPort_setPort ..
  have hqueue : (getPort (setPort s N { p with reqCrd := 1 }) N).sendQ = x :: q := by rw [hport]; exact hq
  generalize hs1 : setPort s N { p with reqCrd := 1 } = s1 at hport hqueue
  have hs1eq : s1 = { s with ports := s1.ports } ∧ ∀ m, m ≠ N → getPort s1 m = getPort s m := by
    rw [← hs1]; exact ⟨rfl, fun m hm => getPort_setPort_ne _ _ hm⟩
  have hcomes := comesToIssue_read (s := setPort s1 N { p with reqCrd := 1, sendQ := q }) (n := N) (x := x) (g := g)
    (getPort_setPort ..) (by rw [← hs1]; exact hup) (by rw [← hs1]; exact hb) rfl (by exact hg) hw hleft hroom
    (by rw [← hs1]; exact hok)
  have hx : outputLost s1 x = none := by
    unfold outputLost
    split
    · next c i hi => exact absurd hi (hwho c i)
    · rfl
  have hpump := pumpN_issues (k := q.length) hqueue hx (by rw [hport]; exact hcomes)
  rw [txnIssued_input hwho] at hpump
  generalize hsent : setPort _ N { p with reqCrd := 0, sendQ := q, out := _ } = s2 at hpump
  have hs2eq : s2 = { s with ports := s2.ports } := by rw [← hsent, hs1eq.1]; rfl
  have hs2 : getPort s2 N = { p with reqCrd := 0, sendQ := q, out := p.out ++ [readSent s x g] } ∧
      ∀ m, m ≠ N → getPort s2 m = getPort s m := by
    rw [← hsent]
    refine ⟨(getPort_setPort ..).trans (by rw [hs1eq.1]; rfl), fun m hm => ?_⟩
    rw [getPort_setPort_ne _ _ hm, getPort_setPort_ne _ _ hm, hs1eq.2 m hm]
  obtain ⟨C, hreap, hC⟩ := reapOf_chains s2 x.who
  have hCs : ∀ id, C.find id = none ∨ C.find id = s.chains.find id := by
    have hchains : s2.chains = s.chains := by rw [hs2eq]
    rw [← hchains]
    exact hC
  rw [hreap] at hpump
  have hfin : ({ s2 with chains := C } : State) = { s with ports := s2.ports, chains := C } := by rw [hs2eq]
  obtain ⟨hframe, hcrd, hout, hsendq, hother⟩ := pumpN_noCredit (s := { s2 with chains := C }) (n := N) q.length
    (congrArg Port.reqCrd hs2.1) (fun y hy => by
      rw [hfin]
      refine outputLost_forgotten _ hCs (hlost y ?_)
      have hq2 : (getPort { s2 with chains := C } N).sendQ = q := congrArg Port.sendQ hs2.1
      rwa [hq2] at hy)
  have hlen : (getPort s1 N).sendQ.length = q.length + 1 := by rw [hqueue]; rfl
  refine ⟨_, rfl, ?_⟩
  rw [pump, hlen, hpump]
  refine ⟨?_, hcrd, hout.trans (congrArg Port.out hs2.1), hsendq.trans (congrArg (fun z : Port =>
    z.sendQ.map (fun y => { y with paged := true })) hs2.1), fun m hm => (hother m hm).trans (hs2.2 m hm)⟩
  generalize pumpN q.length { s2 with chains := C } N = t at hframe
  have hchains : t.chains = C := by rw [hframe]
  rw [hchains]
  refine hframe.trans ?_
  rw [hfin]

/-! ## The obligation -/

/-- A credit of a port at which nothing waits. -/
theorem pump_setPort {s : State} {n : Nat} (p : Port) (h : p.sendQ = []) : let t := pump (setPort s n p) n
    t = { s with ports := t.ports } ∧ getPort t n = p ∧ ∀ m, m ≠ n → getPort t m = getPort s m := by
  dsimp only
  rw [pump_empty (by rw [getPort_setPort]; exact h)]
  exact ⟨rfl, getPort_setPort .., fun m hm => getPort_setPort_ne _ _ hm⟩

/-- Settles O48: the lanes by `fpHostPerr_resends` and `crdNotice_sends`, the end of a control cycle by `step_hostView`, the ports
by `pump_setPort` and `crdReq_reads`. -/
theorem functionPortAndCredits : Obligations.FunctionPortAndCredits := by
  unfold Obligations.FunctionPortAndCredits
  refine ⟨fun s f hp => ⟨congrArg Host.Outcome.next (if_neg (by simp [hp])), readPending s f.toNat,
      congrArg Host.Outcome.next (if_neg (by simp [hp])), readPending_iff s f.toNat⟩,
    fun s hp hst => ?_, fun s odd y hy => ⟨fun hp => congrArg Host.Outcome.next (if_neg (by simp [hp])), fun hp hw => ?_,
      fun x r hp hst hc hw hs hx => ?_⟩, fun s level => ⟨rfl, rfl, rfl, rfl⟩, fun s h => ?_,
    fun s n p hp => ⟨fun hr => ⟨congrArg Host.Outcome.next (if_neg (by simp [hr])),
      congrArg Host.Outcome.next (if_neg (by simp [hr]))⟩, fun hr hq => ?_, fun hr hq => ?_,
      fun x q g w hup hb hc hq hg hw hwho hlost hleft hroom hwv hok => ?_⟩⟩
  · obtain ⟨t, hx, hframe, hlanes⟩ := fpHostPerr_resends hp hst
    refine ⟨t, hx, hframe, fun odd y hy => ⟨fun hn => ?_, fun x hf => ⟨fun hno => ?_, fun hc hs => ?_⟩⟩⟩
    · rw [hlanes, ← hy, resentLane, flagged, hn]
    · rw [hlanes, ← hy, resentLane, flagged, hf]
      exact if_pos hno
    · rw [hlanes, ← hy, resentLane, flagged, hf]
      exact if_neg (not_or.mpr ⟨hc, hs⟩)
  · rw [exec_crdNotice odd hp, flushLane_empty (by rw [getLane_setLane, ← hy]; exact hw), ← hy]
  · subst hy
    exact crdNotice_sends hp hst hc hw hs hx
  · obtain ⟨t, hx, hview⟩ := step_hostView h
    simp only [hostView, hostTakes, Prod.mk.injEq] at hview
    obtain ⟨h0, h1, h2, h3, h4, h5⟩ := hview
    exact ⟨t, hx, h0, h1, h2, h3, h4, h5⟩
  · rw [exec_crdReq hr, ← hp]
    exact ⟨_, rfl, pump_setPort _ hq⟩
  · rw [exec_crdWd hr, ← hp]
    obtain ⟨hframe, hport, hother⟩ := pump_setPort (s := s) (n := n.toNat) (sendBeats { p with wdCrd := min (p.wdCrd + 1) 1024 }) hq
    refine ⟨_, rfl, hframe, fun hs => ?_, fun x r hc ho hx => ?_, hother⟩
    · exact hport.trans (sendBeats_sent hs)
    · have hone : min (p.wdCrd + 1) 1024 = 1 := by rw [hc]; rfl
      refine (hport.trans (sendBeats_one hone ho hx)).trans ?_
      rw [← hc]
  · subst hwv
    exact crdReq_reads hp hup hb hc hq hg hw hwho hlost hleft hroom hok

end Sys2Proof.Machine

/-! # The answers of the host at the initiator ports (R50, R51, R384, R388) -/

namespace Sys2Proof.Machine

/-! ## The transaction of a tag -/

/-- The state in which a tag of a port is free again. -/
def tagFreed (s : State) (port tag : Nat) : State :=
  setPort s port { getPort s port with out := (getPort s port).out.filter (fun y => y.tag != tag) }

theorem getPort_tagFreed (s : State) (port tag : Nat) : getPort (tagFreed s port tag) port =
    { getPort s port with out := (getPort s port).out.filter (fun y => y.tag != tag) } := getPort_setPort ..

theorem takeTxn_none {s : State} {port tag : Nat} {w : Bool}
    (h : ∀ x ∈ (getPort s port).out, x.write = w → x.left = 0 → x.tag ≠ tag) : takeTxn s port tag w = none := by
  have hfind : (getPort s port).out.find? (fun t => t.tag == tag && t.write == w && t.left == 0) = none := by
    rw [List.find?_eq_none]
    intro x hx hxt
    simp only [Bool.and_eq_true, beq_iff_eq] at hxt
    exact h x hx hxt.1.2 hxt.2 hxt.1.1
  unfold takeTxn
  dsimp only
  rw [hfind]

theorem takeTxn_some {s : State} {port tag : Nat} {w : Bool} {x : Txn}
    (h : (getPort s port).out.find? (fun t => t.tag == tag && t.write == w && t.left == 0) = some x) :
    takeTxn s port tag w = some (x, tagFreed s port tag) := by
  unfold takeTxn
  dsimp only
  rw [h]
  rfl

/-! ## What an answer does -/

theorem getPort_reapOf (s : State) (o : Origin) (n : Nat) : getPort (reapOf s o) n = getPort s n := by
  obtain ⟨C, hC, -⟩ := reapOf_chains s o
  rw [hC]
  rfl

theorem getCq_reapOf (s : State) (o : Origin) (q : Nat) : getCq (reapOf s o) q = getCq s q := by
  obtain ⟨C, hC, -⟩ := reapOf_chains s o
  rw [hC]
  rfl

section Answer

variable {s : State} {port tag : Nat} {x : Txn} {f : State → State}

/-- An answer within the fabric budget, at a port with nothing waiting, is its originator's alone. -/
theorem txnAnswered_quiet (hst : struck s = false) (ht : s.clk.meridian ≤ x.at_ + fabricR s)
    (hq : (getPort (if x.gone then s else f s) port).sendQ = []) :
    txnAnswered s port x f = reapOf (if x.gone then s else f s) x.who := by
  have htimely : timely s x = s := if_neg (by omega)
  unfold txnAnswered
  rw [if_neg (by simp [hst]), htimely]
  exact pump_empty ((congrArg Port.sendQ (getPort_reapOf ..)).trans hq)

theorem txnAnswered_gone (hst : struck s = false) (ht : s.clk.meridian ≤ x.at_ + fabricR s)
    (hq : (getPort s port).sendQ = []) (hg : x.gone = true) :
    txnAnswered (tagFreed s port tag) port x f = reapOf (tagFreed s port tag) x.who := by
  refine (txnAnswered_quiet (s := tagFreed s port tag) hst ht ?_).trans (by rw [if_pos hg])
  rw [if_pos hg, getPort_tagFreed]
  exact hq

theorem txnAnswered_live (hst : struck s = false) (ht : s.clk.meridian ≤ x.at_ + fabricR s) (hg : x.gone = false)
    (hq : (getPort (f (tagFreed s port tag)) port).sendQ = []) :
    txnAnswered (tagFreed s port tag) port x f = reapOf (f (tagFreed s port tag)) x.who := by
  have hlive : (if x.gone then tagFreed s port tag else f (tagFreed s port tag)) = f (tagFreed s port tag) := by
    rw [if_neg (by simp [hg])]
  exact (txnAnswered_quiet (s := tagFreed s port tag) hst ht (by rw [hlive]; exact hq)).trans (by rw [hlive])

end Answer

theorem exec_readCompletion {s u : State} {port : BitVec 3} {tag : BitVec 10} {x : Txn} {chk : List RdCheck} {data : Bytes}
    (h : running s = true) (hx : takeTxn s port.toNat tag.toNat false = some (x, u)) (hl : chk.length = beats x.addr x.len) :
    exec (.readCompletion port tag chk data) s = .next
      (txnAnswered u port.toNat x (fun s => readArrived s x ((chk.mapIdx (beatOk data)).all id) (asked x data))) := by
  refine congrArg Host.Outcome.next ((if_neg (by simp [h])).trans ?_)
  rw [hx]
  exact if_neg (fun hn => hn hl)

theorem exec_writeResponse {s u : State} {port : BitVec 3} {tag : BitVec 10} {x : Txn} {ok : Bool}
    (h : running s = true) (hx : takeTxn s port.toNat tag.toNat true = some (x, u)) :
    exec (.writeResponse port tag ok) s = .next (txnAnswered u port.toNat x (fun s => writeDone s x ok)) := by
  refine congrArg Host.Outcome.next ((if_neg (by simp [h])).trans ?_)
  rw [hx]

theorem exec_readCompletion_unheld {s : State} {port : BitVec 3} {tag : BitVec 10} {chk : List RdCheck} {data : Bytes}
    (h : takeTxn s port.toNat tag.toNat false = none) : exec (.readCompletion port tag chk data) s = .next s := by
  refine congrArg Host.Outcome.next ?_
  rw [h]
  exact ite_self ..

theorem exec_writeResponse_unheld {s : State} {port : BitVec 3} {tag : BitVec 10} {ok : Bool}
    (h : takeTxn s port.toNat tag.toNat true = none) : exec (.writeResponse port tag ok) s = .next s := by
  refine congrArg Host.Outcome.next ?_
  rw [h]
  exact ite_self ..

theorem exec_readCompletion_short {s u : State} {port : BitVec 3} {tag : BitVec 10} {x : Txn} {chk : List RdCheck} {data : Bytes}
    (hx : takeTxn s port.toNat tag.toNat false = some (x, u)) (hl : chk.length ≠ beats x.addr x.len) :
    exec (.readCompletion port tag chk data) s = .next s := by
  refine congrArg Host.Outcome.next ?_
  rw [hx]
  dsimp only
  rw [if_pos hl]
  exact ite_self ..

/-! ## Reads -/

/-- A read comes whole exactly when each of its beats does: no RD_ERR, and an odd RD_PAR over each 4 bytes (R384, R388). -/
theorem beatsOk_iff (chk : List RdCheck) (data : Bytes) : (chk.mapIdx (beatOk data)).all id = true ↔
    ∀ i c, chk[i]? = some c →
      c.err = false ∧ ∀ k, k < 16 → c.par.getLsbD k = oddBit (leAt data (64 * i + 4 * k) 4) 0 32 := by
  have hbeat (i : Nat) (c : RdCheck) : beatOk data i c = true ↔
      c.err = false ∧ ∀ k, k < 16 → c.par.getLsbD k = oddBit (leAt data (64 * i + 4 * k) 4) 0 32 := by
    simp [beatOk]
  simp only [List.all_eq_true, id, List.mem_mapIdx]
  constructor
  · intro h i c hc
    obtain ⟨hi, rfl⟩ := List.getElem?_eq_some_iff.mp hc
    exact (hbeat ..).mp (h _ ⟨i, hi, rfl⟩)
  · rintro h _ ⟨i, hi, rfl⟩
    exact (hbeat ..).mpr (h i _ (List.getElem?_eq_getElem hi))

theorem chartPlace_gather (s : State) : (chartPlace s).ch.gather = s.ch.gather := by
  unfold chartPlace
  dsimp only
  split <;> rfl

theorem chartPlace_frame (s : State) : chartPlace s = { s with ch := (chartPlace s).ch } := by
  unfold chartPlace
  dsimp only
  split <;> rfl

theorem getPort_forget_sendQ {s : State} {n : Nat} (p : Origin → Bool) (h : (getPort s n).sendQ = []) :
    (getPort (forget s p) n).sendQ = [] := by
  have hport := Tbl.get_mapVal (f := fun _ (x : Port) => { x with
    out := x.out.map (fun t => if p t.who then { t with gone := true } else t)
    sendQ := x.sendQ.filter (fun t => !p t.who) }) (d := Port.init) (k := n) s.ports rfl
  refine (congrArg Port.sendQ hport).trans ?_
  exact congrArg (List.filter _) h

/-- The data of a descriptor read that failed halt their ring (R50). -/
theorem fetchArrived_failed {s : State} {g : Nat} {x : Txn} {data : Bytes} (h : (getRing s g).fetch = .reading) :
    fetchArrived s g x false data = fetchFault s g := by
  unfold fetchArrived
  dsimp only
  rw [h]
  rfl

/-- The data of a Chart read join what the load has gathered, and are placed. -/
theorem readArrived_chart {s : State} {x : Txn} {ok : Bool} {data : Bytes} (h : x.who = .chart) : readArrived s x ok data =
    chartPlace { s with ch := { s.ch with gather := s.ch.gather.arrive x.off ok data } } := by
  unfold readArrived
  rw [h]

theorem readArrived_fetchFailed {s : State} {x : Txn} {g : Nat} {data : Bytes} (h : x.who = .fetch g)
    (hr : (getRing s g).fetch = .reading) : readArrived s x false data = fetchFault s g := by
  unfold readArrived
  rw [h]
  exact fetchArrived_failed hr

theorem reapOf_chainless {s : State} {o : Origin} (h : o.chainOf = none) : reapOf s o = s := by
  unfold reapOf
  rw [h]

/-! ## Writes -/

/-- Short of the count of its coalescing a queue notes the chain and raises no notice (R51). -/
theorem cqNoticeable_counts {s : State} {q : Nat} (hh : (getCq s q).halted = false) (hr : cqResetting s q = false)
    (hc : (getCq s q).noteN + 1 < max 1 (getCq s q).coalCount) : cqNoticeable s q = setCq s q { getCq s q with
      noteN := (getCq s q).noteN + 1
      noteAt := if (getCq s q).noteN = 0 then s.clk.meridian else (getCq s q).noteAt } := by
  unfold cqNoticeable
  dsimp only
  rw [if_neg (by simp [hh, hr])]
  unfold coalCheck
  dsimp only
  rw [getCq_setCq]
  exact if_neg (by dsimp only; omega)

theorem recordDone_failed {s : State} {id i : Nat} {c : Chain} (h : findChain s id = some c) : recordDone s id i false =
    setCq s c.cq { getCq s c.cq with writeFault := true, halted := true, dropped := sat32 (getCq s c.cq).dropped } := by
  unfold recordDone
  rw [h]
  rfl

theorem recordDone_last {s : State} {id i : Nat} {c : Chain} (h : findChain s id = some c) (hi : i + 1 = c.descs.length) :
    recordDone s id i true = cqNoticeable s c.cq := by
  unfold recordDone
  rw [h]
  exact if_pos hi

theorem writeDone_record {s : State} {x : Txn} {id i : Nat} {ok : Bool} (h : x.who = .record id i) :
    writeDone s x ok = recordDone s id i ok := by
  unfold writeDone
  rw [h]

theorem writeDone_store {s : State} {x : Txn} {v : Nat} {ok : Bool} (h : x.who = .atWrite v) :
    writeDone s x ok = storeDone s v 1 ok := by
  unfold writeDone
  rw [h]

theorem storeDone_cmd {s : State} {v : Nat} {cmd : AtCmd} (k : Nat) (ok : Bool) (h : (getUni s v).ar.cmd = some cmd) :
    (getUni (storeDone s v k ok) v).ar.cmd = some { cmd with out := cmd.out - k, fault := cmd.fault || !ok } := by
  unfold storeDone
  dsimp only
  rw [getUni_setUni, h]
  rfl

/-- Settles O29: an answer is its originator's alone (`txnAnswered_live`), case by originator. -/
theorem responsesReachOrigin : Obligations.ResponsesReachOrigin := by
  unfold Obligations.ResponsesReachOrigin
  refine ⟨fun s port tag chk data ok hr hok => ⟨fun h => exec_readCompletion_unheld (takeTxn_none h), fun x hx =>
      ⟨exec_readCompletion_short (takeTxn_some hx), fun hl hst hq ht => ?_⟩⟩,
    fun s port tag ok hr => ⟨fun h => exec_writeResponse_unheld (takeTxn_none h), fun x hst hq hx ht => ?_⟩⟩
  · have hall : (chk.mapIdx (beatOk data)).all id = ok := Bool.eq_iff_iff.mpr ((beatsOk_iff chk data).trans hok.symm)
    have hfreed : (getPort (tagFreed s port.toNat tag.toNat) port.toNat).sendQ = [] :=
      (congrArg Port.sendQ (getPort_tagFreed ..)).trans hq
    refine ⟨_, exec_readCompletion hr (takeTxn_some hx) hl, ?_⟩
    rw [hall]
    refine ⟨fun hg => ?_, fun hg hw => ?_, fun g hg hw hbad hread => ?_⟩
    · rw [txnAnswered_gone hst ht hq hg]
      refine ⟨?_, (getPort_reapOf ..).trans (getPort_tagFreed ..)⟩
      obtain ⟨C, hC, -⟩ := reapOf_chains (tagFreed s port.toNat tag.toNat) x.who
      rw [hC]
      rfl
    · have harrived (data) := readArrived_chart (s := tagFreed s port.toNat tag.toNat) (ok := ok) (data := data) hw
      rw [txnAnswered_live hst ht hg (by rw [harrived, chartPlace_frame]; exact hfreed), harrived, hw, reapOf_chainless rfl]
      exact ⟨by rw [chartPlace_frame]; rfl, chartPlace_gather _⟩
    · subst hbad
      have harrived (data) := readArrived_fetchFailed (s := tagFreed s port.toNat tag.toNat) (data := data) hw hread
      rw [txnAnswered_live hst ht hg (by rw [harrived]; exact getPort_forget_sendQ (· == .fetch g) hfreed), harrived, hw,
        reapOf_chainless rfl, fetchFault, getRing_setRing]
      exact ⟨rfl, rfl, rfl⟩
  · have hfreed : (getPort (tagFreed s port.toNat tag.toNat) port.toNat).sendQ = [] :=
      (congrArg Port.sendQ (getPort_tagFreed ..)).trans hq
    refine ⟨_, exec_writeResponse hr (takeTxn_some hx), fun id i c hg hw hc hbad => ?_,
      fun id i c hg hw hc hgood hi hh hres hcoal => ?_, fun v cmd hg hw hcmd => ?_⟩
    · subst hbad
      have hdone := (writeDone_record (s := tagFreed s port.toNat tag.toNat) (ok := false) hw).trans (recordDone_failed hc)
      rw [txnAnswered_live hst ht hg (by rw [hdone]; exact hfreed), getCq_reapOf, hdone, getCq_setCq]
      exact ⟨rfl, rfl, rfl⟩
    · subst hgood
      have hdone := ((writeDone_record (s := tagFreed s port.toNat tag.toNat) (ok := true) hw).trans (recordDone_last hc hi)).trans
        (cqNoticeable_counts hh hres hcoal)
      rw [txnAnswered_live hst ht hg (by rw [hdone]; exact hfreed), getCq_reapOf, hdone, getCq_setCq]
      rfl
    · have hdone := writeDone_store (s := tagFreed s port.toNat tag.toNat) (ok := ok) hw
      rw [txnAnswered_live hst ht hg (by rw [hdone]; exact hfreed), hw, reapOf_chainless rfl, hdone]
      exact storeDone_cmd 1 ok hcmd

end Sys2Proof.Machine
